-- ==== Sys2Proof/Word.lean ====
section
/-!
DEFINITION. The word types of the Dyura and their plainest arithmetic.
Widths follow Tab. 0.2 (R8); multi-byte structures are little-endian (R4).
-/
namespace Sys2Proof

/-- One byte. -/
abbrev Byte := BitVec 8

/-- One 32-bit word of the Dyura's own structures (R4, R150). -/
abbrev Word := BitVec 32

/-- A 128-bit step word (R92). -/
abbrev StepWord := BitVec 128

/-- A device coordinate: pod [17:10], rack [9:6], quad [5:3], slot [2:0] (Tab. 0.2). -/
abbrev Coord := BitVec 18

/-- A tenant, 0–511 (Tab. 0.2); tenant 0 is the owner. -/
abbrev Tenant := BitVec 9

/-- A handle, 0–8,191 (Tab. 0.2). -/
abbrev HandleId := BitVec 13

/-- An FP32 value by its bits (Tab. 4.1). -/
abbrev F32 := BitVec 32

/-- A CIM core by cluster · 12 + core (R108). -/
abbrev CoreIx := Fin 192

/-- Any core by cluster · 13 + core; core 12 of a cluster is its attention core (R361). -/
abbrev AnyCore := Fin 208

/-- A cluster, 0–15 (R7). -/
abbrev ClusterIx := Fin 16

/-- A fabric port in the order B0–B3, C0, C1, X0, X1 (R306). -/
abbrev PortIx := Fin 8

/-- A physical engine of a core, 0–32 (R48). -/
abbrev PhysIx := Fin 33

end Sys2Proof
end

