-- ==== Sys2Proof/Syntax.lean ====
section
/-!
DEFINITION. The commands of the Dyura: one constructor per row of the table of operations and events, with the
operands the chapters give each. A step word travels whole (128 bits, R92); a dictionary request travels with its
header fields (R323); an event of the analogue or physical world (a converter's answer, a telemetry code, a scan's
outcome) arrives as an operand.
-/
namespace Sys2Proof

/-- How a dictionary request reaches the device (R325, R326). -/
inductive Carrier where
  | sideband
  | mgmt
  | cmd
  deriving DecidableEq, Repr

/-- A dictionary request: the header of Tab. 14.4 and the payload, with what its carrier adds (R325, R326).
The object's index and sub-index are the command's. -/
structure Req where
  carrier : Carrier
  /-- Source of the packet header; on the sideband the source is 3FFFFh whatever stands here. -/
  source : Coord
  /-- Tenant field of the packet header, in-band only (R326). -/
  pktTenant : Tenant
  /-- Flow of the packet, in-band only. -/
  flow : BitVec 16
  version : Byte
  tenant : Tenant
  keyed : Bool
  tag : BitVec 16
  counter : BitVec 64
  offset : BitVec 32
  total : BitVec 32
  check : BitVec 128
  payload : List Byte
  /-- Source MAC address of the frame, on the sideband only (R325); byte 0 is the most significant. -/
  mac : BitVec 48 := 0#48
  deriving DecidableEq, Repr

/-- What a converter answers where it differs from the exact count: `pos` is a logical position for step words and
ignored for the calibration unit's own conversions, `pass` is the plane (EVAL) or the half 0 = X, 1 = Y (probes).
A count of 65 or more is an over-range (R30). `flip` are the bits of the column-segment's count-file word that stand
flipped as the conversion reads it (R34, R35). -/
structure Reading where
  pos : Fin 32
  col : Fin 1040
  seg : Bool
  pass : Nat
  count : Option Nat
  flip : BitVec 39
  deriving DecidableEq, Repr

/-- How an elastic transfer ended: the cycle of its end, the words whose codeword arrived with flipped bits, by their
number in the order of the transfer (R153), and the cycle at which a destination row was first to be written, by its number among the
destination's rows (R151). -/
structure ElasticEnd where
  cycle : Nat
  mesh : List (Nat × BitVec 39)
  writes : List (Nat × Nat)
  deriving DecidableEq, Repr

/-- What the calibration unit does with a free segment slot (R43). -/
inductive SlotUse where
  | copyRow
  | measure
  | probe
  | recompute
  deriving DecidableEq, Repr

/-- A use of a free segment slot and the cycle it asks for. -/
structure SlotAsk where
  use : SlotUse
  cycle : Nat
  deriving DecidableEq, Repr

/-- Two switch points of one converter, in 1/16 counts (R49). -/
structure SegMeas where
  s1 : Int
  s2 : Int
  deriving DecidableEq, Repr

/-- Measurements of one column in one attempt (R50): the three ladder copies with the committed instance, then the
four instances on the selected copy; lower and upper segment of each. A first attempt on a hinted column (R53) measures the
hinted copy and instances alone: one entry each. -/
structure ColMeas where
  col : Fin 1040
  copies : List (SegMeas × SegMeas)
  insts : List (SegMeas × SegMeas)
  deriving DecidableEq, Repr

/-- What one attempt measured: the attempt, its repeat (empty for weight class), the answers of the verification probe
that differ from the exact counts, and the columns that failed the exactness sweep (R51, R57, R58). -/
structure Attempt where
  first : List ColMeas
  again : List ColMeas
  probe : List Reading
  sweepFail : List (Fin 1040)
  deriving DecidableEq, Repr

/-- What is recalibrated by pattern (R55). -/
inductive PatternTarget where
  | spare (j : Fin 16)
  | engine
  deriving DecidableEq, Repr

/-- Scope of a reference-mode computation (R85). -/
inductive RefScope where
  | layer
  | sampled
  | inst
  deriving DecidableEq, Repr

/-- A token of a reference-mode step: its request, and where the bursts of its activation vector stand. -/
structure RefTok where
  slot : BitVec 16
  src : HandleId
  off : Nat
  bursts : Nat
  deriving DecidableEq, Repr

/-- A reference-mode computation of a layer over a step's tokens. The tokens' narrow outputs stand in `dest` from byte `off`
on, one FP32 word each; the reference outputs go over them, or are compared with them. -/
structure RefStep where
  inst : BitVec 10
  layer : BitVec 12
  scope : RefScope
  toks : List RefTok
  dest : HandleId
  off : Nat
  deriving DecidableEq, Repr

/-- Whose rows a patrol reads (R170). -/
inductive PatrolUnit where
  | scratch (k : ClusterIx) (unit : Fin 16)
  | pageTable (k : ClusterIx)
  | requestTable
  | handleTable
  | syncObjects
  deriving DecidableEq, Repr

/-- One query vector of a page request, rounded as R193 says, and the keys of the page in its key set: offsets in the
page, first and one past the last. -/
structure PageQuery where
  x : List F32
  lo : Nat
  hi : Nat
  deriving DecidableEq, Repr

/-- A page request between attention cores (R202). -/
structure PageReq where
  home : Coord
  homeCluster : ClusterIx
  owner : Coord
  slot : BitVec 16
  stream : Fin 8
  page : BitVec 11
  /-- Index of the holding device's own entry for the frame. -/
  entry : BitVec 19
  layer : Nat
  kvHead : Nat
  /-- Query vectors of the head group, token by token. -/
  queries : List PageQuery
  scale : F32
  layers : Nat
  heads : Nat
  headSize : Nat
  /-- Offsets of keys the key mask excludes. -/
  excluded : List Nat
  deriving DecidableEq, Repr

/-- A partial of one query: running maximum, running sum, vector (R194), the elements that are poisoned, and whether R69
marks its request degraded. -/
structure Partial where
  mu : F32
  lam : F32
  o : List F32
  bad : List Bool
  degraded : Bool
  deriving DecidableEq, Repr

/-- A page or subtree partial returned to the home core (R202), one partial per query of the unit's head group: subtree
level 0 is one page; level l at index i covers pages i · 2^l to (i + 1) · 2^l − 1. A neutral one carries no tree
position (R203); `lost` answers page-lost (R204). -/
structure PartialMsg where
  slot : BitVec 16
  kvHead : Nat
  level : Nat
  index : Nat
  neutral : Bool
  lost : Bool
  parts : List Partial
  deriving DecidableEq, Repr

/-- A request for a remote frame (R183): the page, its size and format, the instance and class it is laid out by. -/
structure FrameReq where
  owner : Coord
  tenant : Tenant
  slot : BitVec 16
  clientId : BitVec 32
  stream : Fin 8
  page : BitVec 11
  inst : BitVec 10
  kvClass : Byte
  authenticated : Bool
  deriving DecidableEq, Repr

/-- A step program of the maquette's section 03h (Tab. 11.2). -/
structure ProgInfo where
  ident : BitVec 32
  placements : List Nat
  layers : Option (Nat × Nat)
  words : List StepWord
  deriving DecidableEq, Repr

/-- One row of the round cost tables: the cost in cycles of a round whose length table stays within the row (Tab. 9.1). -/
structure CostRow where
  requests : Nat
  tokens : Nat
  longest : Nat
  furthest : Nat
  cost : Nat
  deriving DecidableEq, Repr

/-- An MoE layer of section 08h (R231). -/
structure MoeInfo where
  experts : Nat
  k : Nat
  capacity : Nat
  /-- Where the gate step writes its routing records. -/
  routing : HandleId
  routingOff : Nat
  /-- Where the router writes each expert's index list: handle and byte offset. -/
  lists : List (HandleId × Nat)
  gate : BitVec 32
  expertCores : List (Nat × Nat)
  expertProg : BitVec 32
  /-- Cost in cycles of an expert step of C_e tokens. -/
  stepCost : Nat
  deriving DecidableEq, Repr

/-- A region of section 09h: kind 0 correction factors, 1 reference copy, 2 constant buffer, 3 record table. -/
structure RegionInfo where
  kind : Nat
  cluster : ClusterIx
  unit : Fin 16
  /-- Length in 64 B units. -/
  length : Nat
  digest : List Byte
  deriving DecidableEq, Repr

/-- Serving parameters of section 05h (Tab. 9.1). -/
structure ServInfo where
  home : Coord
  lead : CoreIx
  batch : List (Nat × HandleId)
  nMax : Nat
  tMax : Nat
  pMax : Nat
  kChunk : Nat
  generates : Bool
  vocab : Nat
  sampling : List (Nat × HandleId)
  costs : List CostRow
  cFull : Nat
  /-- What a round costs more with a layer's outlier capacity raised (R80): layer, capacity, cycles. -/
  raised : List (Nat × Nat × Nat)
  deriving DecidableEq, Repr

/-- The content of the maquette sections whose byte layout the spec does not give (Tab. 11.2: 03h, 05h, 08h, 09h, 0Ah). -/
structure MaqExtra where
  programs : List ProgInfo
  serving : ServInfo
  moe : List MoeInfo
  regions : List RegionInfo
  /-- Reference cost tables (0Ah, R85): layer, tokens a row covers, cycles. -/
  refCosts : List (Nat × Nat × Nat)
  deriving DecidableEq, Repr

/-- A flit (Tab. 12.3). -/
structure Flit where
  link : BitVec 64
  mask : BitVec 64
  payload : List Word
  crc : Word
  deriving DecidableEq, Repr

/-- What a SYNC packet carries (R313). -/
inductive SyncMsg where
  /-- An operation on a virtual ID, sent to the owner of the request whose context names it. -/
  | virtualOp (src : Coord) (tenant : Tenant) (context : BitVec 11) (vid : BitVec 12) (op : Fin 3) (a : Word) (ref : Nat)
  /-- An operation on a physical object, forwarded to the holding device. -/
  | physicalOp (src : Coord) (tenant : Tenant) (obj : BitVec 14) (op : Fin 3) (a : Word) (ref : Nat)
  /-- A WAIT or ARRIVE whose step has ended leaves its waiter (R315): to the device that translates, and to the holding
  one. -/
  | virtualLeave (src : Coord) (tenant : Tenant) (context : BitVec 11) (vid : BitVec 12) (ref : Nat)
  | physicalLeave (src : Coord) (tenant : Tenant) (obj : BitVec 14) (ref : Nat)
  /-- A result returned to the requesting core: satisfied, a sync fault, or a retry response (R315). -/
  | satisfied (ref : Nat)
  | fault (ref : Nat)
  | retry (ref : Nat)
  deriving DecidableEq, Repr

/-- What a slice left when it ended (R363): its result range, the cycles it waited on the mesh, and the engines whose
restored counts differ, with whether they still differ after the second write. -/
structure SliceResult where
  result : List Byte
  meshWait : Nat
  differ : List (Fin 32 × Bool)
  deriving DecidableEq, Repr

/-- A member's local digests (R375). -/
structure DigestMsg where
  member : Coord
  generation : BitVec 32
  time : BitVec 64
  digests : List (Nat × List Byte)
  deriving DecidableEq, Repr

/-- Codes one conversion delivers (R384): ADC0 to ADC3, the entry, whether the conversion was urgent or late, and the
device time of its sampling edge. -/
structure AdcCodes where
  entry : Fin 16
  adc0 : BitVec 12
  adc1 : BitVec 12
  adc2 : BitVec 12
  adc3 : BitVec 12
  urgent : Bool
  late : Bool
  sampled : BitVec 64
  deriving DecidableEq, Repr

/-- The slot straps as tied: the level of each land and which lands are left open (R421). -/
structure Straps where
  level : BitVec 3
  openLands : BitVec 3
  deriving DecidableEq, Repr

/-- Outcome of the scans of step 5 of bring-up (R370): routers that failed. -/
structure ScanResult where
  routers : List (Fin 256)
  deriving DecidableEq, Repr

/-- Outcome of a cluster's self-test and power-up calibration (R51, R411): cores that failed their logic scan or
buffer BIST, tiles and attention buffer that failed, and what each engine's two attempts measured. -/
structure ClusterTest where
  cluster : ClusterIx
  coreFail : BitVec 12
  tileFail : BitVec 3
  attnFail : Bool
  /-- Physical engines by core · 33 + engine, with their attempts. -/
  engines : List (Nat × Attempt)
  deriving DecidableEq, Repr

/-- The commands, one constructor per row of the table. -/
inductive Instr where
  /-- NOP (R120): Step word that does no operation and carries only a pause point or a tag wait. -/
  | nop (c : CoreIx) (w : StepWord)
  /-- STEP (R117): First word of a step: resets core state and loads the request list and length table into the batch loader. -/
  | step (c : CoreIx) (w : StepWord)
  /-- COMMIT (R105): Last word of a step: the sequencer stops issuing and waits for every operation of the step to complete. -/
  | commit (c : CoreIx) (w : StepWord)
  /-- COMMIT_MARK (R106): After the commit drain ends, the 16 commit cycles fix poison and statuses, then the ordered commit actions run. -/
  | commitMark (c : CoreIx)
  /-- PLINTH_RELEASE (R264): A step waiting at the plinth leaves it on the first cycle after its last needed layer is rewritten. -/
  | plinthRelease (c : CoreIx)
  /-- GRID (R119): Sets the engine grid at its latency and discards the held vector. -/
  | grid (c : CoreIx) (w : StepWord)
  /-- LOOP (R120): Sets a loop counter to 0 and records its count, skipping the body when the count is 0. -/
  | loop (c : CoreIx) (w : StepWord)
  /-- ENDLOOP (R120): Increments the loop counter and repeats the body while it is below the count. -/
  | endloop (c : CoreIx) (w : StepWord)
  /-- EVAL (R123): Reads and aligns bursts, or reuses the held vector, and evaluates the named planes into the grid's accumulators. -/
  | eval (c : CoreIx) (w : StepWord) (rd : List Reading)
  /-- EVALT (R37): Threshold evaluate that writes one bit per column-segment telling whether the segment result reaches T. -/
  | evalt (c : CoreIx) (w : StepWord) (rd : List Reading)
  /-- EVALX (R38): Dual-path probe that checks the segment-count identity of every physical column-segment and writes a pass mask. -/
  | evalx (c : CoreIx) (w : StepWord) (rd : List Reading)
  /-- RDROW (R126): Digital read of one engine row into the core buffer. -/
  | rdrow (c : CoreIx) (w : StepWord)
  /-- WRROW (R126): Digital write of one engine row under a column mask, adjusting the segment weight counts. -/
  | wrrow (c : CoreIx) (w : StepWord)
  /-- ENABLE (R125): Loads, ANDs or ORs column enables from a bitmap or an EVALT mask. -/
  | enable (c : CoreIx) (w : StepWord)
  /-- READ (R128): Reads out accumulators through the readout steps into the staging file. -/
  | read (c : CoreIx) (w : StepWord)
  /-- PACK (R129): Converts staging entries into FP32, BF16, P4 or P8 form in the buffer. -/
  | pack (c : CoreIx) (w : StepWord)
  /-- LOAD (R129): Decodes buffer data of a chosen format into the staging file exactly. -/
  | load (c : CoreIx) (w : StepWord)
  /-- VADD (R131): Vector add of staging entries. -/
  | vadd (c : CoreIx) (w : StepWord)
  /-- VSUB (R131): Vector subtract of staging entries. -/
  | vsub (c : CoreIx) (w : StepWord)
  /-- VMUL (R131): Vector multiply of staging entries. -/
  | vmul (c : CoreIx) (w : StepWord)
  /-- VFMA (R131): Vector fused multiply-add with one rounding. -/
  | vfma (c : CoreIx) (w : StepWord)
  /-- VMAX (R131): Elementwise vector maximum. -/
  | vmax (c : CoreIx) (w : StepWord)
  /-- VMIN (R131): Elementwise vector minimum. -/
  | vmin (c : CoreIx) (w : StepWord)
  /-- VMOV (R131): Vector move of staging entries. -/
  | vmov (c : CoreIx) (w : StepWord)
  /-- VEXP (R132): Correctly rounded exponential of staging entries. -/
  | vexp (c : CoreIx) (w : StepWord)
  /-- VRSQRT (R132): Correctly rounded reciprocal square root of staging entries. -/
  | vrsqrt (c : CoreIx) (w : StepWord)
  /-- VRECIP (R132): Correctly rounded reciprocal of staging entries. -/
  | vrecip (c : CoreIx) (w : StepWord)
  /-- VRSUM (R131): Reduction sum in fixed lane order into a Q register. -/
  | vrsum (c : CoreIx) (w : StepWord)
  /-- VRMAX (R131): Reduction maximum into a Q register. -/
  | vrmax (c : CoreIx) (w : StepWord)
  /-- VRSSQ (R131): Reduction sum of squares into a Q register. -/
  | vrssq (c : CoreIx) (w : StepWord)
  /-- QSET (R131): Sets a Q register to an immediate value. -/
  | qset (c : CoreIx) (w : StepWord)
  /-- PATA (R133): First patina loop: computes u from the held vector for the correction or adapter term. -/
  | pata (c : CoreIx) (w : StepWord)
  /-- PATB (R133): Second patina loop: adds the correction or adapter term into staging. -/
  | patb (c : CoreIx) (w : StepWord)
  /-- OUTL (R135): Processes the outlier list, adding exact FP32 weight products into the outlier sums. -/
  | outl (c : CoreIx) (w : StepWord)
  /-- COPY (R136): Starts an elastic DMA copy between handles. -/
  | copy (c : CoreIx) (w : StepWord)
  /-- COPY_DONE (R97): A copy's last byte lands, and its tag signals. -/
  | copyDone (c : CoreIx) (id : Nat) (x : ElasticEnd)
  /-- GATHER (R137): Starts an elastic gather of table rows by an index list. -/
  | gather (c : CoreIx) (w : StepWord)
  /-- GATHER_DONE (R138): A gather's last row lands; out-of-range indices have written poisoned zero rows. -/
  | gatherDone (c : CoreIx) (id : Nat) (x : ElasticEnd)
  /-- SCATTER (R137): Starts an elastic scatter of rows into table rows by an index list. -/
  | scatter (c : CoreIx) (w : StepWord)
  /-- SCATTER_DONE (R138): A scatter's last row lands, and its tag signals. -/
  | scatterDone (c : CoreIx) (id : Nat) (x : ElasticEnd)
  /-- SIGNAL (R309): Adds a value to a sync object modulo 2^32. -/
  | signal (c : CoreIx) (w : StepWord)
  /-- WAIT (R309): Registers a wait that is satisfied once a sync object's value reaches the awaited value modulo 2^32. -/
  | wait (c : CoreIx) (w : StepWord)
  /-- ARRIVE (R309): Counts an arrival at a sync barrier and releases the generation when the count is reached. -/
  | arrive (c : CoreIx) (w : StepWord)
  /-- TOPK (R140): Offers staging scores to the top-k list. -/
  | topk (c : CoreIx) (w : StepWord)
  /-- TOPKOUT (R141): Writes the top-k list in descending rank, padded with sentinel entries. -/
  | topkout (c : CoreIx) (w : StepWord)
  /-- TOPKMRG (R140): Offers buffer entries of (score, identifier) to the top-k list. -/
  | topkmrg (c : CoreIx) (w : StepWord)
  /-- SAMPLE (R142): Feeds a logit chunk through the mask to the sampling unit, drawing a token on the final chunk. -/
  | sample (c : CoreIx) (w : StepWord)
  /-- HOLD_TIMEOUT (R101): A scoreboard hold or elastic tag wait exceeds the hold limit, and the step ends with a hold-timeout status. -/
  | holdTimeout (c : CoreIx)
  /-- ELASTIC_START (R100): A waiting elastic operation takes a scoreboard entry and starts once no conflict or full table holds it. -/
  | elasticStart (c : CoreIx) (id cycle : Nat)
  /-- PAUSE_REQUEST (R104): The governor requests a pause of a given length, which becomes pending for the core's next pause point or commit mark. -/
  | pauseRequest (c : AnyCore) (q : Nat)
  /-- COUNT_RECOMPUTE_DONE (R35): Recomputing a count-file word after a double error finishes, and its counts become valid again. -/
  | countRecomputeDone (c : CoreIx) (e : PhysIx) (word : Fin 520)
  /-- CAL_FREE_SLOT_USE (R43): The calibration unit uses a free segment slot for one conversion or one row access. -/
  | calFreeSlotUse (c : CoreIx) (e : PhysIx) (seg : Bool) (use : SlotAsk)
  /-- ROTATION_BATCH_START (R54): The calibration unit takes the next batch from its queue and starts phase A onto free spares. -/
  | rotationBatchStart (c : CoreIx) (e : PhysIx)
  /-- ROTATION_CHECK (R55): After the copy, the spare counts are compared with the main column's, and the batch enters measurement or the spare is marked faulted. -/
  | rotationCheck (c : CoreIx) (e : PhysIx)
  /-- SELECTION_ATTEMPT_DONE (R57): A live selection attempt completes and is judged for acceptance by the engine's class. -/
  | selectionAttemptDone (c : CoreIx) (e : PhysIx) (a : Attempt)
  /-- PATTERN_RECAL (R55): A free or faulted spare, or an empty or spare engine, is recalibrated by pattern and rewritten to 0. -/
  | patternRecal (c : CoreIx) (e : PhysIx) (target : PatternTarget) (a : Attempt)
  /-- ENGINE_REPLACE_SWITCH (R64): After copying to the spare engine and checking counts, the logical position moves to physical engine 32. -/
  | engineReplaceSwitch (c : CoreIx) (e : PhysIx)
  /-- BATCH_STALE (R61): A batch's last accepted attempt reaches 0.8 of the revisit period and the batch becomes stale. -/
  | batchStale (c : CoreIx) (e : PhysIx) (group : Fin 64)
  /-- CAL_SLICE_RESERVE (R61): A stale batch still unfinished at 0.9 of the period reserves the core's next commit mark for a calibration slice. -/
  | calSliceReserve (c : CoreIx)
  /-- CALIBRATION_SLICE_END (R61): A calibration slice ends and the core's next commit action proceeds. -/
  | calibrationSliceEnd (c : CoreIx)
  /-- CAL_PROBE (R62): A calibration probe converts two complementary 64-row halves in free slots and judges every column-segment. -/
  | calProbe (c : CoreIx) (e : PhysIx) (seg : Bool) (rd : List Reading)
  /-- MONITOR_WINDOW_CLOSE (R63): A column-segment's monitor window reaches its conversion count and is judged for bias. -/
  | monitorWindowClose (c : CoreIx) (e : PhysIx) (col : Fin 1040) (seg : Bool)
  /-- REDUNDANCY_HINT_WRITE (R53): Tenant 0 writes a redundancy map hint for clusters whose calibration has not yet begun. -/
  | redundancyHintWrite (r : Req)
  /-- REVISIT_PERIOD_WRITE (R61): A new revisit period applies to every batch at once. -/
  | revisitPeriodWrite (r : Req)
  /-- OVERFLOW_WINDOW_CLOSE (R80): A layer's overflow window of tokens ends, and a raise of outlier capacity is decided when the threshold is exceeded. -/
  | overflowWindowClose (inst : BitVec 10) (layer : BitVec 12)
  /-- REFERENCE_STEP (R85): A reference-mode computation of a layer runs on the attention core's P-engines. -/
  | referenceStep (k : ClusterIx) (x : RefStep)
  /-- CREATE_HANDLE (R157): Keyed request to allocate a handle under quota and space rules. -/
  | createHandle (r : Req)
  /-- RELEASE_HANDLE (R159): Keyed release that turns a handle Releasing and starts zeroing its rows. -/
  | releaseHandle (r : Req)
  /-- HANDLE_ZERO_DONE (R159): The last row of a releasing handle is zeroed, the entry becomes invalid and the quota is returned. -/
  | handleZeroDone (h : HandleId)
  /-- HANDLE_RECREATE (R162): Tenant 0 re-creates a handle entry lost in both table copies. -/
  | handleRecreate (r : Req)
  /-- COMBINE_WINDOW_CLOSE (R163): A read combining window closes, and one bank read is multicast to every joined requester. -/
  | combineWindowClose (k : ClusterIx) (tile : Fin 3) (row : Nat)
  /-- PATROL_READ (R170): A bank's patrol issues its timed read of the next row. -/
  | patrolRead (u : PatrolUnit) (bank : Fin 64) (soft : List (Nat × BitVec 39)) (stuck : List (Fin 16 × Fin 39))
  /-- SCRUB_WRITEBACK (R169): A queued corrected or poisoned word is written back in a free write-side cycle. -/
  | scrubWriteback (k : ClusterIx) (unit : Fin 16)
  /-- ATTENTION_DESCRIPTOR (R192): The attention core takes a queued descriptor, checks its owner, writes new entries and starts attending. -/
  | attentionDescriptor (k : ClusterIx)
  /-- ATTENTION_DESCRIPTOR_DONE (R203): Every page or subtree has a partial; outputs and status words are written and the sync object is signalled. -/
  | attentionDescriptorDone (k : ClusterIx)
  /-- PAGE_REQUEST (R202): A holding attention core receives a page request and computes the page partial. -/
  | pageRequest (k : ClusterIx) (q : PageReq)
  /-- PAGE_PARTIAL_RECEIVE (R202): The home core receives a page or subtree partial and merges it in the fixed tree. -/
  | pagePartialReceive (k : ClusterIx) (m : PartialMsg)
  /-- SPAN_NEUTRAL_ANSWER (R203): A span device with no page of the stream answers a multicast query with a neutral partial. -/
  | spanNeutralAnswer (k : ClusterIx) (q : PageReq)
  /-- REMOTE_FRAME_REQUEST (R183): A holding device allocates a frame for a remote page and answers with its far entry. -/
  | remoteFrameRequest (q : FrameReq)
  /-- REMOTE_FRAME_ANSWER (R184): The answer to a remote allocation arrives, and the request becomes a candidate again. -/
  | remoteFrameAnswer (slot : BitVec 16) (stream : Fin 8) (page : BitVec 11) (far : Option (BitVec 19))
  /-- FRAME_RELEASE (R185): A terminal request's frames are released after all its descriptors complete, and zeroing starts. -/
  | frameRelease (owner : Coord) (slot : BitVec 16)
  /-- FRAME_ZERO_DONE (R185): A released frame finishes zeroing and returns to its pool. -/
  | frameZeroDone (k : ClusterIx) (tile : Fin 3) (row : Nat)
  /-- SUBMIT (R216): A submission is checked in order and admitted, refused or answered as a duplicate. -/
  | submit (r : Req)
  /-- CANCEL (R220): A cancel sets Cancel on a request in a round, or ends it at once. -/
  | cancel (r : Req)
  /-- DEADLINE_PASS (R221): A deadline passes on an idle lead core, and action 2 settles expiry. -/
  | deadlinePass (slot : BitVec 16)
  /-- RETENTION_EXPIRY (R212): A terminal entry whose frames are released reaches its retention time and returns to FREE. -/
  | retentionExpiry (slot : BitVec 16)
  /-- TENANT_SERVING_WRITE (R223): A write of a tenant's serving record enables or disables it under DRAIN or FENCE. -/
  | tenantServingWrite (r : Req)
  /-- INSTANCE_SERVING_WRITE (R223): A write of an instance's serving record enables or disables it under DRAIN or FENCE. -/
  | instanceServingWrite (r : Req)
  /-- EXPERT_CONTROL_WRITE (R223): A write enables or disables an expert under DRAIN or FENCE. -/
  | expertControlWrite (r : Req)
  /-- CAST_OPEN (R253): Tenant 0 opens a cast; the maquette is checked, and the instance turns casting. -/
  | castOpen (r : Req) (x : MaqExtra)
  /-- CHUNK (R255): A chunk of layer, region or adapter data arrives and is decompressed, quantised and staged. -/
  | chunk (r : Req)
  /-- CAST_CLOSE (R258): Tenant 0 closes the cast; completeness and digests are checked and the instance becomes ready. -/
  | castClose (r : Req)
  /-- CAST_ABORT (R259): A cast is aborted: touched engines are zeroed and created handles are released. -/
  | castAbort (r : Req)
  /-- SWAP_OPEN (R262): Tenant 0 opens a swap with a new maquette and KV policy. -/
  | swapOpen (r : Req) (x : MaqExtra)
  /-- LAYER_REWRITE_START (R263): The swap front starts rewriting a layer once it is staged, lower layers are done and the old round is past it. -/
  | layerRewriteStart (inst : BitVec 10)
  /-- LAYER_REWRITE_DONE (R265): A layer's rewrite completes, and after the last layer the new maquette is installed. -/
  | layerRewriteDone (inst : BitVec 10)
  /-- REGION_RECAST (R261): A region re-cast of a Bad Shared handle begins. -/
  | regionRecast (r : Req)
  /-- REGION_RECAST_DONE (R261): All rows of a re-cast region have arrived, and Bad is cleared when the digest matches. -/
  | regionRecastDone (h : HandleId)
  /-- ADAPTER_INSTALL (R268): A tenant requests installation of an adapter version. -/
  | adapterInstall (r : Req)
  /-- ADAPTER_VERSION_CURRENT (R268): The last adapter byte arrives, digests are recorded, the norm is compared and the version becomes current. -/
  | adapterVersionCurrent (slot : BitVec 12)
  /-- ADAPTER_RECORD_WRITE (R270): A write enables or disables an adapter under DRAIN or FENCE. -/
  | adapterRecordWrite (r : Req)
  /-- ADAPTER_REMOVE (R270): Removes an adapter with no pins and unbinds its number. -/
  | adapterRemove (r : Req)
  /-- PACKET_RECEIVE (R290): A packet arrives on a port and is delivered locally or routed onward. -/
  | packetReceive (p : PortIx) (fs : List Flit)
  /-- MULTICAST_RECEIVE (R296): A multicast packet is delivered locally and split into per-block copies. -/
  | multicastReceive (p : PortIx) (fs : List Flit)
  /-- RETRY_REQUEST (R285): A retry request arrives, and the sender resends every packet flit after its acknowledge. -/
  | retryRequest (p : PortIx) (f : Flit)
  /-- HELLO_SEND (R289): A trained port sends its periodic hello flit. -/
  | helloSend (p : PortIx)
  /-- HELLO_RECEIVE (R289): A hello arrives, and the port becomes up, miswired or stays in hello. -/
  | helloReceive (p : PortIx) (f : Flit)
  /-- PORT_TRAINED (R276): A port completes training and begins its hello exchange. -/
  | portTrained (p : PortIx) (half : Bool)
  /-- PORT_TRAIN_TIMEOUT (R409): A port not trained within 100 ms of starting reports down. -/
  | portTrainTimeout (p : PortIx)
  /-- LANE_ALIGNMENT_LOSS (R286): The coding sublayer loses lane alignment and the port goes down. -/
  | laneAlignmentLoss (p : PortIx)
  /-- RETRY_LIMIT_EXCEEDED (R286): Retries in 1 ms exceed the limit and the port goes down. -/
  | retryLimitExceeded (p : PortIx)
  /-- SILENCE_TIMEOUT (R286): No intact flit arrives within the silence limit and the port goes down. -/
  | silenceTimeout (p : PortIx)
  /-- ROUTE_NOTICE (R297): A route notice arrives and updates the recorded link state. -/
  | routeNotice (dev : Coord) (port : PortIx) (up : Bool)
  /-- REORDER_HOLD_EXPIRY (R295): A held packet exceeds the reorder hold, the oldest gap is declared lost and held packets are delivered. -/
  | reorderHoldExpiry (src : Coord) (chan : BitVec 2) (flow : BitVec 16)
  /-- REORDER_ENTRY_IDLE (R295): A reorder table entry idle for 1 ms is dropped. -/
  | reorderEntryIdle (src : Coord) (chan : BitVec 2) (flow : BitVec 16)
  /-- PROBE_WAIT_EXPIRY (R300): A remote operation waits past the probe wait, and an echo is sent. -/
  | probeWaitExpiry (dev : Coord)
  /-- PROBE_TIMEOUT (R300): No echo answer arrives in time, and the device is recorded unreachable. -/
  | probeTimeout (dev : Coord)
  /-- ECHO_ANSWER (R300): An echo answer or a returned route makes a device reachable again. -/
  | echoAnswer (dev : Coord)
  /-- PORT_RECORD_WRITE (R301): A port record write enables or disables a port under DRAIN or FENCE. -/
  | portRecordWrite (r : Req)
  /-- PORT_DRAIN_DONE (R301): A draining port's retry buffer empties, and the link goes down with Drained set. -/
  | portDrainDone (p : PortIx)
  /-- COORDINATE_WRITE (R288): Tenant 0 writes the device coordinate over the sideband. -/
  | coordinateWrite (r : Req)
  /-- TIME_EXCHANGE_SEND (R302): A link sends its periodic time flit. -/
  | timeExchangeSend (p : PortIx)
  /-- TIME_FLIT_RECEIVE (R302): A time flit completes an exchange, and the device slews or steps toward its parent. -/
  | timeFlitReceive (p : PortIx) (t1 t2 t3 t4 : BitVec 64)
  /-- SYNC_PACKET_RECEIVE (R313): A sync operation or result arrives on SYNC and is translated, applied, forwarded or returned. -/
  | syncPacketReceive (m : SyncMsg)
  /-- REMOTE_WAITER_RETRY (R315): 1 µs after a retry response, the originating device re-sends a remote wait or arrive. -/
  | remoteWaiterRetry (id : Nat)
  /-- BIND (R314): Binds a virtual sync ID to a new, existing or remote object. -/
  | bind (r : Req)
  /-- UNBIND (R314): Removes a binding and frees the object on its home binding. -/
  | unbind (r : Req)
  /-- HAND_SET (R317): Sets a sync object's value or force-releases its barrier. -/
  | handSet (r : Req)
  /-- DICT_READ (R331): Dictionary READ request returns a segment of an object, latching ROL objects at offset 0. -/
  | dictRead (index : BitVec 16) (sub : Byte) (r : Req)
  /-- DICT_WRITE (R327): Dictionary WRITE of a register without its own row, handled through the ordered checks. -/
  | dictWrite (index : BitVec 16) (sub : Byte) (r : Req)
  /-- DICT_ABORT (R330): Abandons the open transfer with a given tag. -/
  | dictAbort (index : BitVec 16) (sub : Byte) (r : Req)
  /-- DICT_DESCRIBE (R324): Returns an object's type, access right and size. -/
  | dictDescribe (index : BitVec 16) (sub : Byte) (r : Req)
  /-- DICT_ECHO (R324): Returns the echo payload unchanged. -/
  | dictEcho (index : BitVec 16) (sub : Byte) (r : Req)
  /-- TRANSFER_TIMEOUT (R330): An open transfer receives no segment within the timeout and is aborted. -/
  | transferTimeout (tenant : Tenant) (source : Coord) (tag : BitVec 16)
  /-- LATCH_TIMEOUT (R331): A read latch receives no read within the timeout and is dropped. -/
  | latchTimeout (source : Coord) (tag : BitVec 16)
  /-- DEFINE_TENANT (R336): Tenant 0 defines a tenant. -/
  | defineTenant (r : Req)
  /-- UNDEFINE_TENANT (R336): Undefines a tenant that holds no resources and resets its records. -/
  | undefineTenant (r : Req)
  /-- CREATE_CONTEXT (R337): Creates a context and its translation table. -/
  | createContext (r : Req)
  /-- RELEASE_CONTEXT (R337): Releases a context that no request or binding uses. -/
  | releaseContext (r : Req)
  /-- KEY_INSTALL (R338): Installs or replaces a key for a tenant and source, resetting its counter and window. -/
  | keyInstall (r : Req)
  /-- KEY_REMOVE (R338): Removes a key slot. -/
  | keyRemove (r : Req)
  /-- KEY_CLAIM (R339): Unkeyed sideband write that installs tenant 0's sideband key while that slot is empty. -/
  | keyClaim (r : Req)
  /-- ACKNOWLEDGED_SEQUENCE_WRITE (R343): Writing the acknowledged sequence may release ALERT_N. -/
  | acknowledgedSequenceWrite (r : Req)
  /-- IMAGE_LOAD (R349): Tenant 0 pushes a controller image envelope for verification. -/
  | imageLoad (r : Req)
  /-- IMAGE_PULL (R349): While no image runs, the pull interval expires and the running image is requested from the next up neighbour. -/
  | imagePull
  /-- IMAGE_PULL_RESPONSE (R349): A neighbour's answer with its image, or with zero length, arrives. -/
  | imagePullResponse (p : PortIx) (env : List Byte)
  /-- IMAGE_START (R350): An envelope finishes verification, and the image starts or is rejected. -/
  | imageStart
  /-- RAISE_FLOOR (R350): Raises the security version floor to the running image's version. -/
  | raiseFloor (r : Req)
  /-- ATTESTATION_READY (R352): The attestation set-up finishes signing the bottom tree with a top leaf. -/
  | attestationReady (pufOk readBack : Bool)
  /-- ATTESTATION_REQUEST (R353): Signs a challenge statement with the next bottom leaf and stores the evidence. -/
  | attestationRequest (r : Req)
  /-- DIAGNOSTIC_UNLOCK (R355): A kind 03h envelope unlocks vendor diagnostics for this boot. -/
  | diagnosticUnlock (r : Req)
  /-- TEST_PASS_OPEN (R361): A core's test pass opens on its period and fixes its slice list. -/
  | testPassOpen (c : AnyCore)
  /-- PASS_OVERDUE (R362): A pass open for the grace period becomes overdue, and the next commit mark is reserved for a slice. -/
  | passOverdue (c : AnyCore)
  /-- FORCED_SPACING_EXPIRY (R362): The spacing after a reserved slice ends, and the next reservation is made. -/
  | forcedSpacingExpiry (c : AnyCore)
  /-- FIELD_TEST_SLICE_END (R363): A slice's result is digested and compared, and its region and engines are restored. -/
  | fieldTestSliceEnd (c : AnyCore) (x : SliceResult)
  /-- LOGIC_SCAN_SLICE_END (R368): A built-in scan slice ends and its signature is compared. -/
  | logicScanSliceEnd (c : AnyCore) (pass : Bool)
  /-- SPORE_PACK_INSTALL (R367): Installs a signed spore pack after checking it. -/
  | sporePackInstall (r : Req)
  /-- SPORE_PACK_REMOVE (R367): Removes a spore pack from the next pass on. -/
  | sporePackRemove (r : Req)
  /-- SCAN_SECURITY_TILE (R370): Scans the security tile at run time, clearing and then rebuilding the secrets. -/
  | scanSecurityTile (r : Req)
  /-- HEALTH_FLAG_ACTION (R372): The health function reads new test flags and sets a retest or retires the core. -/
  | healthFlagAction (c : AnyCore)
  /-- CORE_HEALTH_WRITE (R373): Tenant 0 enables or disables a core through its health record. -/
  | coreHealthWrite (r : Req)
  /-- CORE_DRAINED (R373): A disabled core's remaining work ends, and the core stops with Drained set. -/
  | coreDrained (c : AnyCore)
  /-- REPLICA_SCAN_START (R375): After the exchange interval of rounds, a member starts recomputing its local digests. -/
  | replicaScanStart (inst : BitVec 10)
  /-- REPLICA_SCAN_DONE (R376): A scan completes, digests are sent to the members and compared, and the instance may be expelled. -/
  | replicaScanDone (inst : BitVec 10)
  /-- REPLICA_DIGEST_RECEIVE (R375): A member's local digests arrive on MGMT. -/
  | replicaDigestReceive (inst : BitVec 10) (m : DigestMsg)
  /-- REPLICA_SCAN_TIMEOUT (R375): A scan not complete within the scan timeout is abandoned. -/
  | replicaScanTimeout (inst : BitVec 10)
  /-- POWER_ON (R409): V_in rises through 46.0 V, the standby domain starts and bring-up begins. -/
  | powerOn
  /-- UNDERVOLTAGE (R380): V_in below 44.0 V for 10 µs removes the core rails. -/
  | undervoltage
  /-- OVERVOLTAGE (R380): V_in above 60.0 V for 10 µs removes the core rails. -/
  | overvoltage
  /-- OVERVOLTAGE_CLEAR (R380): V_in falls below 59.0 V after an overvoltage, and bring-up restarts. -/
  | overvoltageClear
  /-- OVERCURRENT (R380): I_in above 48 A for 20 µs removes the core rails. -/
  | overcurrent
  /-- STANDBY_LOSS (R419): V_in below 40 V stops the standby domain. -/
  | standbyLoss
  /-- PS_SYNC_LOCK (R382): After 16 in-range PS_SYNC edges, the power stage locks to them. -/
  | psSyncLock (period : Nat)
  /-- PS_SYNC_LOSS (R382): No edge for 5 µs, or an out-of-range period, moves switching to the internal oscillator. -/
  | psSyncLoss (outOfRange : Bool)
  /-- ADC_DELIVER (R388): A sequence or urgent conversion delivers codes, which are corrected into the result register. -/
  | adcDeliver (codes : AdcCodes)
  /-- URGENT_REQUEST (R387): Requests that a sequence entry be converted next. -/
  | urgentRequest (r : Req)
  /-- SEQUENCE_WRITE (R385): Writes the telemetry sequence entries, effective at the next start of entry 0. -/
  | sequenceWrite (r : Req)
  /-- SEQUENCE_CONTROL_WRITE (R385): Writes the sequence control word, effective at the next start of entry 0. -/
  | sequenceControlWrite (r : Req)
  /-- THERMAL_MODEL_UPDATE (R392): The thermal model integrates one step, and the governor sets pause fractions and sends pauses. -/
  | thermalModelUpdate (act : List (List Nat))
  /-- MODEL_CONVERGED (R393): 2 s after seeding, read values switch to the model values. -/
  | modelConverged
  /-- ANCHOR_CHECK (R394): Once per second, each field's model is corrected toward its anchor diode when off by more than the limit. -/
  | anchorCheck
  /-- ENGINE_PAUSE (R397): An attention engine reaches a block boundary and takes its pause. -/
  | enginePause (k : ClusterIx) (e : Fin 6)
  /-- RST_N_ASSERT (R407): RST_N held low begins a device reset. -/
  | rstNAssert
  /-- RST_N_RELEASE (R421): RST_N rises, the straps are read and bring-up repeats from the boot ROM. -/
  | rstNRelease (straps : Straps)
  /-- STRAP_SAMPLE (R421): 100 µs after STRAP_REF is first driven, the slot straps are read. -/
  | strapSample (straps : Straps)
  /-- DEVICE_RESET_WRITE (R407): Tenant 0 resets the device over the sideband. -/
  | deviceResetWrite (r : Req) (straps : Straps)
  /-- CLUSTER_RESET_WRITE (R408): Tenant 0 names clusters to reset, which are first disabled under the Mode. -/
  | clusterResetWrite (r : Req)
  /-- CLUSTER_RESET_DRAINED (R408): A named cluster has drained; its instances, handles and requests are failed, its tables are moved and it resets. -/
  | clusterResetDrained (k : ClusterIx)
  /-- CLUSTER_RECORD_WRITE (R404): Tenant 0 sets or clears a cluster's Park bit. -/
  | clusterRecordWrite (r : Req)
  /-- CLUSTER_PARK (R404): An idle cluster with Park set gates its clock. -/
  | clusterPark (k : ClusterIx)
  /-- WAKE_REQUEST (R404): A wake request or a due patrol, batch, slice or candidate restarts a parked cluster's clock. -/
  | wakeRequest (k : ClusterIx)
  /-- CROSSING_RESET_REQUEST (R405): The other side of a crossing sees a reset request, enters sink mode and flushes its queue. -/
  | crossingResetRequest (x : Nat)
  /-- CROSSING_RESET_ACK (R405): The resetting side sees the acknowledge and zeroes both queues' pointers. -/
  | crossingResetAck (x : Nat)
  /-- CROSSING_READY (R405): The resetting side raises ready, and the other side ends sink mode. -/
  | crossingReady (x : Nat)
  /-- CROSSING_FALLBACK (R406): With no acknowledge after 2 µs, or on power loss, the other side acts on the unclocked reset level. -/
  | crossingFallback (x : Nat)
  /-- MESOCHRONOUS_RECENTRE (R402): Drift brings the pointers of a mesochronous crossing too close, and the crossing recentres. -/
  | mesochronousRecentre (x : Nat)
  /-- REFCLK_DETECT (R409): The reference is detected, the PLLs lock and the rails ramp. -/
  | refclkDetect
  /-- RAILS_RAMPED (R381): The field core rails reach regulation, PGOOD goes high and the central block is scanned. -/
  | railsRamped
  /-- CENTRAL_BLOCK_READY (R409): The central block tables are zeroed, MGMT is served and the ports start training. -/
  | centralBlockReady (scan : ScanResult)
  /-- CLUSTER_WAVE (R409): A wave's clusters power up and run lock, scan, BIST, zeroing and calibration. -/
  | clusterWave (w : Fin 4) (rs : List ClusterTest)
  /-- CLUSTER_READY (R161): A cluster finishes self-test and calibration, creates its reserves and reports ready. -/
  | clusterReady (k : ClusterIx)
  /-- PLL_LOCK_TIMEOUT (R411): A cluster PLL not locked within 1 ms leaves the cluster failed. -/
  | pllLockTimeout (k : ClusterIx)
  /-- REFCLK_LOSS (R412): No reference edge for 1 µs moves standby to the oscillator and resets every cluster. -/
  | refclkLoss
  /-- REFCLK_RESTORE (R412): A reference valid for 1 ms resumes bring-up from step 3. -/
  | refclkRestore
  /-- TAP_BYPASS (R423): IEEE 1149.1 BYPASS instruction. -/
  | tapBypass
  /-- TAP_IDCODE (R423): IEEE 1149.1 IDCODE instruction, returning the stepping, part code and manufacturer identity. -/
  | tapIdcode
  /-- TAP_SAMPLE_PRELOAD (R423): IEEE 1149.1 SAMPLE/PRELOAD instruction over the slow signal lands. -/
  | tapSamplePreload (v : BitVec 16)
  /-- TAP_EXTEST (R423): IEEE 1149.1 EXTEST instruction over the slow signal lands. -/
  | tapExtest (v : BitVec 16)
  /-- TAP_PRIVATE (R423): A private instruction that acts only after a diagnostic unlock and otherwise behaves as BYPASS. -/
  | tapPrivate (code : BitVec 8)
  /-- PAUSE_END (R104): A throttling pause taken at a commit mark, or by an attention engine at a block boundary, runs out after its q cycles and the core's next actions or the engine's work resume. -/
  | pauseEnd (c : AnyCore)
  /-- IDLE_FLIT_RECEIVE (R284): An idle flit arrives on a port and its link word returns credits and acknowledges packet flits held in the retry buffer. -/
  | idleFlitReceive (p : PortIx) (f : Flit)
  /-- PLCA_BEACON (R429): The sideband PHY sees a PLCA beacon from the coordinator, at which pending writes of the sideband objects take effect. -/
  | plcaBeacon
  /-- SIDEBAND_CARRIER_CHANGE (R429): The 10BASE-T1S sideband gains or loses carrier, starting or stopping the sideband clock domain and changing the carrier status bit. -/
  | sidebandCarrierChange (on : Bool)
  deriving DecidableEq, Repr

end Sys2Proof
end

