-- ==== Sys2Proof/Decode.lean ====
section
/-!
DEFINITION. The rows of the command table give no bits (spec/opcode_table.json), so no word spells a command.
-/
namespace Sys2Proof

/-- The command a word spells by the table's bits: none, for no row gives bits. -/
def decodeTableWord (_nbits _w : Nat) : Option Instr := none

end Sys2Proof
end

