-- ==== Sys2Proof/Machine/Objects.lean ====
section
/-!
DEFINITION. The objects of the dictionary (20 Tab. 20.2, R319): every index.sub the manual lists, with the type,
access right, size, default and range its own chapter gives. F32 values stand as their bits. A DOMAIN whose size the
manual does not fix has size 0.
-/
namespace Sys2Proof.Machine

/-- One object: index · 256 + sub-index, type code (Tab. 14.1), right (R324), size, default, range, whether it is a
counter. -/
structure ObjRow where
  key : Nat
  type : Nat
  right : Nat
  size : Nat
  dflt : Nat
  lo : Nat
  hi : Nat
  counter : Bool
  deriving DecidableEq, Repr

def objRows0 : List ObjRow :=
  [⟨0x100001, 10, 1, 0, 0, 0, 0, false⟩,
   ⟨0x100002, 5, 1, 8, 0, 0, 18446744073709551615, false⟩,
   ⟨0x100003, 2, 1, 1, 0, 0, 255, false⟩,
   ⟨0x100004, 9, 1, 56, 0, 0, 0, false⟩,
   ⟨0x100005, 9, 1, 3604, 0, 0, 0, false⟩,
   ⟨0x100006, 3, 1, 2, 0, 0, 65535, false⟩,
   ⟨0x100007, 4, 1, 4, 0, 0, 4294967295, false⟩,
   ⟨0x100008, 9, 1, 60, 0, 0, 0, false⟩,
   ⟨0x101001, 2, 1, 1, 0, 0, 255, false⟩,
   ⟨0x101002, 4, 1, 4, 0, 0, 4294967295, false⟩,
   ⟨0x101003, 9, 1, 32, 0, 0, 0, false⟩,
   ⟨0x101004, 4, 1, 4, 0, 0, 4294967295, false⟩,
   ⟨0x101005, 4, 4, 4, 5000, 1000, 60000, false⟩,
   ⟨0x101006, 1, 4, 1, 0, 1, 1, false⟩,
   ⟨0x102000, 11, 4, 0, 0, 0, 0, false⟩,
   ⟨0x102100, 11, 1, 0, 0, 0, 0, false⟩,
   ⟨0x102200, 11, 4, 0, 0, 0, 0, false⟩,
   ⟨0x103000, 9, 2, 32, 0, 0, 0, false⟩,
   ⟨0x103100, 11, 1, 0, 0, 0, 0, false⟩,
   ⟨0x103200, 3, 1, 2, 0, 0, 65535, false⟩,
   ⟨0x200001, 7, 4, 4, 1153957888, 1137180672, 1153957888, false⟩,
   ⟨0x200002, 7, 4, 4, 1157234688, 1137180672, 1157234688, false⟩,
   ⟨0x200003, 4, 4, 4, 10, 0, 10, false⟩,
   ⟨0x200004, 7, 4, 4, 1109917696, 1092616192, 1109917696, false⟩,
   ⟨0x200101, 7, 1, 4, 0, 0, 4294967295, false⟩,
   ⟨0x200102, 7, 1, 4, 0, 0, 4294967295, false⟩,
   ⟨0x200103, 7, 1, 4, 0, 0, 4294967295, false⟩,
   ⟨0x200104, 11, 1, 16, 0, 0, 0, false⟩,
   ⟨0x200105, 7, 1, 4, 0, 0, 4294967295, false⟩,
   ⟨0x200106, 2, 1, 1, 0, 0, 255, false⟩,
   ⟨0x201001, 1, 4, 1, 0, 0, 1, false⟩,
   ⟨0x201002, 3, 4, 2, 1000, 800, 1200, false⟩,
   ⟨0x201003, 2, 4, 1, 0, 0, 7, false⟩,
   ⟨0x201004, 2, 1, 1, 0, 0, 255, false⟩,
   ⟨0x202001, 4, 4, 4, 643, 0, 4294967295, false⟩,
   ⟨0x202002, 11, 4, 64, 0, 0, 0, false⟩,
   ⟨0x202003, 11, 5, 256, 0, 0, 0, false⟩,
   ⟨0x202004, 11, 4, 56, 0, 0, 0, false⟩,
   ⟨0x202005, 2, 4, 1, 0, 0, 15, false⟩,
   ⟨0x203001, 7, 4, 4, 1121058816, 1118437376, 1121058816, false⟩]

def objRows1 : List ObjRow :=
  [⟨0x203002, 7, 1, 4, 1123680256, 0, 4294967295, false⟩,
   ⟨0x203003, 11, 5, 128, 0, 0, 0, false⟩,
   ⟨0x203004, 2, 1, 1, 0, 0, 255, false⟩,
   ⟨0x203005, 7, 4, 4, 1077936128, 1056964608, 1092616192, false⟩,
   ⟨0x203006, 11, 1, 8, 0, 0, 0, false⟩,
   ⟨0x203007, 7, 4, 4, 1109393408, 1092616192, 1116471296, false⟩,
   ⟨0x203008, 11, 1, 4160, 0, 0, 0, false⟩,
   ⟨0x204001, 11, 1, 32, 0, 0, 0, false⟩,
   ⟨0x204002, 2, 4, 1, 16, 4, 64, false⟩,
   ⟨0x204003, 2, 4, 1, 2, 1, 16, false⟩,
   ⟨0x204004, 2, 4, 1, 240, 64, 240, false⟩,
   ⟨0x205001, 5, 1, 8, 0, 0, 18446744073709551615, true⟩,
   ⟨0x205002, 5, 1, 8, 0, 0, 18446744073709551615, true⟩,
   ⟨0x205003, 5, 1, 8, 0, 0, 18446744073709551615, true⟩,
   ⟨0x205004, 5, 1, 8, 0, 0, 18446744073709551615, true⟩,
   ⟨0x205005, 5, 1, 8, 0, 0, 18446744073709551615, true⟩,
   ⟨0x205006, 5, 1, 8, 0, 0, 18446744073709551615, true⟩,
   ⟨0x205007, 5, 1, 8, 0, 0, 18446744073709551615, true⟩,
   ⟨0x205008, 5, 1, 8, 0, 0, 18446744073709551615, true⟩,
   ⟨0x205009, 5, 1, 8, 0, 0, 18446744073709551615, true⟩,
   ⟨0x300001, 4, 1, 4, 0, 0, 4294967295, false⟩,
   ⟨0x300002, 3, 1, 2, 0, 0, 65535, false⟩,
   ⟨0x300003, 2, 1, 1, 0, 0, 255, false⟩,
   ⟨0x300101, 1, 4, 1, 0, 1, 1, false⟩,
   ⟨0x300102, 4, 4, 4, 0, 0, 131071, false⟩,
   ⟨0x300200, 11, 4, 256, 0, 0, 0, false⟩,
   ⟨0x302001, 5, 1, 8, 0, 0, 18446744073709551615, true⟩,
   ⟨0x302002, 5, 1, 8, 0, 0, 18446744073709551615, true⟩,
   ⟨0x302003, 5, 1, 8, 0, 0, 18446744073709551615, true⟩,
   ⟨0x302004, 5, 1, 8, 0, 0, 18446744073709551615, true⟩,
   ⟨0x400001, 4, 4, 4, 0, 0, 262143, false⟩,
   ⟨0x400002, 2, 1, 1, 0, 0, 255, false⟩,
   ⟨0x400003, 1, 1, 1, 0, 0, 1, false⟩,
   ⟨0x400101, 3, 4, 2, 64, 8, 1024, false⟩,
   ⟨0x400102, 4, 4, 4, 10, 2, 1000, false⟩,
   ⟨0x400103, 4, 4, 4, 50, 5, 1000, false⟩,
   ⟨0x400104, 4, 4, 4, 100, 10, 100000, false⟩,
   ⟨0x400105, 4, 4, 4, 1000, 100, 100000, false⟩,
   ⟨0x401000, 11, 4, 128, 0, 0, 0, false⟩,
   ⟨0x401200, 11, 4, 32, 0, 0, 0, false⟩]

def objRows2 : List ObjRow :=
  [⟨0x402000, 11, 1, 0, 0, 0, 0, false⟩,
   ⟨0x403001, 5, 1, 8, 0, 0, 18446744073709551615, true⟩,
   ⟨0x403002, 5, 1, 8, 0, 0, 18446744073709551615, true⟩,
   ⟨0x403003, 5, 1, 8, 0, 0, 18446744073709551615, true⟩,
   ⟨0x403004, 5, 1, 8, 0, 0, 18446744073709551615, true⟩,
   ⟨0x403005, 5, 1, 8, 0, 0, 18446744073709551615, true⟩,
   ⟨0x403006, 5, 1, 8, 0, 0, 18446744073709551615, true⟩,
   ⟨0x403007, 5, 1, 8, 0, 0, 18446744073709551615, true⟩,
   ⟨0x403008, 5, 1, 8, 0, 0, 18446744073709551615, true⟩,
   ⟨0x403009, 5, 1, 8, 0, 0, 18446744073709551615, true⟩,
   ⟨0x40300A, 5, 1, 8, 0, 0, 18446744073709551615, true⟩,
   ⟨0x40300B, 5, 1, 8, 0, 0, 18446744073709551615, true⟩,
   ⟨0x40300C, 5, 1, 8, 0, 0, 18446744073709551615, true⟩,
   ⟨0x40300D, 5, 1, 8, 0, 0, 18446744073709551615, true⟩,
   ⟨0x40300E, 5, 1, 8, 0, 0, 18446744073709551615, true⟩,
   ⟨0x404001, 4, 4, 4, 0, 0, 262143, false⟩,
   ⟨0x404002, 1, 1, 1, 0, 0, 1, false⟩,
   ⟨0x404003, 6, 1, 4, 0, 0, 4294967295, false⟩,
   ⟨0x404004, 4, 4, 4, 1000, 100, 10000, false⟩,
   ⟨0x405000, 11, 5, 0, 0, 0, 0, false⟩,
   ⟨0x406001, 2, 1, 1, 0, 0, 255, false⟩,
   ⟨0x406002, 2, 4, 1, 0, 0, 255, false⟩,
   ⟨0x406003, 2, 4, 1, 32, 20, 255, false⟩,
   ⟨0x406004, 2, 1, 1, 0, 0, 255, false⟩,
   ⟨0x500000, 11, 4, 8192, 0, 0, 0, false⟩,
   ⟨0x500100, 3, 4, 2, 0, 1, 511, false⟩,
   ⟨0x500200, 3, 4, 2, 0, 1, 511, false⟩,
   ⟨0x500400, 3, 4, 2, 0, 0, 511, false⟩,
   ⟨0x500500, 3, 4, 2, 0, 0, 2047, false⟩,
   ⟨0x500600, 11, 1, 8192, 0, 0, 0, false⟩,
   ⟨0x501000, 11, 4, 48, 0, 0, 0, false⟩,
   ⟨0x501100, 11, 4, 8, 0, 0, 0, false⟩,
   ⟨0x501200, 11, 1, 16384, 0, 0, 0, false⟩,
   ⟨0x501300, 9, 3, 32, 0, 0, 0, false⟩,
   ⟨0x502001, 5, 1, 8, 0, 0, 18446744073709551615, true⟩,
   ⟨0x502002, 5, 1, 8, 0, 0, 18446744073709551615, true⟩,
   ⟨0x502003, 5, 1, 8, 0, 0, 18446744073709551615, true⟩,
   ⟨0x502004, 5, 1, 8, 0, 0, 18446744073709551615, true⟩,
   ⟨0x502005, 5, 1, 8, 0, 0, 18446744073709551615, true⟩,
   ⟨0x502006, 5, 1, 8, 0, 0, 18446744073709551615, true⟩]

def objRows3 : List ObjRow :=
  [⟨0x502007, 5, 1, 8, 0, 0, 18446744073709551615, true⟩,
   ⟨0x502008, 5, 1, 8, 0, 0, 18446744073709551615, true⟩,
   ⟨0x503000, 11, 4, 64, 0, 0, 0, false⟩,
   ⟨0x503100, 11, 5, 0, 0, 0, 0, false⟩,
   ⟨0x503200, 4, 2, 4, 0, 0, 4294967295, false⟩,
   ⟨0x504001, 4, 4, 4, 1000, 10, 60000, false⟩,
   ⟨0x504002, 3, 4, 2, 16, 1, 65535, false⟩,
   ⟨0x600001, 7, 4, 4, 1090519040, 0, 1120403456, false⟩,
   ⟨0x600002, 4, 4, 4, 1000, 0, 60000, false⟩,
   ⟨0x600003, 1, 4, 1, 1, 0, 1, false⟩,
   ⟨0x600100, 11, 4, 64, 0, 0, 0, false⟩,
   ⟨0x600200, 4, 4, 4, 0, 0, 4294967295, false⟩,
   ⟨0x600400, 11, 4, 4096, 0, 0, 0, false⟩,
   ⟨0x600600, 11, 4, 8192, 0, 0, 0, false⟩,
   ⟨0x600800, 11, 1, 4194304, 0, 0, 0, false⟩,
   ⟨0x601001, 5, 1, 8, 0, 0, 18446744073709551615, true⟩,
   ⟨0x601002, 5, 1, 8, 0, 0, 18446744073709551615, true⟩,
   ⟨0x601003, 5, 1, 8, 0, 0, 18446744073709551615, true⟩,
   ⟨0x601004, 5, 1, 8, 0, 0, 18446744073709551615, true⟩,
   ⟨0x601005, 5, 1, 8, 0, 0, 18446744073709551615, true⟩,
   ⟨0x601006, 5, 1, 8, 0, 0, 18446744073709551615, true⟩,
   ⟨0x601007, 5, 1, 8, 0, 0, 18446744073709551615, true⟩,
   ⟨0x601008, 5, 1, 8, 0, 0, 18446744073709551615, true⟩,
   ⟨0x601009, 5, 1, 8, 0, 0, 18446744073709551615, true⟩,
   ⟨0x60100A, 5, 1, 8, 0, 0, 18446744073709551615, true⟩,
   ⟨0x60100B, 5, 1, 8, 0, 0, 18446744073709551615, true⟩,
   ⟨0x60100C, 5, 1, 8, 0, 0, 18446744073709551615, true⟩,
   ⟨0x60100D, 5, 1, 8, 0, 0, 18446744073709551615, true⟩,
   ⟨0x60100E, 5, 1, 8, 0, 0, 18446744073709551615, true⟩,
   ⟨0x60100F, 5, 1, 8, 0, 0, 18446744073709551615, true⟩,
   ⟨0x601010, 5, 1, 8, 0, 0, 18446744073709551615, true⟩,
   ⟨0x602000, 11, 4, 65536, 0, 0, 0, false⟩,
   ⟨0x603000, 11, 4, 262144, 1, 0, 0, false⟩,
   ⟨0x604001, 5, 1, 8, 0, 0, 18446744073709551615, true⟩,
   ⟨0x604002, 5, 1, 8, 0, 0, 18446744073709551615, true⟩,
   ⟨0x604003, 5, 1, 8, 0, 0, 18446744073709551615, true⟩,
   ⟨0x604004, 5, 1, 8, 0, 0, 18446744073709551615, true⟩,
   ⟨0x700001, 11, 4, 36, 0, 0, 0, false⟩,
   ⟨0x700002, 3, 4, 2, 0, 0, 1023, false⟩,
   ⟨0x700003, 3, 4, 2, 0, 0, 1023, false⟩]

def objRows4 : List ObjRow :=
  [⟨0x700200, 11, 3, 0, 0, 0, 0, false⟩,
   ⟨0x700800, 11, 1, 16384, 0, 0, 0, false⟩,
   ⟨0x701001, 11, 4, 40, 0, 0, 0, false⟩,
   ⟨0x702000, 11, 1, 0, 0, 0, 0, false⟩,
   ⟨0x703000, 11, 1, 0, 0, 0, 0, false⟩,
   ⟨0x703200, 3, 4, 2, 0, 0, 8191, false⟩,
   ⟨0x704001, 4, 4, 4, 4, 1, 1024, false⟩,
   ⟨0x704002, 4, 4, 4, 1024, 256, 65536, false⟩,
   ⟨0x704003, 2, 4, 1, 4, 1, 16, false⟩,
   ⟨0x704004, 2, 4, 1, 64, 4, 64, false⟩,
   ⟨0x704005, 4, 4, 4, 1024, 0, 16384, false⟩,
   ⟨0x704101, 5, 1, 8, 0, 0, 18446744073709551615, true⟩,
   ⟨0x704102, 5, 1, 8, 0, 0, 18446744073709551615, true⟩,
   ⟨0x704103, 5, 1, 8, 0, 0, 18446744073709551615, true⟩,
   ⟨0x704104, 5, 1, 8, 0, 0, 18446744073709551615, true⟩,
   ⟨0x704800, 11, 1, 0, 0, 0, 0, false⟩,
   ⟨0x705001, 4, 4, 4, 0, 0, 4294967295, false⟩,
   ⟨0x705002, 5, 1, 8, 0, 0, 18446744073709551615, true⟩,
   ⟨0x705003, 11, 5, 0, 0, 0, 0, false⟩,
   ⟨0x705801, 7, 4, 4, 1082130432, 1073741824, 1098907648, false⟩,
   ⟨0x705802, 4, 4, 4, 4096, 256, 65536, false⟩,
   ⟨0x705803, 2, 4, 1, 0, 0, 2, false⟩,
   ⟨0x705804, 2, 4, 1, 8, 4, 12, false⟩,
   ⟨0x705805, 5, 1, 8, 0, 0, 18446744073709551615, true⟩,
   ⟨0x706001, 7, 4, 4, 1073741824, 1066192077, 1098907648, false⟩,
   ⟨0x706002, 5, 1, 8, 0, 0, 18446744073709551615, true⟩,
   ⟨0x706100, 11, 4, 16, 0, 0, 0, false⟩,
   ⟨0x706200, 11, 4, 65536, 0, 0, 0, false⟩,
   ⟨0x706300, 11, 1, 65536, 0, 0, 0, false⟩,
   ⟨0x706400, 3, 4, 2, 0, 1, 4095, false⟩,
   ⟨0x707001, 5, 1, 8, 0, 0, 18446744073709551615, true⟩,
   ⟨0x707002, 5, 1, 8, 0, 0, 18446744073709551615, true⟩,
   ⟨0x707003, 5, 1, 8, 0, 0, 18446744073709551615, true⟩,
   ⟨0x707004, 5, 1, 8, 0, 0, 18446744073709551615, true⟩,
   ⟨0x707005, 5, 1, 8, 0, 0, 18446744073709551615, true⟩,
   ⟨0x707006, 5, 1, 8, 0, 0, 18446744073709551615, true⟩,
   ⟨0x707007, 5, 1, 8, 0, 0, 18446744073709551615, true⟩,
   ⟨0x707008, 5, 1, 8, 0, 0, 18446744073709551615, true⟩,
   ⟨0x800001, 4, 4, 4, 16384, 4096, 1048576, false⟩,
   ⟨0x800002, 2, 4, 1, 4, 0, 4, false⟩]

def objRows5 : List ObjRow :=
  [⟨0x800100, 11, 4, 16, 0, 0, 0, false⟩,
   ⟨0x800200, 3, 4, 2, 0, 1, 8191, false⟩,
   ⟨0x800300, 11, 4, 131072, 0, 0, 0, false⟩,
   ⟨0x800400, 11, 4, 8192, 0, 0, 0, false⟩,
   ⟨0x801001, 5, 1, 8, 0, 0, 18446744073709551615, true⟩,
   ⟨0x801002, 5, 1, 8, 0, 0, 18446744073709551615, true⟩,
   ⟨0x801003, 5, 1, 8, 0, 0, 18446744073709551615, true⟩,
   ⟨0x801004, 5, 1, 8, 0, 0, 18446744073709551615, true⟩,
   ⟨0x801005, 5, 1, 8, 0, 0, 18446744073709551615, true⟩,
   ⟨0x801006, 5, 1, 8, 0, 0, 18446744073709551615, true⟩,
   ⟨0x801007, 5, 1, 8, 0, 0, 18446744073709551615, true⟩,
   ⟨0x801008, 5, 1, 8, 0, 0, 18446744073709551615, true⟩,
   ⟨0x801009, 5, 1, 8, 0, 0, 18446744073709551615, true⟩,
   ⟨0x80100A, 5, 1, 8, 0, 0, 18446744073709551615, true⟩,
   ⟨0x80100B, 5, 1, 8, 0, 0, 18446744073709551615, true⟩,
   ⟨0x801100, 11, 5, 0, 0, 0, 0, false⟩,
   ⟨0x802001, 4, 1, 4, 0, 0, 4294967295, false⟩,
   ⟨0x802002, 5, 1, 8, 0, 0, 18446744073709551615, false⟩,
   ⟨0x802003, 5, 1, 8, 0, 0, 18446744073709551615, false⟩,
   ⟨0x802004, 1, 4, 1, 1, 0, 1, false⟩,
   ⟨0x802005, 4, 4, 4, 262144, 0, 524288, false⟩,
   ⟨0x802201, 5, 1, 8, 0, 0, 18446744073709551615, true⟩,
   ⟨0x802202, 5, 1, 8, 0, 0, 18446744073709551615, true⟩,
   ⟨0x802203, 5, 1, 8, 0, 0, 18446744073709551615, true⟩,
   ⟨0x802204, 5, 1, 8, 0, 0, 18446744073709551615, true⟩,
   ⟨0x802205, 5, 1, 8, 0, 0, 18446744073709551615, true⟩,
   ⟨0x802206, 5, 1, 8, 0, 0, 18446744073709551615, true⟩,
   ⟨0x802207, 5, 1, 8, 0, 0, 18446744073709551615, true⟩,
   ⟨0x802208, 5, 1, 8, 0, 0, 18446744073709551615, true⟩,
   ⟨0x802400, 11, 1, 0, 0, 0, 0, false⟩,
   ⟨0x802600, 11, 4, 4096, 0, 0, 0, false⟩,
   ⟨0x802700, 11, 1, 32, 0, 0, 0, false⟩,
   ⟨0x802800, 11, 1, 4194304, 0, 0, 0, false⟩,
   ⟨0x900001, 4, 4, 4, 600, 60, 600, false⟩,
   ⟨0x900002, 7, 4, 4, 1050253722, 1031798784, 1050253722, false⟩,
   ⟨0x900003, 7, 4, 4, 1077936128, 1056964608, 1077936128, false⟩,
   ⟨0x900004, 7, 4, 4, 1036831949, 1031798784, 1036831949, false⟩,
   ⟨0x900005, 2, 4, 1, 2, 1, 2, false⟩,
   ⟨0x900006, 7, 4, 4, 1090519040, 1082130432, 1098907648, false⟩,
   ⟨0x900007, 4, 4, 4, 4096, 1024, 65536, false⟩]

def objRows6 : List ObjRow :=
  [⟨0x900008, 2, 4, 1, 12, 1, 15, false⟩,
   ⟨0x901000, 11, 1, 5372928, 0, 0, 0, false⟩,
   ⟨0x901100, 11, 4, 0, 0, 0, 0, false⟩,
   ⟨0x902001, 5, 1, 8, 0, 0, 18446744073709551615, true⟩,
   ⟨0x902002, 5, 1, 8, 0, 0, 18446744073709551615, true⟩,
   ⟨0x902003, 5, 1, 8, 0, 0, 18446744073709551615, true⟩,
   ⟨0x902004, 5, 1, 8, 0, 0, 18446744073709551615, true⟩,
   ⟨0x902005, 5, 1, 8, 0, 0, 18446744073709551615, true⟩,
   ⟨0x902006, 5, 1, 8, 0, 0, 18446744073709551615, true⟩,
   ⟨0x903001, 5, 1, 8, 0, 0, 18446744073709551615, true⟩,
   ⟨0x903002, 5, 1, 8, 0, 0, 18446744073709551615, true⟩,
   ⟨0x903003, 5, 1, 8, 0, 0, 18446744073709551615, true⟩,
   ⟨0x903004, 5, 1, 8, 0, 0, 18446744073709551615, true⟩,
   ⟨0x903005, 5, 1, 8, 0, 0, 18446744073709551615, true⟩,
   ⟨0x903006, 5, 1, 8, 0, 0, 18446744073709551615, true⟩,
   ⟨0x903007, 5, 1, 8, 0, 0, 18446744073709551615, true⟩,
   ⟨0x903008, 5, 1, 8, 0, 0, 18446744073709551615, true⟩,
   ⟨0x903009, 5, 1, 8, 0, 0, 18446744073709551615, true⟩,
   ⟨0xA00001, 4, 4, 4, 3600, 600, 604800, false⟩,
   ⟨0xA00002, 4, 4, 4, 60, 1, 3600, false⟩,
   ⟨0xA00003, 4, 4, 4, 1000, 100, 60000, false⟩,
   ⟨0xA00005, 3, 4, 2, 16, 1, 1024, false⟩,
   ⟨0xA00006, 1, 4, 1, 0, 1, 1, false⟩,
   ⟨0xA01000, 11, 5, 0, 0, 0, 0, false⟩,
   ⟨0xA01201, 5, 1, 8, 0, 0, 18446744073709551615, true⟩,
   ⟨0xA01202, 5, 1, 8, 0, 0, 18446744073709551615, true⟩,
   ⟨0xA01203, 5, 1, 8, 0, 0, 18446744073709551615, true⟩,
   ⟨0xA02000, 11, 4, 0, 0, 0, 0, false⟩,
   ⟨0xA02100, 11, 1, 64, 0, 0, 0, false⟩,
   ⟨0xA02200, 3, 4, 2, 0, 1, 65535, false⟩,
   ⟨0xA03001, 5, 1, 8, 0, 0, 18446744073709551615, true⟩,
   ⟨0xA03002, 5, 1, 8, 0, 0, 18446744073709551615, true⟩,
   ⟨0xA03003, 5, 1, 8, 0, 0, 18446744073709551615, true⟩,
   ⟨0xA03004, 5, 1, 8, 0, 0, 18446744073709551615, true⟩,
   ⟨0xA03005, 5, 1, 8, 0, 0, 18446744073709551615, true⟩,
   ⟨0xA03006, 5, 1, 8, 0, 0, 18446744073709551615, true⟩,
   ⟨0xA03007, 5, 1, 8, 0, 0, 18446744073709551615, true⟩,
   ⟨0xA03008, 5, 1, 8, 0, 0, 18446744073709551615, true⟩,
   ⟨0xA03009, 5, 1, 8, 0, 0, 18446744073709551615, true⟩,
   ⟨0xA04000, 11, 4, 65536, 0, 0, 0, false⟩]

def objRows7 : List ObjRow :=
  [⟨0xA04001, 4, 4, 4, 1024, 64, 1048576, false⟩,
   ⟨0xA04003, 4, 4, 4, 600, 60, 3600, false⟩,
   ⟨0xA04101, 5, 1, 8, 0, 0, 18446744073709551615, true⟩,
   ⟨0xA04102, 5, 1, 8, 0, 0, 18446744073709551615, true⟩,
   ⟨0xA04103, 5, 1, 8, 0, 0, 18446744073709551615, true⟩,
   ⟨0xA05001, 2, 4, 1, 15, 0, 15, false⟩,
   ⟨0xA05002, 1, 4, 1, 1, 0, 1, false⟩,
   ⟨0xA06000, 11, 4, 3328, 0, 0, 0, false⟩,
   ⟨0xB00100, 11, 4, 16, 0, 0, 0, false⟩,
   ⟨0xB00200, 4, 4, 4, 0, 0, 8388607, false⟩,
   ⟨0xB00400, 11, 4, 2048, 0, 0, 0, false⟩,
   ⟨0xB01000, 11, 1, 262144, 0, 0, 0, false⟩,
   ⟨0xB01100, 11, 1, 33554432, 0, 0, 0, false⟩,
   ⟨0xB01200, 11, 4, 16, 0, 0, 0, false⟩,
   ⟨0xB01300, 11, 1, 16384, 0, 0, 0, false⟩,
   ⟨0xB03001, 5, 1, 8, 0, 0, 18446744073709551615, true⟩,
   ⟨0xB03002, 5, 1, 8, 0, 0, 18446744073709551615, true⟩,
   ⟨0xB03003, 5, 1, 8, 0, 0, 18446744073709551615, true⟩,
   ⟨0xB03004, 5, 1, 8, 0, 0, 18446744073709551615, true⟩,
   ⟨0xB03005, 5, 1, 8, 0, 0, 18446744073709551615, true⟩,
   ⟨0xB03006, 5, 1, 8, 0, 0, 18446744073709551615, true⟩,
   ⟨0xB03007, 5, 1, 8, 0, 0, 18446744073709551615, true⟩,
   ⟨0xC00002, 4, 4, 4, 130000, 1300, 13000000, false⟩,
   ⟨0xC01000, 11, 1, 3072, 0, 0, 0, false⟩,
   ⟨0xC02001, 5, 1, 8, 0, 0, 18446744073709551615, true⟩,
   ⟨0xC02002, 5, 1, 8, 0, 0, 18446744073709551615, true⟩,
   ⟨0xC02003, 5, 1, 8, 0, 0, 18446744073709551615, true⟩,
   ⟨0xC02004, 5, 1, 8, 0, 0, 18446744073709551615, true⟩,
   ⟨0xC02005, 5, 1, 8, 0, 0, 18446744073709551615, true⟩,
   ⟨0xC02006, 5, 1, 8, 0, 0, 18446744073709551615, true⟩,
   ⟨0xC02007, 5, 1, 8, 0, 0, 18446744073709551615, true⟩,
   ⟨0xC02008, 5, 1, 8, 0, 0, 18446744073709551615, true⟩,
   ⟨0xC02009, 5, 1, 8, 0, 0, 18446744073709551615, true⟩,
   ⟨0xC0200A, 5, 1, 8, 0, 0, 18446744073709551615, true⟩,
   ⟨0xC0200B, 5, 1, 8, 0, 0, 18446744073709551615, true⟩,
   ⟨0xC0200C, 5, 1, 8, 0, 0, 18446744073709551615, true⟩,
   ⟨0xC03000, 11, 5, 98304, 0, 0, 0, false⟩]

/-- Every object, in ascending index and sub-index. -/
def objTable : List ObjRow :=
  objRows0 ++ objRows1 ++ objRows2 ++ objRows3 ++ objRows4 ++ objRows5 ++ objRows6 ++ objRows7

/-- The row of an object, if any table lists it (R319). -/
def objRow? (key : Nat) : Option ObjRow := objTable.find? (fun r => decide (r.key = key))

/-- The highest sub-index of an index (R319), for its sub-index 00h; none where the index lists only sub-index 00h. -/
def highestSub (index : Nat) : Option Nat :=
  (objTable.filter (fun r => decide (r.key / 256 = index ∧ r.key % 256 ≠ 0))).foldl
    (fun m r => some (max (m.getD 0) (r.key % 256))) none

/-- Default of a scalar object. -/
def objDefault (key : Nat) : Nat :=
  match objRow? key with
  | some r => r.dflt
  | none => 0

end Sys2Proof.Machine
end

