-- ==== Sys2Proof/Machine/Tbl.lean ====
section
/-!
DEFINITION. Sparse tables: the one shape in which the Dyura's large memories and tables stand in State.
A table is a list of (key, value) pairs with strictly rising keys; an unlisted key reads as the table's default.
`set` removes an entry that equals the default, so equal tables are equal lists.
-/
namespace Sys2Proof.Machine

/-- A sparse table keyed by Nat. -/
abbrev Tbl (α : Type) := List (Nat × α)

/-- What a key holds; `d` where it is not listed. -/
def Tbl.get {α : Type} (d : α) : Tbl α → Nat → α
  | [], _ => d
  | (k', v) :: m, k => if k' = k then v else Tbl.get d m k

/-- What a key holds, if it is listed. -/
def Tbl.find? {α : Type} : Tbl α → Nat → Option α
  | [], _ => none
  | (k', v) :: m, k => if k' = k then some v else Tbl.find? m k

/-- Writes a key, in key order. -/
def Tbl.put {α : Type} : Tbl α → Nat → α → Tbl α
  | [], k, v => [(k, v)]
  | (k', v') :: m, k, v =>
    if k < k' then (k, v) :: (k', v') :: m
    else if k' = k then (k, v) :: m
    else (k', v') :: Tbl.put m k v

/-- Unlists a key. -/
def Tbl.del {α : Type} : Tbl α → Nat → Tbl α
  | [], _ => []
  | (k', v') :: m, k => if k' = k then Tbl.del m k else (k', v') :: Tbl.del m k

/-- Writes a key and keeps the canonical form: a value equal to the default unlists the key. -/
def Tbl.set {α : Type} [DecidableEq α] (d : α) (m : Tbl α) (k : Nat) (v : α) : Tbl α :=
  if v = d then Tbl.del m k else Tbl.put m k v

/-- Updates what a key holds. -/
def Tbl.upd {α : Type} (d : α) (m : Tbl α) (k : Nat) (f : α → α) : Tbl α :=
  Tbl.put m k (f (Tbl.get d m k))

/-- Every key of the table lies above `b`, and the keys rise strictly. -/
def Tbl.sortedFrom {α : Type} : Nat → Tbl α → Bool
  | _, [] => true
  | b, (k, _) :: m => decide (b ≤ k) && Tbl.sortedFrom (k + 1) m

/-- The keys rise strictly. -/
def Tbl.sorted {α : Type} (m : Tbl α) : Bool := Tbl.sortedFrom 0 m

/-- The canonical form: keys rise strictly and no entry equals the default. -/
def Tbl.wf {α : Type} [DecidableEq α] (d : α) (m : Tbl α) : Bool :=
  Tbl.sorted m && m.all (fun e => decide (e.2 ≠ d))

/-- Applies `f` to `n` consecutive keys from `i` on, of a table whose keys are all at or above `i`. -/
def Tbl.mapFrom {α : Type} [DecidableEq α] (d : α) (f : Nat → α → α) : Nat → Nat → Tbl α → Tbl α
  | 0, _, m => m
  | n + 1, i, [] =>
    let v := f i d
    if v = d then Tbl.mapFrom d f n (i + 1) [] else (i, v) :: Tbl.mapFrom d f n (i + 1) []
  | n + 1, i, (k, w) :: m =>
    if k = i then
      let v := f i w
      if v = d then Tbl.mapFrom d f n (i + 1) m else (i, v) :: Tbl.mapFrom d f n (i + 1) m
    else
      let v := f i d
      if v = d then Tbl.mapFrom d f n (i + 1) ((k, w) :: m) else (i, v) :: Tbl.mapFrom d f n (i + 1) ((k, w) :: m)

/-- Applies `f` to `n` consecutive keys from `lo` on. -/
def Tbl.mapRange {α : Type} [DecidableEq α] (d : α) (m : Tbl α) (lo n : Nat) (f : Nat → α → α) : Tbl α :=
  m.filter (fun e => decide (e.1 < lo)) ++ Tbl.mapFrom d f n lo (m.filter (fun e => decide (lo ≤ e.1)))

/-- Values of `n` keys from `i` on, of a table whose keys are all at or above `i`. -/
def Tbl.sliceFrom {α : Type} (d : α) : Nat → Nat → Tbl α → List α
  | 0, _, _ => []
  | n + 1, i, [] => d :: Tbl.sliceFrom d n (i + 1) []
  | n + 1, i, (k, v) :: m => if k = i then v :: Tbl.sliceFrom d n (i + 1) m else d :: Tbl.sliceFrom d n (i + 1) ((k, v) :: m)

/-- The keys that are listed. -/
def Tbl.keys {α : Type} (m : Tbl α) : List Nat := m.map Prod.fst

/-- Entries of a table whose keys meet a condition go. -/
def dropKeys {α : Type} (t : Tbl α) (p : Nat → Bool) : Tbl α := t.filter (fun e => !p e.1)

/-- The lowest number not in a list of numbers, searched from `k` with `n` tries. -/
def lowestFree (used : List Nat) : Nat → Nat → Option Nat
  | 0, _ => none
  | n + 1, k => if used.contains k then lowestFree used n (k + 1) else some k

end Sys2Proof.Machine
end

