-- ==== Sys2Proof/Machine/Sha.lean ====
section
/-!
DEFINITION. SHA-256 (FIPS 180-4), HMAC-SHA-256 (RFC 2104), the CRC-32 of R281, and the byte-order helpers of R4.
-/
namespace Sys2Proof.Machine

/-- Little-endian bytes of a number (R4). -/
def leBytes : Nat → Nat → List Byte
  | 0, _ => []
  | n + 1, v => BitVec.ofNat 8 v :: leBytes n (v / 256)

/-- The number little-endian bytes spell (R4). -/
def ofLe : List Byte → Nat
  | [] => 0
  | b :: bs => b.toNat + 256 * ofLe bs

/-- `n` bytes from offset `o`, zeros past the end. -/
def bytesAt (bs : List Byte) (o n : Nat) : List Byte :=
  let t := (bs.drop o).take n
  t ++ List.replicate (n - t.length) 0#8

/-- Little-endian field of `n` bytes at offset `o`. -/
def leAt (bs : List Byte) (o n : Nat) : Nat := ofLe (bytesAt bs o n)

/-- The `i`-th little-endian 32-bit word of a byte string. -/
def wordAt (bs : List Byte) (i : Nat) : Nat := leAt bs (4 * i) 4

/-- Bits [hi:lo] of a number. -/
def bits (v hi lo : Nat) : Nat := (v / 2 ^ lo) % 2 ^ (hi + 1 - lo)

/-- Bit `k` of a number. -/
def bit (v k : Nat) : Bool := v.testBit k

/-- Little-endian bytes of words of 32 bits. -/
def wordsBytes (ws : List Nat) : List Byte := ws.flatMap (leBytes 4)

/-- Cuts a list into pieces of `n`, at most `fuel` of them. -/
def chunksOf {α : Type} (n : Nat) : Nat → List α → List (List α)
  | 0, _ => []
  | _ + 1, [] => []
  | f + 1, l => l.take n :: chunksOf n f (l.drop n)

/-- The largest `x` below `2^bits` whose `k`-th power is at most `n`, on top of the bits `x` found so far. -/
def rootFrom (k n : Nat) : Nat → Nat → Nat
  | 0, x => x
  | b + 1, x => rootFrom k n b (if (x + 2 ^ b) ^ k ≤ n then x + 2 ^ b else x)

/-- First 32 bits of the fraction of the `k`-th root of `p`, for p below 512 (FIPS 180-4, 4.2.2 and 5.3.3). -/
def rootFrac (k p : Nat) : Word := BitVec.ofNat 32 (rootFrom k (p * 2 ^ (32 * k)) 37 0)

/-- The primes below 312: the first 64. -/
def primes64 : List Nat :=
  (List.range 312).filter (fun n => decide (2 ≤ n) && (List.range n).all (fun m => decide (m < 2 ∨ n % m ≠ 0)))

/-- The round constants: fractions of the cube roots of the first 64 primes. -/
def shaK : List Word := primes64.map (rootFrac 3)

/-- The initial hash value: fractions of the square roots of the first eight primes. -/
def shaInit : List Word := (primes64.take 8).map (rootFrac 2)

/-- XOR of rotations of a word to the right. -/
def rotSum (x : Word) (rs : List Nat) : Word := rs.foldl (fun n r => n ^^^ x.rotateRight r) 0#32

/-- One round on the eight working words a to h, with constant plus message word `kw`. -/
def shaRound (s : List Word) (kw : Word) : List Word :=
  let v := fun i => s.getD i 0#32
  let choose := (v 4 &&& v 5) ||| (~~~(v 4) &&& v 6)
  let majority := (v 0 &&& v 1) ||| (v 2 &&& (v 0 ||| v 1))
  let t := v 7 + rotSum (v 4) [6, 11, 25] + choose + kw
  [t + rotSum (v 0) [2, 13, 22] + majority] ++ s.take 3 ++ [v 3 + t] ++ (s.drop 4).take 3

/-- The message word that enters the schedule, from the 16 before it. -/
def shaNext (win : List Word) : Word :=
  let v := fun i => win.getD i 0#32
  v 0 + (rotSum (v 1) [7, 18] ^^^ (v 1 >>> 3)) + v 9 + (rotSum (v 14) [17, 19] ^^^ (v 14 >>> 10))

/-- The rounds of a block: the schedule is a window of 16 words that moves on by one at each round. -/
def shaRounds (ws s : List Word) : List Word :=
  (shaK.foldl (fun (z : List Word × List Word) k =>
    (z.1.drop 1 ++ [shaNext z.1], shaRound z.2 (k + z.1.getD 0 0#32))) (ws, s)).2

/-- Big-endian word of four bytes. -/
def beWord (bs : List Byte) : Word :=
  BitVec.ofNat 32 (bs.foldl (fun n b => n * 256 + b.toNat) 0)

def shaBlock (s : List Word) (blk : List Byte) : List Word :=
  List.zipWith (· + ·) s (shaRounds ((chunksOf 4 16 blk).map beWord) s)

/-- Big-endian bytes of a number. -/
def beBytes (n v : Nat) : List Byte := (leBytes n v).reverse

def shaPad (bs : List Byte) : List Byte :=
  let z := (119 - bs.length % 64) % 64
  bs ++ [0x80#8] ++ List.replicate z 0#8 ++ beBytes 8 (8 * bs.length)

/-- SHA-256 of a byte string, 32 bytes. -/
def sha256 (bs : List Byte) : List Byte :=
  let p := shaPad bs
  let s := (chunksOf 64 (p.length / 64) p).foldl shaBlock shaInit
  bytesAt (s.flatMap (fun w => beBytes 4 w.toNat)) 0 32

/-- HMAC-SHA-256 under a key of 32 bytes (RFC 2104). -/
def hmacSha256 (key msg : List Byte) : List Byte :=
  let k := bytesAt key 0 64
  sha256 (k.map (· ^^^ 0x5c#8) ++ sha256 (k.map (· ^^^ 0x36#8) ++ msg))

/-- One step of the reflected CRC-32, `n` bits. -/
def crcBits : Nat → Word → Word
  | 0, c => c
  | n + 1, c => crcBits n (if c.getLsbD 0 then (c >>> 1) ^^^ 0xEDB88320#32 else c >>> 1)

/-- The IEEE 802.3 CRC-32 of R281: reflected, initial value all ones, complemented. -/
def crc32 (bs : List Byte) : Word :=
  ~~~(bs.foldl (fun c b => crcBits 8 (c ^^^ (b.setWidth 32))) 0xFFFFFFFF#32)

end Sys2Proof.Machine
end

