-- ==== Sys2Proof/Config.lean ====
section
/-!
DEFINITION. What an implementation fixes and what the spec leaves open. Every constant without a body is a free
value: nothing can be proved of it, so a claim holds whatever it is. The log entry of each is named.
-/
namespace Sys2Proof.Config

/-- Payload of the quiet NaN a unit produces (R69 poisons the word; its bits are not given). Log 12. -/
opaque nanPayload : BitVec 22

/-- A fresh free value for each use: the model's own counter selects it. Log 2. -/
opaque freeValue : Nat → BitVec 64

/-- What the blocks of one Zstandard frame decompress to (RFC 8878, an outside standard that R255 names); none where they do
not. Log 20. -/
opaque zstd : List (BitVec 8) → Option (List (BitVec 8))

/-- Byte offset of weight (input i, output o) in a reference copy (R84 gives its elements, not where they stand): INT8
or BF16, fan-in, outputs, i, o. Log 21. -/
opaque refPlace : Bool → Nat → Nat → Nat → Nat → Nat

/-- Word index of output o's FP32 scale in an INT8 reference copy: fan-in, outputs, o. Log 21. -/
opaque refScale : Nat → Nat → Nat → Nat

/-- How far device time slews toward its parent, within the bound of R303, by device uptime. Log 31. -/
opaque slew : Nat → Nat

/-- Word i of the boot ROM's model constants 2030h.08 (R392, Tab. 17.10). Log 32. -/
opaque modelWord : Nat → BitVec 32

/-- The read value of a thermal node before the model is seeded (R393 gives none). Log 33. -/
opaque unseeded : Nat → BitVec 32

/-- The identity store's fixed items (Tab. 15.3): unique to the die. Log 10. -/
opaque deviceId : BitVec 64
opaque stepping : BitVec 8
opaque vendorKey : BitVec 480
opaque topKey : BitVec 448
opaque endorsement : BitVec 28832

/-- An item of the store, by its row in Tab. 15.3, agrees with its stored digest (R346). Log 10. -/
opaque itemOk : Nat → Bool

/-- The hash of the vendor key fixed in ROM (R347). Log 10. -/
opaque romHash : BitVec 256

/-- HSS verification of RFC 8554 with Nspk = 1: public key, message, signature (R348). Log 22. -/
opaque hssVerify : BitVec 480 → List (BitVec 8) → List (BitVec 8) → Bool

/-- LMS public key of the bottom tree made at a boot, by the model's counter of free values (R352). Log 22. -/
opaque bottomPublic : Nat → BitVec 448

/-- Signature of a message by a leaf of that bottom tree, and of its public key by a top leaf (R352, R353). Log 22. -/
opaque bottomSig : Nat → Nat → List (BitVec 8) → BitVec 20064
opaque topSig : Nat → BitVec 448 → BitVec 12896

/-- What a READ of an object that holds no stored value delivers (R431), by its key. Log 35. -/
opaque noValue : Nat → List (BitVec 8)

/-- Cost in cycles of an expert step of the given cost at full capacity that holds fewer tokens: its tokens, the capacity
(R233). Log 149. -/
opaque partCost : Nat → Nat → Nat → Nat

/-- What a counter of events below the commands reads, by its key and the device uptime. Log 41. -/
opaque hiddenCount : Nat → Nat → Nat

/-- Places of the link bits in 4020h.00 (Tab. 12.12 names them, not their order). Log 36. -/
opaque packLinks : List Bool → List (BitVec 8)

/-- The content of a maquette's sections 03h, 05h, 08h and 09h, whose byte layout the spec does not give; none where they
are unreadable. Log 15. -/
opaque maqExtra : List (BitVec 8) → Option MaqExtra

/-- Status and payload with which the closed vendor diagnostics answer after an unlock (R322, R355): code, index and
sub-index, payload of the request. Log 37. -/
opaque diagStatus : Nat → Nat → List (BitVec 8) → BitVec 8
opaque diagPayload : Nat → Nat → List (BitVec 8) → List (BitVec 8)

/-- Length, in 64 B units, of a handle on another device, by its coordinate and number (Tab. 7.4a): the far device's table
is not this device's state. Log 111. -/
opaque farLength : Nat → Nat → Nat

end Sys2Proof.Config
end

