-- ==== Sys2Proof/Machine/Fp.lean ====
section
/-!
DEFINITION. Floating point of the Dyura: the element formats of Tab. 4.1 (R68), the rounding of R69 (nearest even,
subnormals kept), the correctly rounded functions of R132. Every operation is computed exactly on integers and
narrowed once.
-/
namespace Sys2Proof.Machine

/-- Number of bits of `m`; 0 for 0. -/
def bitLen (m : Nat) : Nat := if m = 0 then 0 else Nat.log2 m + 1

/-- `m · 2^e` rounded to nearest even with at most `p` significant bits and no bit below `2^emin`. -/
def roundPos (p : Nat) (emin : Int) (m : Nat) (e : Int) : Nat × Int :=
  let s : Int := max ((bitLen m : Int) - p) (emin - e)
  if s ≤ 0 then (m, e)
  else
    let k := s.toNat
    let q := m >>> k
    let r := m % 2 ^ k
    let half := 2 ^ (k - 1)
    let q' := if r > half ∨ (r = half ∧ q % 2 = 1) then q + 1 else q
    (q', e + s)

/-- Bits of a binary format with `eb` exponent bits, `mb` mantissa bits and bias `bias`, of the value `m · 2^e`,
which the format holds exactly or exceeds; `none` when it exceeds the largest exponent `emax`. -/
def encodeFp (mb bias : Nat) (emax : Int) (m : Nat) (e : Int) : Option Nat :=
  if m = 0 then some 0
  else
    let top : Int := e + bitLen m - 1
    if top > emax then none
    else if top < 1 - (bias : Int) then
      -- subnormal: the unit is 2^(1 - bias - mb)
      some (let u : Int := 1 - (bias : Int) - mb
            if e ≥ u then m * 2 ^ (e - u).toNat else m / 2 ^ (u - e).toNat)
    else
      let lsb : Int := top - mb
      let frac := if e ≥ lsb then m * 2 ^ (e - lsb).toNat else m / 2 ^ (lsb - e).toNat
      some ((top + bias).toNat * 2 ^ mb + (frac - 2 ^ mb))

/-- The quiet NaN the units produce; its payload is left open (R69 poisons the word). -/
def nan32 : F32 := 0x7FC00000#32 ||| (Config.nanPayload.setWidth 32)

def f32Inf (neg : Bool) : F32 := if neg then 0xFF800000#32 else 0x7F800000#32
def f32Max (neg : Bool) : F32 := if neg then 0xFF7FFFFF#32 else 0x7F7FFFFF#32
def f32Zero (neg : Bool) : F32 := if neg then 0x80000000#32 else 0#32
def f32One : F32 := 0x3F800000#32
def f32NegInf : F32 := 0xFF800000#32

def f32Neg (x : F32) : Bool := x.msb
def f32IsNaN (x : F32) : Bool := decide ((x &&& 0x7FFFFFFF#32).toNat > 0x7F800000)
def f32IsInf (x : F32) : Bool := decide ((x &&& 0x7FFFFFFF#32) = 0x7F800000#32)
def f32IsZero (x : F32) : Bool := decide ((x &&& 0x7FFFFFFF#32) = 0#32)
def f32Abs (x : F32) : F32 := x &&& 0x7FFFFFFF#32
def f32Negate (x : F32) : F32 := x ^^^ 0x80000000#32

/-- Significand of a finite FP32 value: the value is `f32Man x · 2^(f32Exp x)`. -/
def f32Man (x : F32) : Nat :=
  let ex : Nat := (x.toNat / 2 ^ 23) % 256
  let f : Nat := x.toNat % 2 ^ 23
  if ex = 0 then f else f + 2 ^ 23

def f32Exp (x : F32) : Int :=
  let ex : Nat := (x.toNat / 2 ^ 23) % 256
  if ex = 0 then -149 else (ex : Int) - 150

/-- Significand with its sign. -/
def f32SMan (x : F32) : Int := if f32Neg x then -(f32Man x : Int) else f32Man x

/-- fl32: `± m · 2^e` rounded to FP32 (nearest even, subnormals kept; beyond the finite range the infinity). -/
def f32Round (neg : Bool) (m : Nat) (e : Int) : F32 :=
  let r := roundPos 24 (-149) m e
  match encodeFp 23 127 127 r.1 r.2 with
  | none => f32Inf neg
  | some b => BitVec.ofNat 32 b ||| f32Zero neg

/-- fl32 of an integer times a power of two; `zneg` is the sign of a zero result. -/
def f32RoundInt (zneg : Bool) (m : Int) (e : Int) : F32 :=
  if m = 0 then f32Zero zneg else f32Round (decide (m < 0)) m.natAbs e

def f32Add (a b : F32) : F32 :=
  if f32IsNaN a || f32IsNaN b then nan32
  else if f32IsInf a then
    if f32IsInf b && (f32Neg a != f32Neg b) then nan32 else a
  else if f32IsInf b then b
  else
    let e := min (f32Exp a) (f32Exp b)
    let s := f32SMan a * 2 ^ (f32Exp a - e).toNat + f32SMan b * 2 ^ (f32Exp b - e).toNat
    f32RoundInt (f32Neg a && f32Neg b) s e

def f32Sub (a b : F32) : F32 := f32Add a (f32Negate b)

def f32Mul (a b : F32) : F32 :=
  let neg := f32Neg a != f32Neg b
  if f32IsNaN a || f32IsNaN b then nan32
  else if f32IsInf a || f32IsInf b then
    if f32IsZero a || f32IsZero b then nan32 else f32Inf neg
  else f32Round neg (f32Man a * f32Man b) (f32Exp a + f32Exp b)

/-- `a · b + d` with one rounding. -/
def f32Fma (a b d : F32) : F32 :=
  let neg := f32Neg a != f32Neg b
  if f32IsNaN a || f32IsNaN b || f32IsNaN d then nan32
  else if f32IsInf a || f32IsInf b then
    if f32IsZero a || f32IsZero b then nan32
    else if f32IsInf d && (f32Neg d != neg) then nan32 else f32Inf neg
  else if f32IsInf d then d
  else
    let pe := f32Exp a + f32Exp b
    let e := min pe (f32Exp d)
    let p : Int := f32SMan a * f32SMan b
    let s := p * 2 ^ (pe - e).toNat + f32SMan d * 2 ^ (f32Exp d - e).toNat
    f32RoundInt (neg && f32Neg d) s e

/-- Quotient `m1 / m2` to 64 extra bits with a sticky bit, as a significand at `2^-64` (times two). -/
def divSticky (m1 m2 : Nat) : Nat :=
  let n := m1 * 2 ^ 80
  let q := n / m2
  q * 2 + (if n % m2 = 0 then 0 else 1)

def f32Div (a b : F32) : F32 :=
  let neg := f32Neg a != f32Neg b
  if f32IsNaN a || f32IsNaN b then nan32
  else if f32IsInf a then (if f32IsInf b then nan32 else f32Inf neg)
  else if f32IsInf b then f32Zero neg
  else if f32IsZero b then (if f32IsZero a then nan32 else f32Inf neg)
  else if f32IsZero a then f32Zero neg
  else f32Round neg (divSticky (f32Man a) (f32Man b)) (f32Exp a - f32Exp b - 81)

/-- VRECIP (R132): 1 / a, the infinity of the input's sign for zeros. -/
def f32Recip (a : F32) : F32 := f32Div f32One a

/-- Integer square root by bits: `r` so far, trying bit `k` downward. -/
def isqrtGo (n : Nat) : Nat → Nat → Nat
  | 0, r => r
  | k + 1, r =>
    let r' := r + 2 ^ k
    if r' * r' ≤ n then isqrtGo n k r' else isqrtGo n k r

def isqrt (n : Nat) : Nat := isqrtGo n (bitLen n / 2 + 1) 0

/-- Square root rounded to FP32. -/
def f32Sqrt (a : F32) : F32 :=
  if f32IsNaN a then nan32
  else if f32IsZero a then a
  else if f32Neg a then nan32
  else if f32IsInf a then a
  else
    let odd := (f32Exp a) % 2 != 0
    let e := if odd then f32Exp a - 1 else f32Exp a
    let m := (if odd then 2 * f32Man a else f32Man a) * 2 ^ 80
    let r := isqrt m
    f32Round false (r * 2 + (if r * r = m then 0 else 1)) (e / 2 - 40 - 1)

/-- VRSQRT (R132): 1 / sqrt(a), correctly rounded. -/
def f32Rsqrt (a : F32) : F32 :=
  if f32IsNaN a then nan32
  else if f32IsZero a then f32Inf (f32Neg a)
  else if f32Neg a then nan32
  else if f32IsInf a then f32Zero false
  else
    let odd := (f32Exp a) % 2 != 0
    let e := if odd then f32Exp a - 1 else f32Exp a
    let m := if odd then 2 * f32Man a else f32Man a
    -- 1/sqrt(m) · 2^100 from below, with a sticky bit
    let n := 2 ^ 200 / m
    let r := isqrt n
    let exact := r * r * m == 2 ^ 200
    f32Round false (r * 2 + (if exact then 0 else 1)) (-(e / 2) - 100 - 1)

/-- Working precision of the exponential, in bits below the point. -/
def expBits : Nat := 240

/-- Taylor sum of exp(r) in fixed point of `expBits`, `n` terms from term `k`, current term `t`. -/
def expTaylor (r : Nat) : Nat → Nat → Nat → Nat → Nat
  | 0, _, _, acc => acc
  | n + 1, k, t, acc =>
    let t' := t * r / (2 ^ expBits * k)
    expTaylor r n (k + 1) t' (acc + t')

/-- `n` squarings in fixed point of `expBits`. -/
def expSquare : Nat → Nat → Nat
  | 0, x => x
  | n + 1, x => expSquare n (x * x / 2 ^ expBits)

/-- exp(m · 2^e) for m · 2^e < 128, from below in fixed point of `expBits`: eight halvings, then eight squarings. -/
def expFix (m : Nat) (e : Int) : Nat :=
  let x := if (expBits : Int) + e ≥ 8 then m * 2 ^ ((expBits : Int) + e - 8).toNat
           else m / 2 ^ (8 - ((expBits : Int) + e)).toNat
  expSquare 8 (expTaylor x 60 1 (2 ^ expBits) (2 ^ expBits))

/-- exp (R132): the FP32 value nearest to exp(a). -/
def f32ExpFn (a : F32) : F32 :=
  if f32IsNaN a then nan32
  else if f32IsZero a then f32One
  else if f32IsInf a then (if f32Neg a then f32Zero false else a)
  else if f32Exp a + bitLen (f32Man a) > 7 then
    (if f32Neg a then f32Zero false else f32Inf false)
  else
    let y := expFix (f32Man a) (f32Exp a)
    if f32Neg a then
      f32Round false (2 ^ (2 * expBits) / y * 2 + 1) (-(expBits : Int) - 1)
    else f32Round false (y * 2 + 1) (-(expBits : Int) - 1)

/-- Order of FP32 values, -0.0 equal to +0.0; false for a NaN. -/
def f32Lt (a b : F32) : Bool :=
  if f32IsNaN a || f32IsNaN b then false
  else
    let va : Int := if f32Neg a then -((f32Abs a).toNat : Int) else (f32Abs a).toNat
    let vb : Int := if f32Neg b then -((f32Abs b).toNat : Int) else (f32Abs b).toNat
    decide (va < vb)

def f32Eq (a b : F32) : Bool :=
  if f32IsNaN a || f32IsNaN b then false
  else decide (a = b) || (f32IsZero a && f32IsZero b)

def f32Le (a b : F32) : Bool := f32Lt a b || f32Eq a b

/-- VMAX (R132): the non-NaN operand when one is NaN; +0.0 of +0.0 and -0.0. -/
def f32MaxOp (a b : F32) : F32 :=
  if f32IsNaN a then b
  else if f32IsNaN b then a
  else if f32IsZero a && f32IsZero b then (if a = b then a else f32Zero false)
  else if f32Lt a b then b else a

/-- VMIN (R132): as VMAX; it too returns +0.0 of +0.0 and -0.0. -/
def f32MinOp (a b : F32) : F32 :=
  if f32IsNaN a then b
  else if f32IsNaN b then a
  else if f32IsZero a && f32IsZero b then (if a = b then a else f32Zero false)
  else if f32Lt b a then b else a

/-- An integer converted to FP32 (R28). -/
def f32OfInt (i : Int) : F32 := f32RoundInt false i 0

/-- 2^k as FP32, k from -149 to 127. -/
def f32Pow2 (k : Int) : F32 := f32Round false 1 k

/-- BF16 of an FP32 value, to nearest even, as FP32 bits (Tab. 4.1). -/
def bf16Round (x : F32) : F32 :=
  if f32IsNaN x then nan32
  else if f32IsInf x then x
  else
    let r := roundPos 8 (-133) (f32Man x) (f32Exp x)
    match encodeFp 7 127 127 r.1 r.2 with
    | none => f32Inf (f32Neg x)
    | some b => BitVec.ofNat 32 (b * 2 ^ 16) ||| f32Zero (f32Neg x)

/-- The 16 stored bits of a BF16 value held as FP32 bits. -/
def bf16Bits (x : F32) : BitVec 16 := (x >>> 16).setWidth 16

/-- A BF16 value as FP32. -/
def bf16ToF32 (b : BitVec 16) : F32 := (b.setWidth 32) <<< 16

/-- The BF16 largest finite value of a sign, as FP32 bits. -/
def bf16Max (neg : Bool) : F32 := if neg then 0xFF7F0000#32 else 0x7F7F0000#32

/-- A value of a small binary format as FP32, exact. `mb` mantissa bits, bias, and the bits without sign. -/
def smallToF32 (mb bias : Nat) (neg : Bool) (bits : Nat) : F32 :=
  let ex := bits / 2 ^ mb
  let f := bits % 2 ^ mb
  if ex = 0 then f32RoundInt neg (if neg then -(f : Int) else f) (1 - (bias : Int) - mb)
  else f32Round neg (f + 2 ^ mb) ((ex : Int) - bias - mb)

/-- FP8 E4M3 to FP32; NaN is S.1111.111b (Tab. 4.1). -/
def e4m3ToF32 (b : Byte) : F32 :=
  if b.toNat % 128 = 127 then nan32 else smallToF32 3 7 b.msb (b.toNat % 128)

/-- FP8 E5M2 to FP32, infinities and NaNs as IEEE 754 (Tab. 4.1). -/
def e5m2ToF32 (b : Byte) : F32 :=
  let v := b.toNat % 128
  if v > 124 then nan32 else if v = 124 then f32Inf b.msb else smallToF32 2 15 b.msb v

/-- FP16 to FP32 (Tab. 4.1). -/
def fp16ToF32 (b : BitVec 16) : F32 :=
  let v := b.toNat % 2 ^ 15
  if v > 0x7C00 then nan32 else if v = 0x7C00 then f32Inf b.msb else smallToF32 10 15 b.msb v

/-- FP8 E4M3 rounded to nearest even and saturated (R192); NaN gives the NaN code. -/
def f32ToE4m3 (x : F32) : Byte :=
  let sg : Byte := if f32Neg x then 0x80#8 else 0#8
  if f32IsNaN x then 0x7F#8
  else if f32IsInf x then sg ||| 0x7E#8
  else
    let r := roundPos 4 (-9) (f32Man x) (f32Exp x)
    match encodeFp 3 7 8 r.1 r.2 with
    | none => sg ||| 0x7E#8
    | some b => sg ||| (if b ≥ 127 then 0x7E#8 else BitVec.ofNat 8 b)

/-- FP8 E5M2 rounded to nearest even and saturated (R192). -/
def f32ToE5m2 (x : F32) : Byte :=
  let sg : Byte := if f32Neg x then 0x80#8 else 0#8
  if f32IsNaN x then 0x7F#8
  else if f32IsInf x then sg ||| 0x7B#8
  else
    let r := roundPos 3 (-16) (f32Man x) (f32Exp x)
    match encodeFp 2 15 15 r.1 r.2 with
    | none => sg ||| 0x7B#8
    | some b => sg ||| BitVec.ofNat 8 b

/-- `x · 2^k` rounded half to even to an integer; 0 for a NaN or an infinity. -/
def f32ScaleRound (x : F32) (k : Int) : Int :=
  if f32IsNaN x || f32IsInf x then 0
  else
    let e := f32Exp x + k
    let m := f32Man x
    let q : Nat :=
      if e ≥ 0 then m * 2 ^ e.toNat
      else
        let s := (-e).toNat
        let q0 := m >>> s
        let r := m % 2 ^ s
        let half := 2 ^ (s - 1)
        if r > half ∨ (r = half ∧ q0 % 2 = 1) then q0 + 1 else q0
    if f32Neg x then -(q : Int) else q

/-- Clamps an integer. -/
def clampInt (lo hi x : Int) : Int := if x < lo then lo else if x > hi then hi else x

/-- A quotient of integers rounded half to even, `d > 0`. -/
def divRoundEven (n : Int) (d : Nat) : Int :=
  let q := n / d
  let r := n % d
  if 2 * r > d ∨ (2 * r = d ∧ q % 2 ≠ 0) then q + 1 else q

/-- Floor of a finite FP32 value. -/
def f32Floor (x : F32) : Int :=
  let e := f32Exp x
  if e ≥ 0 then f32SMan x * 2 ^ e.toNat else f32SMan x / 2 ^ (-e).toNat

/-- Ceiling of a finite FP32 value. -/
def f32Ceil (x : F32) : Int := -(f32Floor (f32Negate x))

/-- What R69 makes of a result: the value kept, whether the word is poisoned, whether the request is degraded. -/
structure R69 where
  v : F32
  poison : Bool
  degraded : Bool
  deriving DecidableEq, Repr

/-- R69: a NaN poisons the word; an infinity becomes the largest finite value of its sign and marks degraded. -/
def r69 (x : F32) : R69 :=
  if f32IsNaN x then ⟨x, true, false⟩
  else if f32IsInf x then ⟨f32Max (f32Neg x), false, true⟩
  else ⟨x, false, false⟩

end Sys2Proof.Machine
end

