-- ==== Sys2Proof/Machine/State.lean ====
section
/-!
DEFINITION. The state of the Dyura as plain data, grouped by the chapter that names each piece, and the state after
the reset of the management domain. Large memories and tables are sparse (Tbl): an unlisted key reads as the default
its docstring names. Sizes that the spec bounds by commands stay Nat.
-/
namespace Sys2Proof.Machine

/-! ### What the block sends -/

/-- What the block puts out: answers, notifications, packets, flits. The oldest stands first. -/
inductive OutMsg where
  /-- A dictionary response (R327, R333). `payload` begins with the object's own code where R328 says so. -/
  | response (car : Carrier) (dest : Coord) (flow : BitVec 16) (tenant : Tenant) (tag : BitVec 16) (code : Nat)
      (index : Nat) (sub : Nat) (status : Nat) (repeated keyed : Bool) (counter offset total : Nat)
      (payload check : List Byte)
  /-- A NOTIFY PDU with the record of Tab. 14.10 (R342); on the sideband the destination is the broadcast address. -/
  | notify (sideband : Bool) (dest : Coord) (keyed : Bool) (record check : List Byte)
  /-- A frame put on the sideband, up to its FCS (R325): its PDU is the same as that of the response or notification before
  it. -/
  | frame (bytes : List Byte)
  /-- A result record (R214) sent to the submitting source. -/
  | result (car : Carrier) (dest : Coord) (tenant : Tenant) (record : List Byte)
  /-- A flit put on a link, outside packets or re-sent. -/
  | flit (port : Nat) (f : Flit)
  /-- A sync operation or result for another device (R313). -/
  | sync (dest : Coord) (m : SyncMsg)
  /-- A page request for another device or cluster (R202). -/
  | pageReq (dest : Coord) (cluster : Nat) (q : PageReq)
  /-- A partial returned to the home core (R202). -/
  | partialTo (dest : Coord) (cluster : Nat) (m : PartialMsg)
  /-- A request for a remote frame (R183), and its answer. -/
  | frameReq (dest : Coord) (q : FrameReq)
  | frameAnswer (dest : Coord) (slot : Nat) (stream page : Nat) (far : Option Nat)
  /-- Rows of new entries forwarded to a holding device, each byte with the poison of its word (R171, R192). -/
  | rows (dest : Coord) (entry : Nat) (offset : Nat) (bytes : List (Byte × Bool))
  /-- What a step run for another device's request reports to it (R17): the request's slot, a failure code or 0, whether its
  result is degraded, and its token where one was drawn. -/
  | stepStatus (dest : Coord) (slot code : Nat) (degraded : Bool) (token : Option Nat)
  /-- An output of a descriptor had no key: the empty-attention bit of a request of another device (R197). -/
  | emptyKeys (dest : Coord) (slot : Nat)
  /-- A batch written into another device's batch handles (R208). -/
  | batch (dest : Coord) (inst : Nat) (slots table : List Nat)
  /-- Digests for a member of the replica set (R375). -/
  | digests (dest : Coord) (inst : Nat) (m : DigestMsg)
  /-- A read or write of a far handle by DMA (R136, R156): the far device, the handle there, byte offset, bytes. -/
  | farRead (dest : Coord) (handle : Nat) (off len : Nat)
  /-- The end of a request's frames told to a device that holds some (R185). -/
  | frameRelease (dest owner : Coord) (slot : Nat)
  | farWrite (dest : Coord) (handle : Nat) (off : Nat) (ws : List (Word × Bool))
  /-- An echo request (R300), a READ of 1021h.00 asked of a port's neighbour (R349), a route notice to every device of
  its scope (R297). -/
  | echo (dest : Coord)
  | imagePull (port : Nat)
  | notice (port : Nat) (up : Bool)
  /-- The no-route response to the source of a discarded packet (R299). -/
  | noRoute (dest : Coord) (chan : Nat) (flow : BitVec 16) (seq : Nat)
  /-- A packet delivered to this device whose kind no chapter gives a format. -/
  | delivered (chan kind : Nat) (src : Coord) (tenant : Tenant) (words : List (Word × Bool))
  /-- What a crossing hands on after a reset request: words and their poison (R405). -/
  | crossed (x : Nat) (words : List (Word × Bool))
  /-- The response packet of a combined read (R164): destination tile mask, bit x + 16 · y, words, poison bits. -/
  | combined (dest : BitVec 256) (words : List Word) (poison : List Bool)
  /-- Bits the TAP shifts out (R423). -/
  | tap (bits : Nat) (v : Nat)
  deriving DecidableEq, Repr

/-! ### CIM cores and engines (02, 03, 05, 06) -/

/-- Owner tag (R173): a batch position, none, or all. -/
inductive Tag where
  | none
  | pos (x : Nat)
  | all
  deriving DecidableEq, Repr

/-- A 32-bit word of the vector unit with its poison and owner tag: staging entries, outlier sums, Q registers. -/
structure VWord where
  v : Word
  poison : Bool
  tag : Tag
  deriving DecidableEq, Repr

def VWord.zero : VWord := ⟨0#32, false, .none⟩

/-- A word as memory delivers or takes it, with its poison (R171). -/
structure RWord where
  w : Word
  poison : Bool
  deriving DecidableEq, Repr

/-- An accumulator: 48-bit sum (R28), poison, owner tag. -/
structure Acc where
  v : BitVec 48
  poison : Bool
  tag : Tag
  deriving DecidableEq, Repr

def Acc.zero : Acc := ⟨0#48, false, .none⟩

/-- An entry of the outlier list (R78): channel of the vector, value, poison, owner tag of its token. -/
structure Outlier where
  chan : Nat
  x : F32
  poison : Bool
  tag : Tag
  deriving DecidableEq, Repr

/-- The held vector (06): aligned integers, the values its bursts represent (R82), poison per channel. -/
structure HeldVec where
  a : List Int
  x : List F32
  poison : List Bool
  width : Nat
  signed : Bool
  ea : Nat
  tag : Tag
  slot : Nat
  layer : Nat
  /-- Token of the vector. -/
  tok : Nat
  deriving DecidableEq, Repr

/-- What an outlier list was filled by: capacity and timing mode of its EVAL (R135). -/
structure ListInfo where
  cap : Nat
  compact : Bool
  deriving DecidableEq, Repr

/-- A loop in progress (R120): its count and the word index of its body's first word. -/
structure LoopCtr where
  value : Nat
  count : Nat
  body : Nat
  active : Bool
  deriving DecidableEq, Repr

/-- An entry of the top-k list. -/
structure TopEntry where
  score : F32
  ident : Word
  deriving DecidableEq, Repr

/-- The top-k unit (R140): entries in rank order, k once fixed, poison mark, tag. -/
structure TopK where
  list : List TopEntry
  k : Option Nat
  poison : Bool
  tag : Tag
  deriving DecidableEq, Repr

/-- One entry of an outlier list as OUTL adds it: owner tag and its products by output, with whether R69 poisons or
degrades each. -/
structure OutlRow where
  tag : Tag
  prods : List (F32 × Bool × Bool)
  deriving DecidableEq, Repr

/-- A plane of an evaluate: its index, its signed weight τ · 2^i, and the rows of both segments. -/
structure Plane where
  ix : Nat
  wt : Int
  lo : Nat
  hi : Nat
  deriving DecidableEq, Repr

/-- A plane of an EVAL on its way to its slot in the engine at grid position `pos`: the engine's first accumulator and
how many it has, the steering it evaluates under (R21), the answers of its converters, the token's tag, its request slot, the step word, and whether a channel
of its input is poisoned. -/
structure PlaneRun where
  pos : Nat
  base : Nat
  outs : Nat
  steer : Tbl Nat
  plane : Plane
  rd : List Reading
  tag : Tag
  slot : Nat
  word : Nat
  poison : Bool
  deriving DecidableEq, Repr

/-- A result on its way: what it becomes visible as at its latency (R102). The sequencer checks no data hazard (R96), so
a word that issues earlier finds what stood before. -/
inductive Land where
  /-- Staging entries from `lo`. -/
  | stage (lo : Nat) (ws : List VWord)
  | q (r : Nat) (v : VWord)
  /-- Accumulators and outlier sums 0 to n − 1 cleared under an EVAL's tag (Accumulate 0). -/
  | accClear (n : Nat) (tag : Tag)
  /-- A plane reaches its engine slot, where it evaluates under the cells and enables of that slot (R40, R44). -/
  | plane (x : PlaneRun)
  /-- A plane's sums onto `n` accumulators from `lo` on, those it poisons, and its token's tag. -/
  | acc (lo n : Nat) (ds : Tbl Int) (bad : List Nat) (tag : Tag)
  /-- Outlier rows onto the sums from `first`, `n` of them. -/
  | osum (first n : Nat) (rows : List OutlRow)
  /-- The u vector of a term, with the layer of an adapter term. -/
  | u (adapter : Bool) (layer : Nat) (us : List VWord)
  /-- Words into the buffer at a byte offset of a handle. -/
  | buf (hid off : Nat) (ws : List RWord)
  /-- A row of a physical engine under a column mask. -/
  | row (phys row data mask : Nat) (physical : Bool)
  /-- An ENABLE reaches the engine at a physical place: its mode, the enables of its record, whether it is a mask. -/
  | enable (phys mode : Nat) (bits : BitVec 1024) (mask : Bool)
  /-- Entries offered to the top-k list. -/
  | topk (clear : Bool) (k : Nat) (es : List TopEntry) (poison : Bool) (tag : Tag)
  | topkClear
  | grid (i o : Nat)
  deriving DecidableEq, Repr

/-- The sampling unit (R142, R228): running maximum and sum, retained candidates in rank order, poison, tag, whether
any token was admitted. -/
structure Sampler where
  m : F32
  s : F32
  kept : List (F32 × Nat)
  poison : Bool
  tag : Tag
  admitted : Bool
  deriving DecidableEq, Repr

/-- A unit that a word reserves (Tab. 6.3, R112, R149). -/
inductive CUnit where
  | readPort
  | writePort
  | patinaPort
  | broadcast
  | engine (p : Nat)
  | vector
  | mac
  | loader
  | sequencer
  | topk
  | sampling
  /-- Read side A and write side of the bank of a row, by flat row number. -/
  | bankRead (row : Nat)
  | bankWrite (row : Nat)
  deriving DecidableEq, Repr

/-- A reservation: a unit from one cycle up to, not including, another. -/
structure Resv where
  u : CUnit
  lo : Nat
  hi : Nat
  deriving DecidableEq, Repr

/-- A range of the buffer (flat byte addresses) or of engine rows (position · 256 + row) (R100). -/
structure Rng where
  engineSpace : Bool
  lo : Nat
  len : Nat
  writes : Bool
  reads : Bool
  deriving DecidableEq, Repr

/-- An entry of the scoreboard (Tab. 5.3). `freed` is the cycle from which it is free, once known. -/
structure SbEntry where
  ident : Nat
  rng : Rng
  handle : Nat
  offset : Nat
  agent : Nat
  start : Nat
  freed : Option Nat
  deriving DecidableEq, Repr

/-- Which elastic operation waits or runs on a core (R99, R136, R137, R225, R363). -/
inductive ElKind where
  | copy
  | gather
  | scatter
  | mask
  | arrival
  | castWrite
  | slice
  | sync
  deriving DecidableEq, Repr

/-- A gather descriptor as read (Tab. 6.15). -/
structure GatherDesc where
  table : Nat
  index : Nat
  indexOff : Nat
  dest : Nat
  destOff : Nat
  row : Nat
  wide : Bool
  count : Nat
  deriving DecidableEq, Repr

/-- An elastic operation of a core: number, kind, tag it signals, queue cycle, whether it has started, whether the
step started it (R105), source and destination (handle, byte offset), length in bytes, descriptor once read, and the words a mask copy found
at its round's choice (R225). -/
structure ElOp where
  ident : Nat
  kind : ElKind
  tag : Nat
  queued : Nat
  started : Bool
  ofStep : Bool
  srcH : Nat
  srcOff : Nat
  dstH : Nat
  dstOff : Nat
  len : Nat
  desc : Option GatherDesc
  data : List RWord
  deriving DecidableEq, Repr

/-- A completion tag (R97): the cycle of its signal, or none while its elastic operation runs. `agent` is the agent of
the operation in the coding of Tab. 5.3, 4 for a fixed operation. -/
structure TagSt where
  signal : Option Nat
  agent : Nat
  deriving DecidableEq, Repr

/-- A word that is held (R95, R101): since which cycle, whether by the scoreboard or the DMA queue, the agent it waits
for, the pause it has already taken, for a DMA word the cycle from which a descriptor is free, the pause that stood pending
when the word came up, and its ranges. -/
structure Held where
  w : StepWord
  since : Nat
  byBoard : Bool
  agent : Nat
  paused : Nat
  dma : Bool
  notBefore : Nat
  ask : Option Nat
  rngs : List Rng
  deriving DecidableEq, Repr

/-- Where a core stands in its commit (R105–R107, Tab. 5.4). -/
inductive Phase where
  | idle
  | running
  | drain
  /-- Taking a pause at a commit mark. -/
  | markPause
  | calSlice
  | testSlice
  | plinth
  /-- Its next step stands ready; the STEP word starts it (action 8). -/
  | ready
  deriving DecidableEq, Repr

/-- A step the scheduler has put before a core (R208): instance, program, batch slots and length table as the batch
handle holds them, whether its round is new to an open swap (R263), and the last of its round on the lead core. -/
structure Plan where
  inst : Nat
  prog : Nat
  ident : BitVec 32
  layers : Option (Nat × Nat)
  newRound : Bool
  last : Bool
  gate : Option Nat
  /-- An expert step's own batch (slot, tokens), expert, and index list of round tokens. -/
  batch : List (Nat × Nat)
  expert : Nat
  index : List Nat
  deriving DecidableEq, Repr

/-- One row of the length table of the running step (Tab. 8.5). -/
structure LenRow where
  slot : Nat
  q : Nat
  p : Nat
  base : Nat
  m : Nat
  deriving DecidableEq, Repr

/-- A monitor window of one column-segment (R63): `s` is 128 · S, `v` is 128² · 127 · V, conversions seen and
over-range events; ones seen and asked by EVALT. -/
structure MonWin where
  s : Int
  v : Nat
  n : Nat
  ovr : Nat
  ones : Nat
  asked : Nat
  deriving DecidableEq, Repr

def MonWin.zero : MonWin := ⟨0, 0, 0, 0, 0, 0⟩

/-- A CIM core (R90, R110, R108): its registers, its step, its sequencer, scoreboard and elastic operations. -/
structure Core where
  /-- Grid (R91): log2 I and log2 O. -/
  gi : Nat
  go : Nat
  acc : Tbl Acc
  osum : Tbl VWord
  stage : Tbl VWord
  q : Tbl VWord
  olist : List Outlier
  oinfo : ListInfo
  held : Option HeldVec
  ea : Option Nat
  /-- Patina u vectors (R133), correction and adapter, and the layer of the latest adapter PATA. -/
  uc : List VWord
  ua : List VWord
  uaLayer : Nat
  topk : TopK
  samp : Sampler
  loops : Tbl LoopCtr
  deriving DecidableEq, Repr

/-- Outputs of a layer that a READ brought to staging from entry `lo` on, as later PATBs leave them: layer, token, its
batch position, values (R86). -/
structure NormOut where
  layer : Nat
  tok : Nat
  pos : Nat
  lo : Nat
  ys : List F32
  deriving DecidableEq, Repr

/-- The step a core runs (R92, R95–R101). -/
structure Seq where
  phase : Phase
  plan : Plan
  /-- Index of the next word in its program. -/
  word : Nat
  rows : List LenRow
  start : Nat
  prev : Nat
  flags : BitVec 16
  /-- Status the step ends with: 00h, or a code of Tab. 9.6. -/
  status : Nat
  ended : Bool
  /-- Batch positions that fail with poison, and whether all do (R174). -/
  poisoned : List Nat
  poisonAll : Bool
  /-- Cycle by which every fixed operation issued so far has completed (R105). -/
  done : Nat
  resv : List Resv
  /-- In-flight list (R99): range and the cycle of its last access. -/
  flight : List (Rng × Nat)
  tags : Tbl TagSt
  /-- Results in flight by the cycle they become visible, earliest first. -/
  landing : List (Nat × Land)
  wait : Option Held
  pause : Option Nat
  board : List SbEntry
  ops : List ElOp
  nextOp : Nat
  /-- Layer outputs of the step so far, for the norm watch (R86). -/
  norms : List NormOut
  /-- Rows that the step's fixed reads take, each with its cycle (R151). -/
  reads : List (Nat × Nat)
  deriving DecidableEq, Repr

/-- What stands beside the step on a core. -/
structure CoreAux where
  committed : Nat
  plans : List Plan
  calReserved : Bool
  pauseEnd : Nat
  /-- Action of Tab. 5.4 that follows a pause or a slice; cycle at which the plinth wait began. -/
  next : Nat
  plinthAt : Nat
  /-- Monitor (R63): watched logical position, segment slots seen, windows by position · 2,080 + 2c + s. -/
  monPos : Nat
  monSlots : Nat
  mon : Tbl MonWin
  /-- Conversions of a column-segment that has no window of its own yet, by position · 2 + segment. -/
  monBase : Tbl Nat
  /-- MoE layer of an instance whose router runs at this core's next action 6 (R232). -/
  route : Option (Nat × Nat)
  deriving DecidableEq, Repr

structure CimCore where
  regs : Core
  seq : Seq
  aux : CoreAux
  deriving DecidableEq, Repr

/-- A spare column (Tab. 3.5): logical column served, state 0 free, 1 rotating, 2 retired column, 3 faulted. -/
structure Spare where
  target : Nat
  st : Nat
  deriving DecidableEq, Repr

/-- Work of a calibration unit (R60): its level, and the logical columns it concerns. -/
structure CalJob where
  level : Nat
  cols : List Nat
  deriving DecidableEq, Repr

/-- A batch in rotation (Tab. 3.2): group, columns with the spare each rotates onto, phase 0 A, 1 B, 2 C, and what the
start of its attempt fixed: the class (R57), the limits of 9000h.02–04 and the failures of 9000h.05 (R67). -/
structure Rotation where
  group : Nat
  cols : List (Nat × Nat)
  phase : Nat
  cls : Nat
  offLim : F32
  gainLim : F32
  agreeLim : F32
  fails : Nat
  deriving DecidableEq, Repr

/-- Cycles of an engine that a plane or a digital access takes (R43), and the segments it takes in them: a plane of kind
zero or full leaves its segment free. `work` tells an access of the calibration unit from an operation of the step. -/
structure EngSlot where
  lo : Nat
  len : Nat
  lower : Bool
  upper : Bool
  work : Option SlotUse
  deriving DecidableEq, Repr

/-- A C-engine (R20, R66). -/
structure Engine where
  /-- Stored bits by column-segment 2c + s; row r of the segment is bit r. Default 0. -/
  cells : Tbl (BitVec 128)
  /-- Block scale bytes by 2o + s (R71). Default 00h. -/
  scales : Tbl Byte
  /-- Weight width code of Tab. 11.3. -/
  width : Nat
  /-- 0 empty, 1 weight, 2 corpus. -/
  cls : Nat
  /-- 0 active, 1 spare, 2 retired. -/
  st : Nat
  pos : Nat
  /-- Physical column by logical column; default its own. -/
  steer : Tbl Nat
  comps : Tbl (BitVec 2)
  ladders : Tbl (BitVec 2)
  spares : Tbl Spare
  /-- Column enables (R44): bit c is set when logical column c is disabled. -/
  disabled : BitVec 1024
  /-- Physical columns retired. -/
  retired : List Nat
  fails : Tbl Nat
  /-- Count-file words whose counts are invalid (R35). -/
  badCounts : List Nat
  queue : List CalJob
  rot : Option Rotation
  /-- Device uptime in ns of the calibration at power-up, and of each logical column's last accepted attempt where that
  is later (R61). -/
  calAt : Nat
  accepted : Tbl Nat
  stale : List Nat
  next : Nat
  lfsr : BitVec 16
  /-- Replacement by the spare engine wanted or under way (R64). -/
  replacing : Bool
  /-- Slots that operations and the calibration unit take, and how many accesses of each kind the unit has made in each
  segment for the work at hand, by 2 · kind + segment (Tab. 3.3). -/
  slots : List EngSlot
  work : Tbl Nat
  /-- Calibrated and usable (R51, R52). -/
  usable : Bool
  /-- Instance and layer cast on it. -/
  use : Option (Nat × Nat)
  deriving DecidableEq, Repr

structure Cim where
  /-- By core, 0–191. -/
  cores : Tbl CimCore
  /-- By core · 33 + physical engine. -/
  engines : Tbl Engine
  /-- Redundancy map hint (R53), by engine index: its 212 words. -/
  hint : Tbl (List Nat)
  hintStatus : Nat
  deriving DecidableEq, Repr

/-! ### Memory (07) -/

/-- A handle table entry (Tab. 7.4a); the attribute bits are those of w3. -/
structure Handle where
  tenant : Nat
  cluster : Nat
  unit : Nat
  base : Nat
  len : Nat
  attrs : BitVec 11
  deriving DecidableEq, Repr

/-- A tenant's quota record (Tab. 7.5) and its other limits (Tab. 14.9). -/
structure Limits where
  handles : Nat
  bytes : Nat
  kv : Nat
  requests : Nat
  contexts : Nat
  sync : Nat
  deriving DecidableEq, Repr

/-- A read combining window (R163): who asked, in order, each a core and the number of its operation. -/
structure Window where
  cluster : Nat
  tile : Nat
  row : Nat
  asks : List (Nat × Nat)
  opened : Nat
  deriving DecidableEq, Repr

/-- A row that a combined read delivered to an operation of a core (R164): the number of its first word / 16, its words. -/
structure RowGot where
  core : Nat
  ident : Nat
  row : Nat
  words : List RWord
  deriving DecidableEq, Repr

/-- The scratchpad and what guards it. -/
structure Mem where
  /-- Bytes by flat address; an unlisted address reads 0 (R160). -/
  cells : List Host.Cell
  /-- Poison bits by word number (R171), default 0. -/
  poison : Tbl (BitVec 2)
  /-- Flipped bits of a stored codeword by word number (R166), default 0. -/
  flips : Tbl (BitVec 39)
  deriving DecidableEq, Repr

structure MemS where
  m : Mem
  /-- By handle; unlisted is not valid. -/
  handles : Tbl Handle
  /-- Entries lost in both copies (R162). -/
  lost : List Nat
  /-- Scrub queues by unit (cluster · 16 + unit): word number and whether it is written back as poisoned (R169). -/
  scrub : Tbl (List (Nat × Bool))
  /-- Next row of each bank's patrol, and passes done, by unit · 64 + bank; tables follow from unit 256 on (R170). -/
  patrol : Tbl Nat
  passes : Tbl Nat
  /-- Cycle of each bank's latest patrol request, by the same keys; and the cycle at which the patrols of a group started: a
  cluster's at its number, the table SRAMs' at 16, those of a page table slice after a reset of its cluster at 17 + cluster. -/
  asked : Tbl Nat
  starts : Tbl Nat
  windows : List Window
  combined : List RowGot
  limits : Tbl Limits
  /-- Failed routers and their detour masks (R154), by tile. -/
  detours : Tbl (List Nat)
  /-- Step queue of each core's sequencer (R90, R93): numbers of the words fetched, and whether each read poisoned. -/
  queues : Tbl (List (Nat × Bool))
  deriving DecidableEq, Repr

/-! ### Attention (08) -/

/-- An owner record of a frame (R177, R183): its rows, the owner, what it holds, the tenant charged, the instance and
class its layout comes from, its page table entry. -/
structure Frame where
  rows : Nat
  owner : Coord
  slot : Nat
  client : Nat
  stream : Nat
  page : Nat
  tenant : Nat
  inst : Nat
  kv : Nat
  entry : Nat
  releasing : Bool
  deriving DecidableEq, Repr

/-- What became of a page asked of another device: it has not answered, its frame has this entry here, it keeps the entry
itself as the stream's home, or no entry was free for it here. -/
inductive FarState where
  | waiting
  | placed (e : Nat)
  | away
  | unplaced
  deriving DecidableEq, Repr

/-- A page of a request, of this device or of one whose stream has its home here, asked of another device (R183). -/
structure FarPage where
  q : FrameReq
  dev : Coord
  st : FarState
  deriving DecidableEq, Repr

/-- A page table entry and its owner word (Tab. 8.4, R182). -/
structure PageEnt where
  e : BitVec 64
  owner : BitVec 32
  deriving DecidableEq, Repr

/-- A descriptor in progress (R192, R202): its words, the pages its queries need, the partials that have arrived, one
list per KV head, by head · 2^15 + level · 2^11 + index, the query vectors that are poisoned, whether a page is lost, and
what stops it: a range fault, a handle fault. -/
structure DescJob where
  words : List Nat
  need : List Nat
  parts : Tbl (List Partial)
  badQ : List Nat
  failed : Bool
  range : Bool
  handle : Bool
  deriving DecidableEq, Repr

structure Attn where
  queue : List (List (Word × Bool))
  cur : Option DescJob
  /-- Look-aside buffer (R187): owner, slot, stream, page, entry index, latest used first. -/
  look : List (Coord × Nat × Nat × Nat × Nat)
  /-- Pauses asked of its engines, by engine, and running ones with their last cycle (R397). -/
  pauseQ : List (Nat × Nat)
  pausing : List (Nat × Nat)
  deriving DecidableEq, Repr

structure AttnS where
  units : Tbl Attn
  /-- Page table by entry index. -/
  pages : Tbl PageEnt
  /-- Entries read with a double error, unusable until their request's frames are released or, with the owner word lost
  too, their cluster is reset (R186). -/
  deadPages : List Nat
  /-- Frames by (cluster · 3 + tile) · 2^19 + row. -/
  frames : Tbl Frame
  /-- KV use of tenants in 4 KiB units. -/
  kvUse : Tbl Nat
  /-- Pages asked of other devices, until their request's frames are released (R183, R184). -/
  asked : List FarPage
  /-- Requests counted as lost (R204): owner, slot, client request ID. -/
  lost : List (Coord × Nat × Nat)
  windows : Tbl Nat
  /-- Written length of streams by owner · 2^19 + slot · 8 + stream (R196). -/
  written : Tbl Nat
  deriving DecidableEq, Repr

/-! ### Serving (09) -/

/-- A request entry (Tab. 9.2). -/
structure ReqEnt where
  state : Nat
  prio : Nat
  tenant : Nat
  context : Nat
  profile : Nat
  cancel : Bool
  degraded : Bool
  client : Nat
  counter : Nat
  deadline : Nat
  inst : Nat
  kvClass : Nat
  empty : Bool
  restarted : Bool
  len : Nat
  maxLen : Nat
  prompt : Nat
  status : Nat
  pages : List Nat
  pin : Nat
  maskMode : Nat
  maskHandle : Nat
  autoState : Nat
  io : Nat
  seed : Nat
  deriving DecidableEq, Repr

/-- What the scheduler keeps beside an entry: where its records go, when the last one was sent, whether it is in a
round, the first failure fixed, the token drawn, whether its frames are all released, a FENCE waiting. -/
structure ReqAux where
  car : Carrier
  source : Coord
  tag : BitVec 16
  sent : Nat
  inRound : Bool
  failure : Option Nat
  token : Option Nat
  fenced : Bool
  /-- Device time [31:0] of the latest record. -/
  recorded : Nat
  /-- A sampled request of R85. -/
  sampled : Bool
  deriving DecidableEq, Repr

/-- A sampling profile (Tab. 9.12), as its four words. -/
structure Profile where
  temp : F32
  topP : F32
  w2 : Nat
  endTok : Nat
  deriving DecidableEq, Repr

/-- A round of an instance (R208): batch as (slot, tokens), when it was chosen, its cost in ns, whether it began before
the open swap (R263), the tokens of requests routed to experts (expert, slot). -/
structure Round where
  batch : List (Nat × Nat)
  chosen : Nat
  cost : Nat
  old : Bool
  routed : List (Nat × Nat)
  /-- The swap that was open when it became the old round asks for RESTART at its close (R266). -/
  restart : Bool
  /-- The sampling profile of each request of the batch, as the choice found it (R227). -/
  profiles : Tbl Profile
  deriving DecidableEq, Repr

/-- Enabled and Mode of a serving control record (Tab. 9.10) or an adapter record (Tab. 11.9); Drained is read off the
requests. -/
structure Ctl where
  enabled : Bool
  mode : Bool
  deriving DecidableEq, Repr

structure ServS where
  reqs : Tbl ReqEnt
  aux : Tbl ReqAux
  rounds : Tbl Round
  tenants : Tbl Ctl
  insts : Tbl Ctl
  profiles : Tbl Profile
  /-- Expert control bytes by instance · 256 + expert (default 01h). -/
  experts : Tbl Nat
  roundCount : Tbl Nat
  deriving DecidableEq, Repr

/-! ### Casting (11) and precision (04) -/

/-- A layer entry (Tab. 11.3). -/
structure LayerEnt where
  layer : Nat
  arrival : Nat
  width : Nat
  mse : Bool
  bits : Nat
  signed : Bool
  fanIn : Nat
  outputs : Nat
  mag : F32
  clip : F32
  cap : Nat
  rc : Nat
  ra : Nat
  tokens : Nat
  rlo : F32
  rhi : F32
  firstPl : Nat
  numPl : Nat
  corr : Nat
  ref : Nat
  refFmt : Nat
  deriving DecidableEq, Repr

/-- A placement record (Tab. 11.4). -/
structure Placement where
  dev : Coord
  cluster : Nat
  core : Nat
  gi : Nat
  go : Nat
  inOff : Nat
  outOff : Nat
  corpus : Nat
  deriving DecidableEq, Repr

/-- A stream record (Tab. 8.3). -/
structure Stream where
  layers : Nat
  heads : Nat
  headSize : Nat
  format : Nat
  cross : Bool
  group : Nat
  window : Nat
  home : Coord
  homeCluster : Nat
  first : Nat
  deriving DecidableEq, Repr

/-- A KV class (Tab. 8.2); `raw` is its 144 bytes. -/
structure KvClass where
  s0 : Nat
  cap : Nat
  span : Bool
  maxLen : Nat
  spanFirst : Coord
  spanCount : Nat
  streams : List Stream
  raw : List Byte
  deriving DecidableEq, Repr

/-- A maquette: header, layers, placements, KV classes, expected digests, the bytes of the cost tables (04h, 07h, 0Ah),
and the sections whose byte layout the spec leaves open. -/
structure Maq where
  inst : Nat
  tenant : Nat
  cls : Nat
  reference : Bool
  maint : Bool
  layers : List LayerEnt
  places : List Placement
  kv : List KvClass
  expected : List (List Byte)
  tables : List (List Byte)
  extra : MaqExtra
  deriving DecidableEq, Repr

/-- A cast or swap in progress: its maquette and the handle that holds it, bytes received per target (target · 65,536 +
index) as (offset, length), region bytes received by region, staged images by engine key (placement · 32 + position):
column-segments and scale codes, blocks received per engine, the largest magnitude seen per layer, layers whole and
verified, engine keys written, staging handles, KV policy RESTART, a rewrite under way. -/
structure CastJob where
  maq : Maq
  maqH : Nat
  swap : Bool
  got : Tbl (List (Nat × Nat))
  raw : Tbl (Tbl Byte)
  image : Tbl (Tbl (BitVec 128))
  scales : Tbl (Tbl Byte)
  count : Tbl Nat
  big : Tbl F32
  staged : List Nat
  written : List Nat
  staging : List Nat
  policy : Bool
  rewriting : Bool
  /-- State of the instance before a swap opened. -/
  prior : Nat
  deriving DecidableEq, Repr

/-- An instance (Tab. 11.6) with what its cast installed. -/
structure Inst where
  state : Nat
  tenant : Nat
  cls : Nat
  policy : Bool
  status : Nat
  layers : Nat
  front : Nat
  gen : Nat
  maqH : Nat
  maq : Option Maq
  job : Option CastJob
  /-- Handles of programs by program · 192 + core, and of regions by region. -/
  progH : Tbl Nat
  regH : List Nat
  digests : Tbl (List Byte)
  deriving DecidableEq, Repr

/-- A region record (7030h): kind and digest by handle. -/
structure Region where
  inst : Nat
  kind : Nat
  digest : List Byte
  /-- A re-cast in progress: byte ranges that have arrived, and their bytes. -/
  recast : Option (List (Nat × Nat) × Tbl Byte)
  deriving DecidableEq, Repr

/-- An adapter record (Tab. 11.9). -/
structure Adapter where
  ctl : Ctl
  bound : Bool
  cur : Nat
  inst : Nat
  tenant : Nat
  deriving DecidableEq, Repr

/-- A version slot (Tab. 11.9): factors received, and the handles of A and of B (with α) by layer · 192 + core. -/
structure Version where
  adapter : Nat
  st : Nat
  rank : Nat
  pins : Nat
  alpha : F32
  nu : F32
  nus : Tbl F32
  raw : Tbl (Tbl Byte)
  got : Tbl (List (Nat × Nat))
  hA : Tbl Nat
  hB : Tbl Nat
  deriving DecidableEq, Repr

/-- A layer precision record (Tab. 4.7) with the norm watch and the overflow window (R80, R86). -/
structure LayerRec where
  cap : Nat
  samples : Nat
  burst : Nat
  ovr : Nat
  mu : F32
  v : F32
  sigma : F32
  last : F32
  events : Nat
  raises : Nat
  winOver : Nat
  /-- Tokens of the overflow window (R80). -/
  winTok : Nat
  deriving DecidableEq, Repr

structure CastS where
  insts : Tbl Inst
  regions : Tbl Region
  adapters : Tbl Adapter
  versions : Tbl Version
  /-- By instance · 4,096 + layer. -/
  layers : Tbl LayerRec
  /-- Outlier capacity in force on a core, by core · 2^22 + instance · 4,096 + layer, where it lags (R80). -/
  lagCap : Tbl Nat
  /-- Outlier reserve taken, KiB · 1,024, by cluster. -/
  reserve : Tbl Nat
  /-- Latest comparison record of a layer, by instance · 4,096 + layer: max |Δ| and relative RMS (R85). -/
  comparisons : Tbl (F32 × F32)
  /-- Layers whose step is to be run again in reference mode: instance and layer (R87). -/
  reruns : List (Nat × Nat)
  /-- Requests admitted since the last sampled one, by instance. -/
  sampledSince : Tbl Nat
  /-- Engines of failed casts that wait to be written to zero (R259): core and logical position. -/
  zeros : List (Nat × Nat)
  /-- Value of a precision policy object in force on a core, by core · 2^24 + key, where a write has not reached it (R89). -/
  policyLag : Tbl Nat
  deriving DecidableEq, Repr

/-! ### Fabric (12) -/

/-- A packet (Tab. 12.5): its header's fields, but for the length, and its payload words with their poison. -/
structure Packet where
  dest : Coord
  mcast : Bool
  kind : Nat
  hops : Nat
  src : Coord
  tenant : Tenant
  detoured : Bool
  flow : BitVec 16
  seq : Nat
  count : Nat
  words : List RWord
  deriving DecidableEq, Repr

/-- A held packet of the reorder table (R295): the packet, when it was held, the port it came from. -/
structure HeldPkt where
  pkt : Packet
  at_ : Nat
  port : Nat
  deriving DecidableEq, Repr

/-- A reorder table entry (R295): source, channel, flow, next expected sequence, held packets, last use. -/
structure Reorder where
  src : Coord
  chan : Nat
  flow : BitVec 16
  next : Nat
  held : List HeldPkt
  used : Nat
  deriving DecidableEq, Repr

/-- A fabric port (Tab. 12.11, R282–R289, R302). -/
structure Port where
  enabled : Bool
  mode : Bool
  drained : Bool
  /-- A disable under DRAIN is under way (R301). -/
  draining : Bool
  /-- State code of Tab. 12.11. -/
  st : Nat
  half : Bool
  nbr : Coord
  nbrPort : Nat
  /-- Host bit of the last hello. -/
  host : Bool
  tx : Nat
  epoch : Nat
  /-- Expected neighbour (4012h) as written, else that of Tab. 12.7. -/
  expect : Option Nat
  /-- Sequence of the next packet flit sent; sent flits not yet acknowledged, oldest first. -/
  txSeq : Nat
  retry : List Flit
  /-- Sequence expected next; a retry request is out for it. -/
  rxSeq : Nat
  asked : Bool
  /-- Credits by channel · 16 + class. -/
  credits : Tbl Nat
  /-- Device uptimes of the retries of the last millisecond. -/
  retries : List Nat
  lastFlit : Nat
  lastTime : Nat
  /-- Packets waiting for credits or part way out, by channel, each as the flits left; DATA flits sent since CMD had its
  turn (R283). -/
  queue : Tbl (List (List Flit))
  share : Nat
  /-- Flits of a packet part way in, by channel. -/
  partialIn : Tbl (List Flit)
  /-- Slots of each channel's shared receive buffer whose credits have been given to the sender (R284). -/
  shared : Tbl Nat
  deriving DecidableEq, Repr

structure FabS where
  coord : Coord
  written : Bool
  /-- Strap slot as read; whether the straps have been read since the standby domain started. -/
  slot : BitVec 3
  strapped : Bool
  ports : Tbl Port
  reorder : List Reorder
  /-- Links known down by route notices (R297): device and port. -/
  down : List (Coord × Nat)
  unreachable : List Coord
  /-- Echoes sent and not answered: device, device uptime. -/
  echoes : List (Coord × Nat)
  /-- Next sequence per destination, channel and flow of the packets this device originates (R295). -/
  seqs : List (Coord × Nat × BitVec 16 × Nat)
  /-- Offset to the parent, exchanges within 50 ns, lock, whether the step after the coordinate write is past, and what is
  left to slew with the time it has had for it (R302, R303). -/
  offset : Int
  good : Nat
  locked : Bool
  stepped : Bool
  slew : Int
  slewTime : Nat
  deriving DecidableEq, Repr

/-! ### Synchronisation (13) -/

/-- A physical sync object (R308). -/
structure SyncObj where
  value : Word
  arrivals : Nat
  barrier : Nat
  gen : Nat
  tenant : Nat
  context : Nat
  vid : Nat
  lost : Bool
  deriving DecidableEq, Repr

/-- A waiter (R315): object, what it awaits, who: a core with its elastic operation, or a device with a reference. -/
structure Waiter where
  obj : Nat
  arrive : Bool
  value : Word
  gen : Nat
  core : Option (Nat × Nat)
  dev : Coord
  ref : Nat
  deriving DecidableEq, Repr

/-- A remote wait or arrive this device has out (R313, R315). -/
structure RemoteOp where
  ident : Nat
  core : Nat
  op : Nat
  dest : Coord
  msg : SyncMsg
  retryAt : Option Nat
  deriving DecidableEq, Repr

structure SyncS where
  objs : Tbl SyncObj
  /-- Alias table by index (Tab. 13.2): the holding device and the object there. Translation entries stand in the
  contexts' tables in the scratchpad. -/
  aliases : Tbl (Coord × Nat)
  waiters : List Waiter
  remote : List RemoteOp
  /-- The model's own number of the next operation sent; 0 is one that no step awaits (log 124). -/
  nextRef : Nat
  deriving DecidableEq, Repr

/-! ### Dictionary (14) -/

/-- An accepted counter in a replay window (R335). -/
structure WinEnt where
  counter : Nat
  obj : Nat
  digest : BitVec 128
  status : Nat
  payload : List Byte
  client : Option Nat
  deriving DecidableEq, Repr

/-- A key slot (R332, R334, R338). -/
structure KeySlot where
  tenant : Nat
  source : Coord
  key : List Byte
  last : Nat
  window : List WinEnt
  deriving DecidableEq, Repr

/-- An open transfer (R330). -/
structure Transfer where
  tenant : Nat
  source : Coord
  tag : BitVec 16
  obj : Nat
  counter : Nat
  total : Nat
  digest : BitVec 128
  segs : List (Nat × BitVec 128 × List Byte)
  last : Nat
  /-- A transfer whose first segment was a duplicate: everything is answered as repeated (R334). -/
  dup : Bool
  deriving DecidableEq, Repr

/-- A read latch (R331). -/
structure Latch where
  source : Coord
  tag : BitVec 16
  obj : Nat
  value : List Byte
  last : Nat
  deriving DecidableEq, Repr

structure DictS where
  keys : Tbl KeySlot
  transfers : List Transfer
  latches : List Latch
  /-- Tenants defined besides tenant 0. -/
  tenants : List Nat
  /-- Contexts in use: context and tenant, with the handle of its translation table. -/
  contexts : Tbl (Nat × Nat)
  /-- Subscriptions: source and tenant by entry. -/
  subs : Tbl (Coord × Nat)
  /-- Notification log: records, oldest first, at most 256. -/
  log : List (Nat × List Byte)
  nextSeq : Nat
  ack : Option Nat
  /-- Check failures of the last second: source and device uptime (R332). -/
  failures : List (Coord × Nat)
  deriving DecidableEq, Repr

/-! ### Security (15) -/

/-- Identity, boot and attestation. The identity store's fixed items are constants of Config; the two it writes stand
here. -/
structure SecS where
  leafCounter : Nat
  floor : Nat
  /-- The envelope under verification and the write it answers, none when it was pulled (R349). -/
  verifying : Option (List Byte × Option Req)
  /-- The running image's envelope; empty when none runs. -/
  running : List Byte
  rejected : Nat
  unlocked : Bool
  /-- Top leaf and bottom tree of this boot, once attestation is ready, and the bottom leaves used (R352, R353). -/
  topLeaf : Nat
  bottom : Option Nat
  leaves : Nat
  attReady : Bool
  attOff : Bool
  /-- Evidence by tenant and source, oldest request first. -/
  evidence : List (Nat × Coord × List Byte)
  /-- Port asked in the pull under way, and device uptime of the latest pull's start. -/
  pullPort : Option Nat
  pullAt : Nat
  /-- Bytes of the neighbour's image that have come so far. -/
  pullGot : List Byte
  deriving DecidableEq, Repr

/-! ### Reliability (16) -/

/-- An error record (Tab. 16.1): time of the first occurrence, words w2 to w6, kind, detail, count. -/
structure ErrRec where
  time : Nat
  w2 : Nat
  w3 : Nat
  w4 : Nat
  w5 : Nat
  w6 : Nat
  kind : Nat
  detail : Nat
  count : Nat
  deriving DecidableEq, Repr

/-- A slice of a pass (R361): a slice of an installed pack (pack identifier, index) or a built-in scan segment. -/
inductive SliceId where
  | pack (ident version ix : Nat)
  | scan (seg : Nat)
  deriving DecidableEq, Repr

/-- A core's health record (Tab. 16.4) and its test pass (R361, R362): the record's bits (Field-test, Logic-scan, Memory,
Restore, Retest pending), slices done, when the open pass opened and when the next is due (device uptime in ns), passes
completed, position of the last failing slice, the slices left, whether the pass is overdue, when the next reservation may
be made, whether one stands, slices to be run again before retirement, failures and failing buffer words the health
function has not read, whether a position has no usable engine (R52, R65). -/
structure Health where
  enabled : Bool
  mode : Bool
  drained : Bool
  retired : Bool
  flags : BitVec 5
  done : Nat
  openAt : Option Nat
  passDue : Option Nat
  completed : Nat
  failing : Nat
  slices : List SliceId
  overdue : Bool
  spacing : Nat
  reserved : Bool
  retest : List SliceId
  news : List SliceId
  badWords : List Nat
  noEngine : Bool
  deriving DecidableEq, Repr

/-- A slice in progress on a core (R363): the slice, its number on the scoreboard, whether its reservation made it run,
the cycle at which it was placed, and whether its scoreboard entries are taken. -/
structure SliceRun where
  slice : SliceId
  ident : Nat
  reserved : Bool
  at_ : Nat
  started : Bool
  deriving DecidableEq, Repr

/-- An installed spore pack (R366, R367). -/
structure Pack where
  ident : Nat
  version : Nat
  stepping : Nat
  bytes : List Byte
  removed : Bool
  /-- Reserve handles that hold it, by cluster (R161). -/
  handles : Tbl Nat
  deriving DecidableEq, Repr

/-- A replica set (R374) with what the scan keeps (R375, R376). -/
structure Replica where
  members : List Coord
  enabled : Bool
  raw : List Byte
  scanning : Option Nat
  roundsAt : Nat
  mine : List (Nat × List Byte)
  mineAt : Nat
  latest : List DigestMsg
  deriving DecidableEq, Repr

structure RelS where
  log : List ErrRec
  health : Tbl Health
  runs : Tbl SliceRun
  /-- Save area of a cluster (R363): its reserve handle. -/
  saveAreas : Tbl Nat
  /-- Outlier reserve of a cluster (R80, R161). -/
  outliers : Tbl Nat
  /-- Memory tiles (cluster · 16 + unit) and tables (256 and up) that a memory BIST flagged (R369). -/
  unitFlags : List Nat
  packs : List Pack
  replicas : Tbl Replica
  deriving DecidableEq, Repr

/-! ### Power and thermal (17) -/

/-- Power stage, telemetry, thermal model and governor. -/
structure PwrS where
  /-- The core rails are on; PGOOD; THERM_TRIP_N is latched. -/
  rails : Bool
  pgood : Bool
  trip : Bool
  /-- Input state 2001h.06. -/
  input : Nat
  /-- PS_SYNC: locked, on the internal oscillator since a loss, period of the switching edges in ns. -/
  locked : Bool
  lost : Bool
  period : Nat
  /-- Sequence in force and as written for the next start of entry 0 (R385). -/
  seq : List Nat
  ctl : Nat
  seqPend : Option (List Nat)
  ctlPend : Option Nat
  /-- Next entry, pass, waiting urgent requests (R386, R387). -/
  position : Nat
  pass : Nat
  urgent : List Nat
  /-- Result registers by entry, four words each; latest code by channel; corrections by channel. -/
  results : Tbl (List Nat)
  latest : Tbl Nat
  corr : Tbl Nat
  /-- Model nodes, the diode readings they were seeded from, when, and the model's rate (R390–R394). -/
  nodes : Tbl F32
  seed : Option (List F32)
  seedAt : Nat
  converged : Bool
  fast : Bool
  coolSince : Option Nat
  updAt : Nat
  anchorAt : Nat
  /-- Governor (R395, R396): energy above sustained, full pause, fractions in 1/256. -/
  energy : F32
  full : Bool
  checkAt : Option Nat
  phiP : Nat
  phiT : Tbl Nat
  phi : Tbl Nat
  deriving DecidableEq, Repr

/-! ### Clocks and bring-up (18), sideband and TAP (19) -/

/-- A cluster record (Tab. 18.6): state code, Park, failure cause, resets, ready time in µs, cores that failed at
power-up, attention core, tiles passed, wakes. -/
structure Cluster where
  st : Nat
  park : Bool
  cause : Nat
  resets : Nat
  readyUs : Nat
  coresFailed : BitVec 12
  attn : Bool
  tiles : BitVec 3
  wakes : Nat
  deriving DecidableEq, Repr

/-- Ready, running or parked. -/
def Cluster.ready (k : Cluster) : Bool := decide (k.st = 4 ∨ k.st = 5)

/-- Its power-up calibration has begun (R53). -/
def Cluster.calibrated (k : Cluster) : Bool := decide (k.st = 3 ∨ k.st = 4 ∨ k.st = 5)

/-- A clock crossing (R402, R405): the queue toward the resetting side and the one from it, each word with its poison and
how many words of its packet follow it; phase of the handshake 0 running, 1 acknowledged, 2 pointers zeroed; sink mode at the other
side's end. -/
structure Crossing where
  phase : Nat
  sink : Bool
  toward : List (Word × Bool × Nat)
  back : List (Word × Bool × Nat)
  deriving DecidableEq, Repr

structure ClkS where
  /-- Nanoseconds of device uptime; the cycle count is 13 per 10 ns. -/
  up : Nat
  /-- Device time in ns (64 bits). -/
  time : BitVec 64
  /-- Uptime at the reset of the management domain. -/
  resetUp : Nat
  refOk : Bool
  /-- Readiness bits of 3000h.01. -/
  ready : BitVec 7
  clusters : Tbl Cluster
  /-- Clusters named by a cluster reset and not yet ready again; those not yet drained. -/
  resetting : BitVec 16
  draining : BitVec 16
  crossings : Tbl Crossing
  deriving DecidableEq, Repr

/-- Sideband PHY: carrier, beacon seen, PLCA active, burst count and transmit opportunity timer in force (R422, R429). -/
structure SideS where
  carrier : Bool
  beacon : Bool
  active : Bool
  burst : Nat
  timer : Nat
  deriving DecidableEq, Repr

/-- TAP: instruction (0 BYPASS, 1 IDCODE, 2 SAMPLE/PRELOAD, 3 EXTEST, 4 private) and boundary register. -/
structure TapS where
  ir : Nat
  bsr : BitVec 16
  deriving DecidableEq, Repr

/-- Everything of the block but its queue. -/
structure Device where
  clk : ClkS
  /-- The model's own counter behind free values. -/
  free : Nat
  out : List OutMsg
  /-- Scalar objects that differ from their defaults, by index · 256 + sub-index. -/
  regs : Tbl Nat
  /-- Counters (RO, U64, saturating), by index · 256 + sub-index. -/
  ctrs : Tbl Nat
  cim : Cim
  mem : MemS
  attn : AttnS
  serv : ServS
  cast : CastS
  fab : FabS
  sync : SyncS
  dict : DictS
  sec : SecS
  rel : RelS
  pwr : PwrS
  side : SideS
  tap : TapS
  deriving DecidableEq, Repr

/-- What no reset of the block reaches: whether the supply runs the standby domain (R380, R419), whether RST_N is low. -/
structure Supply where
  standby : Bool
  rstLow : Bool
  deriving DecidableEq, Repr

/-- The machine: commands waiting, first in first out, its supply and reset pin, and the block. -/
structure State where
  pending : List Instr
  sup : Supply
  dev : Device
  deriving DecidableEq, Repr

/-- Why the machine stops on a fault. -/
inductive Fault where
  /-- Raised by no command of this model: every fault the spec names for the Dyura is a next state (a poisoned word, an
  error record, a failed step). Kept so that the outcome type is inhabited; raising it would be safe. -/
  | none
  deriving DecidableEq, Repr

/-- Why a command has no meaning. -/
inductive Refusal where
  /-- A command that has no meaning yet, by its mnemonic. Safe: the machine stops. -/
  | notModelled (mnemonic : String)
  /-- TAP_PRIVATE after a diagnostic unlock (R423, R355): the spec gives the private instructions no effect. Safe. -/
  | privateTap (code : Nat)
  deriving DecidableEq, Repr

/-! ### Reset values -/

def Core.reset : Core :=
  { gi := 0, go := 5, acc := [], osum := [], stage := [], q := [], olist := [], oinfo := ⟨0, false⟩, held := none,
    ea := none, uc := [], ua := [], uaLayer := 0, topk := ⟨[], none, false, .none⟩,
    samp := ⟨f32NegInf, 0#32, [], false, .none, false⟩, loops := [] }

def Plan.zero : Plan := ⟨0, 0, 0#32, none, false, false, none, [], 0, []⟩

def Seq.reset : Seq :=
  { phase := .idle, plan := Plan.zero, word := 0, rows := [], start := 0, prev := 0, flags := 0#16,
    status := 0, ended := false, poisoned := [], poisonAll := false, done := 0, resv := [], flight := [],
    tags := [], landing := [], wait := none, pause := none, board := [], ops := [], nextOp := 0, norms := [],
    reads := [] }

def CoreAux.reset : CoreAux :=
  { committed := 0, plans := [], calReserved := false, pauseEnd := 0, next := 0, plinthAt := 0,
    monPos := 0, monSlots := 0, mon := [], monBase := [], route := none }

def CimCore.reset : CimCore := ⟨Core.reset, Seq.reset, CoreAux.reset⟩

/-- A physical engine after reset: engine 32 of a core is the spare (R48). -/
def Engine.reset (e : Nat) : Engine :=
  { cells := [], scales := [], width := 0, cls := 0, st := if e = 32 then 1 else 0, pos := if e = 32 then 0 else e,
    steer := [], comps := [], ladders := [], spares := [], disabled := 0#1024, retired := [], fails := [],
    badCounts := [], queue := [], rot := none, calAt := 0, accepted := [], stale := [], next := 0, lfsr := 0xFFFF#16,
    replacing := false, slots := [], work := [], usable := true, use := none }

def Cim.reset : Cim := ⟨[], [], [], 0⟩

def Limits.reset (t : Nat) : Limits :=
  if t = 0 then ⟨8191, 524288, 524288, 65535, 2048, 16384⟩ else ⟨64, 16384, 131072, 1024, 16, 256⟩

def MemS.reset : MemS :=
  { m := ⟨[], [], []⟩, handles := [], lost := [], scrub := [], patrol := [], passes := [], asked := [], starts := [],
    windows := [], combined := [], limits := [], detours := [], queues := [] }

def Attn.reset : Attn := ⟨[], none, [], [], []⟩

def AttnS.reset : AttnS :=
  { units := [], pages := [], deadPages := [], frames := [], kvUse := [], asked := [], lost := [], windows := [], written := [] }

def Ctl.reset : Ctl := ⟨true, false⟩

def Profile.reset : Profile := ⟨f32One, f32One, 0, 0xFFFFFFFF⟩

def ServS.reset : ServS :=
  { reqs := [], aux := [], rounds := [], tenants := [], insts := [], profiles := [], experts := [], roundCount := [] }

def Inst.absent : Inst :=
  { state := 0, tenant := 0, cls := 0, policy := false, status := 0, layers := 0, front := 0, gen := 0, maqH := 0,
    maq := none, job := none, progH := [], regH := [], digests := [] }

def Adapter.reset : Adapter := ⟨Ctl.reset, false, 0, 0, 0⟩

def Version.free : Version := ⟨0, 0, 0, 0, 0#32, 0#32, [], [], [], [], []⟩

def LayerRec.zero : LayerRec := ⟨0, 0, 0, 0, 0#32, 0#32, 0#32, 0#32, 0, 0, 0, 0⟩

def CastS.reset : CastS :=
  { insts := [], regions := [], adapters := [], versions := [], layers := [], lagCap := [], reserve := [],
    comparisons := [], reruns := [], sampledSince := [], zeros := [], policyLag := [] }

def Port.reset : Port :=
  { enabled := true, mode := false, drained := false, draining := false, st := 0, half := false, nbr := 0#18,
    nbrPort := 0, host := false, tx := 0, epoch := 0, expect := none, txSeq := 0, retry := [], rxSeq := 0, asked := false,
    credits := [], retries := [], lastFlit := 0, lastTime := 0, queue := [], share := 0, partialIn := [],
    shared := [] }

def FabS.reset : FabS :=
  { coord := 0#18, written := false, slot := 0#3, strapped := false, ports := [], reorder := [], down := [],
    unreachable := [], echoes := [], seqs := [], offset := 0, good := 0, locked := false, stepped := false, slew := 0,
    slewTime := 0 }

def SyncS.reset : SyncS := ⟨[], [], [], [], 1⟩

def DictS.reset : DictS :=
  { keys := [], transfers := [], latches := [], tenants := [], contexts := [], subs := [], log := [], nextSeq := 0,
    ack := none, failures := [] }

def SecS.reset : SecS :=
  { leafCounter := 0, floor := 0, verifying := none, running := [], rejected := 0, unlocked := false, topLeaf := 0,
    bottom := none, leaves := 0, attReady := false, attOff := false, evidence := [], pullPort := none, pullAt := 0,
    pullGot := [] }

def Health.reset : Health :=
  { enabled := true, mode := false, drained := false, retired := false, flags := 0#5, done := 0, openAt := none,
    passDue := none, completed := 0, failing := 0, slices := [], overdue := false, spacing := 0, reserved := false,
    retest := [], news := [], badWords := [], noEngine := false }

def Replica.reset : Replica :=
  { members := [], enabled := false, raw := [], scanning := none, roundsAt := 0, mine := [], mineAt := 0, latest := [] }

def RelS.reset : RelS := ⟨[], [], [], [], [], [], [], []⟩

/-- Default sequence entries (Tab. 17.4). -/
def seqDefault : List Nat := [0x5410, 0x9832, 0xDC76, 0xFFBA] ++ List.replicate 12 0xFFFF

def PwrS.reset : PwrS :=
  { rails := false, pgood := false, trip := false, input := 0, locked := false, lost := false,
    period := 1000, seq := seqDefault, ctl := 0x283, seqPend := none, ctlPend := none, position := 0, pass := 0,
    urgent := [], results := [], latest := [], corr := [], nodes := [], seed := none, seedAt := 0, converged := false,
    fast := false, coolSince := none, updAt := 0, anchorAt := 0, energy := 0#32, full := false, checkAt := none,
    phiP := 0, phiT := [], phi := [] }

def Cluster.reset : Cluster :=
  { st := 0, park := false, cause := 0, resets := 0, readyUs := 0, coresFailed := 0#12, attn := false, tiles := 0#3,
    wakes := 0 }

def Crossing.reset : Crossing := ⟨0, false, [], []⟩

def ClkS.reset : ClkS :=
  { up := 0, time := 0#64, resetUp := 0, refOk := false, ready := 0#7, clusters := [],
    resetting := 0#16, draining := 0#16, crossings := [] }

def SideS.reset : SideS := ⟨false, false, false, 0, 32⟩

def TapS.reset : TapS := ⟨1, 0#16⟩

def Device.reset : Device :=
  { clk := ClkS.reset, free := 0, out := [], regs := [], ctrs := [], cim := Cim.reset, mem := MemS.reset,
    attn := AttnS.reset, serv := ServS.reset, cast := CastS.reset, fab := FabS.reset, sync := SyncS.reset,
    dict := DictS.reset, sec := SecS.reset, rel := RelS.reset, pwr := PwrS.reset, side := SideS.reset,
    tap := TapS.reset }

/-- The machine right after the reset of the management domain at POWER_ON: the standby domain runs, the core rails
are off, no cluster is powered, and no command waits. -/
def State.reset : State := { pending := [], sup := ⟨true, false⟩, dev := Device.reset }

end Sys2Proof.Machine
end

