-- ==== Sys2Proof/Machine/Base.lean ====
section
/-!
DEFINITION. The plainest operations on the block: its outcome, time, scalar objects, counters, free values, what it sends.
-/
namespace Sys2Proof.Machine

/-! ### Outcomes -/

/-- The standby domain runs and RST_N is high: the block acts. Otherwise its functions are unpowered or held in reset
(R407, R419), and a command finds nothing that acts on it. -/
def State.alive (s : State) : Bool := s.sup.standby && !s.sup.rstLow

/-- A command that leaves the supply as `g` and whose effect on the block is `f`; the queue stays as it is. -/
def State.supplied (s : State) (g : Supply) (f : Device → Device) : Host.Outcome State Fault Refusal :=
  .next { s with sup := g, dev := f s.dev }

/-- A command whose effect on the block is `f`, whatever its power and resets. -/
def State.always (s : State) (f : Device → Device) : Host.Outcome State Fault Refusal := s.supplied s.sup f

/-- A command whose effect on the running block is `f`. -/
def State.lift (s : State) (f : Device → Device) : Host.Outcome State Fault Refusal :=
  s.always (fun d => if s.alive then f d else d)

/-- A command to the power stage, which RST_N does not reset (Tab. 18.4): while RST_N is low nothing but the stage acts. -/
def State.liftStage (s : State) (f : Device → Device) : Host.Outcome State Fault Refusal :=
  s.always (fun d =>
    if !s.sup.standby then d else if s.sup.rstLow then { d with pwr := (f d).pwr } else f d)

/-! ### Time -/

/-- Arithmetic cycles since the standby domain started: 13 per 10 ns (R401). -/
def Device.cyc (d : Device) : Nat := d.clk.up * 13 / 10

/-- Nanoseconds after which `c` cycles have passed. -/
def cycToNs (c : Nat) : Nat := (c * 10 + 12) / 13

/-- What device time slews in the next `n` ns (R303: at most 100 ppm; how much is open), and what is left of the slew with
the time that has not yet been used for it. -/
def FabS.slewIn (f : FabS) (up n : Nat) : Int × FabS :=
  let acc := f.slewTime + n
  let m := Config.slew up % (min (acc / 10000) f.slew.natAbs + 1)
  let x : Int := if f.slew < 0 then -(m : Int) else m
  (x, { f with slew := f.slew - x, slewTime := acc % 10000 })

/-- Moves time on by `n` ns (R8: device time is 64 bits), with its slew (R303). -/
def Device.advance (d : Device) (n : Nat) : Device :=
  if d.fab.slew = 0 then
    { d with clk := { d.clk with up := d.clk.up + n, time := d.clk.time + BitVec.ofNat 64 n } }
  else
    let s := d.fab.slewIn d.clk.up n
    { d with fab := s.2,
             clk := { d.clk with up := d.clk.up + n, time := d.clk.time + BitVec.ofNat 64 n + BitVec.ofInt 64 s.1 } }

/-- Time has reached uptime `u`: an event that is due then has happened no earlier. -/
def Device.reach (d : Device) (u : Nat) : Device := d.advance (u - d.clk.up)

/-- Time has reached arithmetic cycle `c`. -/
def Device.reachCyc (d : Device) (c : Nat) : Device := d.reach (cycToNs c)

/-- Nothing waits: one period of REFCLK, 10 ns, passes while the standby domain runs (R398). -/
def tick (s : State) : Host.Outcome State Fault Refusal :=
  s.always (fun d => if s.sup.standby then d.advance 10 else d)

/-! ### Objects, counters, free values -/

/-- Key of an object: index · 256 + sub-index. -/
def key (index sub : Nat) : Nat := index * 256 + sub

/-- Value of a scalar object. -/
def Device.reg (d : Device) (k : Nat) : Nat := (Tbl.find? d.regs k).getD (objDefault k)

/-- Sets a scalar object; its default stays unlisted. -/
def Device.setReg (d : Device) (k v : Nat) : Device :=
  { d with regs := Tbl.set (objDefault k) d.regs k v }

def Device.ctr (d : Device) (k : Nat) : Nat := Tbl.get 0 d.ctrs k

/-- Raises a counter by `n`; counters do not wrap. -/
def Device.bump (d : Device) (k n : Nat) : Device :=
  { d with ctrs := Tbl.set 0 d.ctrs k (min (2 ^ 64 - 1) (d.ctr k + n)) }

/-- A fresh free value. -/
def Device.fresh (d : Device) : BitVec 64 × Device :=
  (Config.freeValue d.free, { d with free := d.free + 1 })

def Device.send (d : Device) (m : OutMsg) : Device := { d with out := d.out ++ [m] }

def Device.sendAll (d : Device) (ms : List OutMsg) : Device := { d with out := d.out ++ ms }

end Sys2Proof.Machine
end

