-- ==== Sys2Proof/Machine/Links.lean ====
section
/-!
DEFINITION. The sending side of the fabric (12): coordinates and wiring (R287), the states of links (R297), routing,
gateways, classes and detours (R290–R292, R299), packets and flits (R280–R282), credits and the order in which a port sends
(R283, R284). A packet is sent as far as its credits reach at once; the rest waits in the port's queue.
-/
namespace Sys2Proof.Machine

/-! ### Coordinates (Tab. 0.2) -/

def mkCoord (pod rack quad slot : Nat) : Coord :=
  BitVec.ofNat 18 (slot % 8 + 8 * (quad % 8) + 64 * (rack % 16) + 1024 * (pod % 256))

def cPod (c : Coord) : Nat := bits c.toNat 17 10
def cRack (c : Coord) : Nat := bits c.toNat 9 6
def cQuad (c : Coord) : Nat := bits c.toNat 5 3
def cSlot (c : Coord) : Nat := bits c.toNat 2 0

/-- Rack index i and pod index j. -/
def rackIx (c : Coord) : Nat := cQuad c * 4 + cSlot c
def podIx (c : Coord) : Nat := cRack c * 32 + rackIx c

/-- The device of a rack or a pod with an index. -/
def rackDev (pod rack i : Nat) : Coord := mkCoord pod rack (i / 4) (i % 4)
def podDev (pod j : Nat) : Coord := rackDev pod (j / 32) (j % 32)

/-! ### Wiring (R287, Tab. 12.7) -/

/-- A port's neighbour and the port there by the table; none for an unwired port. The host endpoint's port is not named. -/
def wiredTo (o : Coord) (p : Nat) : Option (Coord × Nat) :=
  if cSlot o > 3 then none
  else if p < 3 then some (mkCoord (cPod o) (cRack o) (cQuad o) (cSlot o ^^^ (p + 1)), p)
  else if p = 3 then
    if cSlot o = 0 then some (mkCoord (cPod o) (cRack o) (cQuad o) 4, 3)
    else some (mkCoord (cPod o) (cRack o) (cQuad o ^^^ 1) (cSlot o), 3)
  else if p = 4 then some (mkCoord (cPod o) (cRack o) (cQuad o + 1) (cSlot o), 5)
  else if p = 5 then some (mkCoord (cPod o) (cRack o) (cQuad o + 7) (cSlot o), 4)
  else if p = 6 then
    let i := rackIx o
    if i ≤ 29 then some (rackDev (cPod o) (cRack o + 1 + i / 2) (2 * (14 - i / 2) + i % 2), 6) else none
  else
    let j := podIx o
    if j ≤ 509 then some (podDev (cPod o + 1 + j / 2) (2 * (254 - j / 2) + j % 2), 7) else none

def Device.port (d : Device) (p : Nat) : Port := Tbl.get Port.reset d.fab.ports p

def Device.setPort (d : Device) (p : Nat) (x : Port) : Device :=
  { d with fab := { d.fab with ports := Tbl.set Port.reset d.fab.ports p x } }

def Device.modPort (d : Device) (p : Nat) (f : Port → Port) : Device := d.setPort p (f (d.port p))

/-- A port's expected neighbour: as written in 4012h, else by the table. -/
def Device.expected (d : Device) (p : Nat) : Option (Coord × Nat) :=
  match (d.port p).expect with
  | some w => if bit w 21 then none else some (BitVec.ofNat 18 (bits w 17 0), bits w 20 18)
  | none => wiredTo d.fab.coord p

/-- B3 of slot 0 is the host port (R279). -/
def Device.isHostPort (d : Device) (p : Nat) : Bool := decide (p = 3) && decide (cSlot d.fab.coord = 0)

/-- B3 is wired, by the table or as written, to a twin: a device of the other quad of the pair (R287). -/
def Device.twinPort (d : Device) : Bool :=
  let o := d.fab.coord
  match d.expected 3 with
  | none => false
  | some n => !d.isHostPort 3 && decide (cSlot n.1 < 4 ∧ cQuad n.1 = cQuad o ^^^ 1 ∧ cRack n.1 = cRack o ∧ cPod n.1 = cPod o)

/-- Role of a port (Tab. 12.11): 0 fabric, 1 host, 2 twin, 3 unwired. -/
def Device.role (d : Device) (p : Nat) : Nat :=
  if (d.expected p).isNone then 3 else if p ≠ 3 then 0 else if d.isHostPort p then 1 else if d.twinPort then 2 else 0

/-! ### The states of links (R297, R301) -/

/-- An own port carries traffic: it is up and no drain has taken routes off it. -/
def Device.portUp (d : Device) (p : Nat) : Bool :=
  let x := d.port p
  decide (x.st = 3) && !x.draining

/-- The link at a port of a device is known to be down, at either end. -/
def Device.linkDown (d : Device) (dev : Coord) (p : Nat) : Bool :=
  if dev = d.fab.coord then !d.portUp p
  else d.fab.down.contains (dev, p) ||
    (match wiredTo dev p with
     | none => true
     | some n => if n.1 = d.fab.coord then !d.portUp n.2 else d.fab.down.contains n)

/-! ### Routing (R290, R291) -/

/-- Where a packet goes. -/
inductive Exit where
  | here
  | port (p : Nat)
  /-- Both gateways toward a rack or a pod are down. -/
  | noRack (rack : Nat)
  | noPod (pod : Nat)
  | none
  deriving DecidableEq, Repr

def Device.creditsAt (d : Device) (p chan cls : Nat) : Nat := Tbl.get 0 (d.port p).credits (chan * 16 + cls)

/-- The gateway of a pair that R291 names, if one of the two is up: `exit` gives the port toward a gateway. -/
def Device.gateway (d : Device) (chan cls f xp : Nat) (dev : Nat → Coord) (exit : Coord → Exit) : Option Nat :=
  let up := fun (g : Nat) => !d.linkDown (dev g) xp
  let cr : Nat → Nat := fun g =>
    match (if dev g = d.fab.coord then Exit.port xp else exit (dev g)) with
    | .port p => d.creditsAt p chan cls
    | _ => 0
  let g := if chan = 3 then (if cr 0 < cr 1 then 1 else 0) else f
  if up g then some g else if up (1 - g) then some (1 - g) else none

/-- Routes within a quad and along the ring of a rack. -/
def Device.exitRack (d : Device) (dest : Coord) : Exit :=
  let o := d.fab.coord
  if cQuad dest ≠ cQuad o then
    if decide (cQuad dest = cQuad o ^^^ 1) && d.twinPort && d.portUp 3 then .port 3
    else if (cQuad dest + 8 - cQuad o) % 8 ≤ 4 then .port 4
    else .port 5
  else if cSlot dest > 4 then .none
  else
    let e := if cSlot dest = 4 then 0 else cSlot dest
    if e = cSlot o then (if cSlot dest = 4 then .port 3 else .here)
    else .port ((cSlot o ^^^ e) - 1)

/-- Routes to another rack of the pod. -/
def Device.exitPod (d : Device) (chan cls f : Nat) (dest : Coord) : Exit :=
  let o := d.fab.coord
  if cRack dest ≠ cRack o then
    let dev := fun (g : Nat) => rackDev (cPod o) (cRack o) (2 * ((cRack dest + 15 - cRack o) % 16) + g)
    match d.gateway chan cls f 6 dev d.exitRack with
    | none => .noRack (cRack dest)
    | some g => if dev g = o then .port 6 else d.exitRack (dev g)
  else d.exitRack dest

/-- R290 with the gateways of R291. -/
def Device.exitFor (d : Device) (chan cls f : Nat) (dest : Coord) : Exit :=
  let o := d.fab.coord
  if cPod dest ≠ cPod o then
    let dev := fun (g : Nat) => podDev (cPod o) (2 * ((cPod dest + 255 - cPod o) % 256) + g)
    match d.gateway chan cls f 7 dev (d.exitPod chan cls f) with
    | none => .noPod (cPod dest)
    | some g => if dev g = o then .port 7 else d.exitPod chan cls f (dev g)
  else d.exitPod chan cls f dest

/-- The device of the own rack that a route to another rack heads for: the gateway of R291, or the destination itself. -/
def Device.headPod (d : Device) (chan cls f : Nat) (dest : Coord) : Coord :=
  let o := d.fab.coord
  if cRack dest ≠ cRack o then
    let dev := fun (g : Nat) => rackDev (cPod o) (cRack o) (2 * ((cRack dest + 15 - cRack o) % 16) + g)
    match d.gateway chan cls f 6 dev d.exitRack with
    | none => dest
    | some g => dev g
  else dest

/-- The device of the own rack that a route heads for. -/
def Device.headFor (d : Device) (chan cls f : Nat) (dest : Coord) : Coord :=
  let o := d.fab.coord
  if cPod dest ≠ cPod o then
    let dev := fun (g : Nat) => podDev (cPod o) (2 * ((cPod dest + 255 - cPod o) % 256) + g)
    match d.gateway chan cls f 7 dev (d.exitPod chan cls f) with
    | none => dest
    | some g => d.headPod chan cls f (dev g)
  else d.headPod chan cls f dest

/-! ### Detours (R299, Tab. 12.9) -/

/-- The ring path of a slot plane from quad `a` to quad `b` is up in a direction, `n` hops on. -/
def Device.planeUp (d : Device) (slot b : Nat) (clockwise : Bool) : Nat → Nat → Bool
  | _, 0 => false
  | a, n + 1 =>
    if a % 8 = b then true
    else
      let o := d.fab.coord
      !d.linkDown (mkCoord (cPod o) (cRack o) a slot) (if clockwise then 4 else 5) &&
        d.planeUp slot b clockwise (if clockwise then a + 1 else a + 7) n

/-- The plane of a slot reaches a quad, in either direction. -/
def Device.planeReaches (d : Device) (slot q : Nat) : Bool :=
  d.planeUp slot q true (cQuad d.fab.coord) 9 || d.planeUp slot q false (cQuad d.fab.coord) 9

/-- The lowest other slot of the quad, reached over an up B link, that `ok` accepts. -/
def Device.viaSlot (d : Device) (ok : Nat → Bool) : Option Nat :=
  let s := cSlot d.fab.coord
  ((List.range 4).find? (fun x => decide (x ≠ s) && d.portUp ((s ^^^ x) - 1) && ok x)).map (fun x => (s ^^^ x) - 1)

/-- The lowest rack counting upward from `b` + 1 through which rack `b` is reached. -/
def Device.viaRack (d : Device) (b : Nat) : Option Nat :=
  let o := d.fab.coord
  let up := fun (r s g : Nat) => !d.linkDown (rackDev (cPod o) r (2 * ((s + 15 - r) % 16) + g)) 6
  ((List.range 15).map (fun i => (b + 1 + i) % 16)).find? (fun c =>
    decide (c ≠ cRack o ∧ c ≠ b) && (up (cRack o) c 0 || up (cRack o) c 1) && (up c b 0 || up c b 1))

/-- The lowest pod counting upward from `b` + 1 that the own pod reaches. -/
def Device.viaPod (d : Device) (b : Nat) : Option Nat :=
  let o := d.fab.coord
  let up := fun (c g : Nat) => !d.linkDown (podDev (cPod o) (2 * ((c + 255 - cPod o) % 256) + g)) 7
  ((List.range 255).map (fun i => (b + 1 + i) % 256)).find? (fun c =>
    decide (c ≠ cPod o ∧ c ≠ b) && (up c 0 || up c 1))

/-- The port a routed exit names, when it is up. -/
def Device.upExit (d : Device) : Exit → Option Nat
  | .port p => if d.portUp p then some p else none
  | _ => none

/-- The detour around what keeps a destination from being reached. -/
def Device.detour (d : Device) (chan cls f : Nat) (dest : Coord) (e : Exit) : Option Nat :=
  let o := d.fab.coord
  match e with
  | .noRack b =>
    match d.viaRack b with
    | none => none
    | some c => d.upExit (d.exitPod chan cls f (rackDev (cPod o) c 0))
  | .noPod b =>
    match d.viaPod b with
    | none => none
    | some c => d.upExit (d.exitFor chan cls f (podDev c 0))
  | .port p =>
    if p < 3 then
      let t := cSlot o ^^^ (p + 1)
      d.viaSlot (fun x => decide (x ≠ t) && !d.linkDown (mkCoord (cPod o) (cRack o) (cQuad o) x) ((x ^^^ t) - 1))
    else if p = 4 ∨ p = 5 then
      let q := cQuad (d.headFor chan cls f dest)
      if d.portUp (9 - p) && d.planeUp (cSlot o) q (decide (p = 5)) (cQuad o) 9 then some (9 - p)
      else d.viaSlot (fun x => d.planeReaches x q)
    else none
  | _ => none

/-! ### Packets and flits (R280–R282) -/

/-- The header words of a packet (Tab. 12.5). -/
def Packet.header (k : Packet) : List Nat :=
  [k.dest.toNat + (if k.mcast then 2 ^ 18 else 0) + k.kind * 2 ^ 19 + k.hops * 2 ^ 26,
   k.src.toNat + k.tenant.toNat * 2 ^ 18 + (if k.detoured then 2 ^ 27 else 0),
   k.flow.toNat + k.seq * 65536, (k.words.length - 1) + k.count * 2 ^ 14]

end Sys2Proof.Machine

namespace Sys2Proof

open Sys2Proof.Machine (bits bit leBytes crc32)

/-- A link word's fields. -/
def Flit.type (f : Flit) : Nat := bits f.link.toNat 2 0
def Flit.chan (f : Flit) : Nat := bits f.link.toNat 4 3
def Flit.cls (f : Flit) : Nat := bits f.link.toNat 8 5
def Flit.isFirst (f : Flit) : Bool := bit f.link.toNat 9
def Flit.isLast (f : Flit) : Bool := bit f.link.toNat 10
def Flit.seq (f : Flit) : Nat := bits f.link.toNat 24 11
def Flit.ack (f : Flit) : Nat := bits f.link.toNat 38 25
def Flit.credChan (f : Flit) : Nat := bits f.link.toNat 40 39
def Flit.credCls (f : Flit) : Nat := bits f.link.toNat 44 41
def Flit.credCount (f : Flit) : Nat := bits f.link.toNat 52 45

/-- The CRC over bytes 0–251 (R281). -/
def Flit.sum (f : Flit) : Word :=
  crc32 (leBytes 8 f.link.toNat ++ leBytes 8 f.mask.toNat ++ f.payload.flatMap (fun w => leBytes 4 w.toNat))

/-- A flit a receiver keeps: 59 payload words, CRC right, type listed. -/
def Flit.intact (f : Flit) : Bool :=
  decide (f.payload.length = 59) && decide (f.crc = f.sum) && decide (f.type ≤ 4)

end Sys2Proof

namespace Sys2Proof.Machine

/-- A flit with its CRC. -/
def sealFlit (link : Nat) (mask : Nat) (ws : List Word) : Flit :=
  let f : Flit := ⟨BitVec.ofNat 64 link, BitVec.ofNat 64 mask, ws, 0#32⟩
  { f with crc := f.sum }

/-- Payload words of a flit from a piece of a packet, filled up with zeros, and its poison mask. -/
def flitWords (ws : List RWord) : List Word := ws.map (·.w) ++ List.replicate (59 - ws.length) 0#32
def flitMask (ws : List RWord) : Nat := (ws.zipIdx).foldl (fun n x => if x.1.poison then n + 2 ^ x.2 else n) 0

/-- A packet as flits of a channel and class; sequence and acknowledge are set when a flit is sent. -/
def Packet.flits (k : Packet) (chan cls : Nat) : List Flit :=
  let ws := k.header.map (fun x => (⟨BitVec.ofNat 32 x, false⟩ : RWord)) ++ k.words
  let ps := chunksOf 59 (ws.length / 59 + 1) ws
  (ps.zipIdx).map (fun x => ⟨BitVec.ofNat 64 (1 + chan * 8 + cls * 32 + (if x.2 = 0 then 512 else 0) +
    (if x.2 + 1 = ps.length then 1024 else 0)), BitVec.ofNat 64 (flitMask x.1), flitWords x.1, 0#32⟩)

/-- The acknowledge value of a port: the last packet flit received in order. -/
def Port.ackValue (x : Port) : Nat := (x.rxSeq + 16383) % 16384

/-- Receive buffer of a port for a channel in flits: B and C ports, X ports (Tab. 12.6). -/
def rxBuffer (p chan : Nat) : Nat := (if p < 6 then [32, 64, 96, 320] else [64, 256, 768, 7104]).getD chan 0

/-- Receive buffer of a port in flits. The retry buffer is as large (R285). -/
def portBuffer (p : Nat) : Nat := rxBuffer p 0 + rxBuffer p 1 + rxBuffer p 2 + rxBuffer p 3

/-- Slots of a channel's receive buffer beyond the 2 that each of the 12 classes has reserved: shared (R284). -/
def rxShared (p chan : Nat) : Nat := rxBuffer p chan - 24

/-! ### Sending (R283–R285) -/

/-- The next flit of a channel may go: a packet waits and a credit of its class is held. -/
def Port.sendable (x : Port) (chan : Nat) : Bool :=
  match Tbl.get [] x.queue chan with
  | (f :: _) :: _ => decide (0 < Tbl.get 0 x.credits (chan * 16 + f.cls))
  | _ => false

/-- The channel whose turn it is: MGMT, SYNC, then CMD and DATA in the ratio 1 : 4. -/
def Port.turn (x : Port) : Option Nat :=
  if x.sendable 0 then some 0
  else if x.sendable 1 then some 1
  else if x.sendable 2 && (!x.sendable 3 || decide (4 ≤ x.share)) then some 2
  else if x.sendable 3 then some 3
  else none

/-- Takes the next flit of a channel off its queue. -/
def Port.pop (x : Port) (chan : Nat) : Option (Flit × Port) :=
  match Tbl.get [] x.queue chan with
  | (f :: fs) :: ps => some (f, { x with queue := Tbl.set [] x.queue chan (if fs.isEmpty then ps else fs :: ps) })
  | _ => none

/-- Sends packet flits while credits and the retry buffer allow. -/
def Device.pump (d : Device) (p : Nat) : Nat → Device
  | 0 => d
  | n + 1 =>
    let x := d.port p
    if x.st ≠ 3 ∨ portBuffer p ≤ x.retry.length then d
    else
      match x.turn with
      | none => d
      | some chan =>
        match x.pop chan with
        | none => d
        | some (f, x') =>
          let g := sealFlit (f.link.toNat + x.txSeq * 2 ^ 11 + x.ackValue * 2 ^ 25) f.mask.toNat f.payload
          let k := chan * 16 + f.cls
          let x'' := { x' with txSeq := (x.txSeq + 1) % 16384, retry := x.retry ++ [g],
                               credits := Tbl.set 0 x.credits k (Tbl.get 0 x.credits k - 1),
                               share := if chan = 2 then 0 else if chan = 3 then x.share + 1 else x.share }
          (((d.setPort p x'').send (.flit p g)).bump (key 0x4030 1) 1).pump p n

/-- Flits that wait at a port. -/
def Port.waiting (x : Port) : Nat := (x.queue.map (fun c => (c.2.map List.length).sum)).sum

def Device.pumpAll (d : Device) (p : Nat) : Device := d.pump p (d.port p).waiting

/-- Puts a packet's flits behind what waits on its channel. -/
def Device.enqueue (d : Device) (p chan : Nat) (fs : List Flit) : Device :=
  let x := d.port p
  (d.setPort p { x with queue := Tbl.set [] x.queue chan (Tbl.get [] x.queue chan ++ [fs]) }).pumpAll p

/-- The class of a packet on its next hop (R292): `g` and `h` as it stands, the exit, whether it detours now. -/
def Device.nextClass (d : Device) (g h p : Nat) (detour : Bool) : Nat :=
  let q := cQuad d.fab.coord
  let ovr := (p = 4 ∧ q = 7) ∨ (p = 5 ∧ q = 0)
  let h := if p ≥ 6 then 0 else if ovr then 1 else h
  2 * (g + if detour then 1 else 0) + h

/-- A packet that finds no route is discarded (R299). -/
def Device.noRoute (d : Device) (chan : Nat) (k : Packet) : Device :=
  let d := d.bump (key 0x4030 7) 1
  if (chan = 1 ∨ chan = 2) ∧ k.src ≠ d.fab.coord then d.send (.noRoute k.src chan k.flow k.seq) else d

/-- Sends a packet on toward a destination: `g` and `h` make up its class so far. Hops left falls by one at each hop. -/
def Device.forward (d : Device) (chan g h : Nat) (to_ : Coord) (k : Packet) : Device :=
  let cls := 2 * g + h
  let f := k.flow.toNat % 2
  let e := d.exitFor chan cls f to_
  let direct := d.upExit e
  let out := match direct with
    | some p => some (p, false)
    | none => if k.detoured then none else (d.detour chan cls f to_ e).map (fun p => (p, true))
  match out with
  | none => d.noRoute chan k
  | some (p, det) =>
    let c := d.nextClass g h p det
    if c ≥ 12 then d.bump (key 0x4030 7) 1
    else
      let d := if det then d.bump (key 0x4030 9) 1 else d
      d.enqueue p chan ({ k with hops := k.hops - 1, detoured := k.detoured || det }.flits chan c)

/-- The next flow sequence of a packet this device originates on CMD or SYNC (R295). -/
def Device.nextSeq (d : Device) (dest : Coord) (chan : Nat) (flow : BitVec 16) : Nat × Device :=
  if chan ≠ 1 ∧ chan ≠ 2 then (0, d)
  else
    let is := fun (e : Coord × Nat × BitVec 16 × Nat) => decide (e.1 = dest ∧ e.2.1 = chan ∧ e.2.2.1 = flow)
    let n := match d.fab.seqs.find? is with | some e => e.2.2.2 | none => 0
    (n, { d with fab := { d.fab with seqs := (d.fab.seqs.filter (fun e => !is e)) ++ [(dest, chan, flow, (n + 1) % 65536)] } })

/-- Originates a unicast packet of whole words (R282). Nothing leaves the device for itself. -/
def Device.originate (d : Device) (chan kind : Nat) (dest : Coord) (tenant : Tenant) (flow : BitVec 16)
    (ws : List RWord) : Device :=
  if dest = d.fab.coord then d
  else
    let s := d.nextSeq dest chan flow
    s.2.forward chan 0 0 dest ⟨dest, false, kind, 63, d.fab.coord, tenant, false, flow, s.1, 0, ws⟩

/-- Bytes as clean whole words. -/
def bytesWords (bs : List Byte) : List RWord :=
  (List.range ((bs.length + 3) / 4)).map (fun i => ⟨BitVec.ofNat 32 (wordAt bs i), false⟩)

/-- Sends an in-band PDU (R326): kind 01h for requests and responses, 02h ECHO, 03h notifications. -/
def Device.sendPdu (d : Device) (chan kind : Nat) (dest : Coord) (tenant : Tenant) (flow : BitVec 16) (bs : List Byte) :
    Device := d.originate chan kind dest tenant flow (bytesWords bs)

/-- Channel of an in-band carrier. -/
def carrierChan : Carrier → Option Nat
  | .mgmt => some 0
  | .cmd => some 2
  | .sideband => none

end Sys2Proof.Machine
end

