-- ==== Sys2Proof/Machine/Ops.lean ====
section
/-!
DEFINITION. The named operations every meaning is built from: cores and engines, memory with its codewords and poison, handles, owner tags, error records, notifications.
-/
namespace Sys2Proof.Machine

/-! ### Cores and engines -/

def Device.core (d : Device) (c : Nat) : CimCore := Tbl.get CimCore.reset d.cim.cores c

def Device.setCore (d : Device) (c : Nat) (x : CimCore) : Device :=
  { d with cim := { d.cim with cores := Tbl.set CimCore.reset d.cim.cores c x } }

def Device.modCore (d : Device) (c : Nat) (f : CimCore → CimCore) : Device := d.setCore c (f (d.core c))

/-- Physical engine `e` of core `c`. -/
def Device.engine (d : Device) (c e : Nat) : Engine := Tbl.get (Engine.reset e) d.cim.engines (c * 33 + e)

def Device.setEngine (d : Device) (c e : Nat) (x : Engine) : Device :=
  { d with cim := { d.cim with engines := Tbl.set (Engine.reset e) d.cim.engines (c * 33 + e) x } }

def Device.modEngine (d : Device) (c e : Nat) (f : Engine → Engine) : Device := d.setEngine c e (f (d.engine c e))

/-- The physical engine at logical position `p` of core `c` (R48): the active one that carries the position. -/
def Device.physAt (d : Device) (c p : Nat) : Nat :=
  let e32 := d.engine c 32
  if e32.st = 0 ∧ e32.pos = p then 32 else p

/-! ### Clusters and readiness -/

def Device.cluster (d : Device) (k : Nat) : Cluster := Tbl.get Cluster.reset d.clk.clusters k

def Device.setCluster (d : Device) (k : Nat) (x : Cluster) : Device :=
  { d with clk := { d.clk with clusters := Tbl.set Cluster.reset d.clk.clusters k x } }

/-- Health record of a core by cluster · 13 + core (R361). -/
def Device.health (d : Device) (i : Nat) : Health := Tbl.get Health.reset d.rel.health i

def Device.setHealth (d : Device) (i : Nat) (x : Health) : Device :=
  { d with rel := { d.rel with health := Tbl.set Health.reset d.rel.health i x } }

/-- Index of CIM core `c` (cluster · 12 + core) among the 208 cores. -/
def anyOfCore (c : Nat) : Nat := c / 12 * 13 + c % 12

/-- The core belongs to a ready cluster, passed power-up and has not stopped (R52, R373). -/
def Device.coreUp (d : Device) (c : Nat) : Bool :=
  let k := d.cluster (c / 12)
  let h := d.health (anyOfCore c)
  k.ready && !(k.coresFailed.getLsbD (c % 12)) && !h.drained

/-! ### Scratchpad addresses (R146, R147) -/

/-- First byte of a unit within its cluster: core buffers 0–11, attention buffer 12, memory tiles 13–15. -/
def unitBase (u : Nat) : Nat :=
  if u < 12 then u * 2 ^ 21 else if u = 12 then 12 * 2 ^ 21 else 2 ^ 25 + (u - 13) * 2 ^ 25

/-- Bytes of a unit. -/
def unitBytes (u : Nat) : Nat := if u < 12 then 2 ^ 21 else if u = 12 then 2 ^ 23 else 2 ^ 25

/-- Rows per bank of a unit. -/
def unitRows (u : Nat) : Nat := unitBytes u / 4096

/-- Flat byte address of a row of a unit. -/
def rowAddr (cluster u row : Nat) : Nat := cluster * 2 ^ 27 + unitBase u + row * 64

/-- Unit key (cluster · 16 + unit) of a flat address. -/
def unitOf (addr : Nat) : Nat :=
  let k := addr / 2 ^ 27
  let o := addr % 2 ^ 27
  let u := if o < 12 * 2 ^ 21 then o / 2 ^ 21 else if o < 2 ^ 25 then 12 else 13 + (o - 2 ^ 25) / 2 ^ 25
  k * 16 + u

/-! ### Codewords (R166, R167) -/

/-- Positions 1–38 that are not powers of two hold data, in ascending order (Tab. 7.4). -/
def dataPos : List Nat := (List.range 39).filter (fun p => decide (p ≠ 0 ∧ p ≠ 1 ∧ p ≠ 2 ∧ p ≠ 4 ∧ p ≠ 8 ∧ p ≠ 16 ∧ p ≠ 32))

/-- The data bits of a codeword. -/
def eccData (c : BitVec 39) : Word :=
  BitVec.ofNat 32 ((dataPos.zipIdx).foldl (fun n p => if c.getLsbD p.1 then n + 2 ^ p.2 else n) 0)

/-- Syndrome: exclusive or of the positions 1–38 whose bit is 1. -/
def eccSyn (c : BitVec 39) : Nat :=
  (List.range 39).foldl (fun s p => if c.getLsbD p then s ^^^ p else s) 0

/-- Parity of all 39 bits. -/
def eccPar (c : BitVec 39) : Bool :=
  (List.range 39).foldl (fun b p => b ^^ c.getLsbD p) false

/-- The codeword of a word (R166). -/
def eccEncode (w : Word) : BitVec 39 :=
  let d : Nat := (dataPos.zipIdx).foldl (fun n p => if w.getLsbD p.2 then n + 2 ^ p.1 else n) 0
  let s := eccSyn (BitVec.ofNat 39 d)
  let d' := (List.range 6).foldl (fun n j => if s.testBit j then n + 2 ^ (2 ^ j) else n) d
  BitVec.ofNat 39 (if eccPar (BitVec.ofNat 39 d') then d' + 1 else d')

/-- What a read decides (R167). -/
inductive EccRead where
  | clean
  | corrected (bit : Nat)
  | poisoned
  deriving DecidableEq, Repr

/-- R167 on the flipped bits of a stored codeword (the code is linear: the flips alone decide). -/
def eccRead (f : BitVec 39) : EccRead :=
  let s := eccSyn f
  if eccPar f then (if s = 0 then .corrected 0 else if s ≤ 38 then .corrected s else .poisoned)
  else (if s = 0 then .clean else .poisoned)

/-- The flips that are left after a correction. -/
def eccLeft (f : BitVec 39) : BitVec 39 :=
  match eccRead f with
  | .corrected b => f ^^^ (1#39 <<< b)
  | _ => f

/-! ### Words of memory -/

/-- The stored data bits of a word (number: address div 4). -/
def Mem.raw (m : Mem) (wa : Nat) : Word :=
  let b := fun i => (Tbl.get (0 : Byte) m.cells (4 * wa + i)).toNat
  BitVec.ofNat 32 (b 0 + 256 * (b 1 + 256 * (b 2 + 256 * b 3)))

/-- Reads one byte as stored. -/
def Mem.byte (m : Mem) (a : Nat) : Byte := Tbl.get (0 : Byte) m.cells a

/-- Writes one byte cell, keeping the canonical form. -/
def Mem.setByte (m : Mem) (a : Nat) (b : Byte) : Mem := { m with cells := Tbl.set (0 : Byte) m.cells a b }

/-- Writes a whole word with a valid codeword; a poisoned word sets both poison bits, a clean one clears them (R150,
R171). -/
def Mem.write (m : Mem) (wa : Nat) (x : RWord) : Mem :=
  let v := x.w.toNat
  let m1 := (((m.setByte (4 * wa) (BitVec.ofNat 8 v)).setByte (4 * wa + 1) (BitVec.ofNat 8 (v / 256))).setByte
    (4 * wa + 2) (BitVec.ofNat 8 (v / 65536))).setByte (4 * wa + 3) (BitVec.ofNat 8 (v / 16777216))
  { m1 with poison := Tbl.set 0#2 m1.poison wa (if x.poison then 3#2 else 0#2),
            flips := Tbl.set 0#39 m1.flips wa 0#39 }

/-- The canonical form of the scratchpad. -/
def Mem.wf (m : Mem) : Bool := Tbl.wf (0 : Byte) m.cells && Tbl.wf 0#2 m.poison && Tbl.wf 0#39 m.flips

def Device.setMem (d : Device) (m : Mem) : Device := { d with mem := { d.mem with m := m } }

def Device.setScrub (d : Device) (u : Nat) (q : List (Nat × Bool)) : Device :=
  { d with mem := { d.mem with scrub := Tbl.set [] d.mem.scrub u q } }

/-- Puts a corrected or poisoned word into its unit's scrub queue of 16 words (R169): poisoned words ahead of corrected
ones; a full queue drops the entry. -/
def Device.queueScrub (d : Device) (wa : Nat) (poisoned : Bool) : Device :=
  let u := unitOf (4 * wa)
  let q := Tbl.get [] d.mem.scrub u
  if q.any (fun e => decide (e.1 = wa)) then d
  else if q.length ≥ 16 then d.bump (key 0x8010 4) 1
  else
    d.setScrub u (if poisoned then (q.filter (·.2)) ++ [(wa, true)] ++ q.filter (fun e => !e.2) else q ++ [(wa, false)])

/-- What a read of a word delivers (R167, R171). -/
def Device.peek (d : Device) (wa : Nat) : RWord :=
  let f := Tbl.get 0#39 d.mem.m.flips wa
  let p := Tbl.get 0#2 d.mem.m.poison wa
  let raw := d.mem.m.raw wa
  if f = 0#39 then ⟨raw, decide (p ≠ 0#2)⟩
  else ⟨raw ^^^ eccData (eccLeft f), decide (p ≠ 0#2) || decide (eccRead f = .poisoned)⟩

/-! ### Error records (R358, R359) -/

/-- Where and what of an error; the fields of Tab. 16.1 that the caller knows. -/
structure ErrAt where
  cls : Nat
  cluster : Nat := 0
  unit : Nat := 0
  phys : Nat := 0x3F
  pos : Nat := 0
  tenant : Nat := 0
  loc : Nat := 0
  word : Nat := 0
  prog : Nat := 0
  stepWord : Nat := 0xFFFF
  slot : Nat := 0xFFFF
  deriving DecidableEq, Repr

/-- Field of a port's stop (Tab. 1.3), by port. -/
def portField (p : Nat) : Nat := [0, 2, 1, 3, 2, 3, 0, 1].getD p 0

/-- Field of a thermal node (Tab. 17.8); none for the central block and the cold plate. -/
def nodeField (n : Nat) : Option Nat :=
  if n < 48 then some (n / 12)
  else if n = 48 ∨ n = 63 then none
  else if n ≤ 56 then some (portField (n - 49))
  else if n ≤ 60 then some (n - 57)
  else some (n - 61)

/-- Mean of the four diodes. -/
def meanOf (ds : List F32) : F32 :=
  let x := fun i => ds.getD i 0#32
  f32Mul (f32Add (f32Add (f32Add (x 0) (x 1)) (x 2)) (x 3)) 0x3E800000#32

/-- Seed of a node (Tab. 17.8). -/
def seedOf (ds : List F32) (n : Nat) : F32 :=
  match nodeField n with
  | some f => ds.getD f 0#32
  | none => meanOf ds

/-- Read value of a node (R393): 90.0 °C or the seed during the first 2 s, then the model. -/
def Device.readTemp (d : Device) (n : Nat) : F32 :=
  if d.pwr.converged then Tbl.get 0#32 d.pwr.nodes n
  else
    match d.pwr.seed with
    | none => Config.unseeded n
    | some ds => if f32Lt (seedOf ds n) 0x42B40000#32 then 0x42B40000#32 else seedOf ds n

/-- The thermal node that covers a unit (Tab. 17.8). -/
def nodeOfUnit (e : ErrAt) : Nat :=
  if e.cls = 6 then 49 + e.unit
  else if e.cls = 9 then 57
  else if e.cls = 0 ∨ e.cls = 7 ∨ e.cls = 8 then 48
  else e.cluster * 3 + (if e.cls ≠ 5 ∧ e.unit < 12 then e.unit / 6 else 2)

/-- The temperature field of a record: 1/16 °C of the node's read value, as I16. -/
def Device.nodeTemp16 (d : Device) (n : Nat) : Nat :=
  (f32ScaleRound (d.readTemp n) 4 % 65536).toNat

/-- The latest code of a telemetry channel. -/
def Device.code (d : Device) (ch : Nat) : Nat := Tbl.get 0 d.pwr.latest ch

/-- The rail voltage field in mV (R389): the core rail of the unit's field, the input rail for classes 0 and 9. -/
def Device.railMv (d : Device) (e : ErrAt) : Nat :=
  if e.cls = 0 ∨ e.cls = 9 then d.code 0 * 16
  else d.code (2 + 2 * (if e.cls = 6 then portField e.unit else e.cluster / 4)) / 4

/-- Two records are of one error when kind, class, cluster, core or unit, physical engine and location agree (R359). -/
def ErrRec.same (r : ErrRec) (w2 w3 kind : Nat) : Bool :=
  decide (r.kind = kind ∧ r.w2 % 2 ^ 18 = w2 % 2 ^ 18 ∧ r.w3 % 2 ^ 20 = w3 % 2 ^ 20)

/-- Counts a repeated error on the latest record of the same error. -/
def coalesce (w2 w3 kind now : Nat) : List ErrRec → Option (List ErrRec)
  | [] => none
  | r :: rs =>
    match coalesce w2 w3 kind now rs with
    | some rs' => some (r :: rs')
    | none =>
      if r.same w2 w3 kind && decide (now - r.time < 1000000) then
        some ({ r with count := min 65535 (r.count + 1) } :: rs)
      else none

/-- Writes an error record of a kind (R359). -/
def Device.err (d : Device) (e : ErrAt) (kind detail : Nat) : Device :=
  let now := d.clk.time.toNat
  let w2 := e.cls + e.cluster * 16 + e.unit * 256 + e.phys * 4096 + e.pos * 2 ^ 18 + e.tenant * 2 ^ 23
  let w3 := e.loc % 2 ^ 20 + e.word * 2 ^ 20
  match coalesce w2 w3 kind now d.rel.log with
  | some l => ({ d with rel := { d.rel with log := l } }).bump (key 0xA012 2) 1
  | none =>
    let r : ErrRec := ⟨now, w2, w3, e.prog, e.stepWord + e.slot * 65536,
      d.nodeTemp16 (nodeOfUnit e) + d.railMv e * 65536, kind, detail, 1⟩
    let full := decide (d.rel.log.length ≥ 4096)
    let l := (if full then d.rel.log.drop 1 else d.rel.log) ++ [r]
    let d := ({ d with rel := { d.rel with log := l } }).bump (key 0xA012 1) 1
    if full then d.bump (key 0xA012 3) 1 else d

/-- The 32 bytes of an error record. -/
def ErrRec.bytes (r : ErrRec) : List Byte :=
  leBytes 8 r.time ++ wordsBytes [r.w2, r.w3, r.w4, r.w5, r.w6, r.kind + r.detail * 256 + r.count * 65536]

/-! ### Notifications (R341–R343) -/

/-- The key of a tenant and source, if a slot holds one. -/
def Device.keySlot? (d : Device) (tenant : Nat) (source : Coord) : Option (Nat × KeySlot) :=
  List.find? (fun e => decide (e.2.tenant = tenant ∧ e.2.source = source)) d.dict.keys

/-- The keyed check over the prefix, the header words and the payload (R332). -/
def keyedCheck (k : List Byte) (source : Coord) (hdr payload : List Byte) : List Byte :=
  (hmacSha256 k (leBytes 4 source.toNat ++ hdr ++ payload)).take 16

/-- Header bytes 0–31 of a PDU (Tab. 14.4). -/
def pduHeader (code tenant : Nat) (keyed response repeated : Bool) (index sub status len tag counter off total : Nat) :
    List Byte :=
  wordsBytes [1 + code * 256 + tenant * 65536 + (if keyed then 2 ^ 25 else 0) + (if response then 2 ^ 26 else 0) +
      (if repeated then 2 ^ 27 else 0),
    index + sub * 65536 + status * 2 ^ 24, len % 65536 + tag * 65536, 0] ++ leBytes 8 counter ++
    wordsBytes [off, total]

/-- A whole PDU: header, keyed check, payload. -/
def pduBytes (h chk payload : List Byte) : List Byte := h ++ (if chk.isEmpty then leBytes 16 0 else chk) ++ payload

/-- The sideband's source (R332). -/
def sideSource : Coord := 0x3FFFF#18

/-- The MAC address of a device on the sideband (R325): 02h, 00h, 00h, then its coordinate. -/
def macOf (c : Coord) : Nat := 0x02 * 2 ^ 40 + c.toNat

/-- The broadcast address. -/
def macAll : Nat := 2 ^ 48 - 1

/-- An IEEE 802.3 frame on the sideband, up to its FCS (R325): both addresses, EtherType 88B5h, the PDU. The header has the
standard's byte order, the most significant byte first (R4). -/
def sideFrame (dest src : Nat) (pdu : List Byte) : List Byte :=
  beBytes 6 dest ++ beBytes 6 src ++ beBytes 2 0x88B5 ++ pdu

/-- Puts a PDU on the sideband. -/
def Device.sendFrame (d : Device) (dest : Nat) (pdu : List Byte) : Device :=
  d.send (.frame (sideFrame dest (macOf d.fab.coord) pdu))

/-- A held record is unacknowledged (R343). -/
def unacked (ack : Option Nat) (s : Nat) : Bool :=
  match ack with
  | none => true
  | some a => let x := (s + 2 ^ 32 - a) % 2 ^ 32; decide (1 ≤ x ∧ x ≤ 2 ^ 31 - 1)

/-- ALERT_N is driven low while the log holds an unacknowledged record (R343). -/
def Device.alertLow (d : Device) : Bool := d.dict.log.any (fun e => unacked d.dict.ack e.1)

/-- Sends a notification to one receiver (R342). -/
def Device.sendNotify (d : Device) (side : Bool) (dest : Coord) (tenant seq : Nat) (record : List Byte) : Device :=
  let key? := (d.keySlot? tenant dest).map (fun ks => ks.2.key)
  let h := pduHeader 5 tenant key?.isSome true false 0 0 0 32 0 seq 0 32
  let chk := match key? with | none => [] | some k => keyedCheck k dest h record
  let d := d.send (.notify side dest key?.isSome record chk)
  let pdu := pduBytes h chk record
  if side then d.sendFrame macAll pdu else d.sendPdu 0 3 dest (BitVec.ofNat 9 tenant) 0#16 pdu

/-- The 32 bytes of a notification record (Tab. 14.10). -/
def notifyRecord (seq time code tenant index sub a5 a6 a7 : Nat) : List Byte :=
  leBytes 4 seq ++ leBytes 8 time ++ wordsBytes [code + tenant * 256, index + sub * 65536, a5, a6, a7]

/-- Appends a record to the log and sends it; answers whether it overwrote an unacknowledged record. -/
def Device.notifyOne (d : Device) (code tenant index sub a5 a6 a7 : Nat) : Bool × Device :=
  let seq := d.dict.nextSeq
  let rec_ := notifyRecord seq d.clk.time.toNat code tenant index sub a5 a6 a7
  let ovr := decide (d.dict.log.length ≥ 256)
  let lost := ovr && (match d.dict.log.head? with | some e => unacked d.dict.ack e.1 | none => false)
  let log := (if ovr then d.dict.log.drop 1 else d.dict.log) ++ [(seq, rec_)]
  let d := { d with dict := { d.dict with log := log, nextSeq := (seq + 1) % 2 ^ 32 } }
  let d := d.bump (key 0x5020 6) 1
  let d := if lost then d.bump (key 0x5020 7) 1 else d
  let d := d.sendNotify true sideSource 0 seq rec_
  let d := d.dict.subs.foldl (fun d s =>
    if s.2.2 = 0 ∨ s.2.2 = tenant then d.sendNotify false s.2.1 s.2.2 seq rec_ else d) d
  (lost, d)

/-- Raises a notification; overwriting an unacknowledged record raises code 07h, except from a code 07h itself. -/
def Device.notify (d : Device) (code tenant index sub : Nat) (a5 : Nat := 0) (a6 : Nat := 0) (a7 : Nat := 0) : Device :=
  let r := d.notifyOne code tenant index sub a5 a6 a7
  if r.1 && decide (code ≠ 7) then
    let low := match r.2.dict.log.head? with | some e => e.1 | none => 0
    (r.2.notifyOne 7 0 0x5031 0 low 0 0).2
  else r.2

/-! ### Handles (R155, R156) -/

def Handle.readable (h : Handle) : Bool := h.attrs.getLsbD 0
def Handle.writable (h : Handle) : Bool := h.attrs.getLsbD 1
def Handle.program (h : Handle) : Bool := h.attrs.getLsbD 2
def Handle.shared (h : Handle) : Bool := h.attrs.getLsbD 3
def Handle.globalRead (h : Handle) : Bool := h.attrs.getLsbD 4
def Handle.kv (h : Handle) : Bool := h.attrs.getLsbD 5
def Handle.reserve (h : Handle) : Bool := h.attrs.getLsbD 6
def Handle.remote (h : Handle) : Bool := h.attrs.getLsbD 7
def Handle.bad (h : Handle) : Bool := h.attrs.getLsbD 9
def Handle.releasing (h : Handle) : Bool := h.attrs.getLsbD 10

/-- A usable table entry: valid and not lost (R162). -/
def Device.handle? (d : Device) (h : Nat) : Option Handle :=
  if d.mem.lost.contains h then none else Tbl.find? d.mem.handles h

def Device.putHandle (d : Device) (h : Nat) (x : Handle) : Device :=
  { d with mem := { d.mem with handles := Tbl.put d.mem.handles h x } }

/-- Bytes an access may reach: the Length field in 64 B units. -/
def Handle.bytes (h : Handle) : Nat := h.len * 64

/-- Flat address of a byte of a local handle. -/
def Handle.addr (h : Handle) (off : Nat) : Nat := rowAddr h.cluster h.unit h.base + off

/-- R156: a step of tenant `t` may make this access to handle `h`. -/
def Handle.allows (h : Handle) (t : Nat) (write : Bool) : Bool :=
  !h.releasing &&
    (decide (h.tenant = t) && (if write then h.writable else h.readable) || (!write && h.globalRead))

/-- Marks a Shared handle Bad (R175). -/
def Device.markBad (d : Device) (hid : Nat) (h : Handle) : Device :=
  if h.bad then d
  else
    let d := d.putHandle hid { h with attrs := h.attrs ||| (1#11 <<< 9) }
    let d := d.err { cls := 4, cluster := h.cluster, unit := h.unit, tenant := h.tenant, loc := h.base } 0x0C 0
    (d.bump (key 0x8010 9) 1).notify 1 h.tenant 0x8011 0 hid

/-! ### Reads and writes of the scratchpad -/

/-- One read of a word: what it delivers, with the counters and scrub entries of R167, R169 and R171. `detail` is 0 for
a read and 1 for the patrol (Tab. 16.2). -/
def Device.readWord (d : Device) (wa detail : Nat) : RWord × Device :=
  let f := Tbl.get 0#39 d.mem.m.flips wa
  let p := Tbl.get 0#2 d.mem.m.poison wa
  let x := d.peek wa
  let d := if p = 1#2 ∨ p = 2#2 then d.bump (key 0x8010 5) 1 else d
  match eccRead f with
  | .clean => (x, d)
  | .corrected _ => (x, (d.bump (key 0x8010 1) 1).queueScrub wa false)
  | .poisoned =>
    let u := unitOf (4 * wa)
    let d := (d.bump (key 0x8010 2) 1).err
      { cls := 4, cluster := u / 16, unit := u % 16, loc := (4 * wa - rowAddr (u / 16) (u % 16) 0) / 64, word := wa % 16 }
      0x0A detail
    (x, d.queueScrub wa true)

/-- Reads `n` words from word number `wa`. -/
def Device.readWords (d : Device) (wa : Nat) : Nat → List RWord × Device
  | 0 => ([], d)
  | n + 1 =>
    let r := d.readWord wa 0
    let rs := r.2.readWords (wa + 1) n
    (r.1 :: rs.1, rs.2)

/-! ### Tiles (R10, Tab. 1.2) -/

/-- Local position of a unit's tile in its cluster: core 0–11, 12 the attention core, 13–15 the memory tiles M0–M2. -/
def unitLocal (u : Nat) : Nat × Nat :=
  [(0, 0), (1, 0), (2, 0), (3, 0), (3, 1), (3, 2), (3, 3), (2, 3), (1, 3), (0, 3), (0, 2), (0, 1), (2, 2), (1, 1), (2, 1),
   (1, 2)].getD u (0, 0)

/-- The origin tile of a cluster. -/
def clusterOrigin (n : Nat) : Nat × Nat :=
  let f := n / 4
  let m := n % 4
  (8 * (f % 2) + 4 * (m % 2), 8 * (f / 2) + 4 * (m / 2))

/-- The tile of unit `u` of cluster `n`, as x + 16 · y. -/
def unitTile (n u : Nat) : Nat :=
  let o := clusterOrigin n
  let l := unitLocal u
  o.1 + l.1 + 16 * (o.2 + l.2)

/-- The destination tile mask of a packet to CIM cores (R164). -/
def tileMask (cores : List Nat) : BitVec 256 :=
  cores.foldl (fun m c => m ||| (1#256 <<< unitTile (c / 12) (c % 12))) 0#256

/-- Writes words from word number `wa` on; a write to a word cancels its scrub entry (R169). -/
def Device.writeWords (d : Device) (wa : Nat) : List RWord → Device
  | [] => d
  | x :: xs =>
    let u := unitOf (4 * wa)
    let q := Tbl.get [] d.mem.scrub u
    let d := if q.isEmpty then d else d.setScrub u (q.filter (fun e => decide (e.1 ≠ wa)))
    (d.setMem (d.mem.m.write wa x)).writeWords (wa + 1) xs

/-- Words of little-endian bytes, clean. -/
def cleanWords (bs : List Byte) : List RWord :=
  (List.range ((bs.length + 3) / 4)).map (fun i => ⟨BitVec.ofNat 32 (wordAt bs i), false⟩)

/-- Bytes of words. -/
def rwBytes (ws : List RWord) : List Byte := ws.flatMap (fun x => leBytes 4 x.w.toNat)

/-- Reads `n` words at byte offset `off` (a multiple of 4) of a handle: a Bad handle delivers every word poisoned, and a
poisoned word of a Shared handle turns it Bad (R175). -/
def Device.readH (d : Device) (hid : Nat) (off n : Nat) : List RWord × Device :=
  match d.handle? hid with
  | none => (List.replicate n ⟨0#32, true⟩, d)
  | some h =>
    let r := d.readWords (h.addr off / 4) n
    if h.bad then (r.1.map (fun x => { x with poison := true }), r.2)
    else if h.shared && r.1.any (·.poison) then (r.1, r.2.markBad hid h)
    else r

/-! ### Combined reads (R163, R164) -/

def Device.setWindows (d : Device) (ws : List Window) : Device := { d with mem := { d.mem with windows := ws } }

/-- The handle that covers a row of a unit. -/
def Device.handleOfRow (d : Device) (k u row : Nat) : Option (Nat × Handle) :=
  List.find? (fun (e : Nat × Handle) => decide (e.2.cluster = k ∧ e.2.unit = u ∧ e.2.base ≤ row ∧ row < e.2.base + e.2.len) &&
    !e.2.remote) d.mem.handles

/-- A poisoned word of a row has been read: a Shared handle there turns Bad (R175). -/
def Device.markRow (d : Device) (k u row : Nat) : Device :=
  match d.handleOfRow k u row with
  | some e => if e.2.shared then d.markBad e.1 e.2 else d
  | none => d

/-- One read of a whole row, with all that a read of its handle does (R167, R175). -/
def Device.readRow (d : Device) (k u row : Nat) : List RWord × Device :=
  match d.handleOfRow k u row with
  | some e => d.readH e.1 (64 * (row - e.2.base)) 16
  | none => d.readWords (rowAddr k u row / 4) 16

/-- Closes a window: one bank read, delivered as one packet to every requester that joined. -/
def Device.closeWindow (d : Device) (w : Window) : Device :=
  let d := d.setWindows (d.mem.windows.filter (fun x => !decide (x.cluster = w.cluster ∧ x.tile = w.tile ∧ x.row = w.row)))
  let r := d.readRow w.cluster (13 + w.tile) w.row
  let got := w.asks.map (fun a => (⟨a.1, a.2, rowAddr w.cluster (13 + w.tile) w.row / 64, r.1⟩ : RowGot))
  ({ r.2 with mem := { r.2.mem with combined := r.2.mem.combined ++ got } }).send
    (.combined (tileMask (w.asks.map Prod.fst)) (r.1.map (fun (x : RWord) => x.w)) (r.1.map (fun (x : RWord) => x.poison)))

/-- A write of the bytes `a` to `a + n` closes the windows of the rows it reaches: their reads come first (R163). -/
def Device.closeRows (d : Device) (a n : Nat) : Device :=
  (d.mem.windows.filter (fun (w : Window) =>
    let r := rowAddr w.cluster (13 + w.tile) w.row
    decide (r < a + n ∧ a < r + 64))).foldl (fun d w => d.closeWindow w) d

/-! ### Writes of handles -/

/-- Writes words at byte offset `off` of a handle. -/
def Device.writeH (d : Device) (hid : Nat) (off : Nat) (ws : List RWord) : Device :=
  match d.handle? hid with
  | none => d
  | some h => (d.closeRows (h.addr off) (4 * ws.length)).writeWords (h.addr off / 4) ws

/-- Zeroes `n` rows from a flat address on, poison clear. -/
def Mem.zeroRange (m : Mem) (a n : Nat) : Mem :=
  { cells := m.cells.filter (fun e => decide (e.1 < a ∨ a + n ≤ e.1)),
    poison := m.poison.filter (fun e => decide (4 * e.1 < a ∨ a + n ≤ 4 * e.1)),
    flips := m.flips.filter (fun e => decide (4 * e.1 < a ∨ a + n ≤ 4 * e.1)) }

def Device.zeroRange (d : Device) (a n : Nat) : Device := d.setMem (d.mem.m.zeroRange a n)

/-- Zeroes an extent of a unit: a write, which closes windows there and cancels the unit's scrub entries (R163, R169). -/
def Device.zeroExtent (d : Device) (k u a n : Nat) : Device :=
  let d := d.closeRows a n
  (d.zeroRange a n).setScrub (k * 16 + u)
    ((Tbl.get [] d.mem.scrub (k * 16 + u)).filter (fun e => decide (4 * e.1 < a ∨ a + n ≤ 4 * e.1)))

/-! ### Bytes of memory with poison -/

/-- `n` bytes from byte address `a`, each with its word's poison. -/
def Device.readBytes (d : Device) (a n : Nat) : List (Byte × Bool) × Device :=
  if n = 0 then ([], d)
  else
    let lo := a / 4
    let r := d.readWords lo ((a + n - 1) / 4 - lo + 1)
    let bs := r.1.flatMap (fun (x : RWord) => (leBytes 4 x.w.toNat).map (fun b => (b, x.poison)))
    ((bs.drop (a % 4)).take n, r.2)

/-- Writes bytes at byte address `a` as the whole words that hold them (R150): a word that other bytes share is written with
what they are (log 150), and is poisoned when any of its bytes is, because poison is held per word (R81, R171). -/
def Device.writeBytes (d : Device) (a : Nat) (bs : List (Byte × Bool)) : Device :=
  if bs.isEmpty then d
  else
    let d := d.closeRows a bs.length
    let lo := a / 4
    let n := (a + bs.length - 1) / 4 - lo + 1
    (List.range n).foldl (fun (d : Device) i =>
      let old := d.peek (lo + i)
      let ob := leBytes 4 old.w.toNat
      let cells := (List.range 4).map (fun (k : Nat) =>
        let p := 4 * (lo + i) + k
        if a ≤ p ∧ p < a + bs.length then ((bs.getD (p - a) (0, false)).1, (bs.getD (p - a) (0, false)).2)
        else (ob.getD k 0, old.poison))
      d.writeWords (lo + i) [⟨BitVec.ofNat 32 (ofLe (cells.map (·.1))), cells.any (·.2)⟩]) d

/-! ### Quotas and space (R157, R158) -/

def Device.limits (d : Device) (t : Nat) : Limits := Tbl.get (Limits.reset t) d.mem.limits t

/-- Rounded length in 4 KiB units; a remote window holds no bytes. -/
def Handle.units (h : Handle) : Nat := if h.remote then 0 else (h.len + 63) / 64

/-- Handles and 4 KiB units a tenant holds. -/
def Device.handleUse (d : Device) (t : Nat) : Nat × Nat :=
  d.mem.handles.foldl (fun u e => if e.2.tenant = t then (u.1 + 1, u.2 + e.2.units) else u) (0, 0)

/-- Extents (first row, rows) taken in a unit, lowest first. -/
def insertExt (x : Nat × Nat) : List (Nat × Nat) → List (Nat × Nat)
  | [] => [x]
  | y :: ys => if x.1 ≤ y.1 then x :: y :: ys else y :: insertExt x ys

def Device.extents (d : Device) (k u : Nat) : List (Nat × Nat) :=
  d.mem.handles.foldl (fun l e =>
    if e.2.cluster = k ∧ e.2.unit = u ∧ e.2.remote = false then insertExt (e.2.base, e.2.units * 64) l else l) []

/-- The lowest base at or above `at_` where `rows` rows fit between the extents and below row `size`. -/
def firstFit (rows size : Nat) : Nat → List (Nat × Nat) → Option Nat
  | at_, [] => if at_ + rows ≤ size then some at_ else none
  | at_, x :: xs =>
    if at_ + rows ≤ x.1 then (if at_ + rows ≤ size then some at_ else none) else firstFit rows size (max at_ (x.1 + x.2)) xs

/-- The lowest free base of a unit for a length in 64 B units (R157). -/
def Device.findBase (d : Device) (k u len : Nat) : Option Nat :=
  firstFit ((len + 63) / 64 * 64) (unitBytes u / 64) 0 (d.extents k u)

/-- The lowest free handle; handle 0 is never allocated. -/
def Device.freeHandle (d : Device) : Option Nat := lowestFree (Tbl.keys d.mem.handles) 8191 1

/-- Finds (unit, base) among the units in order. -/
def Device.findIn (d : Device) (k len : Nat) : List Nat → Option (Nat × Nat)
  | [] => none
  | u :: us =>
    match d.findBase k u len with
    | some b => some (u, b)
    | none => d.findIn k len us

/-- Why a handle cannot be made. -/
inductive NoHandle where
  | quota
  | space
  deriving DecidableEq, Repr

/-- Allocates a handle: the lowest free number and the lowest free base of the first unit that has one (R157). -/
def Device.alloc (d : Device) (t k : Nat) (units : List Nat) (len : Nat) (attrs : BitVec 11) :
    Except NoHandle (Nat × Device) :=
  let use := d.handleUse t
  let lim := d.limits t
  if use.1 + 1 > lim.handles ∨ use.2 + (len + 63) / 64 > lim.bytes then .error .quota
  else
    match d.freeHandle, d.findIn k len units with
    | some h, some ub => .ok (h, d.putHandle h ⟨t, k, ub.1, ub.2, len, attrs⟩)
    | _, _ => .error .space

/-- Turns a handle Releasing (R159): it holds its extent until HANDLE_ZERO_DONE. -/
def Device.startRelease (d : Device) (hid : Nat) : Device :=
  match Tbl.find? d.mem.handles hid with
  | none => d
  | some h => d.putHandle hid { h with attrs := h.attrs ||| (1#11 <<< 10) }

/-! ### Owner tags (R173) -/

/-- The tag of a result of several inputs: none is ignored, two positions or an all give all. -/
def Tag.join : Tag → Tag → Tag
  | .none, t => t
  | t, .none => t
  | .pos a, .pos b => if a = b then .pos a else .all
  | _, _ => .all

/-- Records a poisoned value written into state with a tag (R174 rule 1). -/
def Seq.notePoison (q : Seq) : Tag → Seq
  | .none => q
  | .pos x => { q with poisoned := if q.poisoned.contains x then q.poisoned else q.poisoned ++ [x] }
  | .all => { q with poisonAll := true }

/-- Records a poisoned word the fixed path wrote into a buffer from state with a tag (R174). -/
def Seq.noteBuffer (q : Seq) : Tag → Seq
  | .none => { q with poisonAll := true }
  | .pos x => { q with poisoned := if q.poisoned.contains x then q.poisoned else q.poisoned ++ [x] }
  | .all => { q with poisonAll := true }

/-! ### Instances, requests, layers, tenants -/

def Device.inst (d : Device) (i : Nat) : Inst := Tbl.get Inst.absent d.cast.insts i

def Device.setInst (d : Device) (i : Nat) (x : Inst) : Device :=
  { d with cast := { d.cast with insts := Tbl.set Inst.absent d.cast.insts i x } }

def Device.layerRec (d : Device) (i l : Nat) : LayerRec := Tbl.get LayerRec.zero d.cast.layers (i * 4096 + l)

def Device.setLayerRec (d : Device) (i l : Nat) (x : LayerRec) : Device :=
  { d with cast := { d.cast with layers := Tbl.set LayerRec.zero d.cast.layers (i * 4096 + l) x } }

/-- The layer entry of an instance's maquette in force. -/
def Device.layerEnt? (d : Device) (i l : Nat) : Option LayerEnt :=
  match (d.inst i).maq with
  | none => none
  | some m => m.layers[l]?

/-- Outlier capacity in force on a core (R80): a raise reaches a core at its next commit mark. -/
def Device.capOn (d : Device) (c i l : Nat) : Nat :=
  match Tbl.find? d.cast.lagCap (c * 2 ^ 22 + i * 4096 + l) with
  | some x => x
  | none => (d.layerRec i l).cap

/-- Policy objects of Tab. 4.8, whose writes reach a core at its next commit mark (R89). -/
def policyKeys : List Nat :=
  [0x704001, 0x704002, 0x704003, 0x704004, 0x704005, 0x705001, 0x705801, 0x705802, 0x705803, 0x705804, 0x706001]

/-- Value of a policy object in force on a core. -/
def Device.policy (d : Device) (c k : Nat) : Nat := (Tbl.find? d.cast.policyLag (c * 2 ^ 24 + k)).getD (d.reg k)

/-- A write of a policy object: a core in a step keeps the value it has until its next commit mark, an idle one takes the
new one at once. -/
def Device.setPolicy (d : Device) (k v : Nat) : Device :=
  let lag := d.cim.cores.foldl (fun (t : Tbl Nat) (x : Nat × CimCore) =>
    let n := x.1 * 2 ^ 24 + k
    if x.2.seq.phase = .idle ∨ (Tbl.find? t n).isSome = true then t else Tbl.put t n (d.reg k)) d.cast.policyLag
  { d with cast := { d.cast with policyLag := lag } }.setReg k v

/-- A free request entry. -/
def ReqEnt.free : ReqEnt :=
  { state := 0, prio := 0, tenant := 0, context := 0, profile := 0, cancel := false, degraded := false, client := 0,
    counter := 0, deadline := 0, inst := 0, kvClass := 0, empty := false, restarted := false, len := 0, maxLen := 0,
    prompt := 0, status := 0, pages := [], pin := 0, maskMode := 0, maskHandle := 0, autoState := 0, io := 0, seed := 0 }

def ReqAux.free : ReqAux := ⟨.cmd, 0#18, 0#16, 0, false, none, none, false, 0, false⟩

def Device.req (d : Device) (s : Nat) : ReqEnt := Tbl.get ReqEnt.free d.serv.reqs s

def Device.setReq (d : Device) (s : Nat) (x : ReqEnt) : Device :=
  { d with serv := { d.serv with reqs := Tbl.set ReqEnt.free d.serv.reqs s x } }

def Device.aux (d : Device) (s : Nat) : ReqAux := Tbl.get ReqAux.free d.serv.aux s

def Device.setAux (d : Device) (s : Nat) (x : ReqAux) : Device :=
  { d with serv := { d.serv with aux := Tbl.set ReqAux.free d.serv.aux s x } }

/-- A request in a state before its end (Tab. 9.3). -/
def ReqEnt.live (r : ReqEnt) : Bool := decide (1 ≤ r.state ∧ r.state ≤ 4)

/-- Marks a request's result degraded; degraded marks never end a request (R214). -/
def Device.degrade (d : Device) (s : Nat) : Device :=
  if (d.req s).state = 0 then d else d.setReq s { d.req s with degraded := true }

/-- Fixes a failure for a request: the first one counts (Tab. 9.8 row 1). -/
def Device.fixFailure (d : Device) (s code : Nat) : Device :=
  if (d.aux s).failure = none then d.setAux s { d.aux s with failure := some code } else d

/-- The instance's requests are owned by this device: it is the home of the instance (R207), or none is named. -/
def Device.ownsInst (d : Device) (i : Nat) : Bool :=
  match (d.inst i).maq with
  | none => true
  | some m => decide (m.extra.serving.home = d.fab.coord)

/-- What a step says of a request of an instance (R17): the device that owns the request changes its entry, any other
reports to it. -/
def Device.tellOwner (d : Device) (i : Nat) (m : Coord → OutMsg) (f : Device → Device) : Device :=
  match (d.inst i).maq with
  | none => f d
  | some x => if x.extra.serving.home = d.fab.coord then f d else d.send (m x.extra.serving.home)

def Device.tenantDefined (d : Device) (t : Nat) : Bool := decide (t = 0) || d.dict.tenants.contains t

/-! ### Sizes -/

def ceilDiv (a b : Nat) : Nat := (a + b - 1) / b

end Sys2Proof.Machine
end

