-- ==== Sys2Proof/Machine/Operands.lean ====
section
/-!
DEFINITION. The fields of a step word (R92, Tab. 5.2), the A-form and T-form operands (R113, R114), and the checks of
R115 on what they address.
-/
namespace Sys2Proof.Machine

/-! ### Common fields -/

def wOp (w : StepWord) : Nat := bits w.toNat 5 0
def wClass (w : StepWord) : Nat := bits w.toNat 9 6
def wDelay (w : StepWord) : Nat := bits w.toNat 21 10
def wPause (w : StepWord) : Bool := w.getLsbD 22
def wCompact (w : StepWord) : Bool := w.getLsbD 23
def wTag (w : StepWord) : Nat := bits w.toNat 26 24
def wWait (w : StepWord) : Nat := bits w.toNat 33 27

/-- Field [hi:lo] of a step word. -/
def fld (w : StepWord) (hi lo : Nat) : Nat := bits w.toNat hi lo

/-- The common fields are listed for an operation of this class and code: the codes are its own, the Delay is 1–4,095,
and Compact is set on EVAL only (Tab. 5.2). -/
def listedWord (w : StepWord) (cls op : Nat) : Bool :=
  decide (wClass w = cls ∧ wOp w = op ∧ 1 ≤ wDelay w) && (!wCompact w || decide (cls = 1 ∧ op = 0))

/-! ### A-form and T-form -/

/-- An A-form operand (Tab. 6.1). -/
structure AForm where
  handle : Nat
  offset : Nat
  indexed : Bool
  counter : Nat
  stride : Nat
  deriving DecidableEq, Repr

/-- The A-form operand at bit `lo`. -/
def aForm (w : StepWord) (lo : Nat) : AForm :=
  ⟨fld w (lo + 12) lo, fld w (lo + 27) (lo + 13), w.getLsbD (lo + 28), fld w (lo + 30) (lo + 29), fld w (lo + 38) (lo + 31)⟩

/-- Value of a loop counter. -/
def Core.loopValue (r : Core) (k : Nat) : Nat := (Tbl.get (⟨0, 0, 0, false⟩ : LoopCtr) r.loops k).value

/-- Byte offset an A-form names within its handle (R113). -/
def AForm.byteOff (a : AForm) (r : Core) : Nat :=
  64 * (a.offset + if a.indexed then r.loopValue a.counter * a.stride else 0)

/-- Token index a T-form at bit `lo` names (R114). -/
def tForm (w : StepWord) (lo : Nat) (r : Core) : Nat :=
  fld w (lo + 11) lo + (if w.getLsbD (lo + 12) then r.loopValue (fld w (lo + 14) (lo + 13)) else 0)

/-! ### Faults of operands (R115) -/

/-- Status codes of Tab. 9.6 a step can end with. -/
def stSchedule : Nat := 0x07
def stRange : Nat := 0x08
def stHandle : Nat := 0x09
def stSync : Nat := 0x0A
def stHold : Nat := 0x0B

/-- Tenant of the instance whose program a core runs. -/
def Device.stepTenant (d : Device) (c : Nat) : Nat := (d.inst (d.core c).seq.plan.inst).tenant

/-- Checks a fixed access of `len` bytes at `off` of a handle: the handle lies in the core's own buffer and grants the
access to the instance's tenant, else a handle fault; the bytes lie within its length, else a range fault. -/
def Device.checkFixed (d : Device) (c hid off len : Nat) (write : Bool) : Option Nat :=
  match d.handle? hid with
  | none => some stHandle
  | some h =>
    if h.remote || decide (h.cluster ≠ c / 12 ∨ h.unit ≠ c % 12) || !(h.allows (d.stepTenant c) write) then
      some stHandle
    else if off + len > h.bytes then some stRange
    else none

/-- Checks a staging, accumulator or outlier-sum range. -/
def checkIdx (first n : Nat) : Option Nat := if first + n > 8192 then some stRange else none

/-- Number of tokens of the running step. -/
def Seq.tokens (q : Seq) : Nat := (q.rows.map (·.q)).sum

/-- The request row that owns token `j`, with its batch position (R189). -/
def Seq.rowOf (q : Seq) (j : Nat) : Option (LenRow × Nat) :=
  (q.rows.zipIdx).find? (fun r => decide (r.1.base ≤ j ∧ j < r.1.base + r.1.q))

/-- Checks a token index. -/
def Seq.checkToken (q : Seq) (j : Nat) : Option Nat := if j < q.tokens then none else some stRange

/-- Checks a layer field against the instance's layer count. -/
def Device.checkLayer (d : Device) (c l : Nat) : Option Nat :=
  if l < (d.inst (d.core c).seq.plan.inst).layers then none else some stRange

/-- The first fault of a list of checks. -/
def firstFault : List (Option Nat) → Option Nat
  | [] => none
  | some f :: _ => some f
  | none :: xs => firstFault xs

/-- Physical byte range of a fixed access, for the scoreboard (R100). -/
def Device.bufRange (d : Device) (hid off len : Nat) (write : Bool) : List Rng :=
  match d.handle? hid with
  | none => []
  | some h => [⟨false, h.addr off, len, write, !write⟩]

/-! ### Widths (Tab. 2.2) -/

/-- Columns per output of a width code (Tab. 11.3): 4-bit, 3-bit, 2-bit, ternary, 1-bit. -/
def widthK (code : Nat) : Nat :=
  if code = 0 then 4 else if code = 1 then 3 else if code = 2 then 2 else if code = 3 then 2 else 1

/-- Outputs per engine. -/
def widthOut (code : Nat) : Nat :=
  if code = 0 then 256 else if code = 1 then 341 else if code = 2 then 512 else if code = 3 then 512 else 1024

/-- Slice weights ω, slice 0 first. -/
def widthOmega (code : Nat) : List Int :=
  if code = 0 then [1, 2, 4, -8] else if code = 1 then [1, 2, -4] else if code = 2 then [1, -2]
  else if code = 3 then [1, -1] else [1]

/-- Positive and negative limits of a width (R72). -/
def widthMax (code : Nat) : Int :=
  if code = 0 then 7 else if code = 1 then 3 else 1

def widthMin (code : Nat) : Int :=
  if code = 0 then -8 else if code = 1 then -4 else if code = 2 then -2 else if code = 3 then -1 else 0

/-- Block multiplier (R71). -/
def blockMult (b : Byte) : Nat := (16 + b.toNat % 16) * 2 ^ (b.toNat / 16)

/-! ### The grid (R91) -/

/-- Logical positions of the grid, each with its input tile and output tile. -/
def gridPos (r : Core) : List (Nat × Nat × Nat) :=
  (List.range (2 ^ (r.gi + r.go))).map (fun p => (p, p / 2 ^ r.go, p % 2 ^ r.go))

/-- Outputs per engine of the grid: the largest among its cast engines, 256 when none is cast. -/
def Device.gridOut (d : Device) (c : Nat) (r : Core) : Nat :=
  let ws := (gridPos r).filterMap (fun p =>
    let e := d.engine c (d.physAt c p.1)
    if e.cls = 0 then none else some (widthOut e.width))
  if ws.isEmpty then 256 else ws.foldl max 0

end Sys2Proof.Machine
end

