-- ==== Sys2Proof/Machine/Flags.lean ====
section
/-!
DEFINITION. The step flags (R143, Tab. 6.19) and what sets each of them.
-/
namespace Sys2Proof.Machine

def flSaturation : Nat := 0
def flDegraded : Nat := 1
def flPoison : Nat := 2
def flBurst : Nat := 3
def flLayer : Nat := 4
def flGather : Nat := 5
def flCompact : Nat := 6

/-- Sets a flag; it stays set until the next STEP. -/
def Seq.setFlag (q : Seq) (k : Nat) : Seq := { q with flags := q.flags ||| (1#16 <<< k) }

/-- Sets a flag when a condition holds. -/
def Seq.flagIf (q : Seq) (b : Bool) (k : Nat) : Seq := if b then q.setFlag k else q

def Seq.flag (q : Seq) (k : Nat) : Bool := q.flags.getLsbD k

/-- The requests of the batch that own a tag: the position's own, or all of them for `all`. -/
def Seq.owners (q : Seq) : Tag → List Nat
  | .none => []
  | .pos x => match q.rows[x]? with | some r => [r.slot] | none => []
  | .all => q.rows.map (·.slot)

/-- Marks the requests that own a tag degraded and sets the step's flag (R69, R75, R78). -/
def Device.degradeTag (d : Device) (c : Nat) (t : Tag) : Device :=
  let q := (d.core c).seq
  if (q.owners t).isEmpty then d
  else
    let d := (q.owners t).foldl (fun d s =>
      d.tellOwner q.plan.inst (fun h => .stepStatus h s 0 true none) (fun d => d.degrade s)) d
    d.modCore c (fun x => { x with seq := x.seq.setFlag flDegraded })

/-- Notes the poison of values written into state of the vector unit: the flag and R174 rule 1. -/
def Seq.notePoisonIf (q : Seq) (b : Bool) (t : Tag) : Seq :=
  if b && decide (t ≠ .none) then (q.setFlag flPoison).notePoison t else q

/-- Notes poisoned words the fixed path writes into a buffer. -/
def Seq.noteBufferIf (q : Seq) (b : Bool) (t : Tag) : Seq :=
  if b then (q.setFlag flPoison).noteBuffer t else q

end Sys2Proof.Machine
end

