-- ==== Sys2Proof/Machine/Formats.lean ====
section
/-!
DEFINITION. Activation bursts (R74–R76): parsing with the poison rules of R70, quantisation of P4 and P8 (R75),
alignment into planes (R76), and the buffer formats of PACK and LOAD (R129).
-/
namespace Sys2Proof.Machine

/-- A burst as its bytes spell it. -/
structure Burst where
  /-- No rule of R70 poisons it. -/
  ok : Bool
  p8 : Bool
  signed : Bool
  scales : List Nat
  vals : List Int
  outs : List (Nat × F32)
  deriving DecidableEq, Repr

/-- Signed value of an n-bit field. -/
def signedOf (n v : Nat) : Int := if v < 2 ^ (n - 1) then v else (v : Int) - 2 ^ n

/-- Bytes of a burst as P4 or P8 by its header (Tab. 4.4–4.6). -/
def parseBurst (bs : List Byte) : Burst :=
  let b := fun i => (bs.getD i 0#8).toNat
  let h := b 0
  let fmt := h % 4
  let sg := h.testBit 2
  let used := h / 8 % 8
  if fmt = 1 then
    let scales := [b 1, b 18, b 35]
    let vals := (List.range 96).map (fun j =>
      let i := j % 32
      let y := b (2 + 17 * (j / 32) + i / 2)
      let n := if i % 2 = 0 then y % 16 else y / 16
      if sg then signedOf 4 n else (n : Int))
    let outs := (List.range (min used 4)).map (fun t =>
      (b (52 + 3 * t), bf16ToF32 (BitVec.ofNat 16 (b (53 + 3 * t) + 256 * b (54 + 3 * t)))))
    ⟨decide (used ≤ 4) && scales.all (fun s => decide (s ≠ 255)) && outs.all (fun o => decide (o.1 ≤ 95)),
      false, sg, scales, vals, outs⟩
  else
    let vals := (List.range 62).map (fun j => if sg then signedOf 8 (b (2 + j)) else ((b (2 + j) : Nat) : Int))
    ⟨decide (fmt = 2) && decide (used = 0) && decide (b 1 ≠ 255), true, sg, [b 1], vals, []⟩

def Burst.channels (p8 : Bool) : Nat := if p8 then 62 else 96

/-- Positive and negative limits of the values of a burst. -/
def burstMax (p8 signed : Bool) : Int :=
  if p8 then (if signed then 127 else 255) else (if signed then 7 else 15)

def burstMin (p8 signed : Bool) : Int :=
  if p8 then (if signed then -128 else 0) else (if signed then -8 else 0)

/-- Scale of channel j of a burst. -/
def Burst.scaleOf (b : Burst) (j : Nat) : Nat := if b.p8 then b.scales.getD 0 0 else b.scales.getD (j / 32) 0

/-! ### A vector of bursts (R76, R78) -/

/-- The bursts of a vector: each with whether it is poisoned. The vector's format and signedness are those of its first
burst that neither a poisoned word nor R70 poisons; where all are poisoned the model takes unsigned P4, so w = 4 and 96
channels a burst (log 143). -/
def vecBursts (ws : List RWord) (n : Nat) : List (Burst × Bool) × Bool × Bool :=
  let cs := chunksOf 16 n ws
  let raw := cs.map (fun c => let p := parseBurst (rwBytes c); (p, c.any (·.poison) || !p.ok))
  let f := match raw.find? (fun x => !x.2) with | some x => (x.1.p8, x.1.signed) | none => (false, false)
  (raw.map (fun x => (x.1, x.2 || decide (x.1.p8 ≠ f.1) || decide (x.1.signed ≠ f.2))), f.1, f.2)

/-- What an EVAL makes of its bursts. -/
structure VecBuild where
  hv : HeldVec
  joined : List Outlier
  ovr : Nat
  own : Nat
  deriving DecidableEq, Repr

/-- Aligned value (R76): clamp(round-half-even(q · 2^(E − E_a)), lo_B, hi_B). -/
def alignVal (q : Int) (e ea B : Nat) (signed : Bool) : Int :=
  let lo : Int := if signed then -(2 ^ (B - 1)) else 0
  let hi : Int := if signed then 2 ^ (B - 1) - 1 else 2 ^ B - 1
  clampInt lo hi (if ea ≤ e then q * 2 ^ (e - ea) else divRoundEven q (2 ^ (ea - e)))

/-- The value an activation represents (R82): q · 2^(s − 127), exact; beyond the finite range of BF16 the model takes the
infinity of its sign (log 144). -/
def actVal (q : Int) (e : Nat) : F32 := f32RoundInt false q ((e : Int) - 127)

/-- Splits the outlier entries of the vector, in burst order and slot order, into those that join a list with `room`
left and those beyond (R78). -/
def splitOuts : List (Nat × F32) → Nat → List (Nat × F32) × List (Nat × F32)
  | os, room => (os.take room, os.drop room)

/-- Builds the held vector of `n` bursts at width `B`. `rec_` is the recorded E_a the vector must use, if any; `room`
is what the outlier list still takes. -/
def buildVec (ws : List RWord) (n B : Nat) (rec_ : Option Nat) (room : Nat) (tag : Tag) (slot layer : Nat) : VecBuild :=
  let v := vecBursts ws n
  let p8 := v.2.1
  let sg := v.2.2
  let ch := Burst.channels p8
  let emax := (v.1.filter (fun b => !b.2)).foldl (fun (m : Nat) b => b.1.scales.foldl max m) 0
  let w := if p8 then 8 else 4
  let own := ((emax : Int) - ((B : Int) - w)).toNat
  let ea := rec_.getD own
  let outs := (v.1.zipIdx).flatMap (fun b => if b.1.2 then [] else b.1.1.outs.map (fun o => (b.2 * ch + o.1, o.2)))
  let so := splitOuts outs room
  let chans := (v.1.zipIdx).flatMap (fun b => (List.range ch).map (fun j =>
    if b.1.2 then ((0 : Int), (0#32 : F32), true)
    else
      let g := b.2 * ch + j
      let e := b.1.1.scaleOf j
      match so.2.find? (fun o => decide (o.1 = g)) with
      | some o =>
        let q := if f32Neg o.2 then burstMin p8 sg else burstMax p8 sg
        (alignVal q e ea B sg, actVal q e, false)
      | none =>
        match so.1.find? (fun o => decide (o.1 = g)) with
        | some o => (0, o.2, false)
        | none =>
          let q := b.1.1.vals.getD j 0
          (alignVal q e ea B sg, actVal q e, false)))
  ⟨{ a := chans.map (·.1), x := chans.map (·.2.1), poison := chans.map (·.2.2), width := B, signed := sg, ea := ea,
     tag := tag, slot := slot, layer := layer, tok := 0 },
   so.1.map (fun o => ⟨o.1, o.2, false, tag⟩), so.2.length, own⟩

/-- The bits of plane `i` over the 128 rows of segment `s` of input tile `t` (R25): rows without input have bit 0. -/
def HeldVec.plane (h : HeldVec) (t s i : Nat) : Nat :=
  let xs := (h.a.drop (256 * t + 128 * s)).take 128
  (xs.zipIdx).foldl (fun n x => if (x.1 % 2 ^ h.width).toNat.testBit i then n + 2 ^ x.2 else n) 0

/-- Some channel of a segment of an input tile is poisoned. -/
def HeldVec.poisoned (h : HeldVec) (t s : Nat) : Bool := ((h.poison.drop (256 * t + 128 * s)).take 128).any id

/-! ### Quantisation (R75) -/

/-- What PACK makes of the channels of one burst. -/
structure PackOut where
  bytes : List Byte
  poison : Bool
  ovr : Nat
  degraded : Bool
  deriving DecidableEq, Repr

/-- The smallest scale s in 0–254 with 2^(s − 127) · q_max at least A (step 3); 0 for A = 0. -/
def scaleFor (a : F32) (qmax : Nat) : Nat :=
  if f32IsZero a then 0
  else ((List.range 255).find? (fun (s : Nat) =>
    -- man · 2^exp ≤ qmax · 2^(s − 127)
    let k : Int := f32Exp a - ((s : Int) - 127)
    if k ≥ 0 then decide (f32Man a * 2 ^ k.toNat ≤ qmax) else decide (f32Man a ≤ qmax * 2 ^ (-k).toNat))).getD 254

/-- Largest magnitude of a list of values. -/
def maxAbs (xs : List F32) : F32 :=
  xs.foldl (fun m x => if f32Lt m (f32Abs x) then f32Abs x else m) 0#32

/-- q := clamp(round-half-even(x · 2^(127 − s)), lo, hi). -/
def quantVal (x : F32) (s : Nat) (lo hi : Int) : Int := clampInt lo hi (f32ScaleRound x (127 - (s : Int)))

/-- Inserts a candidate by magnitude descending, lower channel first. -/
def insertCand (c : Nat × F32) : List (Nat × F32) → List (Nat × F32)
  | [] => [c]
  | y :: ys => if f32Lt (f32Abs y.2) (f32Abs c.2) then c :: y :: ys else y :: insertCand c ys

/-- A nibble or byte of a two's complement value. -/
def lowBits (n : Nat) (q : Int) : Nat := (q % 2 ^ n).toNat

/-- One P4 burst of up to 96 channels (R75); an infinite input counts as the largest BF16 value of its sign. -/
def packP4 (xs : List F32) (signed : Bool) (clip : F32) : PackOut :=
  let nan := xs.any f32IsNaN
  let inf := xs.any f32IsInf
  let isInfAt := fun (j : Nat) => f32IsInf (xs.getD j 0#32)
  let xs := (List.range 96).map (fun j => let x := xs.getD j 0#32; if f32IsInf x then bf16Max (f32Neg x) else x)
  let cands := (xs.zipIdx).foldl (fun l x =>
    if f32Lt clip (f32Abs x.1) || isInfAt x.2 then insertCand (x.2, x.1) l else l) []
  let slots := cands.take 4
  let rest := cands.drop 4
  let qmax := burstMax false signed
  let qmin := burstMin false signed
  let isC := fun j => cands.any (fun c => decide (c.1 = j))
  let scale := fun b => scaleFor (maxAbs ((List.range 32).filterMap (fun i =>
    if isC (32 * b + i) then none else xs[32 * b + i]?))) qmax.toNat
  let sc := [scale 0, scale 1, scale 2]
  let nib := fun j =>
    if slots.any (fun c => decide (c.1 = j)) then 0
    else match rest.find? (fun c => decide (c.1 = j)) with
      | some c => lowBits 4 (if f32Neg c.2 then qmin else qmax)
      | none => lowBits 4 (quantVal (xs.getD j 0#32) (sc.getD (j / 32) 0) qmin qmax)
  let slotVal := fun (x : F32) => let r := bf16Round x; if f32IsInf r then bf16Max (f32Neg x) else r
  let slotInf := slots.any (fun c => f32IsInf (bf16Round c.2))
  let head := 1 + (if signed then 4 else 0) + 8 * slots.length + (if rest.isEmpty then 0 else 64)
  let blk := fun b => BitVec.ofNat 8 (sc.getD b 0) :: (List.range 16).map (fun i =>
    BitVec.ofNat 8 (nib (32 * b + 2 * i) + 16 * nib (32 * b + 2 * i + 1)))
  let out := (List.range 4).flatMap (fun t => match slots[t]? with
    | none => [0#8, 0#8, 0#8]
    | some c => BitVec.ofNat 8 c.1 :: leBytes 2 (bf16Bits (slotVal c.2)).toNat)
  ⟨BitVec.ofNat 8 head :: (blk 0 ++ blk 1 ++ blk 2 ++ out), nan, rest.length, inf || slotInf || !rest.isEmpty⟩

/-- One P8 burst of up to 62 channels (R75): one scale, no outliers. -/
def packP8 (xs : List F32) (signed : Bool) : PackOut :=
  let nan := xs.any f32IsNaN
  let inf := xs.any f32IsInf
  let xs := (List.range 62).map (fun j => let x := xs.getD j 0#32; if f32IsInf x then bf16Max (f32Neg x) else x)
  let qmax := burstMax true signed
  let qmin := burstMin true signed
  let s := scaleFor (maxAbs xs) qmax.toNat
  let head := 2 + (if signed then 4 else 0)
  ⟨BitVec.ofNat 8 head :: BitVec.ofNat 8 s :: xs.map (fun x => BitVec.ofNat 8 (lowBits 8 (quantVal x s qmin qmax))),
    nan, 0, inf⟩

/-! ### Loading (R129) -/

/-- The channels of a burst as FP32, when its header agrees with the format and nothing poisons it. One poisoned word poisons
the burst as a whole, as R76 has it of a vector's bursts (log 118). -/
def loadBurst (ws : List RWord) (p8 signed : Bool) : Option (List F32) :=
  let b := parseBurst (rwBytes ws)
  if ws.any (·.poison) || !b.ok || decide (b.p8 ≠ p8) || decide (b.signed ≠ signed) then none
  else some ((List.range (Burst.channels p8)).map (fun j =>
    match b.outs.find? (fun o => decide (o.1 = j)) with
    | some o => o.2
    | none => actVal (b.vals.getD j 0) (b.scaleOf j)))

end Sys2Proof.Machine
end

