-- ==== Sys2Proof/Machine/Cells.lean ====
section
/-!
DEFINITION. The cells of a C-engine (R20, R21, R34, R39), and its slots with the accesses that take them (R36, R43, R45).
-/
namespace Sys2Proof.Machine

def pc1 : Nat := 0x55555555555555555555555555555555
def pc2 : Nat := 0x33333333333333333333333333333333
def pc4 : Nat := 0x0F0F0F0F0F0F0F0F0F0F0F0F0F0F0F0F

/-- Number of 1-bits of a 128-bit number. -/
def popc (x : Nat) : Nat :=
  let a := (x &&& pc1) + ((x >>> 1) &&& pc1)
  let b := (a &&& pc2) + ((a >>> 2) &&& pc2)
  let c := (b &&& pc4) + ((b >>> 4) &&& pc4)
  (List.range 16).foldl (fun n i => n + (c >>> (8 * i)) % 256) 0

/-- Physical column of a logical column. -/
def Engine.physOf (e : Engine) (l : Nat) : Nat := (Tbl.find? e.steer l).getD l

/-- Logical column that a physical column serves, if any. -/
def Engine.logicalOf (e : Engine) (p : Nat) : Option Nat :=
  match List.find? (fun (x : Nat × Nat) => decide (x.2 = p)) e.steer with
  | some x => some x.1
  | none => if p < 1024 ∧ (Tbl.find? e.steer p).isNone then some p else none

/-- Stored bits of a physical column-segment. -/
def Engine.bits (e : Engine) (cs : Nat) : Nat := (Tbl.get 0#128 e.cells cs).toNat

/-- Segment weight count (R34): the count file holds the number of 1-bits of each column-segment, since every write of the
cells adjusts it; a bit of a count-file word that stands flipped comes with the operation that reads it (log 58). -/
def Engine.wcount (e : Engine) (cs : Nat) : Nat := popc (e.bits cs)

/-- The count-file word of a column-segment is invalid (R35). -/
def Engine.badCount (e : Engine) (cs : Nat) : Bool := e.badCounts.contains (cs / 4)

/-- Block scale byte of an output and segment. -/
def Engine.scale (e : Engine) (o s : Nat) : Byte := Tbl.get 0#8 e.scales (2 * o + s)

def Engine.enabled (e : Engine) (l : Nat) : Bool := !(e.disabled.getLsbD l)

/-- Bit of a row of a physical column. -/
def Engine.cell (e : Engine) (col row : Nat) : Bool := (Tbl.get 0#128 e.cells (2 * col + row / 128)).getLsbD (row % 128)

/-- Sets a cell; the segment weight counts follow (R34). -/
def Engine.setCell (e : Engine) (col row : Nat) (b : Bool) : Engine :=
  let cs := 2 * col + row / 128
  let v := Tbl.get 0#128 e.cells cs
  let m : BitVec 128 := 1#128 <<< (row % 128)
  { e with cells := Tbl.set 0#128 e.cells cs (if b then v ||| m else v &&& ~~~m) }

/-- Physical columns a logical write of column `l` reaches: its main column, the spare it is steered to, and the spare
assigned in a rotation (R39, Tab. 3.2). -/
def Engine.writeCols (e : Engine) (l : Nat) : List Nat :=
  let p := e.physOf l
  let rot := match e.rot with
    | some r => (List.filter (fun (x : Nat × Nat) => decide (x.1 = l)) r.cols).map (fun (x : Nat × Nat) => 1024 + x.2)
    | none => []
  [l] ++ (if p = l then [] else [p]) ++ List.filter (fun (x : Nat) => decide (x ≠ p)) rot

/-- Writes a row under a column mask. -/
def Engine.writeRow (e : Engine) (row : Nat) (data mask : Nat) (physical : Bool) : Engine :=
  if physical then
    (List.range 1040).foldl (fun e p => if mask.testBit p then e.setCell p row (data.testBit p) else e) e
  else
    (List.range 1024).foldl (fun e l =>
      if mask.testBit l then (e.writeCols l).foldl (fun e p => e.setCell p row (data.testBit l)) e else e) e

/-- The stored bits of a column copied to another. -/
def Engine.copyCol (e : Engine) (src dst : Nat) : Engine :=
  (List.range 2).foldl (fun (e : Engine) s =>
    { e with cells := Tbl.set 0#128 e.cells (2 * dst + s) (Tbl.get 0#128 e.cells (2 * src + s)) }) e

def Engine.zeroCol (e : Engine) (p : Nat) : Engine :=
  { e with cells := Tbl.del (Tbl.del e.cells (2 * p)) (2 * p + 1) }

/-! ### The monitor and a replacement beside the cells -/

/-- The monitor clears S and V of the column-segments of a position whose weight count changed (R63). -/
def CoreAux.forget (x : CoreAux) (pos : Nat) (e e' : Engine) : CoreAux :=
  { x with mon := x.mon.map (fun m =>
      if m.1 / 2080 = pos ∧ e.wcount (m.1 % 2080) ≠ e'.wcount (m.1 % 2080) then (m.1, { m.2 with s := 0, v := 0 }) else m) }

/-- The engine at a physical place becomes `e'`; the monitor follows its weight counts. -/
def Device.putCells (d : Device) (c phys : Nat) (e' : Engine) : Device :=
  let e := d.engine c phys
  (d.setEngine c phys e').modCore c (fun x => { x with aux := if e.st = 0 then x.aux.forget e.pos e e' else x.aux })

/-! ### Slots (R36, R43) -/

/-- Two entries meet: in a cycle and in a segment. -/
def EngSlot.meets (a b : EngSlot) : Bool :=
  decide (a.lo < b.lo + b.len ∧ b.lo < a.lo + a.len) && ((a.lower && b.lower) || (a.upper && b.upper))

/-- The slot that an access of the calibration unit takes from cycle `t` on. -/
def EngSlot.access (u : SlotUse) (seg : Bool) (t : Nat) : EngSlot := ⟨t, 2, !seg, seg, some u⟩

/-- A segment slot is free (R43): no operation and no access has it, or its plane is zero or full in that segment. -/
def Engine.slotFree (e : Engine) (a : EngSlot) : Bool := !(e.slots.any (fun b => a.meets b))

/-- The first cycle at or after `a.lo` from which the slot is free: past each entry it meets (R45). -/
def Engine.nextFree (e : Engine) : Nat → EngSlot → EngSlot
  | 0, a => a
  | n + 1, a =>
    match e.slots.find? (fun b => a.meets b) with
    | none => a
    | some b => e.nextFree n { a with lo := b.lo + b.len }

/-- Puts an access where its slot is free at the earliest. -/
def Engine.placeSlot (e : Engine) (a : EngSlot) : Engine :=
  { e with slots := e.slots ++ [e.nextFree (e.slots.length + 1) a] }

/-- Operations of the step take slots; an access of the calibration unit that stood there moves on (R45). -/
def Engine.takeSlots (e : Engine) (ss : List EngSlot) : Engine :=
  let moved := e.slots.filter (fun b => b.work.isSome && ss.any (fun a => a.meets b))
  let kept := e.slots.filter (fun b => !(b.work.isSome && ss.any (fun a => a.meets b)))
  moved.foldl Engine.placeSlot { e with slots := kept ++ ss }

/-- Index of a kind of access. -/
def slotIx : SlotUse → Nat
  | .copyRow => 0
  | .measure => 1
  | .probe => 2
  | .recompute => 3

/-- Accesses of a kind made in a segment for the work at hand. -/
def Engine.made (e : Engine) (u : SlotUse) (seg : Bool) : Nat := Tbl.get 0 e.work (2 * slotIx u + if seg then 1 else 0)

def Engine.setMade (e : Engine) (u : SlotUse) (seg : Bool) (n : Nat) : Engine :=
  { e with work := Tbl.set 0 e.work (2 * slotIx u + if seg then 1 else 0) n }

/-- The work at hand has made at least `n` accesses of a kind in each segment. -/
def Engine.madeBoth (e : Engine) (u : SlotUse) (n : Nat) : Bool := decide (n ≤ e.made u false ∧ n ≤ e.made u true)

/-- A digital write reaches rows of segments: a probe between its two conversions there is discarded (R62). -/
def Engine.breakProbe (e : Engine) (lower upper : Bool) : Engine :=
  let e := if lower then e.setMade .probe false 0 else e
  if upper then e.setMade .probe true 0 else e

/-- An access of the calibration unit is made. In phase A the accesses of a segment read and write its rows in turn; each
write copies the row's bits of the batch onto the assigned spares (Tab. 3.2, Tab. 3.3). -/
def Engine.makeAccess (e : Engine) (u : SlotUse) (seg : Bool) : Engine :=
  let n := e.made u seg
  let e' := e.setMade u seg (n + 1)
  match u, e.rot with
  | .copyRow, some r =>
    if r.phase = 0 ∧ n % 2 = 1 ∧ n < 256 then
      let row := n / 2 + if seg then 128 else 0
      (r.cols.foldl (fun (g : Engine) x => g.setCell (1024 + x.2) row (g.cell x.1 row)) e').breakProbe (!seg) seg
    else e'
  | _, _ => e'

/-- The accesses of the calibration unit whose slots have passed by cycle `t`. -/
def Engine.passed (e : Engine) (t : Nat) : List EngSlot :=
  e.slots.filter (fun b => b.work.isSome && decide (b.lo + b.len ≤ t))

/-- Slots that have passed by cycle `t`: the unit's accesses in them are made, each counted in 9020h.04. -/
def Device.settleSlots (d : Device) (c phys t : Nat) : Device :=
  let e := d.engine c phys
  let ps := e.passed t
  let e' := ps.foldl (fun (g : Engine) b => match b.work with | some u => g.makeAccess u b.upper | none => g)
    { e with slots := e.slots.filter (fun b => decide (t < b.lo + b.len)) }
  (d.putCells c phys e').bump (key 0x9020 4) ps.length

/-- An operation of the step takes slots of the engine at a physical place. -/
def Device.takeSlots (d : Device) (c phys t : Nat) (ss : List EngSlot) : Device :=
  (d.settleSlots c phys t).modEngine c phys (fun e => e.takeSlots ss)

/-- A digital write of a row to the engine at a physical place, with the monitor's and a replacement's share of it
(R63, R64). -/
def Device.writeEngineRow (d : Device) (c phys row data mask : Nat) (physical : Bool) : Device :=
  let e := d.engine c phys
  let d := d.putCells c phys ((e.writeRow row data mask physical).breakProbe (decide (row < 128)) (decide (128 ≤ row)))
  if e.replacing && !physical then d.putCells c 32 ((d.engine c 32).writeRow row data mask false) else d

end Sys2Proof.Machine
end

