-- ==== Sys2Proof/Machine/Convert.lean ====
section
/-!
DEFINITION. What a C-engine makes of a plane (R31–R35), and the monitor's share of it (R63). A conversion answers the exact
count unless the command's readings say otherwise (an event of the analogue world); R31 then bounds it.
-/
namespace Sys2Proof.Machine

/-! ### Counting -/

def all128 : Nat := 2 ^ 128 - 1

/-- How a segment of a plane evaluates (R31). -/
inductive SegKind where
  | zero
  | full
  | direct
  | complement
  deriving DecidableEq, Repr

def segKind (plane : Nat) : SegKind :=
  let p := popc plane
  if p = 0 then .zero else if p = 128 then .full else if p ≤ 64 then .direct else .complement

/-- Rows driven in a segment. -/
def driven (plane : Nat) : Nat :=
  match segKind plane with
  | .zero => 0
  | .full => 0
  | .direct => plane
  | .complement => all128 - plane

def SegKind.converts : SegKind → Bool
  | .direct => true
  | .complement => true
  | _ => false

/-- Result of a column-segment in one plane: segment result v, fault kind (Tab. 16.2), the count it converted. -/
structure SegRes where
  v : Nat
  fault : Option Nat
  count : Nat
  deriving DecidableEq, Repr

/-- R31 for one column-segment with stored bits `b`; `over` is a count the converter answered instead of the exact one,
`bad` says that the segment weight count is invalid (R35). -/
def segResult (plane b : Nat) (bad : Bool) (ans : Option Nat) : SegRes :=
  let w := popc b
  match segKind plane with
  | .zero => ⟨0, none, 0⟩
  | .full => if bad then ⟨0, some 3, 0⟩ else ⟨w, none, 0⟩
  | kd =>
    let dr := driven plane
    let n := popc dr
    let k := ans.getD (popc (dr &&& b))
    let lo := n + w - 128
    let hi := min n w
    if bad then ⟨0, some 3, k⟩
    else if k ≥ 65 then ⟨0, some 1, k⟩
    else if k < lo ∨ hi < k then ⟨0, some 2, k⟩
    else if kd = .direct then ⟨k, none, k⟩
    else ⟨w - k, none, k⟩

/-! ### Steering (R21) -/

/-- Adds work to the calibration queue unless it is there (R60). -/
def Engine.enqueue (e : Engine) (level : Nat) (cols : List Nat) : Engine :=
  if e.queue.any (fun j => decide (j.level = level ∧ j.cols = cols)) then e
  else { e with queue := e.queue ++ [⟨level, cols⟩] }

/-- Column-segments that can give other than 0: those with stored bits, with invalid counts, or with an answer of
their own; ascending. -/
def Engine.live (e : Engine) (rd : List Reading) : List Nat :=
  let t1 : Tbl Unit := e.cells.map (fun x => (x.1, ()))
  let t2 := e.badCounts.foldl (fun t w => (List.range 4).foldl (fun t q => Tbl.put t (4 * w + q) ()) t) t1
  Tbl.keys (rd.foldl (fun t r => Tbl.put t (2 * r.col.val + if r.seg then 1 else 0) ()) t2)

/-- The answer of a converter in a pass, if the command gives one. -/
def answer (rd : List Reading) (cs pass : Nat) : Option Nat :=
  match rd.find? (fun r => decide (2 * r.col.val + (if r.seg then 1 else 0) = cs ∧ r.pass = pass)) with
  | some r => r.count
  | none => none

/-- Location field of a C-engine record (Tab. 16.1). -/
def colLoc (cs : Nat) : Nat := cs / 2 + cs % 2 * 2048

/-- Writes the error record of an engine event of step word `word`, and its counter. -/
def Device.engineErrAt (d : Device) (c pos phys cs kind detail slot word : Nat) : Device :=
  let q := (d.core c).seq
  let d := d.err { cls := 1, cluster := c / 12, unit := c % 12, phys := phys, pos := pos, loc := colLoc cs,
                   tenant := d.stepTenant c, prog := q.plan.ident.toNat, stepWord := word, slot := slot } kind detail
  if kind = 1 then d.bump (key 0x9020 1) 1
  else if kind = 2 ∨ kind = 3 then d.bump (key 0x9020 2) 1
  else if kind = 4 ∧ detail = 0 then d.bump (key 0x9020 3) 1
  else if kind = 4 then d.bump (key 0x9030 8) 1
  else d

/-- The same for an event of the word at hand, or of none. -/
def Device.engineErr (d : Device) (c pos phys cs kind detail slot : Nat) : Device :=
  d.engineErrAt c pos phys cs kind detail slot (d.core c).seq.word

/-- A count-file word is read (R34, R35): a single error is corrected, counted and written back; a double error makes its
four counts invalid, and their recomputation begins. -/
def Device.readCount (d : Device) (c phys w : Nat) (flip : BitVec 39) : Device :=
  match eccRead flip with
  | .clean => d
  | .corrected _ => (d.bump (key 0x8010 1) 1).bump (key 0x8010 3) 1
  | .poisoned =>
    if (d.engine c phys).badCounts.contains w then d
    else
      (d.modEngine c phys (fun e => { (e.setMade .recompute false 0).setMade .recompute true 0 with
        badCounts := e.badCounts ++ [w] })).bump (key 0x9020 5) 1

/-- The count-file words that an operation reads, as they stand. -/
def Device.readCounts (d : Device) (c phys : Nat) (rd : List Reading) : Device :=
  rd.foldl (fun d r => d.readCount c phys ((2 * r.col.val + if r.seg then 1 else 0) / 4) r.flip) d

/-! ### EVAL -/

def Plane.seg (p : Plane) (s : Nat) : Nat := if s = 0 then p.lo else p.hi

/-- Plane `i` of the held vector over input tile `t` (R24). -/
def HeldVec.planeOf (h : HeldVec) (t i : Nat) : Plane :=
  ⟨i, if h.signed ∧ i + 1 = h.width then -(2 ^ i) else 2 ^ i, h.plane t 0 i, h.plane t 1 i⟩

/-- Neither segment of a plane needs a conversion. -/
def Plane.digital (p : Plane) : Bool := !(segKind p.lo).converts && !(segKind p.hi).converts

/-- What one engine gives to an EVAL: contributions by output, poisoned outputs, faults (column-segment, kind), and for
the monitor the conversions (column-segment, driven rows, count). -/
structure EngEval where
  sums : Tbl Int
  bad : List Nat
  faults : List (Nat × Nat)
  convs : List (Nat × Nat × Nat)
  deriving DecidableEq, Repr

/-- One column-segment in a plane. A physical column to which no logical column is steered serves no output: it makes no
conversion and raises no fault (log 59). -/
def Engine.evalSeg (e : Engine) (p : Plane) (rd : List Reading) (a : EngEval) (cs : Nat) : EngEval :=
  match e.logicalOf (cs / 2) with
  | none => a
  | some l =>
    if !e.enabled l then a
    else
      let s := cs % 2
      let k := widthK e.width
      let o := l / k
      let om := (widthOmega e.width).getD (l % k) 0
      let known := decide (o < widthOut e.width)
      let r := segResult (p.seg s) (e.bits cs) (e.badCount cs) (answer rd cs p.ix)
      let add : Int := p.wt * om * (r.v : Int) * (blockMult (e.scale o s) : Int)
      { sums := if known && decide (add ≠ 0) then Tbl.upd 0 a.sums o (· + add) else a.sums,
        bad := if r.fault.isSome && known && !(a.bad.contains o) then a.bad ++ [o] else a.bad,
        faults := match r.fault with | some f => a.faults ++ [(cs, f)] | none => a.faults,
        convs := if (segKind (p.seg s)).converts then a.convs ++ [(cs, popc (driven (p.seg s)), r.count)]
                 else a.convs }

def Engine.evalAll (e : Engine) (p : Plane) (rd : List Reading) : EngEval :=
  (e.live rd).foldl (fun a cs => e.evalSeg p rd a cs) ⟨[], [], [], []⟩

/-! ### The monitor (R63) -/

/-- Segment slots of a plane that convert. -/
def Plane.slots (p : Plane) : Nat :=
  (if (segKind p.lo).converts then 1 else 0) + (if (segKind p.hi).converts then 1 else 0)

/-- Window of a column-segment at a position: one that has none of its own has counted its segment's conversions. -/
def CoreAux.window (x : CoreAux) (pos cs : Nat) : MonWin :=
  match Tbl.find? x.mon (pos * 2080 + cs) with
  | some m => m
  | none => { MonWin.zero with n := Tbl.get 0 x.monBase (2 * pos + cs % 2) }

/-- Gives column-segments windows of their own. -/
def CoreAux.ownWindows (x : CoreAux) (pos : Nat) (css : List Nat) : CoreAux :=
  { x with mon := css.foldl (fun m cs => Tbl.put m (pos * 2080 + cs) (x.window pos cs)) x.mon }

/-- Column-segments of a segment whose logical columns are disabled: they do not convert. -/
def Engine.disabledSegs (e : Engine) (s : Nat) : List Nat :=
  if e.disabled = 0#1024 then []
  else ((List.range 1024).filter (fun l => !e.enabled l)).map (fun l => 2 * e.physOf l + s)

/-- A window takes a conversion of count `k` with `n` driven rows on a column-segment of weight count `w`. -/
def MonWin.take (o : MonWin) (w n k : Nat) : MonWin :=
  { o with s := o.s + 128 * (k : Int) - (n * w : Nat), v := o.v + n * w * (128 - w) * (128 - n), n := o.n + 1,
           ovr := o.ovr + if k ≥ 65 then 1 else 0 }

/-- The monitor takes the conversions of segment `s` in a plane. A column-segment that holds no bits and answers 0 adds
nothing but its conversion. -/
def CoreAux.watchSeg (x : CoreAux) (pos : Nat) (e : Engine) (s n : Nat) (convs : List (Nat × Nat × Nat)) : CoreAux :=
  let mine := convs.filter (fun v => decide (v.1 % 2 = s))
  let off := e.disabledSegs s
  let x := x.ownWindows pos (mine.map (·.1) ++ off)
  { x with
    mon := x.mon.map (fun m =>
      if m.1 / 2080 = pos ∧ m.1 % 2080 % 2 = s ∧ !(off.contains (m.1 % 2080)) = true then
        let k := match mine.find? (fun v => decide (v.1 = m.1 % 2080)) with | some v => v.2.2 | none => 0
        (m.1, m.2.take (e.wcount (m.1 % 2080)) n k)
      else m),
    monBase := Tbl.upd 0 x.monBase (2 * pos + s) (· + 1) }

/-- The monitor takes a plane of its watched engine, and moves on after 16 windows' worth of segment slots. -/
def CoreAux.watch (x : CoreAux) (pos : Nat) (e : Engine) (p : Plane) (convs : List (Nat × Nat × Nat)) (win : Nat) :
    CoreAux :=
  if x.monPos ≠ pos then x
  else
    let y := (List.range 2).foldl (fun (y : CoreAux) s =>
      if (segKind (p.seg s)).converts then y.watchSeg pos e s (popc (driven (p.seg s))) convs else y) x
    if x.monSlots + p.slots ≥ 16 * win then { y with monPos := (x.monPos + 1) % 32, monSlots := 0 }
    else { y with monSlots := x.monSlots + p.slots }

/-- Conversions that disabled columns skip in a plane (6040h.04). -/
def Engine.skipped (e : Engine) (p : Plane) : Nat :=
  (List.range 8).foldl (fun n i => n + popc (e.disabled.toNat / 2 ^ (128 * i) % 2 ^ 128)) 0 * p.slots

/-- Readings of one logical position. -/
def readingsAt (rd : List Reading) (p : Nat) : List Reading := rd.filter (fun r => decide (r.pos.val = p))

/-- An engine's faults become error records, counters, and calibration work ahead of its turn (R33); a spare that serves
a rotation is due for pattern recalibration after it. -/
def Device.convFaults (d : Device) (c pos phys slot word : Nat) (fs : List (Nat × Nat)) : Device :=
  fs.foldl (fun d f =>
    let d := d.engineErrAt c pos phys f.1 f.2 0 slot word
    d.modEngine c phys (fun e =>
      let e := match e.logicalOf (f.1 / 2) with | some l => e.enqueue 3 [l] | none => e
      if f.1 / 2 ≥ 1024 ∧ e.rot.isSome = true then e.enqueue 5 [f.1 / 2] else e)) d

/-- A plane reaches its slot in its engine: what it adds by accumulator, and the accumulators it poisons. -/
def Device.evalPlane (d : Device) (c : Nat) (x : PlaneRun) : Device × Tbl Int × List Nat :=
  let phys := d.physAt c x.pos
  let d := d.readCounts c phys x.rd
  let e := { d.engine c phys with steer := x.steer }
  let r := e.evalAll x.plane x.rd
  let d := d.convFaults c x.pos phys x.slot x.word r.faults
  let d := d.bump (key 0x6040 4) (e.skipped x.plane)
  let win := d.reg (key 0x9000 7)
  let d := d.modCore c (fun y => { y with aux := y.aux.watch x.pos e x.plane r.convs win })
  (d, r.sums.map (fun v => (x.base + v.1, v.2)),
    if x.poison then (List.range x.outs).map (· + x.base) else r.bad.map (· + x.base))

end Sys2Proof.Machine
end

