-- ==== Sys2Proof/Machine/Landing.lean ====
section
/-!
DEFINITION. How a result in flight becomes visible at its latency (R96, R102).
-/
namespace Sys2Proof.Machine

/-- Values of `n` keys from `lo` on. -/
def Tbl.slice {α : Type} (d : α) (m : Tbl α) (lo n : Nat) : List α :=
  Tbl.sliceFrom d n lo (List.filter (fun e => decide (lo ≤ e.1)) m)

/-- Numbers a list from `lo` on. -/
def numbered {α : Type} : Nat → List α → List (Nat × α)
  | _, [] => []
  | i, x :: xs => (i, x) :: numbered (i + 1) xs

/-- Writes a list of values to consecutive keys from `lo` on, keeping the canonical form. -/
def Tbl.setRange {α : Type} [DecidableEq α] (d : α) (m : Tbl α) (lo : Nat) (vs : List α) : Tbl α :=
  List.filter (fun e => decide (e.1 < lo)) m ++
    (List.filter (fun e => decide (e.2 ≠ d)) (numbered lo vs) ++ List.filter (fun e => decide (lo + vs.length ≤ e.1)) m)

/-- One entry's products added to the sums (R79), each addition under R69. -/
def addOutlRow (sums : List VWord) (r : OutlRow) : List VWord × List Bool :=
  let xs := List.zipWith (fun (s : VWord) (p : F32 × Bool × Bool) =>
    let y := r69 (f32Add s.v p.1)
    ((⟨y.v, s.poison || p.2.1 || y.poison, r.tag⟩ : VWord), p.2.2 || y.degraded)) sums r.prods
  (xs.map (·.1), xs.map (·.2))

/-- The rows of an outlier list onto a range of sums: the sums, and the tags to mark degraded. -/
def addOutlRows : List VWord → List OutlRow → List VWord × List Tag
  | sums, [] => (sums, [])
  | sums, r :: rs =>
    let x := addOutlRow sums r
    let y := addOutlRows x.1 rs
    (y.1, if x.2.any id then r.tag :: y.2 else y.2)

/-- An entry ranks above another (R140): higher score, then lower identifier. -/
def TopEntry.above (a b : TopEntry) : Bool :=
  f32Lt b.score a.score || (f32Eq a.score b.score && decide (a.ident.toNat < b.ident.toNat))

/-- Puts an entry into a list in rank order. -/
def insertTop (e : TopEntry) : List TopEntry → List TopEntry
  | [] => [e]
  | x :: xs => if e.above x then e :: x :: xs else x :: insertTop e xs

/-- Offers entries to the top-k list (R140). -/
def TopK.offer (u : TopK) (clear : Bool) (k : Nat) (es : List TopEntry) (poison : Bool) (tag : Tag) : TopK :=
  let u := if clear then ⟨[], none, false, .none⟩ else u
  let k := u.k.getD k
  { list := es.foldl (fun l e => (insertTop e l).take k) u.list, k := some k, poison := u.poison || poison,
    tag := u.tag.join tag }

/-- Column disables that a record of enables leaves (R125): it replaces, keeps those it names, or adds them. -/
def newDisabled (mode : Nat) (old en : BitVec 1024) : BitVec 1024 :=
  if mode = 0 then ~~~en else if mode = 1 then old ||| ~~~en else old &&& ~~~en

/-- Number of 1-bits of a column bitmap. -/
def popCols (x : Nat) : Nat := (List.range 8).foldl (fun n i => n + popc (x / 2 ^ (128 * i) % 2 ^ 128)) 0

/-- A plane evaluates under what has landed by its cycle. -/
def Land.isPlane : Land → Bool
  | .plane _ => true
  | _ => false

/-- Puts a result in flight after those that land no later; planes follow what lands in their cycle. -/
def insertLand (t : Nat) (l : Land) : List (Nat × Land) → List (Nat × Land)
  | [] => [(t, l)]
  | x :: xs =>
    if t < x.1 ∨ (t = x.1 ∧ x.2.isPlane = true ∧ l.isPlane = false) then (t, l) :: x :: xs else x :: insertLand t l xs

def Device.fly (d : Device) (c t : Nat) (l : Land) : Device :=
  d.modCore c (fun x => { x with seq := { x.seq with landing := insertLand t l x.seq.landing } })

/-- A result becomes visible at cycle `t`. -/
def Device.applyLand (d : Device) (c t : Nat) : Land → Device
  | .stage lo ws => d.modCore c (fun x => { x with regs := { x.regs with
      stage := Tbl.setRange VWord.zero x.regs.stage lo ws } })
  | .q r v => d.modCore c (fun x => { x with regs := { x.regs with q := Tbl.set VWord.zero x.regs.q r v } })
  | .accClear n tag => d.modCore c (fun x =>
    { x with regs := { x.regs with
        acc := Tbl.setRange Acc.zero x.regs.acc 0 (List.replicate n ⟨0#48, false, tag⟩),
        osum := Tbl.setRange VWord.zero x.regs.osum 0 (List.replicate n VWord.zero) } })
  | .plane x =>
    let r := d.evalPlane c x
    (r.1.modCore c (fun y => { y with seq := y.seq.notePoisonIf (!r.2.2.isEmpty) x.tag })).fly c
      (t + if x.plane.digital then 3 else 5) (.acc x.base x.outs r.2.1 r.2.2 x.tag)
  | .acc lo n ds bad tag => d.modCore c (fun x =>
    let old := Tbl.slice Acc.zero x.regs.acc lo n
    { x with
      regs := { x.regs with
        acc := Tbl.setRange Acc.zero x.regs.acc lo ((numbered lo old).map (fun v =>
          ⟨v.2.v + BitVec.ofInt 48 (Tbl.get 0 ds v.1), v.2.poison || bad.contains v.1, tag⟩)) },
      seq := x.seq.notePoisonIf (old.any (fun a => a.poison)) tag })
  | .osum first n rows =>
    let x := d.core c
    let r := addOutlRows (Tbl.slice VWord.zero x.regs.osum first n) rows
    let bad := (List.filter (fun (v : VWord) => v.poison) r.1).map (·.tag)
    let d := d.setCore c { x with
      regs := { x.regs with osum := Tbl.setRange VWord.zero x.regs.osum first r.1 },
      seq := bad.foldl (fun (q : Seq) t => q.notePoisonIf true t) x.seq }
    r.2.foldl (fun d t => d.degradeTag c t) d
  | .u ad layer us => d.modCore c (fun x => { x with regs :=
      if ad then { x.regs with ua := us, uaLayer := layer } else { x.regs with uc := us } })
  | .buf hid off ws => d.writeH hid off ws
  | .row phys row data mask ph => d.writeEngineRow c phys row data mask ph
  | .enable phys mode en mask =>
    let old := (d.engine c phys).disabled
    let new := newDisabled mode old en
    let d := if mask then d.bump (key 0x6040 1) (popCols (new &&& ~~~old).toNat) else d
    d.modEngine c phys (fun g => { g with disabled := new })
  | .topk clear k es p tag => d.modCore c (fun x => { x with regs := { x.regs with
      topk := x.regs.topk.offer clear k es p tag } })
  | .topkClear => d.modCore c (fun x => { x with regs := { x.regs with topk := ⟨[], none, false, .none⟩ } })
  | .grid i o => d.modCore c (fun x => { x with regs := { x.regs with gi := i, go := o, held := none } })

/-- A cycle lies past a limit. -/
def pastLim (lim : Option Nat) (u : Nat) : Bool := match lim with | some t => decide (t < u) | none => false

/-- Takes the first result in flight off and lands it; none when it lands after cycle `lim`. -/
def Device.landOne (d : Device) (c : Nat) (lim : Option Nat) : Option Device :=
  match (d.core c).seq.landing with
  | [] => none
  | l :: ls =>
    if pastLim lim l.1 then none
    else some ((d.modCore c (fun x => { x with seq := { x.seq with landing := ls } })).applyLand c l.1 l.2)

/-- Lands results in order, at most `n` of them. -/
def Device.landMany (c : Nat) (lim : Option Nat) : Nat → Device → Device
  | 0, d => d
  | n + 1, d => match d.landOne c lim with | none => d | some d => Device.landMany c lim n d

/-- Landings that the results in flight can bring: a plane brings its sums. -/
def Device.landFuel (d : Device) (c : Nat) : Nat := 2 * (d.core c).seq.landing.length

/-- Everything that is visible by cycle `t` (R96). -/
def Device.landUpTo (d : Device) (c t : Nat) : Device := Device.landMany c (some t) (d.landFuel c) d

/-- Everything in flight lands: the step's fixed operations have completed (R105). -/
def Device.landAll (d : Device) (c : Nat) : Device := Device.landMany c none (d.landFuel c) d

/-- Staging results in flight: the poison and the degraded marks they bring are the step's from now on (R69, R174). -/
def Device.flyStage (d : Device) (c t lo : Nat) (rs : List (VWord × Bool)) : Device :=
  let bad := (List.filter (fun (v : VWord × Bool) => v.1.poison) rs).map (·.1.tag)
  let deg := (List.filter (fun (v : VWord × Bool) => v.2) rs).map (·.1.tag)
  let d := (d.fly c t (.stage lo (rs.map (·.1)))).modCore c
    (fun x => { x with seq := bad.foldl (fun (q : Seq) t => q.notePoisonIf true t) x.seq })
  deg.foldl (fun d t => d.degradeTag c t) d

/-- A Q register's result in flight. -/
def Device.flyQ (d : Device) (c t r : Nat) (v : VWord) (deg : Bool) : Device :=
  let d := (d.fly c t (.q r v)).modCore c (fun x => { x with seq := x.seq.notePoisonIf v.poison v.tag })
  if deg then d.degradeTag c v.tag else d

/-- Words the fixed path writes into a buffer, each with the tag of the state it comes from: rules 1 and 2 of R174. -/
def Device.flyBuf (d : Device) (c t hid off : Nat) (ws : List (RWord × Tag)) : Device :=
  let bad := (List.filter (fun (v : RWord × Tag) => v.1.poison) ws).map (·.2)
  let d := d.fly c t (.buf hid off (ws.map (·.1)))
  if bad.isEmpty then d
  else
    let own := (List.filter (fun (r : LenRow × Nat) => decide ((d.req r.1.slot).io = hid ∧ hid ≠ 0))
      ((d.core c).seq.rows.zipIdx)).map (·.2)
    d.modCore c (fun x =>
      let q := bad.foldl (fun (q : Seq) t => q.noteBufferIf true t) x.seq
      { x with seq := own.foldl (fun (q : Seq) p => q.notePoison (.pos p)) q })

end Sys2Proof.Machine
end

