-- ==== Sys2Proof/Machine/SyncUnit.lean ====
section
/-!
DEFINITION. The sync unit (13): objects, waiters, translation, and what an update does to those that wait.
-/
namespace Sys2Proof.Machine

/-! ### Objects and waiters (R308–R310, R315) -/

def Device.setSync (d : Device) (x : SyncS) : Device := { d with sync := x }

/-- Marks a tag signalled at the device's present cycle and removes the elastic operation behind it (R97). -/
def Device.elasticDone (d : Device) (c ident at_ : Nat) : Device :=
  d.modCore c (fun x =>
    match List.find? (fun (o : ElOp) => decide (o.ident = ident)) x.seq.ops with
    | none => x
    | some o =>
      let q := { x.seq with ops := List.filter (fun (y : ElOp) => decide (y.ident ≠ ident)) x.seq.ops,
                            done := if o.ofStep then max x.seq.done at_ else x.seq.done }
      let q := if o.tag = 0 ∨ o.ofStep = false then q
               else { q with tags := Tbl.put q.tags o.tag { Tbl.get (⟨some 0, 4⟩ : TagSt) q.tags o.tag with signal := some at_ } }
      { x with seq := q })

/-- A waiter's tag signals: on its core here, or by a packet to its device (R313). -/
def Device.release (d : Device) (w : Waiter) : Device :=
  match w.core with
  | some p => d.elasticDone p.1 p.2 d.cyc
  | none => d.send (.sync w.dev (.satisfied w.ref))

def Device.releaseAll (d : Device) (ws : List Waiter) : Device := ws.foldl (fun d w => d.release w) d

/-- A WAIT for `a` is satisfied (R309). -/
def waitHolds (v a : Word) : Bool := decide ((v - a).toNat < 2 ^ 31)

/-- A waiting WAIT that an object's value satisfies. -/
def Waiter.met (w : Waiter) (obj : Nat) (v : Word) : Bool :=
  decide (w.obj = obj) && !w.arrive && waitHolds v w.value

def Device.putObj (d : Device) (obj : Nat) (o : SyncObj) : Device :=
  d.setSync { d.sync with objs := Tbl.put d.sync.objs obj o }

/-- Removes waiters and lets their tags signal. -/
def Device.takeWaiters (d : Device) (p : Waiter → Bool) : List Waiter × Device :=
  (d.sync.waiters.filter p, d.setSync { d.sync with waiters := d.sync.waiters.filter (fun w => !p w) })

/-- Judges the waiting WAITs of an object again (R310). -/
def Device.judge (d : Device) (obj : Nat) (v : Word) : Device :=
  let t := d.takeWaiters (fun w => w.met obj v)
  (t.2.bump (key 0xB030 2) t.1.length).releaseAll t.1

/-- Releases the open generation of an object (R309). -/
def Device.releaseGen (d : Device) (obj : Nat) (o : SyncObj) : Device :=
  let d := (d.putObj obj { o with gen := (o.gen + 1) % 65536, arrivals := 0, barrier := 0 }).bump (key 0xB030 3) 1
  let t := d.takeWaiters (fun w => decide (w.obj = obj) && w.arrive)
  t.2.releaseAll t.1

/-- What an operation on an object comes to. -/
inductive SyncRes where
  | done
  | waiting
  | full
  | fault
  deriving DecidableEq, Repr

/-- Applies an operation to a physical object (R309): 0 SIGNAL, 1 WAIT, 2 ARRIVE; `w` is the waiter it may leave. -/
def Device.syncApply (d : Device) (obj op : Nat) (a : Word) (w : Waiter) : SyncRes × Device :=
  match Tbl.find? d.sync.objs obj with
  | none => (.fault, d)
  | some o =>
    if o.lost then (.fault, d)
    else if op = 0 then
      let v := o.value + a
      (.done, ((d.putObj obj { o with value := v }).bump (key 0xB030 1) 1).judge obj v)
    else if op = 1 then
      if waitHolds o.value a then (.done, d.bump (key 0xB030 2) 1)
      else if d.sync.waiters.length ≥ 4096 then (.full, d)
      else (.waiting, d.setSync { d.sync with waiters := d.sync.waiters ++ [{ w with obj := obj, arrive := false, value := a }] })
    else
      let n := a.toNat
      if n = 0 ∨ n > 65535 ∨ (o.barrier ≠ 0 ∧ o.barrier ≠ n) then (.fault, d)
      else if o.arrivals + 1 = n then
        (.done, d.releaseGen obj { o with barrier := n, arrivals := n })
      else if d.sync.waiters.length ≥ 4096 then (.full, d)
      else
        let d := d.putObj obj { o with barrier := n, arrivals := o.arrivals + 1 }
        (.waiting, d.setSync { d.sync with waiters :=
          d.sync.waiters ++ [{ w with obj := obj, arrive := true, value := a, gen := o.gen }] })

/-- A removed ARRIVE whose generation is still open withdraws its arrival (R315). -/
def Device.withdraw (d : Device) (w : Waiter) : Device :=
  match Tbl.find? d.sync.objs w.obj with
  | none => d
  | some o =>
    if w.arrive && decide (o.gen = w.gen ∧ o.barrier ≠ 0 ∧ o.arrivals ≠ 0) then
      let n := o.arrivals - 1
      (d.putObj w.obj { o with arrivals := n, barrier := if n = 0 then 0 else o.barrier }).bump (key 0xB030 7) 1
    else d

/-- What tells the other device that an operation sent to it has left; a SIGNAL leaves no waiter. -/
def leavesOf : SyncMsg → List SyncMsg
  | .virtualOp src tenant ctx vid op _ ref => if op = 0 then [] else [.virtualLeave src tenant ctx vid ref]
  | .physicalOp src tenant obj op _ ref => if op = 0 then [] else [.physicalLeave src tenant obj ref]
  | _ => []

/-- Removes the waiters that another device's operation left here (R315). -/
def Device.leaveFor (d : Device) (src : Coord) (tenant obj ref : Nat) : Device :=
  match Tbl.find? d.sync.objs obj with
  | none => d
  | some o =>
    if o.tenant ≠ tenant then d
    else
      let t := d.takeWaiters (fun w => decide (w.core = none ∧ w.dev = src ∧ w.ref = ref ∧ w.obj = obj))
      t.1.foldl (fun d w => d.withdraw w) t.2

/-- Removes every waiter of a core whose step ends (R315), here and, by a packet each, on other devices (log 124). -/
def Device.dropWaiters (d : Device) (c : Nat) : Device :=
  let mine := fun (w : Waiter) => match w.core with | some p => decide (p.1 = c) | none => false
  let t := d.takeWaiters mine
  let d := t.1.foldl (fun d w => d.withdraw w) t.2
  let away := d.sync.remote.filter (fun r => decide (r.core = c))
  let d := d.sendAll (away.flatMap (fun r => (leavesOf r.msg).map (fun m => OutMsg.sync r.dest m)))
  let d := d.setSync { d.sync with remote := d.sync.remote.filter (fun r => decide (r.core ≠ c)) }
  d.modCore c (fun x => { x with seq := { x.seq with
    ops := List.filter (fun (o : ElOp) => decide (o.kind ≠ .sync)) x.seq.ops } })

/-! ### Translation (R312, R313) -/

/-- Where a virtual ID leads. -/
inductive Target where
  | here (obj : Nat)
  | there (dev : Coord) (obj : Nat)
  deriving DecidableEq, Repr

/-- Handle and byte offset of a translation entry. -/
def Device.transEntry (d : Device) (ctx vid : Nat) : Option (Nat × Nat) :=
  match Tbl.find? d.dict.contexts ctx with
  | none => none
  | some c => some (c.2, 4 * vid)

/-- What a translation word says; a poisoned one is invalid. -/
def Device.targetOf (d : Device) (x : RWord) : Option Target :=
  let v := x.w.toNat
  if x.poison || !(v.testBit 31) then none
  else if v.testBit 30 then
    match Tbl.find? d.sync.aliases (v % 16384) with
    | some a => some (.there a.1 a.2)
    | none => none
  else some (.here (v % 16384))

/-- Translates a virtual ID of a context. -/
def Device.translate (d : Device) (ctx vid : Nat) : Option Target × Device :=
  match d.transEntry ctx vid with
  | none => (none, d)
  | some e =>
    let r := d.readH e.1 e.2 1
    (r.2.targetOf (r.1.headD ⟨0#32, true⟩), r.2)

/-- The word a binding leaves in its table. -/
def transWord (remote : Bool) (ix : Nat) : Word :=
  BitVec.ofNat 32 (ix + (if remote then 2 ^ 30 else 0) + 2 ^ 31)

end Sys2Proof.Machine
end

