-- ==== Sys2Proof/Machine/Sequencer.lean ====
section
/-!
DEFINITION. The sequencer of a CIM core (05): issue (R95), what stops a step (R96, R101), and the control words NOP,
STEP, COMMIT, GRID, LOOP, ENDLOOP, with HOLD_TIMEOUT and PAUSE_REQUEST. A word reads its inputs at its issue and its
results land at its latency (R96, R102). The sender presents the words in the order the sequencer takes them, a loop
body once per iteration (R120).
-/
namespace Sys2Proof.Machine

/-- What the sequencer must know of a word to issue it: whether its encoding is listed, the fault of its operands
(R115), its ranges with the cycle of their last access counted from issue, the units it reserves with cycles counted
from issue, its latency, the agent that signals its tag when it is elastic, whether it needs a DMA descriptor. -/
structure OpPlan where
  listed : Bool
  fault : Option Nat := none
  ranges : List (Rng × Nat) := []
  units : List Resv := []
  latency : Nat := 0
  elastic : Option Nat := none
  dma : Bool := false
  deriving DecidableEq, Repr

/-- A word with an unlisted encoding. -/
def OpPlan.unlisted : OpPlan := { listed := false }

/-! ### Ranges and reservations -/

/-- Two ranges conflict (R100). -/
def Rng.conflicts (a b : Rng) : Bool :=
  decide (a.engineSpace = b.engineSpace) && decide (a.lo < b.lo + b.len ∧ b.lo < a.lo + a.len) && (a.writes || b.writes)

/-- A scoreboard entry is in use at a cycle. -/
def SbEntry.busy (e : SbEntry) (t : Nat) : Bool :=
  decide (e.start ≤ t) && (match e.freed with | none => true | some f => decide (t < f))

/-- An entry holds a word that comes up at cycle `t`: one that begins in that cycle does not (R100 rule 3). -/
def SbEntry.holds (e : SbEntry) (t : Nat) : Bool := decide (e.start < t) && e.busy t

/-- The entries that conflict with some range at cycle `t`, oldest first. -/
def boardHits (b : List SbEntry) (rs : List Rng) (t : Nat) : List SbEntry :=
  b.filter (fun e => e.holds t && rs.any (fun r => r.conflicts e.rng))

/-- The first cycle at or after `t` without a conflict, or the entry that holds the word with no end known. -/
def boardWait (b : List SbEntry) (rs : List Rng) : Nat → Nat → Except SbEntry Nat
  | 0, t => .ok t
  | n + 1, t =>
    match boardHits b rs t with
    | [] => .ok t
    | e :: es =>
      match (e :: es).find? (fun x => decide (x.freed = none)) with
      | some x => .error x
      | none => boardWait b rs n ((e :: es).foldl (fun m x => max m (x.freed.getD t)) t)

/-- Two names are of one unit: a bank side is that of every row in the bank (R147, R149). -/
def CUnit.same : CUnit → CUnit → Bool
  | .bankRead x, .bankRead y => decide (x % 64 = y % 64)
  | .bankWrite x, .bankWrite y => decide (x % 64 = y % 64)
  | a, b => decide (a = b)

/-- Two reservations share a unit and a cycle (R112). -/
def Resv.overlaps (a b : Resv) : Bool := a.u.same b.u && decide (a.lo < b.hi ∧ b.lo < a.hi)

def Resv.shift (t : Nat) (r : Resv) : Resv := ⟨r.u, r.lo + t, r.hi + t⟩

/-- A unit for `n` cycles from issue. -/
def forCycles (u : CUnit) (n : Nat) : List Resv := if n = 0 then [] else [⟨u, 0, n⟩]

/-- Side `u` of the banks (R149) for `rows` rows from a flat address, spread evenly over `cycles` cycles from cycle `lo`. -/
def bankSides (u : Nat → CUnit) (addr rows cycles lo : Nat) : List Resv :=
  (List.range rows).map (fun i =>
    let t := lo + i * cycles / (max 1 rows)
    ⟨u (addr / 64 + i), t, t + 1⟩)

/-- Read side A of the banks for `rows` rows over `cycles` cycles from issue. -/
def bankReads (addr rows cycles : Nat) : List Resv := bankSides .bankRead addr rows cycles 0

/-- The write side of the banks for the rows of `bytes` bytes over `cycles` cycles from cycle `lo`. -/
def bankWrites (addr bytes cycles lo : Nat) : List Resv := bankSides .bankWrite addr (ceilDiv (addr % 64 + bytes) 64) cycles lo

/-! ### Ending a step -/

/-- The counter of a step fault (Tab. 6.20). -/
def faultCounter (code : Nat) : Nat :=
  if code = stRange then key 0xC020 0x09 else if code = stHandle then key 0xC020 0x0A
  else if code = stSync then key 0xC020 0x0B else if code = stHold then key 0xC020 0x08 else key 0xC020 0x01

/-- The step of core `c` ends with a status at cycle `t` (R96): no further word issues, its waiters go (R315), and it
commits with every request of its batch failed. `loc` is the Location of the error record. -/
def Device.endStep (d : Device) (c code t loc : Nat) : Device :=
  let x := d.core c
  let d := (d.reachCyc t).dropWaiters c
  let d := d.err { cls := 2, cluster := c / 12, unit := c % 12, loc := loc, prog := x.seq.plan.ident.toNat,
                   stepWord := x.seq.word, tenant := d.stepTenant c } 0x09 code
  let d := d.bump (faultCounter code) 1
  d.modCore c (fun x => { x with seq := { x.seq with
    ended := true, status := if x.seq.status = 0 then code else x.seq.status, prev := t, wait := none } })

/-! ### Issue (R95) -/

/-- The tags of a wait mask. -/
def waitTags (mask : Nat) : List Nat := (List.range 8).filter (fun t => decide (t ≠ 0) && mask.testBit (t - 1))

def Seq.tagSt (q : Seq) (t : Nat) : TagSt := Tbl.get (⟨some 0, 4⟩ : TagSt) q.tags t

/-- What a fetch finds: the word, a poisoned word (R171), or no handle it may fetch from (R156). -/
inductive Fetched where
  | word
  | poison
  | handle
  deriving DecidableEq, Repr

/-- Words the step queue holds (R90), and words fetched ahead of issue (R93). -/
def queueWords : Nat := 512
def fetchAhead : Nat := 64

def Device.stepQueue (d : Device) (c : Nat) : List (Nat × Bool) := Tbl.get [] d.mem.queues c

def Device.setQueue (d : Device) (c : Nat) (q : List (Nat × Bool)) : Device :=
  { d with mem := { d.mem with queues := Tbl.set [] d.mem.queues c q } }

/-- Fetches one word of handle `h` into the step queue of core `c`. -/
def Device.fetchOne (d : Device) (c h i : Nat) : Device :=
  let r := d.readH h (16 * i) 4
  r.2.setQueue c (r.2.stepQueue c ++ [(i, r.1.any (fun x => x.poison))])

/-- The handle of the running program may be fetched from (R156): valid, a program of the instance's tenant, not
Releasing. -/
def Device.progHandle (d : Device) (c h : Nat) : Option Handle :=
  match d.handle? h with
  | none => none
  | some x => if x.program && !x.releasing && decide (x.tenant = d.stepTenant c) then some x else none

/-- Word number `n` of the running program comes to issue (R93): the queue fetches, in order, the words from it on up to 64
ahead that it does not hold, and keeps the latest 512; a word it still holds is not read again. A step whose plan names no
installed program has nothing to fetch. -/
def Device.fetchWord (d : Device) (c n : Nat) : Fetched × Device :=
  let q := (d.core c).seq
  match Tbl.find? (d.inst q.plan.inst).progH (q.plan.prog * 192 + c) with
  | none => (.word, d)
  | some h =>
    match d.progHandle c h with
    | none => (.handle, d)
    | some x =>
      let kept := (d.stepQueue c).filter (fun y => decide (n < y.1 + queueWords))
      let need := ((List.range (fetchAhead + 1)).map (· + n)).filter (fun i =>
        decide (i = n ∨ 16 * i + 16 ≤ x.bytes) && !(kept.any (fun y => decide (y.1 = i))))
      let d := need.foldl (fun d i => d.fetchOne c h i) (d.setQueue c kept)
      (if (d.stepQueue c).any (fun y => decide (y.1 = n) && y.2) then .poison else .word, d)

/-- Status with which a step ends when its next word cannot be fetched. -/
def Fetched.fault : Fetched → Option Nat
  | .word => none
  | .poison => some stSchedule
  | .handle => some stHandle

/-- A core can issue a word: it is up, runs a step, and the step has not ended. -/
def Device.canIssue (d : Device) (c : Nat) : Bool :=
  let q := (d.core c).seq
  d.coreUp c && decide (q.phase = .running) && !q.ended

/-- DMA operations that hold one of the 16 descriptors. -/
def Seq.descriptors (q : Seq) : Nat :=
  (q.ops.filter (fun o => decide (o.kind = .copy ∨ o.kind = .gather ∨ o.kind = .scatter))).length

/-- Records that a word is held. -/
def Device.hold (d : Device) (c : Nat) (h : Held) : Device :=
  d.modCore c (fun x =>
    let since := match x.seq.wait with
      | some o => if o.w = h.w ∧ o.byBoard = h.byBoard then o.since else h.since
      | none => h.since
    { x with seq := { x.seq with wait := some { h with since := since } } })

/-- The row that a reservation reads, with its cycle. -/
def Resv.readOf (r : Resv) : List (Nat × Nat) :=
  match r.u with
  | .bankRead x => [(x, r.lo)]
  | _ => []

/-- An elastic operation that would begin in the cycle a conflicting word issues is held instead (R100 rule 3). -/
def Seq.yieldStart (q : Seq) (rs : List Rng) (t : Nat) : Seq :=
  let es := q.board.filter (fun e => decide (e.start = t ∧ e.agent ≠ 3 ∧ e.freed = none) && rs.any (fun r => r.conflicts e.rng))
  let ids := es.map (fun e => e.ident)
  { q with board := q.board.filter (fun e => !(decide (e.start = t) && ids.contains e.ident)),
           ops := q.ops.map (fun o => if ids.contains o.ident then { o with started := false } else o) }

/-- Makes a word issue at cycle `t`: its units, ranges, tag and completion. -/
def Seq.commitIssue (q : Seq) (w : StepWord) (p : OpPlan) (t : Nat) : Seq :=
  let q := q.yieldStart (p.ranges.map (fun r => r.1)) t
  { q with
    prev := t, word := q.word + 1, wait := none,
    resv := q.resv.filter (fun r => decide (t < r.hi)) ++ p.units.map (Resv.shift t),
    flight := q.flight.filter (fun r => decide (t ≤ r.2)) ++ p.ranges.map (fun r => (r.1, r.2 + t)),
    reads := q.reads ++ (p.units.map (Resv.shift t)).flatMap Resv.readOf,
    done := max q.done (t + p.latency),
    tags := if wTag w = 0 then q.tags
            else match p.elastic with
              | some a => Tbl.put q.tags (wTag w) ⟨none, a⟩
              | none => Tbl.put q.tags (wTag w) ⟨some (t + p.latency), 4⟩ }

/-- The cycle at which the tags of a word's wait mask have all signalled, from cycle `t0` on. -/
def Seq.afterTags (q : Seq) (ts : List Nat) (t0 : Nat) : Nat :=
  ts.foldl (fun m t => max m ((q.tagSt t).signal.getD 0)) t0

/-- The hold a word already stands in. -/
def Seq.heldAs (q : Seq) (w : StepWord) : Option Held :=
  match q.wait with
  | some h => if h.w = w then some h else none
  | none => none

/-- The pause a held word has already taken. -/
def paidPause : Option Held → Nat
  | some h => h.paused
  | none => 0

/-- The cycle from which a descriptor is free for a word that has waited for one. -/
def descriptorFrom (was : Option Held) (t : Nat) : Nat :=
  match was with
  | some h => if h.dma then max t h.notBefore else t
  | none => t

/-- The part of an issue that follows the tag waits and the pause (R95): `t2` is the cycle reached, `wt` the cycles
waited for elastic tags, `pq` the pause taken, `was` the word's earlier hold. -/
def Device.issueAt (d : Device) (c : Nat) (w : StepWord) (p : OpPlan) (t2 wt pq : Nat) (was : Option Held) :
    Option Nat × Device :=
  let q := (d.core c).seq
  match p.fault with
  | some f => (none, (d.bump (key 0xC020 3) wt).endStep c f t2 0)
  | none =>
    if p.dma && decide (q.descriptors ≥ 16) then (none, d.hold c ⟨w, t2, true, 0, pq, true, 0, none, []⟩)
    else
      let t3 := descriptorFrom was t2
      match boardWait q.board (p.ranges.map (·.1)) (q.board.length + 1) t3 with
      | .error e => (none, d.hold c ⟨w, t3, true, e.agent, pq, false, 0, none, p.ranges.map (·.1)⟩)
      | .ok t =>
        let d := (d.bump (key 0xC020 3) wt).bump (key 0xC020 2) (t - t2)
        if (p.units.map (Resv.shift t)).any (fun r => q.resv.any (fun o => o.overlaps r)) then
          (none, d.endStep c stSchedule t 0)
        else
          (some t, ((d.reachCyc t).landUpTo c t).modCore c (fun x => { x with seq := x.seq.commitIssue w p t }))

/-- The pause that a word takes before it: none without a pause point; the one pending when the word came up, since a
pause requested while it waits or is held applies at the next pause point (R95). -/
def Seq.pauseFor (q : Seq) (w : StepWord) : Option Nat :=
  if wPause w then (match q.heldAs w with | some h => h.ask | none => q.pause) else none

/-- A pause is taken: a longer one requested since then stays pending. -/
def Seq.dropPause (q : Seq) (n : Nat) : Seq := { q with pause := if q.pause = some n then none else q.pause }

/-- Issue of a word on core `c` (R95): the issue cycle, if it issues now. `plan` tells what the word needs, of the state
its operands are checked against. A word that waits for an elastic operation or is held by the scoreboard is recorded;
it is presented again later. -/
def Device.issue (d : Device) (c : Nat) (w : StepWord) (plan : Device → OpPlan) : Option Nat × Device :=
  if !d.canIssue c then (none, d)
  else
    let q := (d.core c).seq
    let t0 := q.prev + max 1 (wDelay w)
    let f := d.fetchWord c q.word
    match f.1.fault with
    | some code =>
      (none, (f.2.endStep c code t0 0).modCore c (fun x => { x with seq := x.seq.flagIf (decide (f.1 = .poison)) flPoison }))
    | none =>
      let d := f.2.landUpTo c t0
      if !(plan d).listed then (none, d.endStep c stSchedule t0 0)
      else
        let ts := waitTags (wWait w)
        let ask := q.pauseFor w
        match ts.find? (fun t => decide ((q.tagSt t).signal = none)) with
        | some t => (none, d.hold c ⟨w, t0, false, (q.tagSt t).agent, 0, false, 0, ask, []⟩)
        | none =>
          let tf := q.afterTags (ts.filter (fun t => decide ((q.tagSt t).agent = 4))) t0
          let t1 := q.afterTags ts tf
          let was := q.heldAs w
          let pq := ask.getD (paidPause was)
          let d := if ask.isSome then (d.bump (key 0xC020 7) pq).modCore c
                     (fun x => { x with seq := x.seq.dropPause pq }) else d
          let d := d.landUpTo c (t1 + pq)
          d.issueAt c w (plan d) (t1 + pq) (t1 - tf) pq was

/-- Issues a word and, when it issues, makes its effect of its issue cycle. -/
def Device.run (d : Device) (c : Nat) (w : StepWord) (plan : Device → OpPlan) (eff : Nat → Device → Device) : Device :=
  match d.issue c w plan with
  | (some t, d) => eff t d
  | (none, d) => d

/-! ### STEP -/

/-- Registers of a core at the issue of STEP (R110); engines' column enables are no register of the core. -/
def Core.atStep : Core := Core.reset

/-- The batch of the instance's round, for a step whose own lists cannot be read or fail their check (R190). -/
def Device.roundRows (d : Device) (inst : Nat) : List LenRow :=
  match Tbl.find? d.serv.rounds inst with
  | none => []
  | some r => (r.batch.foldl (fun (a : List LenRow × Nat) b =>
      (a.1 ++ [⟨b.1, b.2, (d.req b.1).len, a.2, 0⟩], a.2 + b.2)) ([], 0)).1

/-- Rows of a length table with its request list (Tab. 8.5). -/
def lenRows (slots table : List Nat) : List LenRow :=
  (slots.zipIdx).map (fun s => ⟨s.1, table.getD (4 + 4 * s.2) 0, table.getD (5 + 4 * s.2) 0,
    table.getD (6 + 4 * s.2) 0, table.getD (7 + 4 * s.2) 0⟩)

/-- Bases follow one another (R190). -/
def basesOk : Nat → List LenRow → Bool
  | _, [] => true
  | b, r :: rs => decide (r.base = b ∧ 1 ≤ r.q ∧ r.q ≤ 16384) && basesOk (b + r.q) rs

/-- The check of the length table (R190). `own` holds on the device that owns the requests; elsewhere the entries do not
stand, and only the limit of R205 is checked (log 146). -/
def Device.lenOk (d : Device) (own : Bool) (n : Nat) (rows : List LenRow) (table : List Nat) : Bool :=
  let tot := (rows.map (·.q)).sum
  decide (table.getD 0 0 = n) && basesOk 0 rows && decide (table.getD 1 0 = tot ∧ tot ≤ 16384) &&
    decide (table.getD 2 0 = (rows.map (·.q)).foldl max 0) &&
    decide (table.getD 3 0 = (rows.map (fun r => r.p + r.q)).foldl max 0) &&
    rows.all (fun r => if own then decide (r.p = (d.req r.slot).len ∧ r.p + r.q ≤ (d.req r.slot).maxLen)
      else decide (r.p + r.q ≤ 4194304))

/-- Starts a step on core `c` with a STEP word (R95, R110, R117, R190). -/
def Device.startStep (d : Device) (c : Nat) (w : StepWord) : Device :=
  let x := d.core c
  let plan := x.aux.plans.head?.getD Plan.zero
  let t := max d.cyc x.seq.prev
  let n := fld w 103 96 + 1
  let q : Seq := { Seq.reset with
    phase := .running, plan := plan, rows := d.roundRows plan.inst, start := t, prev := t, done := t,
    pause := x.seq.pause, board := x.seq.board, ops := x.seq.ops, nextOp := x.seq.nextOp }
  let d := (d.reachCyc t).setCore c { regs := Core.atStep, seq := q, aux := { x.aux with plans := x.aux.plans.drop 1 } }
  let f := (d.setQueue c []).fetchWord c 0
  let d := f.2
  match f.1.fault with
  | some code =>
    (d.endStep c code t 0).modCore c (fun x => { x with seq := x.seq.flagIf (decide (f.1 = .poison)) flPoison })
  | none =>
  if !listedWord w 0 1 then d.endStep c stSchedule t 0
  else
    let lh := fld w 52 40
    let lo := 64 * fld w 67 53
    let th := fld w 80 68
    let dst := 64 * fld w 95 81
    let words := 4 + 4 * n
    match firstFault [d.checkFixed c lh lo (2 * n) false, d.checkFixed c th dst (4 * words) false] with
    | some f => d.endStep c f t 0
    | none =>
      let r1 := d.readH lh lo ((n + 1) / 2)
      let r2 := r1.2.readH th dst words
      let lb := rwBytes r1.1
      let slots := (List.range n).map (fun i => leAt lb (2 * i) 2)
      let table := r2.1.map (fun x => x.w.toNat)
      let rows := lenRows slots table
      let bad := (r1.1 ++ r2.1).any (·.poison)
      let d := r2.2
      let d := if bad then d.modCore c (fun x => { x with seq := x.seq.notePoisonIf true .all }) else d
      if !d.lenOk (d.ownsInst plan.inst) n rows table then d.endStep c stRange t 0
      else
        let lat := ceilDiv n 16 + 2
        d.modCore c (fun x => { x with seq := { x.seq with
          rows := rows, word := 1, done := t + lat, resv := [⟨.loader, t, t + lat⟩],
          tags := if wTag w = 0 then [] else Tbl.put [] (wTag w) ⟨some (t + lat), 4⟩ } })

/-- The next step of a core waits for a reference-mode rerun of its instance, whose output no step may consume before it is
overwritten (R85, R87). -/
def Device.rerunWaits (d : Device) (c : Nat) : Bool :=
  match (d.core c).aux.plans with
  | [] => false
  | p :: _ => d.cast.reruns.any (fun r => decide (r.1 = p.inst))

/-- STEP (R117): the core stands at a commit mark with the next step at hand; a second STEP inside a step is not listed
(R92). -/
def execStep (c : CoreIx) (w : StepWord) (s : State) : Host.Outcome State Fault Refusal :=
  s.lift (fun d =>
    if d.coreUp c && decide ((d.core c).seq.phase = .idle ∨ (d.core c).seq.phase = .ready) then
      if d.rerunWaits c then d else d.startStep c w
    else d.run c w (fun _ => OpPlan.unlisted) (fun _ d => d))

/-- NOP (R120). -/
def execNop (c : CoreIx) (w : StepWord) (s : State) : Host.Outcome State Fault Refusal :=
  s.lift (fun d => d.run c w (fun _ => { listed := listedWord w 0 0 }) (fun _ d => d))

/-- COMMIT (R105): the sequencer issues no further word and waits for the step's operations. -/
def execCommit (c : CoreIx) (w : StepWord) (s : State) : Host.Outcome State Fault Refusal :=
  s.lift (fun d => d.run c w (fun _ => { listed := listedWord w 0 2 }) (fun _ d =>
    d.modCore c (fun x => { x with seq := { x.seq with phase := .drain } })))

/-- Every logical position for `n` cycles from cycle `lo`. -/
def allEngines (lo n : Nat) : List Resv := (List.range 32).map (fun p => ⟨.engine p, lo, lo + n⟩)

/-- GRID (R118, R119). -/
def execGrid (c : CoreIx) (w : StepWord) (s : State) : Host.Outcome State Fault Refusal :=
  s.lift (fun d =>
    let i := fld w 42 40
    let o := fld w 45 43
    d.run c w (fun _ => { listed := listedWord w 0 3 && decide (i + o ≤ 5),
                          units := ⟨.broadcast, 0, 2⟩ :: allEngines 0 2, latency := 2 })
      (fun t d => d.fly c (t + 2) (.grid i o)))

/-! ### Loops (R120) -/

/-- Index of the word after the matching ENDLOOP, from a list of words with their index: `n` loops are open. -/
def afterEndloop : List StepWord → Nat → Nat → Option Nat
  | [], _, _ => none
  | w :: ws, i, n =>
    if wClass w = 0 ∧ wOp w = 4 then afterEndloop ws (i + 1) (n + 1)
    else if wClass w = 0 ∧ wOp w = 5 then (if n = 0 then some (i + 1) else afterEndloop ws (i + 1) (n - 1))
    else afterEndloop ws (i + 1) n

/-- The words of the running program, where its maquette gives them. -/
def Device.progWords (d : Device) (c : Nat) : List StepWord :=
  let q := (d.core c).seq
  match (d.inst q.plan.inst).maq with
  | none => []
  | some m => match m.extra.programs[q.plan.prog]? with | none => [] | some p => p.words

/-- A word of the length table the step was started with, by its index (Tab. 8.5). -/
def tableWord (rows : List LenRow) (i : Nat) : Option Nat :=
  if i = 0 then some rows.length
  else if i = 1 then some (rows.map (·.q)).sum
  else if i = 2 then some ((rows.map (·.q)).foldl max 0)
  else if i = 3 then some ((rows.map (fun r => r.p + r.q)).foldl max 0)
  else
    match rows[(i - 4) / 4]? with
    | none => none
    | some r => some (if i % 4 = 0 then r.q else if i % 4 = 1 then r.p else if i % 4 = 2 then r.base else r.m)

/-- LOOP (R118, R120). -/
def execLoop (c : CoreIx) (w : StepWord) (s : State) : Host.Outcome State Fault Refusal :=
  s.lift (fun d =>
    let k := fld w 41 40
    let tab := w.getLsbD 42
    let n := fld w 58 43
    let rows := (d.core c).seq.rows
    let cnt := if tab then tableWord rows n else some n
    d.run c w (fun _ => { listed := listedWord w 0 4, fault := if cnt.isNone then some stRange else none,
                          units := ⟨.sequencer, 0, 1⟩ :: (if tab then [⟨.loader, 0, 1⟩] else []), latency := 1 })
      (fun _ d =>
      let n := cnt.getD 0
      let ws := d.progWords c
      d.modCore c (fun x =>
        let at_ := x.seq.word
        let next := if n = 0 then (afterEndloop (ws.drop at_) at_ 0).getD at_ else at_
        { x with
          regs := { x.regs with loops := Tbl.put x.regs.loops k ⟨0, n, at_, decide (n ≠ 0)⟩ },
          seq := { x.seq with word := next } })))

/-- ENDLOOP (R118, R120). -/
def execEndloop (c : CoreIx) (w : StepWord) (s : State) : Host.Outcome State Fault Refusal :=
  s.lift (fun d =>
    let k := fld w 41 40
    d.run c w (fun _ => { listed := listedWord w 0 5, units := [⟨.sequencer, 0, 1⟩], latency := 1 }) (fun _ d =>
      d.modCore c (fun x =>
        let l := Tbl.get (⟨0, 0, 0, false⟩ : LoopCtr) x.regs.loops k
        let v := l.value + 1
        let again := l.active && decide (v < l.count)
        { x with
          regs := { x.regs with loops := Tbl.put x.regs.loops k ⟨v, l.count, l.body, again⟩ },
          seq := { x.seq with word := if again then l.body else x.seq.word } })))

/-! ### Holds and pauses -/

/-- The agent a hold timeout reports (R101): of the oldest conflicting entry, or of the awaited operation. -/
def Seq.heldBy (q : Seq) (h : Held) (t : Nat) : Nat :=
  match boardHits q.board h.rngs t with
  | e :: _ => e.agent
  | [] => h.agent

/-- HOLD_TIMEOUT (R101): the held word of the core has waited longer than the hold limit C000h.02. -/
def execHoldTimeout (c : CoreIx) (s : State) : Host.Outcome State Fault Refusal :=
  s.lift (fun d =>
    match (d.core c).seq.wait with
    | none => d
    | some h =>
      let lim := d.reg (key 0xC000 2)
      let t := h.since + lim + 1
      let d := d.bump (if h.byBoard then key 0xC020 2 else key 0xC020 3) (lim + 1)
      d.endStep c stHold t ((d.core c).seq.heldBy h t % 4 + if h.byBoard then 4 else 0))

/-- A word that carries a pause point waits out the pause pending on its core at cycle `t`: the core reads as paused
(R104, R108). -/
def Device.pausedAt (d : Device) (c t : Nat) : Bool :=
  let q := (d.core c).seq
  match q.pause, (d.progWords c)[q.word]? with
  | some n, some w =>
    let ts := waitTags (wWait w)
    let t1 := q.afterTags ts (q.prev + max 1 (wDelay w))
    wPause w && decide (q.phase = .running ∧ q.ended = false) && ts.all (fun k => decide ((q.tagSt k).signal ≠ none)) &&
      decide (t1 ≤ t ∧ t < t1 + n)
  | _, _ => false

/-- A pause request on a CIM core (R104): a longer one replaces a pending one; an idle core has no pause to take. -/
def Device.pauseCore (d : Device) (c q : Nat) : Device :=
  let x := d.core c
  if x.seq.phase = .idle then d
  else d.setCore c { x with seq := { x.seq with pause := some (max q (x.seq.pause.getD 0)) } }

def Device.attnUnit (d : Device) (k : Nat) : Attn := Tbl.get Attn.reset d.attn.units k

def Device.setAttn (d : Device) (k : Nat) (x : Attn) : Device :=
  { d with attn := { d.attn with units := Tbl.set Attn.reset d.attn.units k x } }

/-- A pause request on an attention core (R397): each engine takes it on its own, an idle one at once. -/
def Device.pauseAttn (d : Device) (k q : Nat) : Device :=
  let a := d.attnUnit k
  let got := fun (e : Nat) => match a.pauseQ.find? (fun x => decide (x.1 = e)) with | some x => x.2 | none => 0
  if a.cur.isNone then d.setAttn k { a with pausing := a.pausing ++ (List.range 6).map (fun e => (e, d.cyc + q)) }
  else d.setAttn k { a with pauseQ := (List.range 6).map (fun e => (e, max q (got e))) }

/-- A pause request on any core, by core index. -/
def Device.pauseAny (d : Device) (i q : Nat) : Device :=
  if i % 13 = 12 then d.pauseAttn (i / 13) q else d.pauseCore (i / 13 * 12 + i % 13) q

/-- PAUSE_REQUEST (R104, R397): of a CIM core, or of the engines of an attention core, each at its next block
boundary. -/
def execPauseRequest (c : AnyCore) (q : Nat) (s : State) : Host.Outcome State Fault Refusal :=
  s.lift (fun d => d.pauseAny c.val q)

/-- ENGINE_PAUSE (R397): an engine at a block boundary takes the pause asked of it. -/
def execEnginePause (k : ClusterIx) (e : Fin 6) (s : State) : Host.Outcome State Fault Refusal :=
  s.lift (fun d =>
    let a := d.attnUnit k
    match a.pauseQ.find? (fun x => decide (x.1 = e.val)) with
    | none => d
    | some x => d.setAttn k { a with pauseQ := a.pauseQ.filter (fun y => decide (y.1 ≠ e.val)),
                                     pausing := a.pausing ++ [(e.val, d.cyc + x.2)] })

end Sys2Proof.Machine
end

