-- ==== Sys2Proof/Machine/Engine.lean ====
section
/-!
DEFINITION. The C-engine (02) and the engine operations of class 1: EVAL, EVALT, EVALX, RDROW, WRROW, ENABLE. A
conversion answers the exact count unless the command's readings say otherwise (an event of the analogue world);
R31 then bounds it.
-/
namespace Sys2Proof.Machine

/-- The planes an EVAL names, in its order. -/
def evalPlanes (w : StepWord) : List Nat :=
  let f := fld w 92 90
  let n := fld w 95 93 + 1
  (List.range n).map (fun i => if w.getLsbD 96 then f - i else f + i)

/-- The planes stay within 0 to B − 1 (R122). -/
def evalListed (w : StepWord) : Bool :=
  let B := fld w 89 87 + 1
  let f := fld w 92 90
  let n := fld w 95 93 + 1
  decide (f < B) && (if w.getLsbD 96 then decide (n ≤ f + 1) else decide (f + n ≤ B))

/-- Reads words without the side effects of a read. -/
def Device.peekH (d : Device) (hid off n : Nat) : List RWord :=
  match d.handle? hid with
  | none => List.replicate n ⟨0#32, true⟩
  | some h =>
    let bad := h.bad
    (List.range n).map (fun i => let x := d.peek (h.addr off / 4 + i); { x with poison := x.poison || bad })

/-- Flat address of a byte of a handle, 0 where there is none. -/
def Device.addrOf (d : Device) (hid off : Nat) : Nat :=
  match d.handle? hid with | some h => h.addr off | none => 0

/-- Owner slot and tag of the token a word names. -/
def Seq.tokenTag (q : Seq) (j : Nat) : Tag × Nat :=
  match q.rowOf j with
  | some r => (.pos r.2, r.1.slot)
  | none => (.none, 0xFFFF)

/-- Layer overflows of a vector (R78, R80): counters, the layer's record and window, the flag, the degraded mark. -/
def Device.layerOver (d : Device) (c inst layer n : Nat) (tag : Tag) : Device :=
  if n = 0 then d
  else
    let d := d.bump (key 0x7041 2) n
    let l := d.layerRec inst layer
    let d := d.setLayerRec inst layer { l with ovr := min (2 ^ 32 - 1) (l.ovr + n), winOver := l.winOver + n }
    let d := d.modCore c (fun x => { x with seq := x.seq.setFlag flLayer })
    d.degradeTag c tag

/-- Registers and vector of an EVAL as it will evaluate, from what its bursts hold. -/
def Device.evalVector (d : Device) (c : Nat) (w : StepWord) (ws : List RWord) : Option VecBuild × Option HeldVec :=
  let x := d.core c
  if w.getLsbD 98 then (none, x.regs.held)
  else
    let B := fld w 89 87 + 1
    let acc := w.getLsbD 97
    let layer := fld w 110 99
    let j := tForm w 111 x.regs
    let tt := x.seq.tokenTag j
    let cap := d.capOn c x.seq.plan.inst layer
    let room := cap - (if acc then x.regs.olist.length else 0)
    let b := buildVec ws (fld w 86 79) B (if acc then x.regs.ea else none) room tt.1 tt.2 layer
    let b := { b with hv := { b.hv with tok := j } }
    (some b, some b.hv)

/-- Planes left for each input tile's engines: (positions, planes); compact mode removes the digital ones, and every
plane of an engine whose enables are all clear (R42). -/
def Device.evalLeft (d : Device) (c : Nat) (r : Core) (h : HeldVec) (w : StepWord) : List (Nat × Nat) :=
  let n := (evalPlanes w).length
  if !wCompact w then (gridPos r).map (fun g => (g.1, n))
  else (gridPos r).map (fun g =>
    let e := d.engine c (d.physAt c g.1)
    let ps := (evalPlanes w).map (h.planeOf g.2.1)
    (g.1, if e.disabled = BitVec.allOnes 1024 then 0 else (ps.filter (fun p => !p.digital)).length))

/-- The plan of an EVAL (R121, R122, Tab. 6.3). -/
def Device.evalPlan (d : Device) (c : Nat) (w : StepWord) : OpPlan :=
  let x := d.core c
  let r := x.regs
  let reuse := w.getLsbD 98
  let a := aForm w 40
  let off := a.byteOff r
  let b := fld w 86 79
  let ne := d.gridOut c r
  let n := (evalPlanes w).length
  let hold := match r.held with
    | some h => decide (h.width = fld w 89 87 + 1)
    | none => false
  let listed := listedWord w 1 0 && evalListed w && (if reuse then hold else decide (1 ≤ b))
  let fault := firstFault [if reuse then none else d.checkFixed c a.handle off (64 * b) false,
    checkIdx 0 (2 ^ r.go * ne), x.seq.checkToken (tForm w 111 r), d.checkLayer c (fld w 110 99)]
  if !listed then OpPlan.unlisted
  else if fault.isSome then { listed := true, fault := fault }
  else
    let la := if reuse then 0 else ceilDiv b 8 - 1
    let hv := (d.evalVector c w (if reuse then [] else d.peekH a.handle off (16 * b))).2
    let left : List (Nat × Nat) := match hv with
      | some h => d.evalLeft c r h w
      | none => (gridPos r).map (fun (g : Nat × Nat × Nat) => (g.1, n))
    let most := left.foldl (fun (m : Nat) (p : Nat × Nat) => max m p.2) 0
    { listed := true,
      ranges := ((if reuse then [] else d.bufRange a.handle off (64 * b) false).map (fun g => (g, la))) ++
        [(⟨true, 0, 256 * 2 ^ (r.gi + r.go), false, true⟩, la + 2 * most)],
      units := (if reuse then [] else forCycles .readPort (la + 1) ++ bankReads (d.addrOf a.handle off) b (la + 1)) ++
        forCycles .broadcast (la + 2 * most) ++
        (List.filter (fun (p : Nat × Nat) => decide (p.2 ≠ 0)) left).map (fun (p : Nat × Nat) => ⟨.engine p.1, la, la + 2 * p.2⟩),
      latency := la + 2 * most + 3 }

/-- Compact mode saves the cycles of the planes it removes, and sets its flag (R42, R143). -/
def Device.noteCompact (d : Device) (c : Nat) (w : StepWord) (most : Nat) : Device :=
  if wCompact w then
    (d.bump (key 0xC020 6) (2 * ((evalPlanes w).length - most))).modCore c
      (fun y => { y with seq := y.seq.setFlag flCompact })
  else d

/-- The core holds a new vector, where bursts gave one: its alignment, its outliers and its layer overflows (R76, R78). -/
def Device.takeVector (d : Device) (c : Nat) (w : StepWord) (o : Option VecBuild) (tag : Tag) : Device :=
  match o with
  | none => d
  | some b =>
    let i := (d.core c).seq.plan.inst
    let layer := fld w 110 99
    let acc := w.getLsbD 97
    let d := d.modCore c (fun y => { y with regs := { y.regs with
      held := some b.hv,
      ea := if acc then some (y.regs.ea.getD b.own) else some b.own,
      olist := (if acc then y.regs.olist else []) ++ b.joined,
      oinfo := ⟨d.capOn c i layer, wCompact w⟩ } })
    d.layerOver c i layer b.ovr tag

/-- A vector used again without Accumulate starts the outlier list and the alignment anew (R122). -/
def Device.reuseVector (d : Device) (c : Nat) (w : StepWord) (h : HeldVec) : Device :=
  if w.getLsbD 98 && !w.getLsbD 97 then
    d.modCore c (fun y => { y with regs := { y.regs with olist := [], ea := some h.ea } })
  else d

/-- When the planes of an EVAL reach an engine, in cycles from its first slot: one slot a plane, or in compact mode the
planes that need no conversion at once and the others one slot each (R40, R42). -/
def planeTimes (compact : Bool) (ps : List Plane) : List (Nat × Plane) :=
  let inSlots := fun (l : List Plane) => l.zipIdx.map (fun p => (2 * p.2, p.1))
  if compact then (ps.filter (fun p => p.digital)).map (fun p => (0, p)) ++ inSlots (ps.filter (fun p => !p.digital))
  else inSlots ps

/-- Segment slots that a plane takes from cycle `t` on: those of the segments it converts in (R43). -/
def Plane.slot (p : Plane) (t : Nat) : EngSlot := ⟨t, 2, (segKind p.lo).converts, (segKind p.hi).converts, none⟩

/-- Cycle from its slot at which a plane's sums are visible (R40). -/
def Plane.lat (p : Plane) : Nat := if p.digital then 3 else 5

/-- First cycle, from the first slot, at which any of the planes adds to accumulators. -/
def firstSum (ts : List (Nat × Plane)) : Nat := ts.foldl (fun m x => min m (x.1 + x.2.lat)) 5

/-- Sends the planes of an EVAL that issued at cycle `t0` to the engine at a grid position from cycle `t` on. An engine all of whose columns are
disabled drops its planes in compact mode (R42): they add nothing, and a poisoned input still poisons. -/
def Device.sendPlanes (d : Device) (c ne slot : Nat) (w : StepWord) (h : HeldVec) (rd : List Reading) (t0 t : Nat)
    (g : Nat × Nat × Nat) : Device :=
  let phys := d.physAt c g.1
  let e := d.engine c phys
  let ps := (evalPlanes w).map (h.planeOf g.2.1)
  let dirty := h.poisoned g.2.1 0 || h.poisoned g.2.1 1
  if wCompact w && decide (e.disabled = BitVec.allOnes 1024) then
    (d.bump (key 0x6040 4) ((ps.map e.skipped).sum)).fly c (t + 3)
      (.acc (g.2.2 * ne) ne [] (if dirty then (List.range ne).map (· + g.2.2 * ne) else []) h.tag)
  else
    let ts := planeTimes (wCompact w) ps
    let slots := (ts.filter (fun x => !(wCompact w && x.2.digital))).map (fun x => x.2.slot (t + x.1))
    let rs := readingsAt rd g.1
    let word := (d.core c).seq.word
    ts.foldl (fun d x => d.fly c (t + x.1) (.plane
      { pos := g.1, base := g.2.2 * ne, outs := ne, steer := e.steer, plane := x.2, rd := rs.filter (fun r => decide (r.pass = x.2.ix)),
        tag := h.tag, slot := slot, word := word, poison := dirty })) (d.takeSlots c phys t0 slots)

/-- The effect of an EVAL that issues at cycle `t`: its vector is taken, and its planes go to their slots. With Accumulate
0 the accumulators clear as the first of its sums lands. -/
def Device.evalEffect (d : Device) (c : Nat) (w : StepWord) (rd : List Reading) (t : Nat) : Device :=
  let x := d.core c
  let r := x.regs
  let reuse := w.getLsbD 98
  let ne := d.gridOut c r
  let rr := if reuse then ([], d) else d.readH (aForm w 40).handle ((aForm w 40).byteOff r) (16 * fld w 86 79)
  let ev := rr.2.evalVector c w rr.1
  match ev.2 with
  | none => rr.2
  | some h =>
    let tt := x.seq.tokenTag (tForm w 111 r)
    let h := { h with tag := tt.1 }
    let most := (rr.2.evalLeft c r h w).foldl (fun (m : Nat) (p : Nat × Nat) => max m p.2) 0
    let d := rr.2.noteCompact c w most
    let d := d.takeVector c w ev.1 tt.1
    let d := d.reuseVector c w h
    let t1 := t + (if reuse then 0 else ceilDiv (fld w 86 79) 8 - 1)
    let first := (gridPos r).foldl (fun (m : Nat) g =>
      min m (firstSum (planeTimes (wCompact w) ((evalPlanes w).map (h.planeOf g.2.1))))) 5
    let d := if w.getLsbD 97 then d else d.fly c (t1 + first) (.accClear (2 ^ r.go * ne) tt.1)
    (gridPos r).foldl (fun d g => d.sendPlanes c ne tt.2 w h rd t t1 g) d

/-- EVAL (R121–R123). -/
def execEval (c : CoreIx) (w : StepWord) (rd : List Reading) (s : State) : Host.Outcome State Fault Refusal :=
  s.lift (fun d => d.run c w (fun d => d.evalPlan c w) (fun t d => d.evalEffect c w rd t))

/-! ### EVALT (R37) -/

/-- The bit of one column-segment and whether a comparison was made; a count-invalid fault is told by `none` for the
bit (then v is 0). -/
def evaltBit (plane b T : Nat) (bad : Bool) (ans : Option Nat) : Option Bool × Bool :=
  let w := popc b
  match segKind plane with
  | .zero => (some (decide (T = 0)), false)
  | .full => if bad then (none, false) else (some (decide (T ≤ w)), false)
  | kd =>
    if bad then (none, false)
    else
      let dr := driven plane
      let n := popc dr
      let k := ans.getD (popc (dr &&& b))
      let lo := n + w - 128
      let hi := min n w
      if kd = .direct then
        if T ≤ lo then (some true, false) else if hi < T then (some false, false) else (some (decide (T ≤ k)), true)
      else
        -- u := w − T may be negative: T > w + … then u < lo
        if w < T + lo then (some false, false)
        else
          let u := w - T
          if hi ≤ u then (some true, false) else (some (decide (k < u + 1)), true)

/-- Bits of a mask as clean words, or all poisoned. -/
def maskWords (n : Nat) (m : Nat) (poison : Bool) : List RWord :=
  (List.range n).map (fun i => ⟨BitVec.ofNat 32 (m / 2 ^ (32 * i)), poison⟩)

/-- One engine of an EVALT: the mask over logical columns (bit 2c + s), the words it poisons, its faults, and what the
monitor counts (column-segment, bit). -/
def Engine.evalt (e : Engine) (p : Plane) (tl tu : Nat) (rd : List Reading) :
    Nat × List Nat × List (Nat × Nat) × List (Nat × Bool) :=
  (List.range 2048).foldl (fun a i =>
    let l := i / 2
    let s := i % 2
    if !e.enabled l then a
    else
      let cs := 2 * e.physOf l + s
      let r := evaltBit (p.seg s) (e.bits cs) (if s = 0 then tl else tu) (e.badCount cs) (answer rd cs p.ix)
      match r.1 with
      | none => (if (if s = 0 then tl else tu) = 0 then a.1 + 2 ^ i else a.1, a.2.1 ++ [i / 32], a.2.2.1 ++ [(cs, 3)], a.2.2.2)
      | some b => (if b then a.1 + 2 ^ i else a.1, a.2.1, a.2.2.1, if r.2 then a.2.2.2 ++ [(cs, b)] else a.2.2.2))
    (0, [], [], [])

/-- The monitor counts EVALT bits of its watched engine (R63). Its segment slots do not count toward the monitor's stay,
since R63 counts conversions and an EVALT makes a comparison (log 79). -/
def CoreAux.watchBits (x : CoreAux) (pos : Nat) (bs : List (Nat × Bool)) : CoreAux :=
  if x.monPos ≠ pos then x
  else { x with mon := bs.foldl (fun (m : Tbl MonWin) b =>
    let o := x.window pos b.1
    let o := (Tbl.find? m (pos * 2080 + b.1)).getD o
    Tbl.put m (pos * 2080 + b.1) { o with asked := o.asked + 1, ones := o.ones + if b.2 then 1 else 0 }) x.mon }

/-- The plan shared by EVALT and EVALX: `rec_` bytes per engine record, `bc` broadcast cycles, `ec` engine cycles. -/
def Device.maskPlan (d : Device) (c : Nat) (w : StepWord) (op rec_ bc ec lat : Nat) (extra : Bool) : OpPlan :=
  let r := (d.core c).regs
  let a := aForm w 40
  let off := a.byteOff r
  let ng := 2 ^ (r.gi + r.go)
  let hold := match r.held with | some h => decide (fld w 81 79 < h.width) | none => false
  if !(listedWord w 1 op && hold && extra) then OpPlan.unlisted
  else match d.checkFixed c a.handle off (rec_ * ng) true with
    | some f => { listed := true, fault := some f }
    | none =>
      { listed := true,
        ranges := (d.bufRange a.handle off (rec_ * ng) true).map (fun g => (g, lat + ng)) ++
          [(⟨true, 0, 256 * ng, false, true⟩, ec)],
        units := forCycles .broadcast bc ++ (List.range ng).map (fun p => ⟨.engine p, 0, ec⟩) ++
          [⟨.writePort, lat, lat + ng⟩] ++ bankWrites (d.addrOf a.handle off) (rec_ * ng) ng lat,
        latency := lat + ng }

/-- One grid position of an EVALT: its mask on the way to the buffer, with its faults and counts. -/
def Device.evaltAt (d : Device) (c : Nat) (w : StepWord) (rd : List Reading) (t off : Nat) (h : HeldVec)
    (g : Nat × Nat × Nat) : Device :=
  let r := (d.core c).regs
  let phys := d.physAt c g.1
  let p := h.planeOf g.2.1 (fld w 81 79)
  let rs := (readingsAt rd g.1).filter (fun r => decide (r.pass = p.ix))
  let d := (d.takeSlots c phys t [p.slot t]).readCounts c phys rs
  let e := d.engine c phys
  let m := e.evalt p (fld w 89 82) (fld w 97 90) rs
  let dirty := h.poisoned g.2.1 0 || h.poisoned g.2.1 1
  let ws := (List.range 64).map (fun i =>
    (⟨BitVec.ofNat 32 (m.1 / 2 ^ (32 * i)), dirty || m.2.1.contains i⟩ : RWord))
  let d := d.convFaults c g.1 phys h.slot (d.core c).seq.word m.2.2.1
  let d := d.bump (key 0x6040 4) (e.skipped p)
  let d := d.modCore c (fun y => { y with aux := y.aux.watchBits g.1 m.2.2.2 })
  d.flyBuf c (t + 5 + 2 ^ (r.gi + r.go)) (aForm w 40).handle (off + 256 * g.1) (ws.map (·, h.tag))

/-- EVALT (R37, R124, R125). A threshold above 128 is taken for an unlisted encoding: Tab. 6.7 gives its fields 0–128
(log 99). -/
def execEvalt (c : CoreIx) (w : StepWord) (rd : List Reading) (s : State) : Host.Outcome State Fault Refusal :=
  s.lift (fun d =>
    d.run c w (fun d => d.maskPlan c w 1 256 1 2 5 (decide (fld w 89 82 ≤ 128 ∧ fld w 97 90 ≤ 128))) (fun t d =>
      let r := (d.core c).regs
      match r.held with
      | none => d
      | some h => (gridPos r).foldl (fun d g => d.evaltAt c w rd t ((aForm w 40).byteOff r) h g) d))

/-! ### EVALX (R38) -/

/-- The lowest-numbered `n` rows among those set in `m`, walking rows from `r` for `k` rows. -/
def lowestRows (m : Nat) : Nat → Nat → Nat → Nat
  | 0, _, _ => 0
  | k + 1, r, n =>
    if n = 0 then 0
    else if m.testBit r then 2 ^ r + lowestRows m k (r + 1) (n - 1)
    else lowestRows m k (r + 1) n

/-- The half X that EVALX forms from a plane (R38). -/
def probeHalf (plane : Nat) : Nat :=
  let p := popc plane
  if p = 64 then plane
  else if p < 64 then plane + lowestRows (all128 - plane) 128 0 (64 - p)
  else lowestRows plane 128 0 64

/-- R38 for one column-segment: `none` when its count is invalid, else whether the probe passes. -/
def probeSeg (x b : Nat) (bad : Bool) (ax ay : Option Nat) : Option Bool :=
  if bad then none
  else
    let w := popc b
    let kx := ax.getD (popc (x &&& b))
    let ky := ay.getD (popc ((all128 - x) &&& b))
    let lo := w - 64
    let hi := min 64 w
    some (decide (lo ≤ kx ∧ kx ≤ hi ∧ lo ≤ ky ∧ ky ≤ hi ∧ kx + ky = w))

/-- Column-segments of an engine that do not pass, with whether their count was invalid. -/
def Engine.probe (e : Engine) (xl xu : Nat) (rd : List Reading) : List (Nat × Bool) :=
  (e.live rd).filterMap (fun cs =>
    let x := if cs % 2 = 0 then xl else xu
    match probeSeg x (e.bits cs) (e.badCount cs) (answer rd cs 0) (answer rd cs 1) with
    | none => some (cs, true)
    | some true => none
    | some false => some (cs, false))

/-- Column that the calibration work on a physical column names (R60): the logical column it serves, or for a column that
serves none its own, a main column as the logical column it belongs to. -/
def Engine.workCol (e : Engine) (p : Nat) : Nat := (e.logicalOf p).getD p

/-- Records, counters and calibration work for the failing column-segments of a probe; `detail` 0 for EVALX, 1 for a
calibration probe. -/
def Device.probeFaults (d : Device) (c pos phys detail slot : Nat) (fs : List (Nat × Bool)) : Device :=
  fs.foldl (fun d f =>
    if f.2 then d.engineErr c pos phys f.1 3 0 slot
    else (d.engineErr c pos phys f.1 4 detail slot).modEngine c phys (fun e => e.enqueue 3 [e.workCol (f.1 / 2)])) d

/-- Both slots of a probe convert in every column-segment of both segments. -/
def probeSlots (t : Nat) : List EngSlot := [⟨t, 4, true, true, none⟩]

/-- One grid position of an EVALX: its pass mask on the way to the buffer, with its faults. -/
def Device.evalxAt (d : Device) (c : Nat) (w : StepWord) (rd : List Reading) (t off : Nat) (h : HeldVec)
    (g : Nat × Nat × Nat) : Device :=
  let r := (d.core c).regs
  let phys := d.physAt c g.1
  let rs := readingsAt rd g.1
  let d := (d.takeSlots c phys t (probeSlots t)).readCounts c phys rs
  let e := d.engine c phys
  let p := h.planeOf g.2.1 (fld w 81 79)
  let fs := e.probe (probeHalf p.lo) (probeHalf p.hi) rs
  let m := fs.foldl (fun m f => m - 2 ^ f.1) (2 ^ 2080 - 1)
  let dirty := h.poisoned g.2.1 0 || h.poisoned g.2.1 1
  let ws := maskWords 65 m dirty ++ maskWords 3 0 false
  let d := d.probeFaults c g.1 phys 0 h.slot fs
  d.flyBuf c (t + 7 + 2 ^ (r.gi + r.go)) (aForm w 40).handle (off + 272 * g.1) (ws.map (·, h.tag))

/-- EVALX (R38, R124, R125). -/
def execEvalx (c : CoreIx) (w : StepWord) (rd : List Reading) (s : State) : Host.Outcome State Fault Refusal :=
  s.lift (fun d =>
    d.run c w (fun d => d.maskPlan c w 2 272 2 4 7 true) (fun t d =>
      let r := (d.core c).regs
      match r.held with
      | none => d
      | some h => (gridPos r).foldl (fun d g => d.evalxAt c w rd t ((aForm w 40).byteOff r) h g) d))

/-! ### Digital read and write (R39, R126) -/

/-- A row in physical form, as a number of 1,040 bits. -/
def Engine.rowPhys (e : Engine) (row : Nat) : Nat :=
  e.cells.foldl (fun n x =>
    if x.1 % 2 = row / 128 ∧ x.2.getLsbD (row % 128) then n + 2 ^ (x.1 / 2) else n) 0

/-- A row in logical form, as a number of 1,024 bits (R39). -/
def Engine.rowLog (e : Engine) (row : Nat) : Nat :=
  (List.range 1024).foldl (fun n l => if e.cell (e.physOf l) row then n + 2 ^ l else n) 0

/-- The number little-endian words spell. -/
def wordsNat (ws : List RWord) : Nat := ofLe (rwBytes ws)

/-- The plan of RDROW. -/
def Device.rdrowPlan (d : Device) (c : Nat) (w : StepWord) : OpPlan :=
  let a := aForm w 40
  let off := a.byteOff (d.core c).regs
  let p := fld w 83 79
  let n := if w.getLsbD 92 then 33 else 32
  { listed := listedWord w 1 3, fault := d.checkFixed c a.handle off (4 * n) true,
    ranges := (d.bufRange a.handle off (4 * n) true).map (fun g => (g, 3)) ++
      [(⟨true, 256 * p + fld w 91 84, 1, false, true⟩, 1)],
    units := [⟨.engine p, 0, 2⟩, ⟨.writePort, 3, 4⟩] ++ bankWrites (d.addrOf a.handle off) (4 * n) 1 3, latency := 4 }

/-- RDROW (R126). -/
def execRdrow (c : CoreIx) (w : StepWord) (s : State) : Host.Outcome State Fault Refusal :=
  s.lift (fun d => d.run c w (fun d => d.rdrowPlan c w) (fun t d =>
    let a := aForm w 40
    let row := fld w 91 84
    let phys := d.physAt c (fld w 83 79)
    let d := d.takeSlots c phys t [⟨t, 2, true, true, none⟩]
    let e := d.engine c phys
    let ws := if w.getLsbD 92 then maskWords 33 (e.rowPhys row) false else maskWords 32 (e.rowLog row) false
    d.fly c (t + 4) (.buf a.handle (a.byteOff (d.core c).regs) ws)))

/-- The plan of WRROW. -/
def Device.wrrowPlan (d : Device) (c : Nat) (w : StepWord) : OpPlan :=
  let a := aForm w 40
  let off := a.byteOff (d.core c).regs
  let p := fld w 83 79
  { listed := listedWord w 1 4, fault := d.checkFixed c a.handle off 264 false,
    ranges := (d.bufRange a.handle off 264 false).map (fun g => (g, 0)) ++
      [(⟨true, 256 * p + fld w 91 84, 1, true, false⟩, 2)],
    units := [⟨.readPort, 0, 1⟩, ⟨.engine p, 1, 3⟩] ++ bankReads (d.addrOf a.handle off) 5 1, latency := 3 }

/-- WRROW (R126): a poisoned word of the data or the mask writes nothing and counts as written into state tagged
all. -/
def execWrrow (c : CoreIx) (w : StepWord) (s : State) : Host.Outcome State Fault Refusal :=
  s.lift (fun d => d.run c w (fun d => d.wrrowPlan c w) (fun t d =>
    let a := aForm w 40
    let ph := w.getLsbD 92
    let d := d.takeSlots c (d.physAt c (fld w 83 79)) t [⟨t + 1, 2, true, true, none⟩]
    let x := d.readH a.handle (a.byteOff (d.core c).regs) 66
    if x.1.any (·.poison) then x.2.modCore c (fun y => { y with seq := y.seq.notePoisonIf true .all })
    else
      let lim := if ph then 1040 else 1024
      x.2.fly c (t + 3) (.row (x.2.physAt c (fld w 83 79)) (fld w 91 84) (wordsNat (x.1.take 33) % 2 ^ lim)
        (wordsNat (x.1.drop 33) % 2 ^ lim) ph)))

/-! ### ENABLE (R125) -/

/-- Enables a record names: a bitmap, or an EVALT mask by either segment bit. -/
def enableBits (ws : List RWord) (mask : Bool) : BitVec 1024 :=
  let n := wordsNat ws
  if mask then
    BitVec.ofNat 1024 ((List.range 1024).foldl (fun m l =>
      if n.testBit (2 * l) || n.testBit (2 * l + 1) then m + 2 ^ l else m) 0)
  else BitVec.ofNat 1024 n

/-- Read-port cycles of an ENABLE (Tab. 6.3). -/
def enableCycles (ng : Nat) (fm : Bool) : Nat := if fm then ceilDiv ng 2 else ceilDiv ng 4

/-- The plan of ENABLE. -/
def Device.enablePlan (d : Device) (c : Nat) (w : StepWord) : OpPlan :=
  let r := (d.core c).regs
  let a := aForm w 40
  let off := a.byteOff r
  let fm := w.getLsbD 100
  let ng := 2 ^ (r.gi + r.go)
  let sz := if fm then 256 else 128
  let e := enableCycles ng fm
  { listed := listedWord w 1 5 && decide (fld w 99 98 ≠ 3), fault := d.checkFixed c a.handle off (sz * ng) false,
    ranges := (d.bufRange a.handle off (sz * ng) false).map (fun g => (g, e)),
    units := forCycles .readPort e ++ bankReads (d.addrOf a.handle off) (ceilDiv (sz * ng) 64) e, latency := e + 1 }

/-- One grid position of an ENABLE: its record `ws` becomes the engine's enables at cycle `t`. -/
def Device.enableAt (d : Device) (c : Nat) (mode : Nat) (fm : Bool) (t : Nat) (ws : List RWord) (p : Nat) : Device :=
  d.fly c t (.enable (d.physAt c p) mode (enableBits ws fm) fm)

/-- ENABLE (R124, R125): a poisoned record leaves every enable as it was. -/
def execEnable (c : CoreIx) (w : StepWord) (s : State) : Host.Outcome State Fault Refusal :=
  s.lift (fun d => d.run c w (fun d => d.enablePlan c w) (fun t d =>
    let r := (d.core c).regs
    let a := aForm w 40
    let fm := w.getLsbD 100
    let ng := 2 ^ (r.gi + r.go)
    let sz := if fm then 256 else 128
    let x := d.readH a.handle (a.byteOff r) (sz * ng / 4)
    if x.1.any (·.poison) then x.2.modCore c (fun y => { y with seq := y.seq.notePoisonIf true .all })
    else
      (List.range ng).foldl (fun d p =>
        d.enableAt c (fld w 99 98) fm (t + enableCycles ng fm + 1) ((x.1.drop (sz / 4 * p)).take (sz / 4)) p) x.2))

end Sys2Proof.Machine
end

