-- ==== Sys2Proof/Machine/Dict.lean ====
section
/-!
DEFINITION. The dictionary (14): the keyed check, the ordered handling of a request (R327), counters and replay windows
(R334, R335), segmented transfers (R330), latched reads (R331). Each object's own rule comes in as a WriteRule from the
chapter that owns it.
-/
namespace Sys2Proof.Machine

/-! ### Status codes (Tab. 14.6) -/

def dOk : Nat := 0x00
def dProgress : Nat := 0x01
def dNoObject : Nat := 0x02
def dDenied : Nat := 0x03
def dCheck : Nat := 0x04
def dReplay : Nat := 0x05
def dInvalid : Nat := 0x06
def dLength : Nat := 0x07
def dBusy : Nat := 0x08
def dQuota : Nat := 0x09
def dSpace : Nat := 0x0A
def dNotReady : Nat := 0x0B
def dTransfer : Nat := 0x0C
def dRefused : Nat := 0x0D

/-- Not a status: the write's effect is in place later, and its answer is given then (R327). -/
def dPending : Nat := 0x100

/-! ### Objects and rights (R319, R321, R431) -/

/-- Objects whose writes are accepted only from tenant 0 (T0 of Tab. 20.2). -/
def t0Objects : List Nat :=
  [0x101006, 0x102000, 0x102200, 0x201001, 0x202005, 0x300101, 0x300102, 0x300200, 0x400001, 0x401200, 0x404001,
   0x500000, 0x500100, 0x500200, 0x501000, 0x501100, 0x503200, 0x700001, 0x701001, 0x800300, 0x800400, 0x802600,
   0x901100, 0xA00006, 0xA02000, 0xA04000, 0xB00400]

/-- Objects whose writes are accepted only over the sideband (SB of Tab. 20.2). -/
def sbObjects : List Nat := [0x300101, 0x400001, 0x501000, 0x501300]

/-- The row an index and sub-index name: a listed object, or the sub-index 00h object of R319 and R432. 8003h.00 is
written, for re-creation, as RWK (Tab. 20.2). -/
def objAt? (index sub : Nat) : Option ObjRow :=
  match objRow? (key index sub) with
  | some r => some r
  | none =>
    if sub = 0 then
      match highestSub index with
      | some m => some ⟨key index 0, 2, 1, 1, m, 0, 255, false⟩
      | none => none
    else none

/-- Ranges of unkeyed reads (Tab. 14.3). -/
def unkeyedRange (index : Nat) : Bool := decide (0x1000 ≤ index ∧ index < 0x4000)

/-- Bytes of payload a carrier's PDU may hold (R325, R326). -/
def carrierLimit : Carrier → Nat
  | .sideband => 1024
  | _ => 32768

/-- The source of a request (R332). -/
def reqSrc (r : Req) : Coord :=
  match r.carrier with
  | .sideband => sideSource
  | _ => r.source

/-- A request came over the sideband. -/
def reqSide (r : Req) : Bool := decide (r.carrier = .sideband)

/-! ### The keyed check (R332, R333) -/

/-- The check a request must carry under a key. -/
def reqCheck (r : Req) (k : List Byte) (code index sub : Nat) : List Byte :=
  keyedCheck k (reqSrc r)
    (pduHeader code r.tenant.toNat true false false index sub 0 r.payload.length r.tag.toNat r.counter.toNat
      r.offset.toNat r.total.toNat) r.payload

/-- The key slot of a request's tenant and source. -/
def Device.slotOf (d : Device) (r : Req) : Option (Nat × KeySlot) := d.keySlot? r.tenant.toNat (reqSrc r)

/-- The request's check agrees with an installed key in all 16 bytes. -/
def Device.checkGood (d : Device) (r : Req) (code index sub : Nat) : Bool :=
  match d.slotOf r with
  | none => false
  | some s => decide (leBytes 16 r.check.toNat = reqCheck r s.2.key code index sub)

/-- Counts a check failure; more than 5040h.02 from one source within a second raise notification 06h. -/
def Device.checkFailed (d : Device) (r : Req) : Device :=
  let now := d.clk.up
  let fs := List.filter (fun (e : Coord × Nat) => decide (now - e.2 < 1000000000)) d.dict.failures ++ [((reqSrc r), now)]
  let n := (List.filter (fun (e : Coord × Nat) => decide (e.1 = (reqSrc r))) fs).length
  let d := { d with dict := { d.dict with failures := fs } }
  let d := d.bump (key 0x5020 1) 1
  if n = d.reg (key 0x5040 2) + 1 then d.notify 6 r.tenant.toNat 0x5020 1 (reqSrc r).toNat n else d

/-! ### Responses (R328, R333) -/

/-- The key a request is answered under. -/
def Device.answerKey (d : Device) (r : Req) : Option (List Byte) :=
  if r.keyed then (d.slotOf r).map (fun s => s.2.key) else none

/-- Sends the response to a request, keyed where a key is given. -/
def Device.respondKey (d : Device) (k : Option (List Byte)) (r : Req) (code index sub status : Nat) (repeated : Bool)
    (total : Nat) (payload : List Byte) : Device :=
  let h := pduHeader code r.tenant.toNat k.isSome true repeated index sub status payload.length r.tag.toNat
    r.counter.toNat r.offset.toNat total
  let chk := match k with | none => [] | some k => keyedCheck k (reqSrc r) h payload
  let d := d.send (.response r.carrier (reqSrc r) r.flow r.tenant r.tag code index sub status repeated k.isSome
    r.counter.toNat r.offset.toNat total payload chk)
  let pdu := pduBytes h chk payload
  match carrierChan r.carrier with
  | none => d.sendFrame r.mac.toNat pdu
  | some chan => d.sendPdu chan (if code = 6 then 2 else 1) r.source r.tenant r.flow pdu

/-- Sends the response to a request; it is keyed with the request's key when the request was keyed and passed. -/
def Device.respond (d : Device) (r : Req) (code index sub status : Nat) (repeated : Bool) (total : Nat)
    (payload : List Byte) : Device :=
  d.respondKey (if status = dCheck then none else d.answerKey r) r code index sub status repeated total payload

/-! ### Steps 1 to 4 of R327 -/

/-- Step 1: the header. -/
def reqFault (r : Req) : Option Nat :=
  if r.version ≠ 1#8 then some dInvalid
  else if r.payload.length > carrierLimit r.carrier then some dLength
  else none

/-- The tenant field of the packet header agrees (R326); the sideband has none. -/
def reqTenantOk (r : Req) : Bool := (reqSide r) || decide (r.pktTenant = r.tenant)

/-- Discards a packet whose tenant disagrees (R326). -/
def Device.dropMismatch (d : Device) : Device := d.bump (key 0x5020 4) 1

/-- Access right of a write (R321, R431): RW 2, WO 3, RWK 4, and the re-creation of 8003h.00. -/
def writable (o : ObjRow) : Bool := decide (o.right = 2 ∨ o.right = 3 ∨ o.right = 4)

/-- Step 4 of a write: right, T0, SB, defined tenant (R336); the chapter's own rule follows. -/
def Device.writeFault (d : Device) (r : Req) (o : ObjRow) : Option Nat :=
  if !d.tenantDefined r.tenant.toNat then some dInvalid
  else if !writable o then some dDenied
  else if t0Objects.contains o.key && decide (r.tenant ≠ 0#9) then some dDenied
  else if sbObjects.contains o.key && !(reqSide r) then some dDenied
  else none

/-! ### What a chapter gives for the write of its object -/

/-- An executed write's status, response payload and device. -/
structure Answer where
  status : Nat
  payload : List Byte
  dev : Device

def refuse (d : Device) (status : Nat) : Answer := ⟨status, [], d⟩
def done (d : Device) : Answer := ⟨dOk, [], d⟩

/-- Refuses with an object's own code (0Dh, R328). -/
def refuseOwn (d : Device) (code : Nat) : Answer := ⟨dRefused, [BitVec.ofNat 8 code], d⟩

/-- The rule of one object: who may write it (step 4), what the write does (steps 6 and 7), the payload of a refusal in
steps 1 to 5, and the answer to a duplicate (R335). -/
structure WriteRule where
  auth : Device → Req → Bool
  run : Device → Req → List Byte → Answer
  refusal : Device → Req → Nat → List Byte
  again : Device → Req → WinEnt → Nat × List Byte

/-- A rule with no tenant rule of its own. -/
def WriteRule.plain (run : Device → Req → List Byte → Answer) : WriteRule :=
  ⟨fun _ _ => true, run, fun _ _ _ => [], fun _ _ e => (e.status, e.payload)⟩

/-- A rule whose writer must be allowed. -/
def WriteRule.guarded (auth : Device → Req → Bool) (run : Device → Req → List Byte → Answer) : WriteRule :=
  ⟨auth, run, fun _ _ _ => [], fun _ _ e => (e.status, e.payload)⟩

/-- The casting code of Tab. 11.7 that a status of Tab. 14.6 stands for, where it has one (R328). -/
def castCode (st : Nat) : List Byte :=
  if st = dInvalid then [0x03] else if st = dQuota then [0x09] else if st = dSpace then [0x0A]
  else if st = dDenied then [0x0E] else if st = dBusy then [0x0F] else []

/-- The rule of a 7000h object: a refused write carries the object's own code (R328). -/
def WriteRule.ownCodes (x : WriteRule) : WriteRule :=
  { x with
    run := fun d r v =>
      let a := x.run d r v
      if a.payload.isEmpty then { a with payload := castCode a.status } else a
    refusal := fun _ _ st => castCode st }

/-! ### Step 5: counters and the replay window (R334, R335) -/

inductive Verdict where
  | accept
  | duplicate (e : WinEnt)
  | replay
  deriving DecidableEq, Repr

/-- R334 on a slot, a counter and a digest. -/
def KeySlot.judge (s : KeySlot) (c : Nat) (digest : BitVec 128) : Verdict :=
  if c > s.last then .accept
  else if s.last < c + 64 then
    match s.window.find? (fun e => decide (e.counter = c)) with
    | some e => if e.digest = digest then .duplicate e else .replay
    | none => .replay
  else .replay

/-- Records an accepted counter: L := c, and the window keeps the 64 most recent. -/
def KeySlot.accept (s : KeySlot) (e : WinEnt) : KeySlot :=
  let w := s.window ++ [e]
  { s with last := e.counter, window := w.drop (w.length - 64) }

def Device.putSlot (d : Device) (i : Nat) (s : KeySlot) : Device :=
  { d with dict := { d.dict with keys := Tbl.put d.dict.keys i s } }

/-- Client request ID in a submission or cancel. -/
def clientOf (index : Nat) (payload : List Byte) : Option Nat :=
  if index = 0x6001 then some (leAt payload 4 4) else none

/-- Writes the status and up to 16 B of payload of an executed command into its window entry. -/
def Device.recordResult (d : Device) (r : Req) (status : Nat) (payload : List Byte) : Device :=
  match d.slotOf r with
  | none => d
  | some s =>
    d.putSlot s.1 { s.2 with window := s.2.window.map (fun e =>
      if e.counter = r.counter.toNat then { e with status := status, payload := payload.take 16 } else e) }

/-! ### Transfers (R330) -/

/-- The transfer of a tenant, source and tag. -/
def Device.transfer? (d : Device) (r : Req) : Option Transfer :=
  List.find? (fun (t : Transfer) => decide (t.tenant = r.tenant.toNat ∧ t.source = (reqSrc r) ∧ t.tag = r.tag)) d.dict.transfers

/-- Removes a transfer. -/
def Device.dropTransfer (d : Device) (tenant : Nat) (source : Coord) (tag : BitVec 16) : Device :=
  { d with dict := { d.dict with transfers := List.filter (fun (t : Transfer) =>
      !decide (t.tenant = tenant ∧ t.source = source ∧ t.tag = tag)) d.dict.transfers } }

def Device.putTransfer (d : Device) (t : Transfer) : Device :=
  let d := d.dropTransfer t.tenant t.source t.tag
  { d with dict := { d.dict with transfers := d.dict.transfers ++ [t] } }

/-- Aborts an open transfer: its counter is used up. -/
def Device.abortTransfer (d : Device) (t : Transfer) : Device :=
  let d := d.dropTransfer t.tenant t.source t.tag
  if t.dup then d
  else
    let d := d.bump (key 0x5020 5) 1
    match d.keySlot? t.tenant t.source with
    | none => d
    | some s => d.putSlot s.1 { s.2 with window := s.2.window.map (fun e =>
        if e.counter = t.counter then { e with status := dTransfer, payload := [] } else e) }

/-- Bytes received so far. -/
def Transfer.got (t : Transfer) : Nat := (t.segs.map (fun s => s.2.2.length)).sum

/-- The value so far. -/
def Transfer.value (t : Transfer) : List Byte := t.segs.flatMap (fun s => s.2.2)

/-- The request with the value as far as it has come: a later segment is judged by what the earlier ones carried (R327
step 4, R330; DEDUCED, log 40). -/
def Device.soFar (d : Device) (r : Req) : Req :=
  match d.transfer? r with
  | some t => { r with payload := t.value ++ r.payload }
  | none => r

/-- Closes a transfer whose value `v` is whole; a submission's window entry learns its client request ID (R335). -/
def Device.closeTransfer (d : Device) (r : Req) (index : Nat) (t : Transfer) (v : List Byte) : Device :=
  let d := d.dropTransfer t.tenant t.source t.tag
  match clientOf index v with
  | none => d
  | some c =>
    match d.slotOf r with
    | none => d
    | some s => d.putSlot s.1 { s.2 with window := s.2.window.map (fun e =>
        if e.counter = t.counter then { e with client := some c } else e) }

/-- Open transfers stand below their limits: 16, and 4 for the source. -/
def Device.transferRoom (d : Device) (src : Coord) : Bool :=
  let open_ := List.filter (fun (t : Transfer) => !t.dup) d.dict.transfers
  decide (open_.length < 16) && decide ((open_.filter (fun t => decide (t.source = src))).length < 4)

/-! ### Steps 6 and 7 -/

/-- Ends an executed write: a critical command's result goes into its window, and the response is sent under `k`. -/
def Device.finishWrite (d : Device) (k : Option (List Byte)) (r : Req) (index sub : Nat) (critical : Bool) (status : Nat)
    (payload : List Byte) : Device :=
  let d := d.bump (key 0x5020 8) 1
  let d := if critical then d.recordResult r status payload else d
  d.respondKey k r 2 index sub status false payload.length payload

/-- Executes the whole value and answers, unless the answer comes later. -/
def Device.execute (d : Device) (r : Req) (index sub : Nat) (critical : Bool) (rule : WriteRule) (v : List Byte) : Device :=
  let a := rule.run d r v
  if a.status = dPending then a.dev else a.dev.finishWrite (d.answerKey r) r index sub critical a.status a.payload

/-- Answers a duplicate (R335): nothing is executed again. -/
def Device.answerAgain (d : Device) (r : Req) (index sub : Nat) (rule : WriteRule) (e : WinEnt) : Device :=
  let d := d.bump (key 0x5020 3) 1
  let d := if index = 0x6001 ∨ index = 0x6002 then d.bump (key 0x6010 0x0A) 1 else d
  if e.status = dProgress then d.respond r 2 index sub dProgress true 0 []
  else
    let a := rule.again d r e
    d.respond r 2 index sub a.1 true a.2.length a.2

/-- A later segment of an open transfer. -/
def Device.segment (d : Device) (r : Req) (index sub : Nat) (o : ObjRow) (rule : WriteRule) (t : Transfer) : Device :=
  let off := r.offset.toNat
  let n := r.payload.length
  let fail := (d.abortTransfer t).respond r 2 index sub dTransfer false 0 []
  if t.obj ≠ o.key ∨ t.counter ≠ r.counter.toNat then fail
  else if t.dup then
    let d := if off + n ≥ r.total.toNat then d.dropTransfer t.tenant t.source t.tag else d
    match d.slotOf r with
    | none => d
    | some s =>
      match s.2.window.find? (fun e => decide (e.counter = t.counter)) with
      | some e => d.answerAgain r index sub rule e
      | none => d.respond r 2 index sub dReplay true 0 []
  else
    match t.segs.find? (fun s => decide (s.1 = off)) with
    | some s => if s.2.1 = r.check then d.respond r 2 index sub dProgress false 0 [] else fail
    | none =>
      if off ≠ t.got ∨ off + n > t.total ∨ (off + n < t.total ∧ n % 4 ≠ 0) then fail
      else
        let t := { t with segs := t.segs ++ [(off, r.check, r.payload)], last := d.clk.up }
        if off + n < t.total then (d.putTransfer t).respond r 2 index sub dProgress false 0 []
        else
          (d.closeTransfer r index t t.value).execute r index sub (decide (o.right = 4)) rule t.value

/-- The first segment, past step 5: a whole value is executed, a longer one opens a transfer. -/
def Device.beginWrite (d : Device) (r : Req) (index sub : Nat) (o : ObjRow) (rule : WriteRule) : Device :=
  if r.total.toNat = r.payload.length then d.execute r index sub (decide (o.right = 4)) rule r.payload
  else
    (d.putTransfer ⟨r.tenant.toNat, (reqSrc r), r.tag, o.key, r.counter.toNat, r.total.toNat, r.check,
      [(0, r.check, r.payload)], d.clk.up, false⟩).respond r 2 index sub dProgress false 0 []

/-- Steps 5 to 7 of a write that has passed steps 1 to 4 (R327). -/
def Device.writeOpen (d : Device) (r : Req) (index sub : Nat) (o : ObjRow) (rule : WriteRule) : Device :=
  match d.transfer? r with
  | some t => d.segment r index sub o rule t
  | none =>
    let n := r.payload.length
    let total := r.total.toNat
    let no := fun (d : Device) (st : Nat) =>
      let p := rule.refusal d r st
      d.respond r 2 index sub st false p.length p
    if r.offset ≠ 0#32 then no d dTransfer
    else if total < n ∨ (total > n ∧ n % 4 ≠ 0) then no d dLength
    else if total > n ∧ d.transferRoom (reqSrc r) = false then no d dBusy
    else if o.right ≠ 4 then d.beginWrite r index sub o rule
    else
      match d.slotOf r with
      | none => no d dCheck
      | some s =>
        match s.2.judge r.counter.toNat r.check with
        | .accept =>
          (d.putSlot s.1 (s.2.accept ⟨r.counter.toNat, o.key, r.check, dProgress, [], clientOf index r.payload⟩)).beginWrite
            r index sub o rule
        | .duplicate e =>
          let d := if total > n then
              d.putTransfer ⟨r.tenant.toNat, (reqSrc r), r.tag, o.key, r.counter.toNat, total, r.check,
                [(0, r.check, r.payload)], d.clk.up, true⟩
            else d
          d.answerAgain r index sub rule e
        | .replay =>
          let d := d.bump (key 0x5020 2) 1
          let d := if index = 0x6001 ∨ index = 0x6002 then d.bump (key 0x6010 0x0B) 1 else d
          no d dReplay

/-- A WRITE request handled in the order of R327, under the rule of its object. -/
def Device.write (d : Device) (index sub : Nat) (rule : WriteRule) (r : Req) : Device :=
  let no := fun (d : Device) (st : Nat) =>
    let p := rule.refusal d r st
    d.respond r 2 index sub st false p.length p
  if !reqTenantOk r then d.dropMismatch
  else
    match reqFault r with
    | some st => no d st
    | none =>
      match objAt? index sub with
      | none => no d dNoObject
      | some o0 =>
        let o := if o0.key = 0x800300 then { o0 with right := 4 } else o0
        if r.keyed = false ∧ o.key = 0x501300 ∧ (reqSide r) = true then
          if d.tenantDefined r.tenant.toNat then d.writeOpen r index sub o rule else no d dInvalid
        else if r.keyed = false then no (d.bump (key 0x5020 4) 1) dDenied
        else if d.checkGood r 2 index sub = false then no (d.checkFailed r) dCheck
        else
          match d.writeFault r o with
          | some st => no d st
          | none => if rule.auth d (d.soFar r) then d.writeOpen r index sub o rule else no d dDenied

/-! ### Values (R320) -/

/-- An F32 value lies in its object's range. -/
def f32InRange (x lo hi : F32) : Bool := !f32IsNaN x && f32Le lo x && f32Le x hi

/-- Step 6 for a scalar object. -/
def scalarFault (o : ObjRow) (v : List Byte) : Option Nat :=
  if v.length ≠ o.size then some dLength
  else
    let x := ofLe v
    if o.type = 7 then
      if f32InRange (BitVec.ofNat 32 x) (BitVec.ofNat 32 o.lo) (BitVec.ofNat 32 o.hi) then none else some dInvalid
    else if o.type = 1 then (if x ≤ 1 ∧ o.lo ≤ x then none else some dInvalid)
    else if o.type = 9 ∨ o.type = 10 ∨ o.type = 11 then none
    else if o.lo ≤ x ∧ x ≤ o.hi then none else some dInvalid

/-- The write of a scalar object that only holds a value. -/
def runScalar (k : Nat) (d : Device) (_r : Req) (v : List Byte) : Answer :=
  match objRow? k with
  | none => refuse d dNoObject
  | some o =>
    match scalarFault o v with
    | some st => refuse d st
    | none => done (if policyKeys.contains k then d.setPolicy k (ofLe v) else d.setReg k (ofLe v))

def scalarRule (k : Nat) : WriteRule :=
  let x := WriteRule.plain (runScalar k)
  if k / 2 ^ 20 = 7 then x.ownCodes else x

/-- Step 6 of an object of fixed size, then its run. -/
def sized (n : Nat) (run : Device → Req → List Byte → Answer) (d : Device) (r : Req) (v : List Byte) : Answer :=
  if v.length ≠ n then refuse d dLength else run d r v

/-- A U16 or U32 command in its object's range. -/
def valued (k : Nat) (run : Device → Req → Nat → Answer) (d : Device) (r : Req) (v : List Byte) : Answer :=
  match objRow? k with
  | none => refuse d dNoObject
  | some o =>
    match scalarFault o v with
    | some st => refuse d st
    | none => run d r (ofLe v)

/-! ### Reads (R331) -/

/-- The latch a source and tag hold. -/
def Device.latch? (d : Device) (src : Coord) (tag : BitVec 16) : Option Latch :=
  List.find? (fun (l : Latch) => decide (l.source = src ∧ l.tag = tag)) d.dict.latches

def Device.dropLatch (d : Device) (src : Coord) (tag : BitVec 16) : Device :=
  let ls := List.filter (fun (l : Latch) => !decide (l.source = src ∧ l.tag = tag)) d.dict.latches
  { d with dict := { d.dict with latches := ls } }

def Device.putLatch (d : Device) (l : Latch) : Device :=
  let d := d.dropLatch l.source l.tag
  { d with dict := { d.dict with latches := d.dict.latches ++ [l] } }

/-- The segment a READ returns of a value. -/
def reqPart (r : Req) (v : List Byte) : List Byte :=
  bytesAt v r.offset.toNat (min (min r.total.toNat (carrierLimit r.carrier)) (v.length - r.offset.toNat))

/-- Answers a READ with a value. -/
def Device.answerRead (d : Device) (r : Req) (index sub : Nat) (v : List Byte) : Device :=
  (d.bump (key 0x5020 8) 1).respond r 1 index sub dOk false v.length (reqPart r v)

/-- A READ of an object of right ROL. -/
def Device.readLatched (d : Device) (r : Req) (index sub : Nat) (k : Nat) (value : List Byte) : Device :=
  let serve := fun (d : Device) (v : List Byte) =>
    let n := (reqPart r v).length
    let d := if r.offset.toNat + n ≥ v.length then d.dropLatch (reqSrc r) r.tag
             else d.putLatch ⟨(reqSrc r), r.tag, k, v, d.clk.up⟩
    d.answerRead r index sub v
  if r.offset = 0#32 then
    let d := d.dropLatch (reqSrc r) r.tag
    if d.dict.latches.length ≥ 4 then d.respond r 1 index sub dBusy false 0 [] else serve d value
  else
    match d.latch? (reqSrc r) r.tag with
    | none => d.respond r 1 index sub dTransfer false 0 []
    | some l => if l.obj = k then serve d l.value else d.respond r 1 index sub dTransfer false 0 []

/-- Steps 1 to 4 that READ, DESCRIBE, ABORT and ECHO share; `go` is the rest. -/
def Device.ask (d : Device) (r : Req) (code index sub : Nat) (go : Device → ObjRow → Device) : Device :=
  let no := fun (d : Device) (st : Nat) => d.respond r code index sub st false 0 []
  if !reqTenantOk r then d.dropMismatch
  else
    match reqFault r with
    | some st => no d st
    | none =>
      match objAt? index sub with
      | none => no d dNoObject
      | some o =>
        if r.keyed = false ∧ (unkeyedRange index = false ∨ code = 3) then no (d.bump (key 0x5020 4) 1) dDenied
        else if r.keyed = true ∧ d.checkGood r code index sub = false then no (d.checkFailed r) dCheck
        else if !d.tenantDefined r.tenant.toNat then no d dInvalid
        else go d o

/-- A READ; `value` gives an object's bytes as the tenant may see them (R434). -/
def Device.read (d : Device) (index sub : Nat) (value : Device → Nat → Nat → List Byte) (touch : Device → Nat → Device) (r : Req) :
    Device :=
  d.ask r 1 index sub (fun d o =>
    if o.right = 3 then d.respond r 1 index sub dDenied false 0 []
    else if o.key = 0x802800 ∧ r.tenant ≠ 0#9 then d.respond r 1 index sub dDenied false 0 []
    else
      let v := value d o.key r.tenant.toNat
      let d := touch d o.key
      if o.right = 5 then d.readLatched r index sub o.key v else d.answerRead r index sub v)

/-- DESCRIBE (Tab. 14.5). -/
def Device.describe (d : Device) (index sub : Nat) (r : Req) : Device :=
  d.ask r 4 index sub (fun d o =>
    let p := leBytes 1 o.type ++ leBytes 1 o.right ++ [0, 0] ++ leBytes 4 o.size
    (d.bump (key 0x5020 8) 1).respond r 4 index sub dOk false p.length p)

/-- ABORT of the open transfer with the request's tag (R330). -/
def Device.abort (d : Device) (index sub : Nat) (r : Req) : Device :=
  d.ask r 3 index sub (fun d _ =>
    match d.transfer? r with
    | none => d.respond r 3 index sub dTransfer false 0 []
    | some t => (d.abortTransfer t).respond r 3 index sub dTransfer false 0 [])

/-- ECHO (Tab. 14.5, R326, R329): MGMT only, unkeyed, up to 64 B, of an object in a range open to unkeyed reads (log 39). -/
def Device.echo (d : Device) (index sub : Nat) (r : Req) : Device :=
  if !reqTenantOk r then d.dropMismatch
  else if r.carrier ≠ .mgmt ∨ r.keyed = true then d.respond r 6 index sub dInvalid false 0 []
  else if r.payload.length > 64 then d.respond r 6 index sub dLength false 0 []
  else
    d.ask r 6 index sub (fun d _ =>
      (d.bump (key 0x5020 8) 1).respond r 6 index sub dOk false r.payload.length r.payload)

end Sys2Proof.Machine
end

