-- ==== Sys2Proof/Machine/Tenants.lean ====
section
/-!
DEFINITION. Tenants, contexts, keys and the notification log (14), and the bindings and hand-sets of sync objects (13,
R314, R317).
-/
namespace Sys2Proof.Machine

/-! ### What a tenant holds (R336) -/

def Device.contextUse (d : Device) (t : Nat) : Nat :=
  (List.filter (fun (e : Nat × Nat × Nat) => decide (e.2.1 = t)) d.dict.contexts).length

def Device.slotUse (d : Device) (t : Nat) : Nat :=
  (List.filter (fun (e : Nat × KeySlot) => decide (e.2.tenant = t)) d.dict.keys).length

def Device.objUse (d : Device) (t : Nat) : Nat :=
  (List.filter (fun (e : Nat × SyncObj) => decide (e.2.tenant = t)) d.sync.objs).length

/-- Non-terminal requests of a tenant. -/
def Device.reqUse (d : Device) (t : Nat) : Nat :=
  (List.filter (fun (e : Nat × ReqEnt) => e.2.live && decide (e.2.tenant = t)) d.serv.reqs).length

/-- A tenant still holds something (R336). -/
def Device.tenantBusy (d : Device) (t : Nat) : Bool :=
  decide ((d.handleUse t).1 ≠ 0 ∨ d.contextUse t ≠ 0 ∨ d.objUse t ≠ 0 ∨ d.reqUse t ≠ 0) ||
  List.any d.cast.insts (fun (e : Nat × Inst) => decide (e.2.state ≠ 0 ∧ e.2.tenant = t)) ||
  List.any d.cast.adapters (fun (e : Nat × Adapter) => e.2.bound && decide (e.2.tenant = t)) ||
  List.any d.attn.frames (fun (e : Nat × Frame) => decide (e.2.tenant = t))

/-- Aborts the open transfers of a tenant and source (R330, R338). -/
def Device.dropSlotTransfers (d : Device) (t : Nat) (src : Coord) : Device :=
  (List.filter (fun (x : Transfer) => decide (x.tenant = t ∧ x.source = src)) d.dict.transfers).foldl
    (fun d x => d.abortTransfer x) d

/-- Removes a key slot. -/
def Device.dropSlot (d : Device) (i : Nat) (s : KeySlot) : Device :=
  let d := d.dropSlotTransfers s.tenant s.source
  { d with dict := { d.dict with keys := Tbl.del d.dict.keys i } }

/-- A tenant's key slots, subscriptions and records return to their defaults (R336). -/
def Device.resetTenant (d : Device) (t : Nat) : Device :=
  let mine := List.filter (fun (e : Nat × KeySlot) => decide (e.2.tenant = t)) d.dict.keys
  let d := mine.foldl (fun d e => d.dropSlot e.1 e.2) d
  let subs := List.filter (fun (e : Nat × Coord × Nat) => decide (e.2.2 ≠ t)) d.dict.subs
  let profs := List.filter (fun (e : Nat × Profile) => decide (e.1 / 8 ≠ t)) d.serv.profiles
  { d with
    dict := { d.dict with subs := subs },
    mem := { d.mem with limits := Tbl.del d.mem.limits t },
    serv := { d.serv with tenants := Tbl.del d.serv.tenants t, profiles := profs } }

/-! ### Tenants (R336) -/

def runDefine (d : Device) (_r : Req) (t : Nat) : Answer :=
  done (if d.dict.tenants.contains t then d
        else { d with dict := { d.dict with tenants := d.dict.tenants ++ [t] } })

def ruleDefineTenant : WriteRule := WriteRule.plain (valued (key 0x5001 0) runDefine)

def runUndefine (d : Device) (_r : Req) (t : Nat) : Answer :=
  if d.tenantDefined t = false then refuse d dInvalid
  else if d.tenantBusy t then refuse d dBusy
  else
    let d := d.resetTenant t
    done { d with dict := { d.dict with tenants := d.dict.tenants.filter (fun x => decide (x ≠ t)) } }

def ruleUndefineTenant : WriteRule := WriteRule.plain (valued (key 0x5002 0) runUndefine)

/-! ### Contexts (R337, R312) -/

/-- A Reserve handle of tenant 0 in a memory tile of a cluster, M2 first (R161). -/
def Device.allocReserve (d : Device) (k len : Nat) : Option (Nat × Device) :=
  match d.alloc 0 k [15, 14, 13] len (1#11 <<< 6) with
  | .ok x => some x
  | .error _ => none

/-- A cluster where new translation tables may stand: ready, and not named by a cluster reset (R312, R408). -/
def Device.tableCluster (d : Device) (k : Nat) : Bool := (d.cluster k).ready && !d.clk.resetting.getLsbD k

/-- The cluster a context's table goes to: context mod 16, or the next one that may hold it, counting on from 15 to 0. -/
def Device.placeTable (d : Device) (ctx : Nat) : Option Nat :=
  ((List.range 16).map (fun i => (ctx + i) % 16)).find? (fun k => d.tableCluster k)

/-- A new Reserve handle for a context's table. -/
def Device.allocTable (d : Device) (ctx : Nat) : Option (Nat × Device) :=
  match d.placeTable ctx with
  | none => none
  | some k => d.allocReserve k 256

def runCreateContext (d : Device) (_r : Req) (t : Nat) : Answer :=
  if d.tenantDefined t = false then refuse d dInvalid
  else if d.contextUse t ≥ (d.limits t).contexts then refuse d dQuota
  else
    match lowestFree (Tbl.keys d.dict.contexts) 2048 0 with
    | none => refuse d dSpace
    | some c =>
      match d.allocTable c with
      | none => refuse d dSpace
      | some h =>
        let e := h.2
        ⟨dOk, leBytes 2 c, { e with dict := { e.dict with contexts := Tbl.put e.dict.contexts c (t, h.1) } }⟩

/-- The writer is tenant 0 or the tenant the first two bytes of the payload name. -/
def ownTenant (_d : Device) (r : Req) : Bool :=
  decide (r.tenant = 0#9 ∨ leAt r.payload 0 2 = r.tenant.toNat)

def ruleCreateContext : WriteRule := WriteRule.guarded ownTenant (valued (key 0x5004 0) runCreateContext)

/-- An entry of a context's table is valid; a poisoned one is not (R312). -/
def Device.contextBound (d : Device) (h : Nat) : Bool :=
  match d.handle? h with
  | none => false
  | some x =>
    let a := x.addr 0
    List.any d.mem.m.cells (fun (e : Nat × Byte) => decide (a ≤ e.1 ∧ e.1 < a + 16384 ∧ e.1 % 4 = 3) && e.2.getLsbD 7 &&
      !(d.peek (e.1 / 4)).poison)

def runReleaseContext (d : Device) (_r : Req) (c : Nat) : Answer :=
  match Tbl.find? d.dict.contexts c with
  | none => refuse d dInvalid
  | some x =>
    if List.any d.serv.reqs (fun (e : Nat × ReqEnt) => e.2.live && decide (e.2.context = c)) || d.contextBound x.2 then
      refuse d dBusy
    else
      let d := d.startRelease x.2
      done { d with dict := { d.dict with contexts := Tbl.del d.dict.contexts c } }

/-- The writer is tenant 0 or the tenant of a context; a context not in use is left to step 6 (R433). -/
def Device.ownContext (d : Device) (r : Req) (c : Nat) : Bool :=
  match Tbl.find? d.dict.contexts c with
  | none => true
  | some x => decide (r.tenant = 0#9 ∨ x.1 = r.tenant.toNat)

def ruleReleaseContext : WriteRule :=
  WriteRule.guarded (fun d r => d.ownContext r (leAt r.payload 0 2)) (valued (key 0x5005 0) runReleaseContext)

/-! ### Keys (R338, R339) -/

/-- Installs a key for a tenant and source at a slot: L is set, the window is empty. -/
def Device.setKey (d : Device) (i t : Nat) (src : Coord) (k : List Byte) (c : Nat) : Device :=
  (d.dropSlotTransfers t src).putSlot i ⟨t, src, k, c, []⟩

def runKeyInstall (d : Device) (_r : Req) (v : List Byte) : Answer :=
  let t := bits (wordAt v 0) 8 0
  let src : Coord := BitVec.ofNat 18 (wordAt v 1)
  let c := leAt v 8 8
  let k := bytesAt v 16 32
  if d.tenantDefined t = false then refuse d dInvalid
  else
    match d.keySlot? t src with
    | some s => done (d.setKey s.1 t src k c)
    | none =>
      if d.slotUse t ≥ 16 then refuse d dQuota
      else
        match lowestFree (Tbl.keys d.dict.keys) 1024 0 with
        | none => refuse d dSpace
        | some i => done (d.setKey i t src k c)

def ruleKeyInstall : WriteRule := WriteRule.plain (sized 48 runKeyInstall)

def runKeyRemove (d : Device) (_r : Req) (v : List Byte) : Answer :=
  let t := bits (wordAt v 0) 8 0
  let src : Coord := BitVec.ofNat 18 (wordAt v 1)
  if t = 0 ∧ src = sideSource then refuse d dDenied
  else
    match d.keySlot? t src with
    | none => refuse d dInvalid
    | some s => done (d.dropSlot s.1 s.2)

def ruleKeyRemove : WriteRule := WriteRule.plain (sized 8 runKeyRemove)

/-- The key claim: while the slot of tenant 0 and the sideband is empty. -/
def runKeyClaim (d : Device) (_r : Req) (v : List Byte) : Answer :=
  match d.keySlot? 0 sideSource with
  | some _ => refuse d dBusy
  | none =>
    match lowestFree (Tbl.keys d.dict.keys) 1024 0 with
    | none => refuse d dSpace
    | some i => done (d.setKey i 0 sideSource v 0)

def ruleKeyClaim : WriteRule := WriteRule.plain (sized 32 runKeyClaim)

/-! ### Records of the protocol (Tab. 14.7, R342, R343) -/

/-- A record DOMAIN of `n` records of `w` bytes written whole: `f` takes a record's number and bytes. -/
def Device.mergeRecords (d : Device) (n w : Nat) (v : List Byte) (f : Device → Nat → List Byte → Device) : Device :=
  (List.range n).foldl (fun d i => f d i (bytesAt v (w * i) w)) d

/-- Step 6 over the records of a DOMAIN. -/
def recordsOk (n w : Nat) (v : List Byte) (p : Nat → List Byte → Bool) : Bool :=
  (List.range n).all (fun i => p i (bytesAt v (w * i) w))

def Device.setLimits (d : Device) (t : Nat) (l : Limits) : Device :=
  { d with mem := { d.mem with limits := Tbl.set (Limits.reset t) d.mem.limits t l } }

/-- 5000h.00: the context limits. -/
def runTenantRecords (d : Device) (_r : Req) (v : List Byte) : Answer :=
  if recordsOk 512 16 v (fun _ b => decide (bits (wordAt b 1) 15 0 ≤ 2048)) then
    done (d.mergeRecords 512 16 v (fun d t b => d.setLimits t { d.limits t with contexts := bits (wordAt b 1) 15 0 }))
  else refuse d dInvalid

def ruleTenantRecords : WriteRule := WriteRule.plain (sized 8192 runTenantRecords)

/-- 5030h.00: an entry may be written by its tenant or by tenant 0, for a source the tenant holds a key for. The bytes of
entries the writer may not change are ignored (R320). -/
def runSubscriptions (d : Device) (r : Req) (v : List Byte) : Answer :=
  let w := r.tenant.toNat
  let may : Device → Nat → List Byte → Bool := fun d i b =>
    let t := bits (wordAt b 1) 8 0
    match Tbl.find? d.dict.subs i with
    | some s => decide (w = 0 ∨ (s.2 = w ∧ t = w))
    | none => decide (w = 0 ∨ t = w)
  let good := fun (i : Nat) (b : List Byte) =>
    let src : Coord := BitVec.ofNat 18 (wordAt b 0)
    !may d i b || !(bit (wordAt b 0) 18) || (d.keySlot? (bits (wordAt b 1) 8 0) src).isSome
  if recordsOk 8 8 v good then
    done (d.mergeRecords 8 8 v (fun d i b =>
      if may d i b then
        let src : Coord := BitVec.ofNat 18 (wordAt b 0)
        let subs := if bit (wordAt b 0) 18 then Tbl.put d.dict.subs i (src, bits (wordAt b 1) 8 0) else Tbl.del d.dict.subs i
        { d with dict := { d.dict with subs := subs } }
      else d))
  else refuse d dDenied

def ruleSubscriptions : WriteRule := WriteRule.plain (sized 64 runSubscriptions)

/-- 5032h.00 (R343). -/
def runAck (d : Device) (_r : Req) (a : Nat) : Answer :=
  done { d.setReg (key 0x5032 0) a with dict := { d.dict with ack := some a } }

def ruleAck : WriteRule := WriteRule.plain (valued (key 0x5032 0) runAck)

/-! ### Bindings (R314, R433) -/

/-- Writes a translation entry. -/
def Device.setEntry (d : Device) (ctx vid : Nat) (w : Word) : Device :=
  match d.transEntry ctx vid with
  | none => d
  | some e => d.writeH e.1 e.2 [⟨w, false⟩]

def SyncObj.zero : SyncObj := ⟨0#32, 0, 0, 0, 0, 0, 0, false⟩

def runBind (d : Device) (_r : Req) (v : List Byte) : Answer :=
  let w0 := wordAt v 0
  let ctx := bits w0 10 0
  let vid := bits w0 22 11
  let remote := bit w0 23
  let new := bit w0 24
  if remote && new then refuse d dInvalid
  else
    match Tbl.find? d.dict.contexts ctx with
    | none => refuse d dInvalid
    | some c =>
      let tr := d.translate ctx vid
      let d := tr.2
      if tr.1.isSome then refuse d dBusy
      else if new then
        if d.objUse c.1 ≥ (d.limits c.1).sync then refuse d dQuota
        else
          match lowestFree (Tbl.keys d.sync.objs) 16384 0 with
          | none => refuse d dSpace
          | some o =>
            let d := d.putObj o { SyncObj.zero with value := BitVec.ofNat 32 (wordAt v 3), tenant := c.1, context := ctx, vid := vid }
            ⟨dOk, leBytes 2 o, d.setEntry ctx vid (transWord false o)⟩
      else if remote then
        match lowestFree (Tbl.keys d.sync.aliases) 4096 0 with
        | none => refuse d dSpace
        | some a =>
          let al := Tbl.put d.sync.aliases a ((BitVec.ofNat 18 (wordAt v 1) : Coord), bits (wordAt v 2) 13 0)
          ⟨dOk, leBytes 2 a, (d.setSync { d.sync with aliases := al }).setEntry ctx vid (transWord true a)⟩
      else
        let o := bits (wordAt v 2) 13 0
        match Tbl.find? d.sync.objs o with
        | none => refuse d dDenied
        | some x =>
          if x.tenant ≠ c.1 then refuse d dDenied
          else ⟨dOk, leBytes 2 o, d.setEntry ctx vid (transWord false o)⟩

def ruleBind : WriteRule :=
  WriteRule.guarded (fun d r => d.ownContext r (bits (wordAt r.payload 0) 10 0)) (sized 16 runBind)

/-- Removes a binding; the home binding frees its object. -/
def runUnbind (d : Device) (_r : Req) (x : Nat) : Answer :=
  let vid := bits x 11 0
  let ctx := bits x 22 12
  match Tbl.find? d.dict.contexts ctx with
  | none => refuse d dInvalid
  | some c =>
    let tr := d.readH c.2 (4 * vid) 1
    let d := tr.2
    let w := (tr.1.headD ⟨0#32, true⟩).w.toNat
    match d.targetOf (tr.1.headD ⟨0#32, true⟩) with
    | none => refuse d dInvalid
    | some (.there _ _) =>
      let al := Tbl.del d.sync.aliases (w % 16384)
      done ((d.setSync { d.sync with aliases := al }).setEntry ctx vid 0#32)
    | some (.here o) =>
      if d.sync.waiters.any (fun y => decide (y.obj = o)) then refuse d dBusy
      else
        let d := match Tbl.find? d.sync.objs o with
          | none => d
          | some y =>
            if y.context = ctx ∧ y.vid = vid then d.setSync { d.sync with objs := Tbl.del d.sync.objs o } else d
        done (d.setEntry ctx vid 0#32)

def ruleUnbind : WriteRule :=
  WriteRule.guarded (fun d r => d.ownContext r (bits (leAt r.payload 0 4) 22 12)) (valued (key 0xB002 0) runUnbind)

/-! ### Hand-sets (R317) -/

/-- Sets a value and judges the waiters again; releases the open generation. -/
def Device.handSet (d : Device) (o : Nat) (set release : Bool) (v : Word) : Device :=
  let d := match Tbl.find? d.sync.objs o with
    | none => d
    | some x => if set then (d.putObj o { x with value := v }).judge o v else d
  match Tbl.find? d.sync.objs o with
  | none => d
  | some x => if release && decide (x.barrier ≠ 0) then d.releaseGen o x else d

def runHandSet (d : Device) (_r : Req) (v : List Byte) : Answer :=
  let w0 := wordAt v 0
  let o := bits w0 13 0
  match Tbl.find? d.sync.objs o with
  | none => refuse d dInvalid
  | some x =>
    if x.lost then refuse d dInvalid
    else
      let e := d.handSet o (bit w0 16) (bit w0 17) (BitVec.ofNat 32 (wordAt v 1))
      let e := e.err { cls := 7, tenant := x.tenant, loc := o } 0x10 (if bit w0 16 then 0 else 1)
      done (e.bump (key 0xB030 4) 1)

def ruleHandSet : WriteRule :=
  WriteRule.guarded (fun d r =>
    match Tbl.find? d.sync.objs (bits (wordAt r.payload 0) 13 0) with
    | none => true
    | some x => decide (r.tenant = 0#9 ∨ x.tenant = r.tenant.toNat)) (sized 16 runHandSet)

/-- B004h.00: the limits of sync objects. -/
def runSyncLimits (d : Device) (_r : Req) (v : List Byte) : Answer :=
  if recordsOk 512 4 v (fun _ b => decide (leAt b 0 2 ≤ 16384)) then
    done (d.mergeRecords 512 4 v (fun d t b => d.setLimits t { d.limits t with sync := leAt b 0 2 }))
  else refuse d dInvalid

def ruleSyncLimits : WriteRule := WriteRule.plain (sized 2048 runSyncLimits)

/-! ### The commands -/

def execDefineTenant (r : Req) (s : State) : Host.Outcome State Fault Refusal :=
  s.lift (fun d => d.write 0x5001 0 ruleDefineTenant r)

def execUndefineTenant (r : Req) (s : State) : Host.Outcome State Fault Refusal :=
  s.lift (fun d => d.write 0x5002 0 ruleUndefineTenant r)

def execCreateContext (r : Req) (s : State) : Host.Outcome State Fault Refusal :=
  s.lift (fun d => d.write 0x5004 0 ruleCreateContext r)

def execReleaseContext (r : Req) (s : State) : Host.Outcome State Fault Refusal :=
  s.lift (fun d => d.write 0x5005 0 ruleReleaseContext r)

def execKeyInstall (r : Req) (s : State) : Host.Outcome State Fault Refusal :=
  s.lift (fun d => d.write 0x5010 0 ruleKeyInstall r)

def execKeyRemove (r : Req) (s : State) : Host.Outcome State Fault Refusal :=
  s.lift (fun d => d.write 0x5011 0 ruleKeyRemove r)

def execKeyClaim (r : Req) (s : State) : Host.Outcome State Fault Refusal :=
  s.lift (fun d => d.write 0x5013 0 ruleKeyClaim r)

def execAcknowledgedSequenceWrite (r : Req) (s : State) : Host.Outcome State Fault Refusal :=
  s.lift (fun d => d.write 0x5032 0 ruleAck r)

def execBind (r : Req) (s : State) : Host.Outcome State Fault Refusal :=
  s.lift (fun d => d.write 0xB001 0 ruleBind r)

def execUnbind (r : Req) (s : State) : Host.Outcome State Fault Refusal :=
  s.lift (fun d => d.write 0xB002 0 ruleUnbind r)

def execHandSet (r : Req) (s : State) : Host.Outcome State Fault Refusal :=
  s.lift (fun d => d.write 0xB012 0 ruleHandSet r)

/-- TRANSFER_TIMEOUT (R330): no segment for 5040h.01 ms aborts the transfer; its next segment finds none open. -/
def execTransferTimeout (tenant : Tenant) (source : Coord) (tag : BitVec 16) (s : State) :
    Host.Outcome State Fault Refusal :=
  s.lift (fun d =>
    match List.find? (fun (t : Transfer) => decide (t.tenant = tenant.toNat ∧ t.source = source ∧ t.tag = tag)) d.dict.transfers with
    | none => d
    | some t => (d.reach (t.last + d.reg (key 0x5040 1) * 1000000)).abortTransfer t)

/-- LATCH_TIMEOUT (R331): no READ for 5040h.01 ms drops the latch. -/
def execLatchTimeout (source : Coord) (tag : BitVec 16) (s : State) : Host.Outcome State Fault Refusal :=
  s.lift (fun d =>
    match d.latch? source tag with
    | none => d
    | some l => (d.reach (l.last + d.reg (key 0x5040 1) * 1000000)).dropLatch source tag)

end Sys2Proof.Machine
end

