-- ==== Sys2Proof/Machine/Calib.lean ====
section
/-!
DEFINITION. Calibration (03): what an attempt selects (R49, R50), power-up and pattern calibration (R51, R55), live
rotation and acceptance (R54–R59), the order of work (R60, R61), probes (R62), the monitor (R63), replacement of an
engine (R64, R65), and the objects of 9000h–9030h. What a measurement finds is an event of the analogue world and comes
with the command; a column the command does not list confirms the selection it has.
-/
namespace Sys2Proof.Machine

/-! ### Switch points (R49) -/

/-- 32 · o for switch points in 1/16 counts at counts k1 and k2: exact. -/
def offset32 (m : SegMeas) (k1 k2 : Nat) : Int := (m.s1 - 16 * k1 + 8) + (m.s2 - 16 * k2 + 8)

/-- The gain error, a fraction in FP32; none when k2 − k1 < 16. -/
def gainErr (m : SegMeas) (k1 k2 : Nat) : Option F32 :=
  if k2 < k1 + 16 then none
  else some (f32Sub (f32Div (f32RoundInt false (m.s2 - m.s1) (-4)) (f32OfInt ((k2 : Int) - k1))) f32One)

/-- a · 2^x ≤ b · 2^y over the integers. -/
def scaledLe (a : Nat) (x : Int) (b : Nat) (y : Int) : Bool :=
  if x ≥ y then decide (a * 2 ^ (x - y).toNat ≤ b) else decide (a ≤ b * 2 ^ (y - x).toNat)

/-- |o| ≤ a limit in LSB, exactly. -/
def offsetLe (o : Int) (lim : F32) : Bool := scaledLe o.natAbs (-5) (f32Man lim) (f32Exp lim)

/-- c · |g| ≤ a limit, exactly. -/
def gainLe (c : Nat) (g lim : F32) : Bool := scaledLe (c * f32Man g) (f32Exp g) (f32Man lim) (f32Exp lim)

/-! ### Selection (R50) -/

/-- Counts of the driven row sets of both segments: (k1, k2) lower, (k1, k2) upper. -/
structure Counts where
  l1 : Nat
  l2 : Nat
  u1 : Nat
  u2 : Nat
  deriving DecidableEq, Repr

/-- What an attempt on one column selects and found: ladder copy, instances of both segments, their offsets, the gain
errors on the copy (none where the spread is below 16). -/
structure Pick where
  copy : Nat
  i0 : Nat
  i1 : Nat
  o0 : Int
  o1 : Int
  g : Option (F32 × F32)
  deriving DecidableEq, Repr

def SegMeas.zero : SegMeas := ⟨0, 0⟩

/-- Larger |g| of a copy. -/
def copyGain (k : Counts) (m : SegMeas × SegMeas) : Option (F32 × F32) :=
  match gainErr m.1 k.l1 k.l2, gainErr m.2 k.u1 k.u2 with
  | some a, some b => some (a, b)
  | _, _ => none

/-- The copy with the smallest larger |g|, the lowest-numbered on a tie. -/
def bestCopy (k : Counts) (ms : List (SegMeas × SegMeas)) (old : Nat) : Nat :=
  let gs := ms.map (copyGain k)
  if gs.any (fun g => g.isNone) || gs.isEmpty then old
  else
    let v := gs.map (fun g => match g with | some x => f32MaxOp (f32Abs x.1) (f32Abs x.2) | none => 0#32)
    (v.zipIdx.foldl (fun (b : F32 × Nat) x => if f32Lt x.1 b.1 then x else b) (v.headD 0#32, 0)).2

/-- The instance with the smallest |o|, the lowest-numbered on a tie. -/
def bestInst (os : List Int) : Nat :=
  (os.zipIdx.foldl (fun (b : Int × Nat) x => if x.1.natAbs < b.1.natAbs then x else b) (os.headD 0, 0)).2

/-- R50 on one column with the copy it has. -/
def pickOf (k : Counts) (old : Nat) (m : ColMeas) : Pick :=
  let c := bestCopy k m.copies old
  let o0 := m.insts.map (fun x => offset32 x.1 k.l1 k.l2)
  let o1 := m.insts.map (fun x => offset32 x.2 k.u1 k.u2)
  let i0 := bestInst o0
  let i1 := bestInst o1
  ⟨c, i0, i1, o0.getD i0 0, o1.getD i1 0, copyGain k (m.copies.getD c (SegMeas.zero, SegMeas.zero))⟩

/-- The two attempts select the same copy and instances. -/
def Pick.same (a b : Pick) : Bool := decide (a.copy = b.copy ∧ a.i0 = b.i0 ∧ a.i1 = b.i1)

/-- Each o of two attempts agrees within the agreement limit. -/
def Pick.offsetsAgree (a b : Pick) (lim : F32) : Bool := offsetLe (a.o0 - b.o0) lim && offsetLe (a.o1 - b.o1) lim

/-- Each g of two attempts agrees within 0.1 %. -/
def Pick.gainsAgree (a b : Pick) : Bool :=
  match a.g, b.g with
  | some x, some y => gainLe 1000 (f32Sub x.1 y.1) f32One && gainLe 1000 (f32Sub x.2 y.2) f32One
  | _, _ => true

/-- Plausibility of a weight-class result (Tab. 3.4). -/
def Pick.plausible (p : Pick) (oLim gLim : F32) : Bool :=
  offsetLe p.o0 oLim && offsetLe p.o1 oLim &&
    (match p.g with | none => true | some x => gainLe 100 x.1 gLim && gainLe 100 x.2 gLim)

/-! ### Selections of an engine (Tab. 3.1) -/

def Engine.copyOf (e : Engine) (p : Nat) : Nat := (Tbl.get 0#2 e.ladders p).toNat

/-- Commits a selection for a physical column. -/
def Engine.commit (e : Engine) (p : Nat) (s : Pick) : Engine :=
  { e with ladders := Tbl.set 0#2 e.ladders p (BitVec.ofNat 2 s.copy),
           comps := Tbl.set 0#2 (Tbl.set 0#2 e.comps (2 * p) (BitVec.ofNat 2 s.i0)) (2 * p + 1) (BitVec.ofNat 2 s.i1) }

def Engine.spare (e : Engine) (j : Nat) : Spare := Tbl.get ⟨0, 0⟩ e.spares j

def Engine.setSpare (e : Engine) (j : Nat) (x : Spare) : Engine := { e with spares := Tbl.set ⟨0, 0⟩ e.spares j x }

/-- Spares that are free and not retired, ascending. -/
def Engine.freeSpares (e : Engine) : List Nat :=
  (List.range 16).filter (fun j => decide ((e.spare j).st = 0) && !(e.retired.contains (1024 + j)))

/-! ### Pattern calibration (R51, R55) -/

/-- Counts of a pattern calibration: 16 and 56 driven rows of the 64 written ones. -/
def patternCounts : Counts := ⟨16, 56, 16, 56⟩

/-- One try on one column: the attempt and its repeat agree, and the sweep passes. None when the try did not measure
the column. -/
def tryCol (lim : F32) (old p : Nat) (a : Attempt) : Option (Option Pick) :=
  match a.first.find? (fun m => decide (m.col.val = p)), a.again.find? (fun m => decide (m.col.val = p)) with
  | some x, some y =>
    let s := pickOf patternCounts old x
    let t := pickOf patternCounts old y
    if s.same t && s.offsetsAgree t lim && s.gainsAgree t && !(a.sweepFail.any (fun c => decide (c.val = p))) then some (some s)
    else some none
  | some _, none => some none
  | none, _ => if a.sweepFail.any (fun c => decide (c.val = p)) then some none else none

/-- A column over at most three tries: its selection, or `none` when it failed three times. A try that does not name the
column confirms the selection it has. -/
def tries (lim : F32) (old p : Nat) (as_ : List Attempt) : Option (Option Pick) :=
  let rs := ((as_.take 3).filterMap (tryCol lim old p))
  match rs.find? (fun x => x.isSome) with
  | some x => some x
  | none => if rs.length < 3 then none else some none

/-- Pattern calibration of the given physical columns: selections committed, failed columns retired, cells 0. -/
def Engine.patternCols (e : Engine) (lim : F32) (ps : List Nat) (as_ : List Attempt) : Engine :=
  ps.foldl (fun (e : Engine) p =>
    let e := e.zeroCol p
    match tries lim (e.copyOf p) p as_ with
    | none => e
    | some none => { e with retired := if e.retired.contains p then e.retired else e.retired ++ [p] }
    | some (some s) => { e.commit p s with retired := List.filter (fun (x : Nat) => decide (x ≠ p)) e.retired }) e

/-- Steers each retired main column that has no spare yet to the lowest-numbered spare that passed (R51 step 5). Answers
whether the spares sufficed. -/
def Engine.steerRetired (e : Engine) : Engine × Bool :=
  (List.range 1024).foldl (fun (x : Engine × Bool) l =>
    if x.1.retired.contains l ∧ (Tbl.find? x.1.steer l).isNone then
      match x.1.freeSpares with
      | [] => (x.1, false)
      | j :: _ => ({ x.1.setSpare j ⟨l, 2⟩ with steer := Tbl.put x.1.steer l (1024 + j) }, x.2)
    else x) (e, true)

/-- Number of an engine's retired columns, spares included. -/
def Engine.lost (e : Engine) : Nat := e.retired.length

/-- A physical engine as its power-up calibration finds it (R51 step 7): 0s everywhere, class empty. -/
def Engine.powerUp (e : Engine) : Engine :=
  { e with cells := [], cls := 0, scales := [], badCounts := [], steer := [], spares := [], rot := none, use := none,
           slots := [], work := [], retired := [], fails := [], queue := [], stale := [] }

/-- The end of a power-up calibration: spares that failed are faulted (Tab. 3.5), retired columns are steered to spares
that passed. -/
def Engine.settleSpares (e : Engine) : Engine :=
  let e := (List.range 16).foldl (fun (e : Engine) j =>
    if e.retired.contains (1024 + j) then e.setSpare j ⟨0, 3⟩ else e) e
  let x := e.steerRetired
  { x.1 with usable := x.2 && decide (x.1.lost < 12) }

/-- Calibration of a whole engine by pattern at power-up. -/
def Engine.patternAll (e : Engine) (lim : F32) (as_ : List Attempt) : Engine :=
  (e.powerUp.patternCols lim (List.range 1040) as_).settleSpares

/-! ### Work (R60, R61) -/

/-- Columns of a group that still stand on their main columns. -/
def Engine.groupCols (e : Engine) (q : Nat) : List Nat :=
  ((List.range 16).map (· + 16 * q)).filter (fun l => (Tbl.find? e.steer l).isNone)

/-- When a column was last accepted. -/
def Engine.acceptedAt (e : Engine) (l : Nat) : Nat := max e.calAt (Tbl.get 0 e.accepted l)

/-- A column's last accepted attempt is `tenths`/10 of the revisit period old. -/
def Engine.agedCol (e : Engine) (l now period tenths : Nat) : Bool :=
  decide (e.acceptedAt l + period * 100000000 * tenths ≤ now)

/-- Logical columns of a group whose attempts are still to come round: those not retired. -/
def Engine.liveCols (e : Engine) (q : Nat) : List Nat :=
  ((List.range 16).map (· + 16 * q)).filter (fun l => !(e.retired.contains l))

/-- When a group was last accepted: its oldest column. -/
def Engine.groupAt (e : Engine) (q : Nat) : Nat :=
  match e.liveCols q with
  | [] => e.calAt
  | l :: ls => ls.foldl (fun t x => min t (e.acceptedAt x)) (e.acceptedAt l)

/-- A group is `tenths`/10 of the revisit period old. -/
def Engine.aged (e : Engine) (q now period tenths : Nat) : Bool :=
  (e.liveCols q).any (fun l => e.agedCol l now period tenths)

/-- Puts a group among the stale ones, which stand in the order of their age (R60). -/
def Engine.insertStale (e : Engine) (q : Nat) : List Nat → List Nat
  | [] => [q]
  | x :: xs => if e.groupAt q < e.groupAt x then q :: x :: xs else x :: e.insertStale q xs

def Engine.addStale (e : Engine) (q : Nat) : Engine :=
  if e.stale.contains q then e else { e with stale := e.insertStale q e.stale }

/-- A stale group stays stale until every attempt of its columns is accepted again (R61). -/
def Engine.dropFresh (e : Engine) (now period : Nat) : Engine :=
  { e with stale := e.stale.filter (fun q => e.aged q now period 8) }

/-- Work that probes every column-segment of segment `s` (R87): its column stands beyond those of the engine. -/
def probeJob (s : Nat) : CalJob := ⟨3, [2048 + s]⟩

/-- A job of pattern recalibration of a spare: its column is a spare's. -/
def CalJob.spares (j : CalJob) : List Nat := j.cols.filter (fun p => decide (1024 ≤ p ∧ p < 1040))

/-- A spare can be recalibrated by pattern: it is free or faulted, and not retired. -/
def Engine.spareOpen (e : Engine) (j : Nat) : Bool :=
  decide ((e.spare j).st = 0 ∨ (e.spare j).st = 3) && !(e.retired.contains (1024 + j))

/-- A job that can be done now: a batch of columns on their main columns, a spare that can be recalibrated, a probe. -/
def Engine.jobOpen (e : Engine) (j : CalJob) : Bool :=
  j.cols.any (fun p =>
    if p < 1024 then (Tbl.find? e.steer p).isNone && !(e.retired.contains p)
    else if p < 1040 then e.spareOpen (p - 1024) else true)

/-- Some work of a level below `level` waits (R60): a stale group or a job. -/
def Engine.before (e : Engine) (level : Nat) : Bool :=
  (decide (1 < level) && e.stale.any (fun q => !(e.groupCols q).isEmpty)) ||
    e.queue.any (fun j => decide (j.level < level) && e.jobOpen j)

/-- Takes the oldest batch of a level from the queue; spares and probes are no batches. -/
def takeJob (level : Nat) : List CalJob → Option (CalJob × List CalJob)
  | [] => none
  | j :: js =>
    if j.level = level ∧ j.cols.all (fun l => decide (l < 1024)) = true then some (j, js)
    else (takeJob level js).map (fun r => (r.1, j :: r.2))

/-- The oldest stale group that has columns to rotate: those of its columns that are stale themselves, or all that stand on
their main columns. -/
def Engine.staleCols (e : Engine) (now period : Nat) : List Nat :=
  match e.stale.find? (fun q => !(e.groupCols q).isEmpty) with
  | none => []
  | some q =>
    let cs := (e.groupCols q).filter (fun l => e.agedCol l now period 8)
    if cs.isEmpty then e.groupCols q else cs

/-- The batch of a level's oldest job. -/
def Engine.jobWork (e : Engine) (level : Nat) : Option (List Nat × Nat × Engine) :=
  (takeJob level e.queue).map (fun r => (r.1.cols, level, { e with queue := r.2 }))

/-- The next batch of R60: stale groups, corpus disagreements, faulted columns, flagged columns, then the next group in
turn; each pass of the engine makes its free spares due for pattern recalibration (R55). Answers the columns, their level,
and the engine without that work. -/
def Engine.nextWork (e : Engine) (now period : Nat) : List Nat × Nat × Engine :=
  match e.staleCols now period with
  | l :: ls => (l :: ls, 1, e)
  | [] =>
    match e.jobWork 2 with
    | some r => r
    | none =>
      match e.jobWork 3 with
      | some r => r
      | none =>
        match e.jobWork 4 with
        | some r => r
        | none =>
          let q := e.next / 16 % 64
          let g := { e with next := (16 * (q + 1)) % 1024 }
          ((e.groupCols q).filter (fun l => decide (e.next % 1024 ≤ l)), 6,
            if q = 63 then g.freeSpares.foldl (fun (g : Engine) j => g.enqueue 5 [1024 + j]) g else g)

/-- What a batch leaves for the next one: the columns for which no spare was free. -/
def Engine.keepRest (e : Engine) (level : Nat) (rest : List Nat) : Engine :=
  match rest with
  | [] => e
  | l :: _ =>
    if level = 6 then { e with next := l }
    else if level = 1 then e
    else { e with queue := ⟨level, rest⟩ :: e.queue }

/-- A field-test slice holds the rows at a logical position (R100, R365). -/
def Device.underTest (d : Device) (c pos : Nat) : Bool :=
  (d.core c).seq.board.any (fun e => decide (e.agent = 3 ∧ e.rng.engineSpace = true ∧ e.rng.lo / 256 = pos ∧ e.freed = none))

/-- The health function is told that a core lacks a usable engine (R52, R65). -/
def Device.reportEngine (d : Device) (c : Nat) : Device :=
  let i := anyOfCore c
  let h := d.health i
  d.setHealth i { h with noEngine := true }

/-- The spare engine of a core stands ready to replace another (R64). -/
def Device.spareReady (d : Device) (c : Nat) : Bool :=
  let x := d.engine c 32
  decide (x.st = 1 ∧ x.lost ≤ 11) && x.usable

/-- A row of the old engine, by logical column, written into the spare engine. -/
def copyLogical (src dst : Engine) : Engine :=
  (List.range 1024).foldl (fun (x : Engine) l =>
    (x.writeCols l).foldl (fun (y : Engine) p =>
      (List.range 2).foldl (fun (z : Engine) s =>
        { z with cells := Tbl.set 0#128 z.cells (2 * p + s) (Tbl.get 0#128 src.cells (2 * src.physOf l + s)) }) y) x) dst

/-- Starts the replacement of an engine by the spare engine, or reports it (R64, R65). The copy's reads of the old engine
take its free segment slots; its writes are made as it starts, and logical writes land in both engines from then on. -/
def Device.replaceEngine (d : Device) (c e : Nat) : Device :=
  let g := d.engine c e
  if g.replacing ∨ g.st ≠ 0 then d
  else if e ≠ 32 ∧ d.spareReady c = true then
    (d.putCells c 32 (copyLogical g (d.engine c 32))).modEngine c e (fun g =>
      { (g.setMade .copyRow false 0).setMade .copyRow true 0 with replacing := true })
  else d.reportEngine c

/-- No spare of an engine can ever be free again: each is retired or serves a retired column (R65). -/
def Engine.sparesGone (e : Engine) : Bool :=
  (List.range 16).all (fun j => decide ((e.spare j).st = 2) || e.retired.contains (1024 + j))

/-- The work of a rotation begins anew: no access is made yet. -/
def Engine.freshWork (e : Engine) : Engine := { e with work := [] }

/-- A calibration unit works on nothing now: no rotation, no replacement, no test of its rows (R60). -/
def Device.unitFree (d : Device) (c e : Nat) : Bool :=
  let g := d.engine c e
  !(d.underTest c g.pos) && decide (g.rot = none ∧ g.replacing = false)

/-- ROTATION_BATCH_START (R54, R60): the next batch takes free spares and phase A begins. Its copy takes free segment slots
(CAL_FREE_SLOT_USE). Without a spare that can be free again the engine is replaced (R65). -/
def execRotationBatchStart (c : CoreIx) (e : PhysIx) (s : State) : Host.Outcome State Fault Refusal :=
  s.lift (fun d =>
    let g := d.engine c e
    let free := g.freeSpares
    if !(d.unitFree c e) || decide (g.st ≠ 0) then d
    else if g.sparesGone then d.replaceEngine c e
    else
      let w := g.nextWork d.clk.up (d.reg (key 0x9000 1))
      if g.before w.2.1 || free.isEmpty then d
      else
        let cols := w.1.filter (fun l => (Tbl.find? g.steer l).isNone)
        let now := cols.take free.length
        if now.isEmpty then d.setEngine c e w.2.2
        else
          let prs := now.zip free
          let g := (w.2.2.keepRest w.2.1 (cols.drop free.length)).freshWork
          let g := prs.foldl (fun (g : Engine) x => g.setSpare x.2 ⟨x.1, 1⟩) g
          d.setEngine c e { g with rot := some ⟨now.headD 0 / 16, prs, 0, g.cls, 0#32, 0#32, 0#32, 0⟩ })

/-! ### Pattern recalibration (R55) -/

/-- One pattern recalibration of a physical column (R51 steps 1–4 and a write of 0s): its selection where it passes, the
one it has where it fails; consecutive failures are counted. -/
def Engine.patternOne (e : Engine) (lim : F32) (p : Nat) (a : Attempt) : Engine × Bool :=
  let e := e.zeroCol p
  match tryCol lim (e.copyOf p) p a with
  | none => (e, true)
  | some (some s) => ({ e.commit p s with fails := Tbl.set 0 e.fails p 0 }, true)
  | some none => ({ e with fails := Tbl.set 0 e.fails p (Tbl.get 0 e.fails p + 1) }, false)

/-- A spare after its recalibration: free where it passed; else faulted and due again, and retired at its third
consecutive failure (Tab. 3.4). -/
def Engine.patternSpare (e : Engine) (lim : F32) (j : Nat) (a : Attempt) : Engine :=
  let r := e.patternOne lim (1024 + j) a
  let g : Engine := { r.1 with queue := r.1.queue.filter (fun b => !decide (b.cols = [1024 + j])) }
  if r.2 then g.setSpare j ⟨0, 0⟩
  else if Tbl.get 0 g.fails (1024 + j) ≥ 3 then
    { g.setSpare j ⟨0, 3⟩ with retired := g.retired ++ [1024 + j] }
  else (g.setSpare j ⟨0, 3⟩).enqueue 5 [1024 + j]

/-- An empty or spare engine after its recalibration: its steering and its retired columns stay (R59). A main column that
fails is due for a rotation, a spare for another recalibration. -/
def Engine.patternEngine (e : Engine) (lim : F32) (a : Attempt) : Engine :=
  let e := { e with cells := [], badCounts := [] }
  (List.range 1040).foldl (fun (e : Engine) p =>
    if e.retired.contains p then e
    else if p < 1024 then
      let r := e.patternOne lim p a
      if r.2 then r.1 else r.1.enqueue 3 [p]
    else if e.spareOpen (p - 1024) then e.patternSpare lim (p - 1024) a
    else (e.patternOne lim p a).1) e

/-- Level of R60 at which a spare's recalibration stands: that of its oldest job, or 5. -/
def Engine.spareLevel (e : Engine) (j : Nat) : Nat :=
  match e.queue.find? (fun b => b.cols.contains (1024 + j)) with
  | some b => b.level
  | none => 5

/-- PATTERN_RECAL (R55): a free or faulted spare, or an empty engine or a core's spare engine, when no earlier work of R60
waits. -/
def execPatternRecal (c : CoreIx) (e : PhysIx) (target : PatternTarget) (a : Attempt) (s : State) :
    Host.Outcome State Fault Refusal :=
  s.lift (fun d =>
    let lim : F32 := BitVec.ofNat 32 (d.reg (key 0x9000 4))
    let g := d.engine c e
    if !(d.unitFree c e) then d
    else
      match target with
      | .spare j =>
        if g.spareOpen j.val && !(g.before (g.spareLevel j.val)) then d.putCells c e (g.patternSpare lim j.val a) else d
      | .engine =>
        if decide (g.st = 1 ∨ (g.st = 0 ∧ g.cls = 0)) && !(g.before 5) then
          d.putCells c e { g.patternEngine lim a with calAt := d.clk.up }
        else d)

/-- Both segment weight counts of two columns are valid and equal. -/
def Engine.sameCounts (e : Engine) (p q : Nat) : Bool :=
  (List.range 2).all (fun s => !e.badCount (2 * p + s) && !e.badCount (2 * q + s) &&
    decide (e.wcount (2 * p + s) = e.wcount (2 * q + s)))

/-- Accesses of the copy in each segment, and of one attempt's measurement by class (Tab. 3.3). -/
def copyAccesses : Nat := 256
def measureAccesses (cls : Nat) : Nat := if cls = 1 then 14 else 28
def probeAccesses : Nat := 2

/-- The accesses of an engine that stand in slots that have passed are made, when something looks at their work. -/
def Device.settleNow (d : Device) (c e : Nat) : Device := d.settleSlots c e d.cyc

/-- A batch begins its attempt: the class of its engine and the limits in force hold to its end (R57, R67). -/
def Rotation.measure (r : Rotation) (cls : Nat) (d : Device) : Rotation :=
  ⟨r.group, r.cols, 2, cls, BitVec.ofNat 32 (d.reg (key 0x9000 2)), BitVec.ofNat 32 (d.reg (key 0x9000 3)),
    BitVec.ofNat 32 (d.reg (key 0x9000 4)), d.reg (key 0x9000 5)⟩

/-- ROTATION_CHECK (R55): once the copy is made, into measurement with reads on the spares, or back to the main columns
with the differing spares faulted. The attempt's class and limits are those of its start (R57, R67). -/
def execRotationCheck (c : CoreIx) (e : PhysIx) (s : State) : Host.Outcome State Fault Refusal :=
  s.lift (fun d =>
    let d := d.settleNow c e
    let g := d.engine c e
    match g.rot with
    | none => d
    | some r =>
      if r.phase ≠ 0 ∨ g.madeBoth .copyRow copyAccesses = false then d
      else if r.cols.all (fun x => g.sameCounts x.1 (1024 + x.2)) then
        let st := r.cols.foldl (fun (t : Tbl Nat) x => Tbl.put t x.1 (1024 + x.2)) g.steer
        d.setEngine c e { g.freshWork with steer := st, rot := some (r.measure g.cls d) }
      else
        let g' := r.cols.foldl (fun (y : Engine) x =>
          if g.sameCounts x.1 (1024 + x.2) then y.setSpare x.2 ⟨0, 0⟩
          else (y.setSpare x.2 ⟨0, 3⟩).enqueue 5 [1024 + x.2]) g
        d.setEngine c e { g' with rot := none })

/-! ### Acceptance (R57–R59) -/

def lowRows (n : Nat) : Nat := 2 ^ n - 1

/-- Counts of rows 0–15 and 0–63 of both segments of a column. -/
def Engine.liveCounts (e : Engine) (p : Nat) : Counts :=
  let k := fun s n => popc (e.bits (2 * p + s) &&& lowRows n)
  ⟨k 0 16, k 0 64, k 1 16, k 1 64⟩

/-- The verification probe passes on a column (R58): no reading departs from the exact counts so that R38 fails. `x` is
the half the calibration unit drew. -/
def Engine.verified (e : Engine) (x p : Nat) (rd : List Reading) : Bool :=
  (List.range 2).all (fun s =>
    match probeSeg x (e.bits (2 * p + s)) (e.badCount (2 * p + s)) (answer rd (2 * p + s) 0) (answer rd (2 * p + s) 1) with
    | some b => b
    | none => false)

/-- What an attempt of batch `r` gives for one column: its selection, none when it keeps the one it has, and whether the
attempt is accepted. `x` is the half of its verification probe. -/
def Rotation.judgeCol (r : Rotation) (g : Engine) (x p : Nat) (a : Attempt) : Option Pick × Bool :=
  let k := g.liveCounts p
  let ok := g.verified x p a.probe
  match a.first.find? (fun m => decide (m.col.val = p)) with
  | none => (none, ok)
  | some m =>
    let s := pickOf k (g.copyOf p) m
    if r.cls = 1 then (some s, ok && s.plausible r.offLim r.gainLim)
    else
      match a.again.find? (fun m => decide (m.col.val = p)) with
      | none => (some s, false)
      | some m2 =>
        let t := pickOf k (g.copyOf p) m2
        (some s, ok && s.same t && s.offsetsAgree t r.agreeLim)

/-- A 64-row half chosen by 128 bits: it takes rows in order while the choice leaves enough. -/
def halfFrom (r : Nat) : Nat → Nat → Nat → Nat
  | 0, _, _ => 0
  | k + 1, row, need =>
    if need = 0 then 0
    else if r.testBit row ∨ k + 1 ≤ need then 2 ^ row + halfFrom r k (row + 1) (need - 1)
    else halfFrom r k (row + 1) need

/-- The half a probe draws from the engine's LFSR; the spec gives no polynomial and no mapping, so the half and the next
LFSR value are free (log 14). -/
def Device.drawHalf (d : Device) (c e : Nat) : Nat × Device :=
  let a := d.fresh
  let b := a.2.fresh
  let l := b.2.fresh
  (halfFrom (a.1.toNat + 2 ^ 64 * b.1.toNat) 128 0 64, l.2.modEngine c e (fun g => { g with lfsr := l.1.setWidth 16 }))

/-- One column of a batch comes back: accepted, failed, or retired on its spare (R57, R59). -/
def Device.returnCol (d : Device) (c e : Nat) (b : Rotation) (x : Nat) (a : Attempt) (l j : Nat) : Device :=
  let g := d.engine c e
  let r := b.judgeCol g x l a
  let due := g.queue.any (fun b => decide (b.level = 5 ∧ b.cols = [1024 + j]))
  let home := fun (g : Engine) => { g.setSpare j ⟨0, if due then 3 else 0⟩ with steer := Tbl.del g.steer l }
  if r.2 then
    let g := match r.1 with | some s => g.commit l s | none => g
    d.setEngine c e { home g with fails := Tbl.set 0 g.fails l 0, accepted := Tbl.put g.accepted l d.clk.up }
  else
    let n := Tbl.get 0 g.fails l + 1
    let d := d.engineErr c g.pos e (2 * l) (if b.cls = 1 then 5 else 6) n 0xFFFF
    let lim := b.fails + if b.cls = 1 then 0 else 1
    if n ≥ lim then
      let d := d.setEngine c e { g.setSpare j ⟨l, 2⟩ with fails := Tbl.set 0 g.fails l n, retired := g.retired ++ [l] }
      ((d.bump (key 0x9030 4) 1).engineErr c g.pos e (2 * l) 7 0 0xFFFF)
    else d.setEngine c e { home g with fails := Tbl.set 0 g.fails l n }

/-- Phase D of batch `r` with the half `x` of its verification probe (R57–R59): each column comes back, a batch of another
class than weight that failed is queued again at once, and an engine that has lost enough columns is replaced. -/
def Device.returnBatch (d : Device) (c e : Nat) (r : Rotation) (x : Nat) (a : Attempt) : Device :=
  let g := d.engine c e
  let bad := r.cols.any (fun y => !(r.judgeCol g x y.1 a).2)
  let d := r.cols.foldl (fun d y => d.returnCol c e r x a y.1 y.2) d
  let d := d.modEngine c e (fun g =>
    let left := (r.cols.map (·.1)).filter (fun l => !(g.retired.contains l))
    let g := if bad && decide (r.cls ≠ 1) && !left.isEmpty then g.enqueue 2 left else g
    { g.freshWork.dropFresh d.clk.up (d.reg (key 0x9000 1)) with rot := none })
  let d := d.bump (key 0x9030 1) 1
  let d := if bad then d.bump (key 0x9030 (if r.cls = 1 then 2 else 3)) 1 else d
  if (d.engine c e).lost ≥ d.reg (key 0x9000 8) then d.replaceEngine c e else d

/-- SELECTION_ATTEMPT_DONE (R57–R59): phase D for a batch whose measurement and verification probe have taken their slots
(Tab. 3.3). -/
def execSelectionAttemptDone (c : CoreIx) (e : PhysIx) (a : Attempt) (s : State) : Host.Outcome State Fault Refusal :=
  s.lift (fun d =>
    let d := d.settleNow c e
    let g := d.engine c e
    match g.rot with
    | none => d
    | some r =>
      if r.phase ≠ 2 ∨ g.madeBoth .measure (measureAccesses r.cls) = false ∨ g.madeBoth .probe probeAccesses = false then d
      else
        let h := (d.readCounts c e a.probe).drawHalf c e
        h.2.returnBatch c e r h.1 a)

/-! ### Time (R61) -/

/-- BATCH_STALE (R61): 0.8 of the revisit period after a group's last accepted attempt. -/
def execBatchStale (c : CoreIx) (e : PhysIx) (group : Fin 64) (s : State) : Host.Outcome State Fault Refusal :=
  s.lift (fun d =>
    let g := d.engine c e
    let d := d.reach (g.groupAt group.val + d.reg (key 0x9000 1) * 800000000)
    d.setEngine c e (g.addStale group.val))

/-- When the first stale batch of a core reaches 0.9 of the period. -/
def Device.sliceDue (d : Device) (c : Nat) : Option Nat :=
  let es := (List.range 33).map (fun e => d.engine c e)
  let ts := es.flatMap (fun (g : Engine) => g.stale.map (fun q => g.groupAt q))
  match ts with
  | [] => none
  | t :: ts => some (ts.foldl min t + d.reg (key 0x9000 1) * 900000000)

/-- Cycles of a calibration slice (R61). -/
def calSliceCycles : Nat := 650

/-- A calibration slice starts on a core; action 5 follows it. -/
def Device.startCalSlice (d : Device) (c : Nat) : Device :=
  d.modCore c (fun x => { x with seq := { x.seq with phase := .calSlice },
                                 aux := { x.aux with calReserved := false, next := 5, pauseEnd := d.cyc + calSliceCycles } })

/-- Reserves a core's next commit mark for a calibration slice; on an idle core the slice starts at once (R107). -/
def Device.reserveSlice (d : Device) (c : Nat) : Device :=
  if d.coreUp c && decide ((d.core c).seq.phase = .idle) then d.startCalSlice c
  else d.modCore c (fun x => { x with aux := { x.aux with calReserved := true } })

/-- CAL_SLICE_RESERVE (R61). -/
def execCalSliceReserve (c : CoreIx) (s : State) : Host.Outcome State Fault Refusal :=
  s.lift (fun d =>
    match d.sliceDue c with
    | none => d
    | some t => (d.reach t).reserveSlice c)

/-- 9000h.01: a batch whose age exceeds the new thresholds is stale, or due for a slice, from the write on. -/
def runRevisit (d : Device) (r : Req) (v : List Byte) : Answer :=
  let a := runScalar (key 0x9000 1) d r v
  if a.status ≠ dOk then a
  else
    let d := a.dev
    let p := d.reg (key 0x9000 1)
    let es := List.map (fun (x : Nat × Engine) =>
      (x.1, (List.range 64).foldl (fun (g : Engine) q => if g.st = 0 ∧ g.aged q d.clk.up p 8 = true then g.addStale q else g)
        (x.2.dropFresh d.clk.up p)))
      d.cim.engines
    let due := (es.filter (fun x => x.2.stale.any (fun q => x.2.aged q d.clk.up p 9))).map (fun x => x.1 / 33)
    let d := { d with cim := { d.cim with engines := es } }
    done (due.foldl (fun d c => d.reserveSlice c) d)

def ruleRevisit : WriteRule := WriteRule.plain runRevisit

def execRevisitPeriodWrite (r : Req) (s : State) : Host.Outcome State Fault Refusal :=
  s.lift (fun d => d.write 0x9000 1 ruleRevisit r)

/-! ### The hint (R53, R66) -/

def hintWords : Nat := 212
def hintSize : Nat := 5372928

/-- Instance and copy fields of a hint record. -/
def hintInst (ws : List Nat) (cs : Nat) : Nat := bits (ws.getD (1 + cs / 16) 0) (2 * (cs % 16) + 1) (2 * (cs % 16))
def hintCopy (ws : List Nat) (p : Nat) : Nat := bits (ws.getD (131 + p / 16) 0) (2 * (p % 16) + 1) (2 * (p % 16))

/-- A hint record is listed (Tab. 3.5, R3): word 0 names the cluster, core and physical engine of its index, and state,
class and ladder copies are values of the table. -/
def hintRecOk (i : Nat) (ws : List Nat) : Bool :=
  let w0 := ws.getD 0 0
  decide (bits w0 3 0 = i / 33 / 12 ∧ bits w0 7 4 = i / 33 % 12 ∧ bits w0 13 8 = i % 33 ∧ bits w0 20 19 ≠ 3 ∧
    bits w0 22 21 ≠ 3) && (List.range 1040).all (fun p => decide (hintCopy ws p ≠ 3))

/-- A hint record as it is held: reserved bits are ignored (R2). -/
def hintRec (ws : List Nat) : List Nat :=
  [ws.getD 0 0 % 2 ^ 23] ++ ((ws.drop 1).take 195) ++ (ws.drop 196).map (· % 2 ^ 12)

/-- 9011h.00: a hint applies to the clusters whose calibration has not begun. -/
def runHint (d : Device) (_r : Req) (v : List Byte) : Answer :=
  let bad : Answer := refuse { d with cim := { d.cim with hint := [], hintStatus := dInvalid } } dInvalid
  if v.length = 0 then done { d with cim := { d.cim with hint := [], hintStatus := 0 } }
  else if v.length ≠ hintSize then bad
  else
    let recs := (chunksOf (4 * hintWords) 6336 v).zipIdx.map (fun x => (x.2, (List.range hintWords).map (fun i => wordAt x.1 i)))
    if recs.all (fun x => hintRecOk x.1 x.2) then
      let keep := recs.filter (fun x => !(d.cluster (x.1 / 396)).calibrated)
      done { d with cim := { d.cim with hint := keep.map (fun x => (x.1, hintRec x.2)), hintStatus := 0 } }
    else bad

def ruleHint : WriteRule := WriteRule.plain runHint

def execRedundancyHintWrite (r : Req) (s : State) : Host.Outcome State Fault Refusal :=
  s.lift (fun d => d.write 0x9011 0 ruleHint r)

/-- Physical column that a hint steers a logical column to: the spare whose record serves it as a retired column. -/
def hintSteer (ws : List Nat) (l : Nat) : Nat :=
  match (List.range 16).find? (fun j => decide (bits (ws.getD (196 + j) 0) 11 10 = 2 ∧ bits (ws.getD (196 + j) 0) 9 0 = l)) with
  | some j => 1024 + j
  | none => l

/-- Columns of an engine whose final selection differs from its hint (9030h.09): copy, instances or steering. -/
def Engine.hintDiffers (e : Engine) (ws : List Nat) : Nat :=
  ((List.range 1040).filter (fun p => decide (e.copyOf p ≠ hintCopy ws p ∨
    (Tbl.get 0#2 e.comps (2 * p)).toNat ≠ hintInst ws (2 * p) ∨
    (Tbl.get 0#2 e.comps (2 * p + 1)).toNat ≠ hintInst ws (2 * p + 1) ∨
    (p < 1024 ∧ e.physOf p ≠ hintSteer ws p)))).length

/-- The redundancy map record of an engine (Tab. 3.5). -/
def Engine.mapRecord (e : Engine) (c p : Nat) : List Nat :=
  let w0 := c / 12 + c % 12 * 16 + p * 256 + (if e.st = 0 then e.pos * 2 ^ 14 else 0) + e.st * 2 ^ 19 + e.cls * 2 ^ 21
  let pack := fun (f : Nat → Nat) (n lo : Nat) =>
    (List.range 16).foldl (fun w q => if lo * 16 + q < n then w + f (lo * 16 + q) * 4 ^ q else w) 0
  [w0] ++ (List.range 130).map (pack (fun i => (Tbl.get 0#2 e.comps i).toNat) 2080) ++
    (List.range 65).map (pack (fun i => e.copyOf i) 1040) ++
    (List.range 16).map (fun j => (e.spare j).target + (e.spare j).st * 1024)

/-! ### Free slots, counts, probes, the monitor -/

/-- CAL_FREE_SLOT_USE (R43, R45): the calibration unit takes the segment slot at its cycle for one conversion or row
access. A conversion or a read needs the slot to be free; a row of the copy moves on to the next slot that is. -/
def execCalFreeSlotUse (c : CoreIx) (e : PhysIx) (seg : Bool) (use : SlotAsk) (s : State) :
    Host.Outcome State Fault Refusal :=
  s.lift (fun d =>
    let d := ((d.reachCyc use.cycle).landUpTo c use.cycle).settleSlots c e use.cycle
    let a := EngSlot.access use.use seg use.cycle
    if d.underTest c (d.engine c e).pos then d
    else if decide (use.use = .copyRow) || (d.engine c e).slotFree a then
      ((d.modEngine c e (fun g => g.placeSlot a)).reachCyc (use.cycle + 2)).settleSlots c e (use.cycle + 2)
    else d)

/-- Reads of the cells that recompute a count-file word in each segment (R35). -/
def recomputeReads : Nat := 128

/-- COUNT_RECOMPUTE_DONE (R35): once the cells of both segments are read, the four counts of a word are valid again. -/
def execCountRecomputeDone (c : CoreIx) (e : PhysIx) (word : Fin 520) (s : State) : Host.Outcome State Fault Refusal :=
  s.lift (fun d =>
    let d := d.settleNow c e
    if (d.engine c e).madeBoth .recompute recomputeReads then
      d.modEngine c e (fun g => { g with badCounts := List.filter (fun (x : Nat) => decide (x ≠ word.val)) g.badCounts })
    else d)

/-- CAL_PROBE (R62): a probe whose two conversions have taken free slots of the segment, when no earlier work of R60
waits. The next batch in turn, which always waits, does not hold it. -/
def execCalProbe (c : CoreIx) (e : PhysIx) (seg : Bool) (rd : List Reading) (s : State) : Host.Outcome State Fault Refusal :=
  s.lift (fun d =>
    let d := d.settleNow c e
    let g := d.engine c e
    let sg := if seg then 1 else 0
    let level := if g.queue.contains (probeJob sg) then 3 else 7
    if !(d.unitFree c e) || g.before level || decide (g.made .probe seg < probeAccesses) then d
    else
      let h := (d.readCounts c e rd).drawHalf c e
      let d := h.2.modEngine c e (fun g => g.setMade .probe seg 0)
      let g := d.engine c e
      -- a count-file word holds both segments of two columns
      if !g.badCounts.isEmpty then d
      else
        let fs := (g.probe h.1 h.1 rd).filter (fun f => decide (f.1 % 2 = sg))
        let d := d.modEngine c e (fun g => { g with queue := List.filter (fun (b : CalJob) => decide (b ≠ probeJob sg)) g.queue })
        d.probeFaults c g.pos e 1 0xFFFF fs)

/-- A window's sums depart from the prediction (R63): S² > z² · V, or two over-range events. -/
def MonWin.biased (w : MonWin) (z : F32) : Bool :=
  !(scaledLe (127 * w.s.natAbs ^ 2) 0 (f32Man z ^ 2 * w.v) (2 * f32Exp z)) || decide (2 ≤ w.ovr)

/-- MONITOR_WINDOW_CLOSE (R63). The spec gives no formula for the rate of EVALT bits, so whether it departs is free. -/
def execMonitorWindowClose (c : CoreIx) (e : PhysIx) (col : Fin 1040) (seg : Bool) (s : State) :
    Host.Outcome State Fault Refusal :=
  s.lift (fun d =>
    let g := d.engine c e
    let cs := 2 * col.val + if seg then 1 else 0
    let k := g.pos * 2080 + cs
    let w := (d.core c).aux.window g.pos cs
    if w.n < d.reg (key 0x9000 7) ∨ g.st ≠ 0 then d
    else
      let f := d.fresh
      let d := if w.asked = 0 then d else f.2
      let flag := w.biased (BitVec.ofNat 32 (d.reg (key 0x9000 6))) || (decide (w.asked ≠ 0) && f.1.getLsbD 0)
      let d := d.modCore c (fun x => { x with aux := { x.aux with mon := Tbl.put x.aux.mon k MonWin.zero } })
      if flag then
        let d := d.bump (key 0x9030 7) 1
        match g.logicalOf col.val with
        | some l => d.modEngine c e (fun g => g.enqueue 4 [l])
        | none => d
      else d)

/-! ### Replacement (R64) -/

/-- Spares of an engine that serve no logical column. -/
def Engine.idleSpares (e : Engine) : List Nat :=
  ((List.range 16).map (· + 1024)).filter (fun p => (e.logicalOf p).isNone)

/-- All 2,080 segment weight counts of two engines agree (R64): the main columns one by one, the spares by the logical
columns they serve, and those that serve none by their sum, since the two engines may steer differently. -/
def sameLogical (a b : Engine) : Bool :=
  let rest := fun (e : Engine) (s : Nat) => (e.idleSpares.map (fun p => e.wcount (2 * p + s))).sum
  a.badCounts.isEmpty && b.badCounts.isEmpty &&
  (List.range 1024).all (fun l => (List.range 2).all (fun s =>
    decide (a.wcount (2 * l + s) = b.wcount (2 * l + s)) &&
      decide (a.wcount (2 * a.physOf l + s) = b.wcount (2 * b.physOf l + s)))) &&
  (List.range 2).all (fun s => decide (rest a s = rest b s))

/-- Moves an engine's position to physical engine 32 and retires the old engine. -/
def Device.switchEngine (d : Device) (c e : Nat) : Device :=
  let g := d.engine c e
  let x := d.engine c 32
  let d := d.setEngine c 32 { x with st := 0, pos := g.pos, cls := g.cls, width := g.width, scales := g.scales,
                                     disabled := g.disabled, use := g.use, calAt := d.clk.up }
  let d := d.setEngine c e { g with st := 2, replacing := false, usable := false, queue := [], stale := [] }
  (d.bump (key 0x9030 5) 1).engineErr c g.pos e 0xFFE 8 0 0xFFFF

/-- The first cycle from `t` on at which no operation of the step is in progress on an engine. -/
def Engine.opsEnd (e : Engine) (t : Nat) : Nat :=
  (e.slots.filter (fun b => b.work.isNone)).foldl (fun m b => max m (b.lo + b.len)) t

/-- Reads of the old engine's rows in each segment (R64 step 1). -/
def replaceReads : Nat := 128

/-- ENGINE_REPLACE_SWITCH (R64): once the rows are read, the copy is checked, and the logical position moves to physical engine 32. -/
def execEngineReplaceSwitch (c : CoreIx) (e : PhysIx) (s : State) : Host.Outcome State Fault Refusal :=
  s.lift (fun d =>
    let d := d.settleNow c e
    let g := d.engine c e
    if g.replacing = false ∨ g.rot ≠ none ∨ e.val = 32 ∨ g.madeBoth .copyRow replaceReads = false then d
    else if sameLogical g (d.engine c 32) then
      let t := g.opsEnd d.cyc
      ((d.reachCyc t).landUpTo c t).switchEngine c e
    else d.putCells c 32 (copyLogical g (d.engine c 32)))

end Sys2Proof.Machine
end

