-- ==== Sys2Proof/Machine/Elastic.lean ====
section
/-!
DEFINITION. Elastic memory operations of class 6 (R136–R138): COPY, GATHER, SCATTER, their start (R99, R100) and
their completion. Data moves when the operation completes; its ranges hold the scoreboard from its start.
-/
namespace Sys2Proof.Machine

/-! ### Access -/

/-- The cluster whose command window a handle is (R191). -/
def Device.windowOf (d : Device) (hid : Nat) : Option Nat :=
  (List.find? (fun (e : Nat × Nat) => decide (e.2 = hid)) d.attn.windows).map (·.1)

/-- Bytes an elastic access may reach in a handle: of a remote window, the far handle's (Tab. 7.4a). -/
def Handle.reach (h : Handle) : Nat := if h.remote then 64 * Config.farLength h.base h.len else h.bytes

/-- Checks an elastic access (R156): any cluster's memory, or a far handle through its window. -/
def Device.checkElastic (d : Device) (c hid off len : Nat) (write : Bool) : Option Nat :=
  match d.handle? hid with
  | none => some stHandle
  | some h =>
    if !(h.allows (d.stepTenant c) write) then some stHandle
    else if off + len > h.reach then some stRange
    else none

/-- A fresh word of far data, with its poison: what the far device holds is not this device's state. -/
def Device.freshWords (d : Device) : Nat → List RWord × Device
  | 0 => ([], d)
  | n + 1 =>
    let f := d.fresh
    let r := f.2.freshWords n
    (⟨f.1.setWidth 32, f.1.getLsbD 32⟩ :: r.1, r.2)

/-- Reads words for an elastic operation: from the far device through a remote window. -/
def Device.elRead (d : Device) (hid off n : Nat) : List RWord × Device :=
  match d.handle? hid with
  | some h =>
    if h.remote then (d.send (.farRead (BitVec.ofNat 18 h.base) h.len off (4 * n))).freshWords n
    else d.readH hid off n
  | none => d.readH hid off n

/-- Writes words for an elastic operation. -/
def Device.elWrite (d : Device) (hid off : Nat) (ws : List RWord) : Device :=
  match d.handle? hid with
  | some h =>
    if h.remote then d.send (.farWrite (BitVec.ofNat 18 h.base) h.len off (ws.map (fun (x : RWord) => (x.w, x.poison))))
    else d.writeH hid off ws
  | none => d

/-- What a combined read delivered of a row to an operation. -/
def Device.rowGot (d : Device) (c id row : Nat) : Option (List RWord) :=
  (d.mem.combined.find? (fun x => decide (x.core = c ∧ x.ident = id ∧ x.row = row))).map (·.words)

/-- Forgets what combined reads hold for an operation. -/
def Device.dropRows (d : Device) (c id : Nat) : Device :=
  { d with mem := { d.mem with
    combined := d.mem.combined.filter (fun x => !decide (x.core = c ∧ x.ident = id)),
    windows := d.mem.windows.map (fun w => { w with asks := w.asks.filter (fun a => !decide (a = (c, id))) }) } }

/-- The windows an operation waits in have closed when it ends (R163). -/
def Device.closeOf (d : Device) (c id : Nat) : Device :=
  (d.mem.windows.filter (fun w => w.asks.contains (c, id))).foldl (fun d w => d.closeWindow w) d

/-- Words of an operation: of a row that a combined read delivered, those; else read now, poisoned where the handle is Bad. -/
def Device.opWords (d : Device) (c id : Nat) (bad : Bool) (wa : Nat) : Nat → List RWord × Device
  | 0 => ([], d)
  | n + 1 =>
    let x := match d.rowGot c id (wa / 16) with
      | some ws => (ws.getD (wa % 16) ⟨0#32, true⟩, d)
      | none => let r := d.readWord wa 0; (⟨r.1.w, r.1.poison || bad⟩, r.2)
    let r := x.2.opWords c id bad (wa + 1) n
    (x.1 :: r.1, r.2)

/-- Reads words for operation `id` of core `c`. -/
def Device.opRead (d : Device) (c id hid off n : Nat) : List RWord × Device :=
  if d.mem.combined.any (fun x => decide (x.core = c ∧ x.ident = id)) then
    match d.handle? hid with
    | none => d.elRead hid off n
    | some h =>
      if h.remote then d.elRead hid off n
      else
        let r := d.opWords c id h.bad (h.addr off / 4) n
        if h.shared && r.1.any (·.poison) then (r.1, r.2.markBad hid h) else r
  else d.elRead hid off n

/-- Rule 2 of R174: poisoned words reach the output record of a request of the step. -/
def Device.noteOutput (d : Device) (c hid : Nat) (ws : List RWord) : Device :=
  if ws.any (fun (x : RWord) => x.poison) then
    let own := (List.filter (fun (r : LenRow × Nat) => decide ((d.req r.1.slot).io = hid ∧ hid ≠ 0))
      ((d.core c).seq.rows.zipIdx)).map (·.2)
    d.modCore c (fun x => { x with seq := own.foldl (fun (q : Seq) p => (q.setFlag flPoison).notePoison (.pos p)) x.seq })
  else d

/-! ### Words -/

/-- Puts an elastic operation in the core's queue. -/
def Device.queueOp (d : Device) (c : Nat) (o : ElOp) : Device :=
  d.modCore c (fun x => { x with seq := { x.seq with
    ops := x.seq.ops ++ [{ o with ident := x.seq.nextOp }], nextOp := x.seq.nextOp + 1 } })

/-- Byte offset of one side of a COPY (R136). -/
def copyOff (w : StepWord) (r : Core) (off idx ctr : Nat) : Nat :=
  64 * (fld w (off + 18) off + if w.getLsbD idx then r.loopValue (fld w (ctr + 1) ctr) * fld w 125 110 else 0)

/-- The plan of COPY. -/
def Device.copyPlan (d : Device) (c : Nat) (w : StepWord) : OpPlan :=
  let r := (d.core c).regs
  let n := 64 * fld w 125 110
  let dst := fld w 87 75
  { listed := listedWord w 6 0 && decide (1 ≤ fld w 125 110),
    fault := firstFault [d.checkElastic c (fld w 52 40) (copyOff w r 53 72 73) n false,
      if (d.windowOf dst).isSome then none else d.checkElastic c dst (copyOff w r 88 107 108) n true],
    units := [⟨.sequencer, 0, 1⟩], latency := 1, elastic := some 0, dma := true }

/-- COPY (R136). -/
def execCopy (c : CoreIx) (w : StepWord) (s : State) : Host.Outcome State Fault Refusal :=
  s.lift (fun d => d.run c w (fun d => d.copyPlan c w) (fun t d =>
    let r := (d.core c).regs
    d.queueOp c { ident := 0, kind := .copy, tag := wTag w, queued := t, started := false, ofStep := true,
                  srcH := fld w 52 40, srcOff := copyOff w r 53 72 73, dstH := fld w 87 75,
                  dstOff := copyOff w r 88 107 108, len := 64 * fld w 125 110, desc := none, data := [] }))

/-- The plan of GATHER and SCATTER: their descriptor lies in the core buffer (R137). -/
def Device.gatherPlan (d : Device) (c : Nat) (w : StepWord) (op : Nat) : OpPlan :=
  let a := aForm w 40
  let off := a.byteOff (d.core c).regs
  { listed := listedWord w 6 op, fault := d.checkFixed c a.handle off 32 false,
    units := [⟨.sequencer, 0, 1⟩], latency := 1, elastic := some 0, dma := true }

/-- Queues a gather or scatter. -/
def Device.queueGather (d : Device) (c : Nat) (w : StepWord) (t : Nat) (k : ElKind) : Device :=
  let a := aForm w 40
  d.queueOp c { ident := 0, kind := k, tag := wTag w, queued := t, started := false, ofStep := true,
                srcH := a.handle, srcOff := a.byteOff (d.core c).regs, dstH := 0, dstOff := 0, len := 32,
                desc := none, data := [] }

/-- GATHER (R137). -/
def execGather (c : CoreIx) (w : StepWord) (s : State) : Host.Outcome State Fault Refusal :=
  s.lift (fun d => d.run c w (fun d => d.gatherPlan c w 1) (fun t d => d.queueGather c w t .gather))

/-- SCATTER (R137). -/
def execScatter (c : CoreIx) (w : StepWord) (s : State) : Host.Outcome State Fault Refusal :=
  s.lift (fun d => d.run c w (fun d => d.gatherPlan c w 2) (fun t d => d.queueGather c w t .scatter))

/-! ### Start (R99, R100) -/

/-- A gather descriptor from its words (Tab. 6.15). -/
def gatherDesc (ws : List RWord) : GatherDesc :=
  let v := fun i => (ws.getD i ⟨0#32, false⟩).w.toNat
  ⟨bits (v 0) 12 0, bits (v 0) 25 13, bits (v 1) 24 0, bits (v 2) 12 0, bits (v 3) 24 0, bits (v 4) 15 0,
   (v 4).testBit 16, bits (v 5) 19 0⟩

/-- Bytes of the index list, in whole words. -/
def GatherDesc.listBytes (g : GatherDesc) : Nat := 4 * ceilDiv (g.count * (if g.wide then 4 else 2)) 4

/-- The checks of R137 on a descriptor, for GATHER or SCATTER. -/
def Device.checkDesc (d : Device) (c : Nat) (scatter : Bool) (ws : List RWord) : Option Nat :=
  let g := gatherDesc ws
  if ws.any (fun (x : RWord) => x.poison) || decide (g.row = 0 ∨ g.row % 4 ≠ 0 ∨ g.count = 0 ∨ g.indexOff % 4 ≠ 0 ∨
      g.destOff % 4 ≠ 0) then some stRange
  else
    let hs := [d.checkElastic c g.table 0 0 scatter, d.checkElastic c g.index 0 0 false,
               d.checkElastic c g.dest 0 0 (!scatter)]
    firstFault (hs ++ [d.checkElastic c g.index g.indexOff g.listBytes false,
                       d.checkElastic c g.dest g.destOff (g.count * g.row) (!scatter)])

/-- Ranges of a handle that lie in the core's own buffer, as scoreboard entries at a cycle. -/
def Device.ownEntry (d : Device) (c hid off len : Nat) (r w : Bool) (ident t : Nat) : List SbEntry :=
  match d.handle? hid with
  | none => []
  | some h =>
    if h.remote || decide (h.cluster ≠ c / 12 ∨ h.unit ≠ c % 12 ∨ len = 0) then []
    else [⟨ident, ⟨false, h.addr off, len, w, r⟩, hid, off, 0, t, none⟩]

/-- Scoreboard entries an elastic operation takes on its core when it starts at `t`: one for each of its ranges in the
core's buffer, since an entry holds one range (Tab. 5.3; log 111). -/
def Device.opEntries (d : Device) (c : Nat) (o : ElOp) (t : Nat) : List SbEntry :=
  match o.desc with
  | none => d.ownEntry c o.srcH o.srcOff o.len true false o.ident t ++ d.ownEntry c o.dstH o.dstOff o.len false true o.ident t
  | some g =>
    let sc := decide (o.kind = .scatter)
    let tb := match d.handle? g.table with | some h => if h.remote then 0 else h.bytes | none => 0
    d.ownEntry c g.table 0 tb (!sc) sc o.ident t ++ d.ownEntry c g.index g.indexOff g.listBytes true false o.ident t ++
      d.ownEntry c g.dest g.destOff (g.count * g.row) sc (!sc) o.ident t

/-- Entries in use at a cycle. -/
def Seq.busy (q : Seq) (t : Nat) : Nat := (q.board.filter (fun e => e.busy t)).length

/-- Cycles from `lo` on, of `n`, in which every entry was taken. -/
def Seq.fullCycles (q : Seq) (lo : Nat) : Nat → Nat
  | 0 => 0
  | n + 1 => q.fullCycles lo n + (if q.busy (lo + n) ≥ 32 then 1 else 0)

/-- An elastic operation may start at `t`: entries are free, and nothing conflicts (R100 rule 2). -/
def Seq.mayStart (q : Seq) (es : List SbEntry) (t : Nat) : Bool :=
  decide (q.busy t + max 1 es.length ≤ 32) &&
    es.all (fun e => q.board.all (fun b => !(b.busy t) || !(e.rng.conflicts b.rng)) &&
      q.flight.all (fun f => decide (f.2 < t) || !(e.rng.conflicts f.1)))

/-- Entries of a started operation; one that touches no range of the core's buffer still takes one, of length 0 (R99: an
elastic operation takes an entry when it starts; log 111). -/
def holdEntries (o : ElOp) (t : Nat) (es : List SbEntry) : List SbEntry :=
  if es.isEmpty then [⟨o.ident, ⟨false, 0, 0, false, false⟩, o.dstH, o.dstOff, 0, t, none⟩] else es

def Device.markStarted (d : Device) (c : Nat) (o : ElOp) (t : Nat) (es : List SbEntry) : Device :=
  d.modCore c (fun x => { x with seq := { x.seq with
    ops := x.seq.ops.map (fun (y : ElOp) => if y.ident = o.ident then { o with started := true } else y),
    board := x.seq.board.filter (fun e => e.busy t) ++ holdEntries o t es } })

/-- Starts a waiting operation at cycle `t`, if nothing holds it. -/
def Device.startOp (d : Device) (c : Nat) (o : ElOp) (t : Nat) : Device :=
  let q := (d.core c).seq
  if o.kind = .gather ∨ o.kind = .scatter then
    let r := d.readH o.srcH o.srcOff 8
    match r.2.checkDesc c (decide (o.kind = .scatter)) r.1 with
    | some f => ((r.2.elasticDone c o.ident t).endStep c f t 0)
    | none =>
      let o := { o with desc := some (gatherDesc r.1) }
      let es := r.2.opEntries c o t
      if q.mayStart es t then (r.2.bump (key 0xC020 5) (q.fullCycles o.queued (t - o.queued))).markStarted c o t es
      else d
  else
    let es := d.opEntries c o t
    if q.mayStart es t then (d.bump (key 0xC020 5) (q.fullCycles o.queued (t - o.queued))).markStarted c o t es
    else d

/-! ### Casting writes (R99, R100, R45) -/

/-- The first cycle from `t` on at which an elastic access of range `r` may start (R100 rule 2): past every conflicting
entry and every range in flight, with an entry free; none while a conflicting entry, or a full table, has no known end. -/
def Seq.startCycle (q : Seq) (r : Rng) (t : Nat) : Option Nat :=
  let es := q.board.filter (fun e => e.busy t && r.conflicts e.rng)
  let fs := q.flight.filter (fun f => decide (t ≤ f.2) && r.conflicts f.1)
  if es.any (fun e => decide (e.freed = none)) || decide (32 ≤ q.busy t) then none
  else some (fs.foldl (fun m f => max m (f.2 + 1)) (es.foldl (fun m e => max m (e.freed.getD t)) t))

/-- Rows of a logical position, written. -/
def posRows (pos : Nat) : Rng := ⟨true, 256 * pos, 256, true, false⟩

/-- Cycles of a casting write: one slot a row (R36). -/
def castCycles : Nat := 512

/-- A casting write to the engine at a position can start now or at a known cycle. -/
def Device.castable (d : Device) (c pos : Nat) : Bool := ((d.core c).seq.startCycle (posRows pos) d.cyc).isSome

/-- A casting write takes an entry of agent 10b for the rows of its position and its slots (R99): the words in flight
before it land first, and a later word that conflicts is held until the last row is written. -/
def Device.castStart (d : Device) (c pos : Nat) : Device :=
  let t := ((d.core c).seq.startCycle (posRows pos) d.cyc).getD d.cyc
  let d := (d.landUpTo c t).takeSlots c (d.physAt c pos) t [⟨t, castCycles, true, true, none⟩]
  d.modCore c (fun x => { x with seq := { x.seq with
    board := x.seq.board.filter (fun e => e.busy t) ++
      [⟨x.seq.nextOp, posRows pos, 0, 256 * pos, 2, t, some (t + castCycles)⟩],
    nextOp := x.seq.nextOp + 1 } })

/-! ### Completion -/

/-- Descriptors of a command window: 16 words each. -/
def descriptorsOf (ws : List RWord) : List (List (Word × Bool)) :=
  chunksOf 16 (ws.length / 16) (ws.map (fun (x : RWord) => (x.w, x.poison)))

/-- An elastic operation of a core has done its last access at cycle `t`: its entries free on the next cycle, its
descriptor and its tag are free (R97, R99). -/
def Device.finishOp (d : Device) (c ident t : Nat) : Device :=
  ((d.dropRows c ident).elasticDone c ident t).modCore c (fun x => { x with seq := { x.seq with
    board := x.seq.board.map (fun e => if e.ident = ident ∧ e.freed = none then { e with freed := some (t + 1) } else e),
    wait := x.seq.wait.map (fun h => if h.dma then { h with notBefore := max h.notBefore (t + 1) } else h) } })

/-- A transfer crosses the mesh in packets of up to 8 data flits of 128 B behind a header flit, which arrive in the order
sent (Tab. 7.3). -/
def meshPackets (ws : List RWord) : List (List RWord) := chunksOf 256 (ceilDiv ws.length 256) ws

/-- Words as they arrive over the mesh (R153): the receiving unit corrects a single error and counts it, and takes a word
with a double error as poisoned. `i` is the number of the first word in the transfer. -/
def Device.arriveWords (d : Device) (mesh : List (Nat × BitVec 39)) : Nat → List RWord → List RWord × Device
  | _, [] => ([], d)
  | i, x :: xs =>
    let f := match mesh.find? (fun m => decide (m.1 = i)) with | some m => m.2 | none => 0#39
    let y := match eccRead f with
      | .clean => (x, d)
      | .corrected _ => (x, d.bump (key 0x8010 0x0B) 1)
      | .poisoned => ({ x with poison := true }, d)
    let r := y.2.arriveWords mesh (i + 1) xs
    (y.1 :: r.1, r.2)

/-- The packets of a transfer, each checked as it arrives; words are numbered from `i` on. -/
def Device.arrivePackets (d : Device) (mesh : List (Nat × BitVec 39)) : Nat → List (List RWord) → List RWord × Device
  | _, [] => ([], d)
  | i, p :: ps =>
    let x := d.arriveWords mesh i p
    let r := x.2.arrivePackets mesh (i + p.length) ps
    (x.1 ++ r.1, r.2)

/-- A transfer of words over the mesh. -/
def Device.arrive (d : Device) (mesh : List (Nat × BitVec 39)) (i : Nat) (ws : List RWord) : List RWord × Device :=
  d.arrivePackets mesh i (meshPackets ws)

/-- Bank cycles by which a write of a row that comes up at cycle `t` is put off: as long as a fixed read takes that row
(R151). -/
def putOff (reads : List (Nat × Nat)) (row : Nat) : Nat → Nat → Nat
  | 0, _ => 0
  | n + 1, t => if reads.contains (row, t) then 1 + putOff reads row n (t + 1) else 0

/-- The writes of an elastic transfer into the handle `hid` at byte offset `off` give way to the fixed reads of the buffer
they reach (R151, 8010h.06). -/
def Device.giveWay (d : Device) (hid off : Nat) (writes : List (Nat × Nat)) : Device :=
  match d.handle? hid with
  | none => d
  | some h =>
    if h.remote ∨ 12 ≤ h.unit then d
    else
      let rs := (d.core (12 * h.cluster + h.unit)).seq.reads
      let n := (writes.map (fun w => putOff rs (h.addr off / 64 + w.1) rs.length w.2)).sum
      if n = 0 then d else d.bump (key 0x8010 6) n

/-- Moves a copy's bytes: into a command window as many descriptors as its queue takes (R191), else word for word with
poison (R172). Answers whether the last byte has landed. -/
def Device.moveCopy (d : Device) (c : Nat) (o : ElOp) (x : ElasticEnd) : Bool × Device :=
  match d.windowOf o.dstH with
  | some k =>
    let u := d.attnUnit k
    let n := min (64 - u.queue.length) (o.len / 64)
    let r := d.opRead c o.ident o.srcH o.srcOff (16 * n)
    let r := r.2.arrive x.mesh 0 r.1
    let d := r.2.setAttn k { u with queue := u.queue ++ descriptorsOf r.1 }
    let d := d.modCore c (fun x => { x with seq := { x.seq with ops := x.seq.ops.map (fun (y : ElOp) =>
      if y.ident = o.ident then { y with srcOff := o.srcOff + 64 * n, len := o.len - 64 * n } else y) } })
    (decide (64 * n = o.len), d)
  | none =>
    let r := d.opRead c o.ident o.srcH o.srcOff (o.len / 4)
    let r := r.2.arrive x.mesh 0 r.1
    (true, ((r.2.giveWay o.dstH o.dstOff x.writes).elWrite o.dstH o.dstOff r.1).noteOutput c o.dstH r.1)

/-- The words of a mask, as the round's choice found them, go into the stage (R225). -/
def Device.moveMask (d : Device) (o : ElOp) (x : ElasticEnd) : Device :=
  let r := d.arrive x.mesh 0 o.data
  (r.2.giveWay o.dstH o.dstOff x.writes).elWrite o.dstH o.dstOff r.1

/-- The started operation of a kind with a number. -/
def Seq.startedOp (q : Seq) (k : ElKind) (ident : Nat) : Option ElOp :=
  List.find? (fun (o : ElOp) => decide (o.ident = ident ∧ o.kind = k) && o.started) q.ops

/-- COPY_DONE (R97, R136). -/
def execCopyDone (c : CoreIx) (id : Nat) (x : ElasticEnd) (s : State) : Host.Outcome State Fault Refusal :=
  s.lift (fun d =>
    match (d.core c).seq.startedOp .copy id, (d.core c).seq.startedOp .mask id with
    | some o, _ =>
      let d := ((d.reachCyc x.cycle).landUpTo c x.cycle).closeOf c id
      let m := d.moveCopy c o x
      if m.1 then m.2.finishOp c id x.cycle else m.2
    | none, some o =>
      let d := ((d.reachCyc x.cycle).landUpTo c x.cycle).closeOf c id
      (d.moveMask o x).finishOp c id x.cycle
    | none, none => d)

/-- Rows of a table (R137). -/
def Device.tableRows (d : Device) (hid row : Nat) : Nat :=
  match d.handle? hid with
  | none => 0
  | some h => h.reach / row

/-- The i-th index of a list as read, or none when its word is poisoned (R138). -/
def indexAt (ws : List RWord) (wide : Bool) (i : Nat) : Option Nat :=
  let x := ws.getD (if wide then i else i / 2) ⟨0#32, true⟩
  if x.poison then none
  else some (if wide then x.w.toNat else if i % 2 = 0 then x.w.toNat % 65536 else x.w.toNat / 65536)

/-- One index of a gather or scatter that is out of range. -/
def Device.badIndex (d : Device) (c : Nat) : Device :=
  (d.bump (key 0xC020 0x0C) 1).modCore c (fun x => { x with seq := x.seq.setFlag flGather })

/-- The rows of a gather, from index `i` on; row i's words are numbered from i times the words of a row on. -/
def Device.gatherRows (d : Device) (c id : Nat) (g : GatherDesc) (mesh : List (Nat × BitVec 39)) (ix : List RWord) :
    Nat → Nat → Device
  | 0, _ => d
  | n + 1, i =>
    let d := match indexAt ix g.wide i with
      | some r =>
        if r < d.tableRows g.table g.row then
          let x := d.opRead c id g.table (r * g.row) (g.row / 4)
          let x := x.2.arrive mesh (i * (g.row / 4)) x.1
          (x.2.elWrite g.dest (g.destOff + i * g.row) x.1).noteOutput c g.dest x.1
        else
          let z := List.replicate (g.row / 4) (⟨0#32, true⟩ : RWord)
          ((d.badIndex c).elWrite g.dest (g.destOff + i * g.row) z).noteOutput c g.dest z
      | none =>
        let z := List.replicate (g.row / 4) (⟨0#32, true⟩ : RWord)
        ((d.badIndex c).elWrite g.dest (g.destOff + i * g.row) z).noteOutput c g.dest z
    d.gatherRows c id g mesh ix n (i + 1)

/-- The rows of a scatter, from index `i` on. -/
def Device.scatterRows (d : Device) (c id : Nat) (g : GatherDesc) (mesh : List (Nat × BitVec 39)) (ix : List RWord) :
    Nat → Nat → Device
  | 0, _ => d
  | n + 1, i =>
    let d := match indexAt ix g.wide i with
      | some r =>
        if r < d.tableRows g.table g.row then
          let x := d.opRead c id g.dest (g.destOff + i * g.row) (g.row / 4)
          let x := x.2.arrive mesh (i * (g.row / 4)) x.1
          (x.2.elWrite g.table (r * g.row) x.1).noteOutput c g.table x.1
        else d.badIndex c
      | none => d.badIndex c
    d.scatterRows c id g mesh ix n (i + 1)

/-- Completes a started gather or scatter. -/
def Device.gatherDone (d : Device) (c : Nat) (k : ElKind) (id : Nat) (x : ElasticEnd) : Device :=
  match (d.core c).seq.startedOp k id with
  | none => d
  | some o =>
    match o.desc with
    | none => d
    | some g =>
      let d := ((d.reachCyc x.cycle).landUpTo c x.cycle).closeOf c id
      let ix := d.opRead c id g.index g.indexOff (g.listBytes / 4)
      let d := if k = .scatter then (ix.2.giveWay g.table 0 x.writes).scatterRows c id g x.mesh ix.1 g.count 0
        else (ix.2.giveWay g.dest g.destOff x.writes).gatherRows c id g x.mesh ix.1 g.count 0
      d.finishOp c id x.cycle

/-- GATHER_DONE (R138). -/
def execGatherDone (c : CoreIx) (id : Nat) (x : ElasticEnd) (s : State) : Host.Outcome State Fault Refusal :=
  s.lift (fun d => d.gatherDone c .gather id x)

/-- SCATTER_DONE (R138). -/
def execScatterDone (c : CoreIx) (id : Nat) (x : ElasticEnd) (s : State) : Host.Outcome State Fault Refusal :=
  s.lift (fun d => d.gatherDone c .scatter id x)

end Sys2Proof.Machine
end

