-- ==== Sys2Proof/Machine/Memory.lean ====
section
/-!
DEFINITION. Handles (R155–R162), read combining (R163, R164) and scrub write-backs (R169).
-/
namespace Sys2Proof.Machine

/-! ### Creating a handle (R157) -/

/-- Attributes a request carries, without Lent, Bad and Releasing, which a request cannot set. -/
def reqAttrs (v : List Byte) : BitVec 11 := BitVec.ofNat 11 (wordAt v 2)

/-- Rule of step 4: Global read, Reserve and another owner are tenant 0's alone. -/
def createAuth (_d : Device) (r : Req) : Bool :=
  let a := reqAttrs r.payload
  decide (r.tenant = 0#9) ||
    (!(a.getLsbD 4) && !(a.getLsbD 6) && decide (bits (wordAt r.payload 0) 8 0 = r.tenant.toNat))

/-- The handle is Lent when an authenticated peer, a device of the fabric, creates it under its tenant (Tab. 7.4a). -/
def reqLent (d : Device) (r : Req) : Bool := !reqSide r && decide (r.source.toNat % 8 ≠ 7 ∧ r.source ≠ d.fab.coord)

/-- A remote window: one handle and no bytes. -/
def Device.putWindow (d : Device) (t : Nat) (dev far : Nat) (a : BitVec 11) : Except NoHandle (Nat × Device) :=
  if (d.handleUse t).1 + 1 > (d.limits t).handles then .error .quota
  else
    match d.freeHandle with
    | none => .error .space
    | some h => .ok (h, d.putHandle h ⟨t, 0, 0, dev, far, a⟩)

/-- The answer of a creation: the handle as a U16. -/
def handleAnswer (d : Device) (x : Except NoHandle (Nat × Device)) : Answer :=
  match x with
  | .error .quota => refuse d dQuota
  | .error .space => refuse d dSpace
  | .ok h => ⟨dOk, leBytes 2 h.1, h.2⟩

def runCreateHandle (d : Device) (r : Req) (v : List Byte) : Answer :=
  let w0 := wordAt v 0
  let t := bits w0 8 0
  let k := bits w0 12 9
  let a0 := reqAttrs v
  let len := wordAt v 1
  if d.tenantDefined t = false ∨ a0.getLsbD 9 = true ∨ a0.getLsbD 10 = true then refuse d dInvalid
  else
    let a := if reqLent d r then a0 ||| (1#11 <<< 8) else a0 &&& ~~~(1#11 <<< 8)
    if a.getLsbD 7 then handleAnswer d (d.putWindow t (bits (wordAt v 3) 17 0) (bits (wordAt v 3) 30 18) a)
    else if len = 0 ∨ len > 524288 then refuse d dInvalid
    else if (d.cluster k).ready = false then refuse d dNotReady
    else handleAnswer d (d.alloc t k (if bit w0 17 then [13, 14, 15] else [bits w0 16 13]) len a)

def ruleCreateHandle : WriteRule := WriteRule.guarded createAuth (sized 16 runCreateHandle)

/-! ### Releasing a handle (R159) -/

/-- A scoreboard entry in use or a request of a running step names the handle. -/
def Device.handleInUse (d : Device) (h : Nat) : Bool :=
  List.any d.cim.cores (fun (e : Nat × CimCore) =>
    e.2.seq.board.any (fun b => decide (b.handle = h) && b.freed.all (fun c => decide (d.cyc < c))) ||
    (decide (e.2.seq.phase = .running ∨ e.2.seq.phase = .drain) &&
      e.2.seq.rows.any (fun r => decide ((d.req r.slot).io = h ∨ ((d.req r.slot).maskMode ≠ 0 ∧ (d.req r.slot).maskHandle = h)))))

def runReleaseHandle (d : Device) (_r : Req) (h : Nat) : Answer :=
  match d.handle? h with
  | none => refuse d dInvalid
  | some x =>
    if x.reserve then refuse d dDenied
    else if d.handleInUse h then refuse d dBusy
    else done (d.startRelease h)

/-- The handle's tenant, or tenant 0; a handle not valid, or lost (R162), is left to step 6 (R433). -/
def Device.ownHandle (d : Device) (r : Req) (h : Nat) : Bool :=
  match d.handle? h with
  | none => true
  | some x => decide (r.tenant = 0#9 ∨ x.tenant = r.tenant.toNat)

def ruleReleaseHandle : WriteRule :=
  WriteRule.guarded (fun d r => d.ownHandle r (leAt r.payload 0 2)) (valued (key 0x8002 0) runReleaseHandle)

/-- Zeroes a handle's rounded extent, which also cancels scrub entries there, and invalidates its entry. -/
def Device.freeHandleRows (d : Device) (hid : Nat) (h : Handle) : Device :=
  let a := h.addr 0
  let n := h.units * 4096
  let d := if h.remote then d else d.zeroExtent h.cluster h.unit a n
  { d with mem := { d.mem with handles := Tbl.del d.mem.handles hid,
                               lost := List.filter (fun (x : Nat) => decide (x ≠ hid)) d.mem.lost } }

/-- HANDLE_ZERO_DONE (R159). The rows of a lost entry stay allocated (R162). -/
def execHandleZeroDone (h : HandleId) (s : State) : Host.Outcome State Fault Refusal :=
  s.lift (fun d =>
    match d.handle? h.toNat with
    | none => d
    | some x => if x.releasing then d.freeHandleRows h.toNat x else d)

/-! ### The table itself (R158, R162) -/

/-- One entry of 8003h.00 as bytes (Tab. 7.4a). -/
def Handle.bytesOf (h : Handle) : List Byte :=
  wordsBytes [1 + h.tenant * 2 + (if h.remote then 0 else h.cluster * 2 ^ 10 + h.unit * 2 ^ 14), h.base, h.len, h.attrs.toNat]

/-- A handle entry from bytes; none where Valid is clear. -/
def handleOf (b : List Byte) : Option Handle :=
  let w0 := wordAt b 0
  if bit w0 0 then
    some ⟨bits w0 9 1, bits w0 13 10, bits w0 17 14, bits (wordAt b 1) 18 0, bits (wordAt b 2) 19 0, BitVec.ofNat 11 (wordAt b 3)⟩
  else none

/-- The ranges of a local entry (R155): a base of whole 4 KiB, a length of 1 to 524,288, inside the unit. -/
def Handle.ranged (h : Handle) : Bool :=
  h.remote || decide (h.base % 64 = 0 ∧ 1 ≤ h.len ∧ h.len ≤ 524288 ∧ h.base + 64 * h.units ≤ unitBytes h.unit / 64)

/-- 8003h.00: tenant 0 re-creates the entries that are lost in both copies; the bytes of every other record are ignored
(R162, R320). -/
def runHandleTable (d : Device) (_r : Req) (v : List Byte) : Answer :=
  if d.mem.lost.any (fun h => match handleOf (bytesAt v (16 * h) 16) with | some x => !x.ranged | none => false) then
    refuse d dInvalid
  else
  done (d.mem.lost.foldl (fun d h =>
    match handleOf (bytesAt v (16 * h) 16) with
    | none => d
    | some x =>
      let d := d.putHandle h x
      { d with mem := { d.mem with lost := List.filter (fun (y : Nat) => decide (y ≠ h)) d.mem.lost } }) d)

def ruleHandleTable : WriteRule := WriteRule.plain (sized 131072 runHandleTable)

/-- 8004h.00: the handle and byte limits. -/
def runQuota (d : Device) (_r : Req) (v : List Byte) : Answer :=
  if recordsOk 512 16 v (fun _ b => decide (bits (wordAt b 0) 15 0 ≤ 8191)) then
    done (d.mergeRecords 512 16 v (fun d t b =>
      d.setLimits t { d.limits t with handles := bits (wordAt b 0) 15 0, bytes := wordAt b 1 }))
  else refuse d dInvalid

def ruleQuota : WriteRule := WriteRule.plain (sized 8192 runQuota)

def execCreateHandle (r : Req) (s : State) : Host.Outcome State Fault Refusal :=
  s.lift (fun d => d.write 0x8001 0 ruleCreateHandle r)

def execReleaseHandle (r : Req) (s : State) : Host.Outcome State Fault Refusal :=
  s.lift (fun d => d.write 0x8002 0 ruleReleaseHandle r)

def execHandleRecreate (r : Req) (s : State) : Host.Outcome State Fault Refusal :=
  s.lift (fun d => d.write 0x8003 0 ruleHandleTable r)

/-! ### Read combining (R163, R164) -/

def Device.window? (d : Device) (k tile row : Nat) : Option Window :=
  List.find? (fun (x : Window) => decide (x.cluster = k ∧ x.tile = tile ∧ x.row = row)) d.mem.windows

/-- An elastic read of a row by operation `id` of core `c` at cycle `t`: it joins the row's window while that is open, else it opens
one; a window of 16 requesters closes at once. -/
def Device.joinWindow (d : Device) (c id k tile row t : Nat) : Device :=
  let len := d.reg (key 0x8000 2)
  let opened := fun (d : Device) =>
    let w : Window := ⟨k, tile, row, [(c, id)], t⟩
    if len = 0 then d.closeWindow w else d.setWindows (d.mem.windows ++ [w])
  match d.window? k tile row with
  | none => opened d
  | some w =>
    if t < w.opened + len then
      let w' := { w with asks := w.asks ++ [(c, id)] }
      let d := d.bump (key 0x8010 7) 1
      if w'.asks.length ≥ 16 then d.closeWindow w'
      else d.setWindows (List.map (fun (x : Window) => if x = w then w' else x) d.mem.windows)
    else opened (d.closeWindow w)

/-- Rows of memory tiles in a byte range of a handle. -/
def Device.tileRows (d : Device) (hid off len : Nat) : List (Nat × Nat × Nat) :=
  match d.handle? hid with
  | none => []
  | some h =>
    if h.remote || decide (h.unit < 13 ∨ len = 0) then []
    else (List.range ((off + len - 1) / 64 - off / 64 + 1)).map (fun i => (h.cluster, h.unit - 13, h.base + off / 64 + i))

/-- Rows of memory tiles an operation that starts reads. -/
def Device.opTileRows (d : Device) (o : ElOp) : List (Nat × Nat × Nat) :=
  match o.desc with
  | none => if o.kind = .copy ∨ o.kind = .mask then d.tileRows o.srcH o.srcOff o.len else []
  | some g =>
    d.tileRows g.index g.indexOff g.listBytes ++
    if o.kind = .gather then
      let ix := match d.handle? g.index with
        | some h => (List.range (g.listBytes / 4)).map (fun i => d.peek (h.addr g.indexOff / 4 + i))
        | none => []
      (List.range g.count).flatMap (fun i =>
        match indexAt ix g.wide i with
        | some r => if r < d.tableRows g.table g.row then d.tileRows g.table (r * g.row) g.row else []
        | none => [])
    else d.tileRows g.dest g.destOff (g.count * g.row)

/-- The reads of memory tiles an operation makes as it starts on core `c` at cycle `t`. -/
def Device.combineReads (d : Device) (c : Nat) (o : ElOp) (t : Nat) : Device :=
  (d.opTileRows o).foldl (fun d x => d.joinWindow c o.ident x.1 x.2.1 x.2.2 t) d

/-- COMBINE_WINDOW_CLOSE (R163). -/
def execCombineWindowClose (k : ClusterIx) (tile : Fin 3) (row : Nat) (s : State) : Host.Outcome State Fault Refusal :=
  s.lift (fun d =>
    match d.window? k.val tile.val row with
    | none => d
    | some w => (d.reachCyc (w.opened + d.reg (key 0x8000 2))).closeWindow w)

/-! ### Scrub write-backs (R169) -/

/-- Writes a queued word back: a corrected codeword, or a poisoned word with both poison bits. -/
def Device.scrubWord (d : Device) (wa : Nat) (poisoned : Bool) : Device :=
  let x := d.peek wa
  (d.setMem (d.mem.m.write wa ⟨x.w, poisoned || x.poison⟩)).bump (key 0x8010 3) 1

/-- SCRUB_WRITEBACK (R169). The combining windows of the row close first, as for every write (R163): what their read finds joins
the queue behind the word that is written back. -/
def execScrubWriteback (k : ClusterIx) (unit : Fin 16) (s : State) : Host.Outcome State Fault Refusal :=
  s.lift (fun d =>
    let u := k.val * 16 + unit.val
    match Tbl.get [] d.mem.scrub u with
    | [] => d
    | e :: _ =>
      let d := d.closeRows (4 * e.1) 4
      (d.setScrub u ((Tbl.get [] d.mem.scrub u).filter (fun x => decide (x.1 ≠ e.1)))).scrubWord e.1 e.2)

end Sys2Proof.Machine
end

