-- ==== Sys2Proof/Machine/Paging.lean ====
section
/-!
DEFINITION. KV classes (R178), the layout of a frame (R179) and Fiddlehead growth (R180).
-/
namespace Sys2Proof.Machine

/-! ### A KV class from bytes (Tab. 8.2, Tab. 8.3) -/

/-- One stream record of 16 bytes. -/
def streamOf (b : List Byte) : Stream :=
  let w0 := wordAt b 0
  { layers := bits w0 7 0, heads := bits w0 11 8 + 1, headSize := 64 * 2 ^ bits w0 13 12, format := bits w0 15 14,
    cross := bit w0 16, group := bits w0 21 17 + 1, window := bits (wordAt b 1) 22 0,
    home := BitVec.ofNat 18 (wordAt b 2), homeCluster := bits (wordAt b 2) 21 18, first := bits (wordAt b 3) 15 0 }

/-- A class of 144 bytes: log2 of the first page and of the cap, and the streams it names. -/
def kvClassOf (b : List Byte) : KvClass :=
  let w0 := wordAt b 0
  { s0 := bits w0 3 0 + 4, cap := bits w0 7 4 + 4, span := bit w0 11, maxLen := bits (wordAt b 1) 22 0,
    spanFirst := BitVec.ofNat 18 (wordAt b 2), spanCount := bits (wordAt b 3) 11 0,
    streams := (List.range (bits w0 10 8 + 1)).map (fun i => streamOf (bytesAt b (16 + 16 * i) 16)), raw := b }

/-! ### Frames (R179) -/

/-- Token stride in bytes. -/
def Stream.stride (s : Stream) : Nat :=
  if s.format ≤ 1 then s.headSize else if s.format = 2 then 2 * s.headSize else 33 * s.headSize / 64

/-- Bytes of one area of a page of `t` tokens. -/
def Stream.area (s : Stream) (t : Nat) : Nat := ceilDiv (t * s.stride) 512 * 512

/-- Byte at which area (layer l, KV head h, v: 0 keys, 1 values) begins in its frame. -/
def Stream.areaOff (s : Stream) (t l h v : Nat) : Nat := ((l * s.heads + h) * 2 + v) * s.area t

/-- Bytes of a frame: its areas, rounded up to 4 KiB. -/
def Stream.frameBytes (s : Stream) (t : Nat) : Nat := ceilDiv (2 * s.layers * s.heads * s.area t) 4096 * 4096

/-! ### Growth (R180) -/

/-- Tokens of page k. -/
def KvClass.pageTokens (c : KvClass) (k : Nat) : Nat := 2 ^ min (c.s0 + k) c.cap

/-- Pages before the first of size cap. -/
def KvClass.grow (c : KvClass) : Nat := c.cap - c.s0

/-- Tokens those pages hold. -/
def KvClass.base (c : KvClass) : Nat := 2 ^ c.cap - 2 ^ c.s0

/-- Page and offset of a position. -/
def KvClass.pageOf (c : KvClass) (t : Nat) : Nat × Nat :=
  if t < c.base then
    let k := Nat.log2 (t / 2 ^ c.s0 + 1)
    (k, t - 2 ^ c.s0 * (2 ^ k - 1))
  else (c.grow + (t - c.base) / 2 ^ c.cap, (t - c.base) % 2 ^ c.cap)

/-- First position of a page. -/
def KvClass.pageStart (c : KvClass) (k : Nat) : Nat :=
  if k < c.grow then 2 ^ c.s0 * (2 ^ k - 1) else c.base + (k - c.grow) * 2 ^ c.cap

/-- Pages a length of `n` tokens needs in each stream. -/
def KvClass.pagesFor (c : KvClass) (n : Nat) : Nat := if n = 0 then 0 else (c.pageOf (n - 1)).1 + 1

/-! ### The check at a cast (R178) -/

def streamOk (b : List Byte) (c : KvClass) (s : Stream) : Bool :=
  let w0 := wordAt b 0
  decide (1 ≤ s.layers ∧ bits w0 13 12 ≠ 3 ∧ s.window ≤ 4194304) &&
    decide (s.frameBytes (2 ^ c.cap) ≤ 2 ^ 25) && decide (s.group * s.heads ≤ 64)

def kvClassOk (c : KvClass) : Bool :=
  let w0 := wordAt c.raw 0
  decide (bits w0 3 0 ≤ 12 ∧ bits w0 7 4 ≤ 12 ∧ c.s0 ≤ c.cap ∧ 1 ≤ c.maxLen ∧ c.maxLen ≤ 4194304) &&
    decide (1 ≤ c.spanCount) && decide (c.pagesFor c.maxLen ≤ 2048) &&
    (c.streams.zipIdx).all (fun s => streamOk (bytesAt c.raw (16 + 16 * s.2) 16) c s.1)

end Sys2Proof.Machine
end

