-- ==== Sys2Proof/Machine/Readout.lean ====
section
/-!
DEFINITION. Readout and staging operations of class 2 (R128, R129): READ, PACK, LOAD.
-/
namespace Sys2Proof.Machine

/-! ### Values with what R69 makes of them -/

/-- A vector unit value on its way: the number, poison, owner tag, and whether R69 degrades its request. -/
structure Val where
  v : F32
  poison : Bool
  tag : Tag
  degraded : Bool
  deriving DecidableEq, Repr

def VWord.val (x : VWord) : Val := ⟨x.v, x.poison, x.tag, false⟩

def Val.imm (x : F32) : Val := ⟨x, false, .none, false⟩

/-- One operation of the vector unit: its result under R69, poison and tag of its inputs (R172, R173). -/
def Val.op2 (f : F32 → F32 → F32) (a b : Val) : Val :=
  let r := r69 (f a.v b.v)
  ⟨r.v, a.poison || b.poison || r.poison, a.tag.join b.tag, a.degraded || b.degraded || r.degraded⟩

def Val.op1 (f : F32 → F32) (a : Val) : Val :=
  let r := r69 (f a.v)
  ⟨r.v, a.poison || r.poison, a.tag, a.degraded || r.degraded⟩

def Val.word (a : Val) : VWord := ⟨a.v, a.poison, a.tag⟩

/-- A value as it lands in staging. -/
def Val.out (a : Val) : VWord × Bool := (a.word, a.degraded)

/-! ### READ (R128, R77, R28) -/

/-- The 48-bit sum saturated to 32 bits (R28): the value and whether it saturated. -/
def satAcc (v : BitVec 48) : Int × Bool :=
  let i := clampInt (-(2 ^ 31)) (2 ^ 31 - 1) v.toInt
  (i, decide (i ≠ v.toInt))

/-- x · 2^k in FP32, also where 2^k itself lies beyond FP32 (E_a above 254, R76). -/
def f32Scale (x : F32) (k : Int) : F32 :=
  if k ≤ 127 then f32Mul x (f32Pow2 k) else f32Mul (f32Mul x (f32Pow2 127)) (f32Pow2 (k - 127))

/-- Steps 1 to 4 of R77 for one accumulator. -/
def readOne (a : Acc) (o : Option VWord) (ea : Nat) (sT : F32) : Val × Bool :=
  let s := satAcc a.v
  let r0 : Val := ⟨f32OfInt s.1, a.poison, a.tag, s.2⟩
  let r1 := r0.op1 (fun x => f32Scale x ((ea : Int) - 127))
  let r2 := match o with | some w => r1.op2 f32Add w.val | none => r1
  let r3 := r2.op2 f32Mul (Val.imm sT)
  ({ r3 with tag := a.tag }, s.2)

/-- Notes outputs of the layer of the held vector for the norm watch (R86). -/
def Core.noteOut (r : Core) (q : Seq) (lo : Nat) (ys : List F32) : Seq :=
  match r.held with
  | none => q
  | some h =>
    match h.tag with
    | .pos x => { q with norms := q.norms ++ [⟨h.layer, h.tok, x, lo, ys⟩] }
    | _ => q

/-- The plan of READ. -/
def readPlan (w : StepWord) : OpPlan :=
  let n := fld w 66 53
  { listed := listedWord w 2 0 && decide (1 ≤ n), fault := checkIdx (fld w 52 40) n,
    units := forCycles .vector (ceilDiv n 64), latency := ceilDiv n 64 + 4 }

/-- READ (R128). -/
def execRead (c : CoreIx) (w : StepWord) (s : State) : Host.Outcome State Fault Refusal :=
  s.lift (fun d => d.run c w (fun _ => readPlan w) (fun t d =>
    let r := (d.core c).regs
    let lo := fld w 52 40
    let n := fld w 66 53
    let sT : F32 := BitVec.ofNat 32 (fld w 98 67)
    let ea := r.ea.getD 127
    let as := Tbl.slice Acc.zero r.acc lo n
    let os := Tbl.slice VWord.zero r.osum lo n
    let outl := w.getLsbD 99
    let rs := List.zipWith (fun (a : Acc) (o : VWord) => readOne a (if outl then some o else none) ea sT) as os
    let sat := (List.filter (fun (x : Val × Bool) => x.2) rs).length
    let d := if sat = 0 then d else (d.bump (key 0x9020 6) sat).modCore c
      (fun x => { x with seq := x.seq.setFlag flSaturation })
    let d := if w.getLsbD 100 then d.modCore c (fun x => { x with regs := { x.regs with
        acc := Tbl.setRange Acc.zero x.regs.acc lo (List.replicate n Acc.zero),
        osum := Tbl.setRange VWord.zero x.regs.osum lo (List.replicate n VWord.zero) } }) else d
    let d := d.modCore c (fun x => { x with seq := r.noteOut x.seq lo (rs.map (fun x => x.1.v)) })
    d.flyStage c (t + ceilDiv n 64 + 4) lo (rs.map (fun x => x.1.out))))

/-! ### PACK and LOAD (R129) -/

/-- Channels of one burst of a packed format. -/
def fmtChannels (fmt : Nat) : Nat := if fmt ≤ 3 then 96 else 62

/-- Bytes that `n` channels take in a format: FP32, BF16, P4 or P8 bursts. -/
def fmtBytes (fmt n : Nat) : Nat :=
  if fmt = 0 then 4 * n else if fmt = 1 then 4 * ceilDiv n 2 else 64 * ceilDiv n (fmtChannels fmt)

/-- p of Tab. 6.3. -/
def fmtCycles (fmt n : Nat) : Nat :=
  if fmt ≤ 1 then ceilDiv n 64 else if fmt ≤ 3 then 3 * ceilDiv n 96 else 2 * ceilDiv n 62

/-- The join of a list of tags (R173). -/
def joinTags (ts : List Tag) : Tag := ts.foldl Tag.join .none

/-- What PACK writes: words with the tag they come from, tags to mark degraded, burst overflows with their tags. -/
structure Packed where
  ws : List (RWord × Tag)
  degraded : List Tag
  ovr : List (Nat × Tag)
  deriving DecidableEq, Repr

/-- FP32 output: one word per entry. -/
def packF32 (xs : List VWord) : Packed :=
  let vs := xs.map (fun (x : VWord) => x.val.op1 id)
  ⟨vs.map (fun (v : Val) => (⟨v.v, v.poison⟩, v.tag)),
   (List.filter (fun (v : Val) => v.degraded) vs).map (fun v => v.tag), []⟩

/-- One BF16 result under R69: an infinity becomes the largest finite BF16 value of its sign. -/
def bf16Val (x : VWord) : Val :=
  let r := bf16Round x.v
  if f32IsNaN r then ⟨r, true, x.tag, false⟩
  else if f32IsInf r then ⟨bf16Max (f32Neg r), x.poison, x.tag, true⟩
  else ⟨r, x.poison, x.tag, false⟩

/-- BF16 output: two entries a word, an odd last one with 0 above it. -/
def packBf16 (xs : List VWord) : Packed :=
  let vs := xs.map bf16Val
  let ws := (chunksOf 2 vs.length vs).map (fun (p : List Val) =>
    let a := p.getD 0 (Val.imm 0#32)
    let b := p.getD 1 (Val.imm 0#32)
    ((⟨(a.v >>> 16) ||| (b.v &&& 0xFFFF0000#32), a.poison || b.poison⟩ : RWord), a.tag.join b.tag))
  ⟨ws, (List.filter (fun (v : Val) => v.degraded) vs).map (fun v => v.tag), []⟩

/-- P4 and P8 output (R75), burst by burst. -/
def packBursts (fmt : Nat) (clip : F32) (xs : List VWord) : Packed :=
  let cs := chunksOf (fmtChannels fmt) xs.length xs
  let bs := cs.map (fun (g : List VWord) =>
    let vs := g.map (·.v)
    let o := if fmt ≤ 3 then packP4 vs (decide (fmt = 2)) clip else packP8 vs (decide (fmt = 4))
    (o, g.any (·.poison), joinTags (g.map (·.tag))))
  ⟨bs.flatMap (fun (b : PackOut × Bool × Tag) =>
      (cleanWords b.1.bytes).map (fun x => ({ x with poison := b.1.poison || b.2.1 }, b.2.2))),
   (List.filter (fun (b : PackOut × Bool × Tag) => b.1.degraded) bs).map (fun b => b.2.2),
   (List.filter (fun (b : PackOut × Bool × Tag) => decide (b.1.ovr ≠ 0)) bs).map (fun b => (b.1.ovr, b.2.2))⟩

def packWords (fmt : Nat) (clip : F32) (xs : List VWord) : Packed :=
  if fmt = 0 then packF32 xs else if fmt = 1 then packBf16 xs else packBursts fmt clip xs

/-- The plan of PACK. -/
def Device.packPlan (d : Device) (c : Nat) (w : StepWord) : OpPlan :=
  let n := fld w 66 53
  let a := aForm w 67
  let off := a.byteOff (d.core c).regs
  let fmt := fld w 108 106
  let p := fmtCycles fmt n
  { listed := listedWord w 2 1 && decide (1 ≤ n ∧ fmt ≤ 5),
    fault := firstFault [checkIdx (fld w 52 40) n, d.checkLayer c (fld w 124 109),
      d.checkFixed c a.handle off (fmtBytes fmt n) true],
    ranges := (d.bufRange a.handle off (fmtBytes fmt n) true).map (fun g => (g, p + 4)),
    units := forCycles .vector p ++ forCycles .writePort p ++ bankWrites (d.addrOf a.handle off) (fmtBytes fmt n) p 0,
    latency := p + 4 }

/-- The clip level of a layer. -/
def Device.clipOf (d : Device) (c l : Nat) : F32 :=
  match d.layerEnt? (d.core c).seq.plan.inst l with | some e => e.clip | none => f32Inf false

/-- Counts `n` elements of a burst that overflowed, of a layer of the step's instance (R75). -/
def Device.burstOver (d : Device) (c i l n : Nat) : Device :=
  let r := d.layerRec i l
  ((d.bump (key 0x7041 1) n).setLayerRec i l { r with burst := min (2 ^ 32 - 1) (r.burst + n) }).modCore c
    (fun x => { x with seq := x.seq.setFlag flBurst })

/-- PACK (R129, R75). -/
def execPack (c : CoreIx) (w : StepWord) (s : State) : Host.Outcome State Fault Refusal :=
  s.lift (fun d => d.run c w (fun d => d.packPlan c w) (fun t d =>
    let x := d.core c
    let lo := fld w 52 40
    let n := fld w 66 53
    let a := aForm w 67
    let fmt := fld w 108 106
    let l := fld w 124 109
    let p := packWords fmt (d.clipOf c l) (Tbl.slice VWord.zero x.regs.stage lo n)
    let d := p.degraded.foldl (fun d t => d.degradeTag c t) d
    let d := p.ovr.foldl (fun d o => d.burstOver c x.seq.plan.inst l o.1) d
    d.flyBuf c (t + fmtCycles fmt n + 4) a.handle (a.byteOff x.regs) p.ws))

/-- Staging entries a format's words hold (R129): every format converts without rounding. A NaN or an infinity of an FP32
or BF16 word enters staging as it is, and a P4 or P8 value beyond FP32 as an infinity, with neither poison nor a degraded
mark: R129 asks for the exact value, and R69 acts on the operation that uses it (log 118). -/
def loadWords (fmt n : Nat) (ws : List RWord) : List VWord :=
  if fmt = 0 then ws.map (fun (x : RWord) => ⟨x.w, x.poison, .none⟩)
  else if fmt = 1 then
    (ws.flatMap (fun (x : RWord) => [(⟨x.w <<< 16, x.poison, .none⟩ : VWord),
      ⟨x.w &&& 0xFFFF0000#32, x.poison, .none⟩])).take n
  else
    let ch := fmtChannels fmt
    ((chunksOf 16 (ws.length / 16) ws).flatMap (fun (b : List RWord) =>
      match loadBurst b (decide (4 ≤ fmt)) (decide (fmt = 2 ∨ fmt = 4)) with
      | some xs => xs.map (fun (x : F32) => (⟨x, false, .none⟩ : VWord))
      | none => List.replicate ch ⟨0#32, true, .none⟩)).take n

/-- The plan of LOAD. -/
def Device.loadPlan (d : Device) (c : Nat) (w : StepWord) : OpPlan :=
  let n := fld w 66 53
  let a := aForm w 67
  let off := a.byteOff (d.core c).regs
  let fmt := fld w 108 106
  let p := fmtCycles fmt n
  { listed := listedWord w 2 2 && decide (1 ≤ n ∧ fmt ≤ 5),
    fault := firstFault [checkIdx (fld w 52 40) n, d.checkFixed c a.handle off (fmtBytes fmt n) false],
    ranges := (d.bufRange a.handle off (fmtBytes fmt n) false).map (fun g => (g, p)),
    units := forCycles .readPort p ++ forCycles .vector p ++
      bankReads (d.addrOf a.handle off) (ceilDiv (fmtBytes fmt n) 64) p,
    latency := p + 4 }

/-- LOAD (R129). -/
def execLoad (c : CoreIx) (w : StepWord) (s : State) : Host.Outcome State Fault Refusal :=
  s.lift (fun d => d.run c w (fun d => d.loadPlan c w) (fun t d =>
    let n := fld w 66 53
    let a := aForm w 67
    let fmt := fld w 108 106
    let x := d.readH a.handle (a.byteOff (d.core c).regs) (fmtBytes fmt n / 4)
    x.2.flyStage c (t + fmtCycles fmt n + 4) (fld w 52 40) ((loadWords fmt n x.1).map (·, false))))

end Sys2Proof.Machine
end

