-- ==== Sys2Proof/Machine/Patina.lean ====
section
/-!
DEFINITION. The patina path (R133, R134, R82) and the outlier path (R135, R79): PATA, PATB, OUTL.
-/
namespace Sys2Proof.Machine

/-! ### Factors -/

/-- BF16 elements of words, each with its word's poison. -/
def bf16Elems (ws : List RWord) : List (F32 × Bool) :=
  ws.flatMap (fun (x : RWord) => [(x.w <<< 16, x.poison), (x.w &&& 0xFFFF0000#32, x.poison)])

/-- The version slot pinned by the request that owns the held vector's token (R133). -/
def Device.pinOf (d : Device) (h : HeldVec) : Nat := (d.req h.slot).pin

/-- Handle of a factor of a version on a core, A or B. -/
def Device.factorH (d : Device) (pin c layer : Nat) (b : Bool) : Option Nat :=
  let v := Tbl.get Version.free d.cast.versions pin
  Tbl.find? (if b then v.hB else v.hA) (layer * 192 + c)

/-- The check of an adapter factor's read (R156): the version is bound to the step program's instance, else a handle
fault; its bytes lie in the factor's handle, else a range fault. -/
def Device.checkFactor (d : Device) (c pin layer len : Nat) (b : Bool) : Option Nat :=
  let v := Tbl.get Version.free d.cast.versions pin
  if (Tbl.get Adapter.reset d.cast.adapters v.adapter).inst ≠ (d.core c).seq.plan.inst then some stHandle
  else match d.factorH pin c layer b with
    | none => some stHandle
    | some h => match d.handle? h with
      | none => some stHandle
      | some x => if len > x.bytes then some stRange else none

/-- Words of a pinned adapter's factor. -/
def Device.readFactor (d : Device) (c pin layer n : Nat) (b : Bool) : List RWord × Device :=
  match d.factorH pin c layer b with
  | none => (List.replicate n ⟨0#32, true⟩, d)
  | some h => d.readH h 0 n

/-! ### The two loops of R82 -/

/-- A BF16 product added to a running sum, each addition under R69; the product is exact. -/
def Val.mac (acc x y : Val) : Val :=
  let r := r69 (f32Fma x.v y.v acc.v)
  { acc with v := r.v, poison := acc.poison || x.poison || y.poison || r.poison, degraded := acc.degraded || r.degraded }

/-- Sum of products of two lists in ascending order from +0.0. -/
def dotVals (xs ys : List Val) : Val :=
  (List.zip xs ys).foldl (fun (a : Val) (p : Val × Val) => a.mac p.1 p.2) (Val.imm 0#32)

/-- The elements of x that PATA reads: `n` channels of the held vector, 0 beyond them (R133). -/
def HeldVec.xs (h : HeldVec) (n : Nat) : List Val :=
  let l := (List.zipWith (fun (x : F32) (p : Bool) => (⟨x, p, .none, false⟩ : Val)) h.x h.poison).take n
  l ++ List.replicate (n - l.length) (Val.imm 0#32)

/-- u := bf16(A x) for the rows of A; `tag` is the input tag that the term counts. -/
def patinaU (xs : List Val) (as : List (F32 × Bool)) (r n : Nat) (tag : Tag) : List Val :=
  (chunksOf n r (as.take (r * n))).map (fun (row : List (F32 × Bool)) =>
    let s := dotVals xs (row.map (fun a => ⟨a.1, a.2, .none, false⟩))
    let b := bf16Val ⟨s.v, s.poison, tag⟩
    { b with degraded := b.degraded || s.degraded })

/-- term[o] := b[o] · u. -/
def patinaTerm (us : List Val) (bs : List (F32 × Bool)) (r n : Nat) : List Val :=
  (chunksOf r n (bs.take (r * n))).map (fun (row : List (F32 × Bool)) =>
    dotVals us (row.map (fun b => ⟨b.1, b.2, .none, false⟩)))

/-- u of a term as PATB takes it: +0.0 where no PATA has left any (R110). -/
def uVals (us : List VWord) (r : Nat) : List Val :=
  let l := (us.map VWord.val).take r
  l ++ List.replicate (r - l.length) (Val.imm 0#32)

/-! ### PATA -/

/-- Cycles of the MAC block (Tab. 6.3). -/
def macCycles (n r : Nat) : Nat := ceilDiv (n * r) 1024

/-- What PATA and PATB share (the patina port reads side A of the banks of a matrix a word names; the factors of an adapter
are named by no operand field, so their banks are no part of the timetable, R149): rank in range, a held vector, the element count, the matrix. -/
def Device.patPlan (d : Device) (c : Nat) (w : StepWord) (op n skip : Nat) (idx : Option Nat) : OpPlan :=
  let x := d.core c
  let r := fld w 85 79 + 1
  let a := aForm w 40
  let off := a.byteOff x.regs
  let len := 4 * ceilDiv (r * n) 2
  let occ := macCycles n r
  let base : OpPlan := { listed := true, units := forCycles .mac occ ++ forCycles .patinaPort occ, latency := occ + 6 }
  match x.regs.held with
  | none =>
    if op = 1 ∧ w.getLsbD 86 = false ∧ listedWord w 4 op ∧ 1 ≤ n ∧ r ≤ 64 then
      { base with fault := firstFault [idx, d.checkFixed c a.handle off len false],
                  ranges := (d.bufRange a.handle off len false).map (fun g => (g, occ)),
                  units := base.units ++ bankReads (d.addrOf a.handle off) (ceilDiv len 64) occ }
    else OpPlan.unlisted
  | some h =>
    if !(listedWord w 4 op && decide (1 ≤ n ∧ r ≤ 64)) then OpPlan.unlisted
    else if w.getLsbD 86 then
      let layer := if op = 0 then h.layer else x.regs.uaLayer
      let reads := decide (d.pinOf h ≠ 0) && (decide (op = 0) || !x.regs.ua.isEmpty)
      { base with fault := firstFault [idx,
          if reads then d.checkFactor c (d.pinOf h) layer (len + skip) (decide (op = 1)) else none] }
    else
      { base with fault := firstFault [idx, d.checkFixed c a.handle off len false],
                  ranges := (d.bufRange a.handle off len false).map (fun g => (g, occ)),
                  units := base.units ++ bankReads (d.addrOf a.handle off) (ceilDiv len 64) occ }

/-- PATA (R133, R134). -/
def execPata (c : CoreIx) (w : StepWord) (s : State) : Host.Outcome State Fault Refusal :=
  s.lift (fun d =>
    let n := fld w 113 100
    d.run c w (fun d => d.patPlan c w 0 n 0 (checkIdx 0 n)) (fun t d =>
      let x := d.core c
      let r := fld w 85 79 + 1
      let ad := w.getLsbD 86
      match x.regs.held with
      | none => d
      | some h =>
        if ad && decide (d.pinOf h = 0) then d
        else
          let a := aForm w 40
          let f := if ad then d.readFactor c (d.pinOf h) h.layer (ceilDiv (r * n) 2) false
                   else d.readH a.handle (a.byteOff x.regs) (ceilDiv (r * n) 2)
          let us := patinaU (h.xs n) (bf16Elems f.1) r n (if ad then h.tag else .none)
          let d := f.2.fly c (t + macCycles n r + 6) (.u ad h.layer (us.map Val.word))
          let d := if us.any (·.degraded) then d.degradeTag c h.tag else d
          if ad && us.any (·.poison) then d.modCore c (fun y => { y with seq := y.seq.notePoisonIf true h.tag })
          else d))

/-! ### PATB -/

/-- Values from entry `lo` on replace those of an output record that holds the whole range. -/
def NormOut.patch (o : NormOut) (lo : Nat) (ys : List F32) : NormOut :=
  { o with ys := o.ys.take (lo - o.lo) ++ ys ++ o.ys.drop (lo - o.lo + ys.length) }

def NormOut.holds (o : NormOut) (lo n : Nat) : Bool := decide (o.lo ≤ lo ∧ lo + n ≤ o.lo + o.ys.length)

/-- The latest output record that holds a range takes its new values (R86). -/
def patchOuts (lo : Nat) (ys : List F32) : List NormOut → List NormOut
  | [] => []
  | o :: os => if o.holds lo ys.length && !os.any (fun x => x.holds lo ys.length) then o.patch lo ys :: os
               else o :: patchOuts lo ys os

/-- PATB (R133, R134): adds the term into staging, the adapter term after α. -/
def execPatb (c : CoreIx) (w : StepWord) (s : State) : Host.Outcome State Fault Refusal :=
  s.lift (fun d =>
    let n := fld w 113 100
    let lo := fld w 99 87
    d.run c w (fun d => d.patPlan c w 1 n 4 (checkIdx lo n)) (fun t d =>
      let x := d.core c
      let r := fld w 85 79 + 1
      let at_ := t + macCycles n r + 6
      let old := (Tbl.slice VWord.zero x.regs.stage lo n).map VWord.val
      let add := fun (d : Device) (ts : List Val) =>
        let vs := List.zipWith (Val.op2 f32Add) old ts
        let d := d.modCore c (fun y => { y with seq := { y.seq with norms := patchOuts lo (vs.map (·.v)) y.seq.norms } })
        d.flyStage c at_ lo (vs.map Val.out)
      if w.getLsbD 86 then
        match x.regs.held with
        | none => d
        | some h =>
          if d.pinOf h = 0 then d
          else if x.regs.ua.isEmpty then add d (List.replicate n { Val.imm 0#32 with tag := h.tag })
          else
            let f := d.readFactor c (d.pinOf h) x.regs.uaLayer (ceilDiv (r * n) 2 + 1) true
            let alpha : Val := match f.1 with | a :: _ => ⟨a.w, a.poison, .none, false⟩ | [] => Val.imm 0#32
            let us := uVals x.regs.ua r
            let tag := joinTags (h.tag :: us.map (·.tag))
            let ts := (patinaTerm us (bf16Elems (f.1.drop 1)) r n).map (fun (v : Val) =>
              { v.op2 f32Mul alpha with tag := tag })
            add f.2 ts
      else
        let a := aForm w 40
        let f := d.readH a.handle (a.byteOff x.regs) (ceilDiv (r * n) 2)
        add f.2 (patinaTerm (uVals x.regs.uc r) (bf16Elems f.1) r n)))

/-! ### OUTL -/

/-- Weight of a row for one output of an engine: the sum of its slices (R22). -/
def Engine.weight (e : Engine) (row o : Nat) : Int :=
  let k := widthK e.width
  ((numbered 0 (widthOmega e.width)).map (fun (s : Nat × Int) =>
    if e.cell (e.physOf (k * o + s.1)) row then s.2 else 0)).sum

/-- One product of R79 for a sum index: x · q · M; 0 where the output is of no engine. -/
def Device.outlProd (d : Device) (c ne : Nat) (r : Core) (o : Outlier) (g : Nat) : F32 × Bool × Bool :=
  let e := d.engine c (d.physAt c ((o.chan / 256) * 2 ^ r.go + g / ne))
  let q := if g / ne < 2 ^ r.go ∧ o.chan / 256 < 2 ^ r.gi ∧ g % ne < widthOut e.width ∧ e.cls ≠ 0 then e.weight (o.chan % 256) (g % ne) else 0
  let m := blockMult (e.scale (g % ne) (o.chan % 256 / 128))
  let p := r69 (f32Mul o.x (f32OfInt (q * m)))
  (p.v, p.poison || o.poison, p.degraded)

/-- Entries that OUTL's time counts: the capacity, or in compact mode the entries held (R135). -/
def Core.outlCount (r : Core) : Nat := if r.oinfo.compact then r.olist.length else r.oinfo.cap

/-- Cycles of one entry. -/
def outlU (n : Nat) : Nat := max 2 (ceilDiv n 64)

/-- The plan of OUTL. -/
def Device.outlPlan (d : Device) (c : Nat) (w : StepWord) : OpPlan :=
  let r := (d.core c).regs
  let n := fld w 66 53
  let k := r.outlCount
  let u := outlU n
  let ng := 2 ^ (r.gi + r.go)
  { listed := listedWord w 5 0 && decide (1 ≤ n), fault := checkIdx (fld w 52 40) n,
    ranges := [(⟨true, 0, 256 * ng, false, true⟩, k * u)],
    units := forCycles .vector (k * u) ++ (List.range k).flatMap (fun i =>
      (List.range ng).map (fun p => ⟨.engine p, i * u, i * u + 2⟩)),
    latency := k * u + 6 }

/-- OUTL (R135, R79). -/
def execOutl (c : CoreIx) (w : StepWord) (s : State) : Host.Outcome State Fault Refusal :=
  s.lift (fun d => d.run c w (fun d => d.outlPlan c w) (fun t d =>
    let r := (d.core c).regs
    let lo := fld w 52 40
    let n := fld w 66 53
    let ne := d.gridOut c r
    let rows := r.olist.map (fun (o : Outlier) =>
      (⟨o.tag, (List.range n).map (fun i => d.outlProd c ne r o (lo + i))⟩ : OutlRow))
    let saved := (r.oinfo.cap - r.olist.length) * outlU n
    let d := if r.oinfo.compact then (d.bump (key 0xC020 6) saved).modCore c
      (fun x => { x with seq := x.seq.setFlag flCompact }) else d
    d.fly c (t + r.outlCount * outlU n + 6) (.osum lo n rows)))

end Sys2Proof.Machine
end

