-- ==== Sys2Proof/Machine/TopSample.lean ====
section
/-!
DEFINITION. Top-k and sampling operations of class 8 (R140–R142, R225–R229): TOPK, TOPKOUT, TOPKMRG, SAMPLE.
-/
namespace Sys2Proof.Machine

/-! ### The top-k unit -/

/-- Scores offered with their identifiers: those that may enter, and the tags of those that mark the list. -/
def offered (es : List (VWord × Nat)) : List TopEntry × List Tag :=
  ((List.filter (fun (e : VWord × Nat) => !(e.1.poison || f32IsNaN e.1.v)) es).map
      (fun e => ⟨e.1.v, BitVec.ofNat 32 e.2⟩),
   (List.filter (fun (e : VWord × Nat) => e.1.poison || f32IsNaN e.1.v) es).map (fun e => e.1.tag))

/-- Offers scores to the top-k list, visible at cycle `t`; a poisoned score marks the list and counts under R174. -/
def Device.offerTop (d : Device) (c t : Nat) (clear : Bool) (k : Nat) (es : List (VWord × Nat)) : Device :=
  let o := offered es
  let d := d.modCore c (fun x => { x with seq := o.2.foldl (fun (q : Seq) g => q.notePoisonIf true g) x.seq })
  d.fly c t (.topk clear k o.1 (!o.2.isEmpty) (joinTags (es.map (fun e => e.1.tag))))

/-- The plan of TOPK. -/
def topkPlan (w : StepWord) : OpPlan :=
  let n := fld w 66 53
  { listed := listedWord w 8 0 && decide (1 ≤ n), fault := checkIdx (fld w 52 40) n,
    units := forCycles .topk (ceilDiv n 128), latency := ceilDiv n 128 + 8 }

/-- TOPK (R140). -/
def execTopk (c : CoreIx) (w : StepWord) (s : State) : Host.Outcome State Fault Refusal :=
  s.lift (fun d => d.run c w (fun _ => topkPlan w) (fun t d =>
    let n := fld w 66 53
    let base := fld w 109 78
    let es := (numbered base (Tbl.slice VWord.zero (d.core c).regs.stage (fld w 52 40) n)).map (fun e => (e.2, e.1))
    (d.bump (key 0x6040 2) n).offerTop c (t + ceilDiv n 128 + 8) (w.getLsbD 77) (fld w 76 67 + 1) es))

/-- Entries of 8 B in the buffer: score, identifier, poison of either word. -/
def topEntries (ws : List RWord) : List (VWord × Nat) :=
  (chunksOf 2 ws.length ws).map (fun (p : List RWord) =>
    let a := p.getD 0 ⟨0#32, true⟩
    let b := p.getD 1 ⟨0#32, true⟩
    (⟨a.w, a.poison || b.poison, .none⟩, b.w.toNat))

/-- The plan of TOPKMRG. -/
def Device.topkmrgPlan (d : Device) (c : Nat) (w : StepWord) : OpPlan :=
  let a := aForm w 40
  let off := a.byteOff (d.core c).regs
  let m := fld w 89 79
  let o := ceilDiv m 128
  { listed := listedWord w 8 2 && decide (1 ≤ m),
    fault := if m > 1024 then some stRange else d.checkFixed c a.handle off (8 * m) false,
    ranges := (d.bufRange a.handle off (8 * m) false).map (fun g => (g, o)),
    units := forCycles .readPort o ++ forCycles .topk o ++ bankReads (d.addrOf a.handle off) (ceilDiv (8 * m) 64) o,
    latency := o + 8 }

/-- TOPKMRG (R140). -/
def execTopkmrg (c : CoreIx) (w : StepWord) (s : State) : Host.Outcome State Fault Refusal :=
  s.lift (fun d => d.run c w (fun d => d.topkmrgPlan c w) (fun t d =>
    let a := aForm w 40
    let m := fld w 89 79
    let r := d.readH a.handle (a.byteOff (d.core c).regs) (2 * m)
    (r.2.bump (key 0x6040 3) m).offerTop c (t + ceilDiv m 128 + 8) (w.getLsbD 100) (fld w 99 90 + 1) (topEntries r.1)))

/-- The words TOPKOUT writes: k entries in descending rank, sentinels after the last, the mark in the first word. -/
def TopK.words (u : TopK) : List (RWord × Tag) :=
  let k := u.k.getD 0
  let es := (List.range k).flatMap (fun i => match u.list[i]? with
    | some e => [e.score, e.ident]
    | none => [f32NegInf, 0xFFFFFFFF#32])
  (numbered 0 es).map (fun e => (⟨e.2, u.poison && decide (e.1 = 0)⟩, u.tag))

/-- The plan of TOPKOUT: with no k fixed it is not listed (R141). -/
def Device.topkoutPlan (d : Device) (c : Nat) (w : StepWord) : OpPlan :=
  let r := (d.core c).regs
  let a := aForm w 40
  let off := a.byteOff r
  match r.topk.k with
  | none => OpPlan.unlisted
  | some k =>
    let o := ceilDiv k 64
    { listed := listedWord w 8 1, fault := d.checkFixed c a.handle off (8 * k) true,
      ranges := (d.bufRange a.handle off (8 * k) true).map (fun g => (g, o + 2)),
      units := forCycles .writePort o ++ bankWrites (d.addrOf a.handle off) (8 * k) o 0, latency := o + 2 }

/-- TOPKOUT (R141). -/
def execTopkout (c : CoreIx) (w : StepWord) (s : State) : Host.Outcome State Fault Refusal :=
  s.lift (fun d => d.run c w (fun d => d.topkoutPlan c w) (fun t d =>
    let r := (d.core c).regs
    let a := aForm w 40
    let at_ := t + ceilDiv (r.topk.k.getD 0) 64 + 2
    let d := d.flyBuf c at_ a.handle (a.byteOff r) r.topk.words
    if w.getLsbD 79 then d.fly c at_ .topkClear else d))

/-! ### The sampling unit (R228) -/

/-- Inserts a candidate in rank order: higher z, then the lower token; 1,024 are kept. -/
def insertKept (c : F32 × Nat) : List (F32 × Nat) → List (F32 × Nat)
  | [] => [c]
  | y :: ys => if f32Lt y.1 c.1 || (f32Eq y.1 c.1 && decide (c.2 < y.2)) then c :: y :: ys else y :: insertKept c ys

/-- The sampling unit after the reset of First chunk 1. -/
def Sampler.start : Sampler := ⟨f32NegInf, 0#32, [], false, .none, false⟩

/-- One token offered with its logit, allowed by the mask or not. -/
def Sampler.takeIn (u : Sampler) (g : F32) (tok : Nat) (x : VWord) : Sampler × Bool :=
  if x.poison || f32IsNaN x.v then ({ u with poison := true }, false)
  else
    let z := r69 (f32Mul x.v g)
    let up := f32Lt u.m z.v
    let s0 := if up && decide (u.s ≠ 0#32) then (r69 (f32Mul u.s (f32ExpFn (r69 (f32Sub u.m z.v)).v))).v else u.s
    let m := if up then z.v else u.m
    let s := (r69 (f32Add s0 (f32ExpFn (r69 (f32Sub z.v m)).v))).v
    ({ u with m := m, s := s, kept := (insertKept (z.v, tok) u.kept).take 1024, poison := u.poison || z.poison,
              admitted := true }, z.degraded)

/-- A chunk: tokens from `tok` on with what the mask says of each (`none`: the mask word is poisoned). -/
def Sampler.chunk (u : Sampler) (g : F32) : Nat → List (VWord × Option Bool) → Sampler × Bool
  | _, [] => (u, false)
  | tok, x :: xs =>
    let a := match x.2 with
      | some true => u.takeIn g tok x.1
      | some false => (u, false)
      | none => ({ u with poison := true }, false)
    let r := a.1.chunk g (tok + 1) xs
    (r.1, a.2 || r.2)

/-- The shortest prefix whose running sum reaches the target; all when none does. -/
def topPrefix (target : F32) : F32 → List (F32 × Nat) → List (F32 × Nat)
  | _, [] => []
  | acc, x :: xs =>
    let a := f32Add acc x.1
    if f32Le target a then [x] else x :: topPrefix target a xs

/-- The first candidate whose running sum exceeds θ; the last when none does. -/
def pickAbove (theta : F32) : F32 → Nat → List (F32 × Nat) → Nat
  | _, last, [] => last
  | acc, _, x :: xs =>
    let a := f32Add acc x.1
    if f32Lt theta a then x.2 else pickAbove theta a x.2 xs

/-- u of the draw at position j (R229). -/
def drawU (seed j : Nat) : F32 :=
  let m := 2 ^ 64
  let z0 := (seed * 2 ^ 32 + j + 0x9E3779B97F4A7C15) % m
  let z1 := (z0 ^^^ (z0 >>> 30)) * 0xBF58476D1CE4E5B9 % m
  let z2 := (z1 ^^^ (z1 >>> 27)) * 0x94D049BB133111EB % m
  let z := z2 ^^^ (z2 >>> 31)
  f32Round false (z >>> 40) (-24)

/-- The profile a request is sampled under: the one its round's choice found, else its tenant's (R227). -/
def Device.profile (d : Device) (slot : Nat) : Profile :=
  let r := d.req slot
  match (Tbl.find? d.serv.rounds r.inst).bind (fun x => Tbl.find? x.profiles slot) with
  | some p => p
  | none => Tbl.get Profile.reset d.serv.profiles (r.tenant * 8 + r.profile)

/-- Draws a token (R228): FFFFFFFFh when none was admitted. -/
def Sampler.draw (u : Sampler) (p : Profile) (uv : F32) : Nat :=
  if !u.admitted then 0xFFFFFFFF
  else
    let k := if p.w2 % 2048 = 0 then 1024 else min 1024 (p.w2 % 2048)
    let cand := (u.kept.take k).map (fun c => (f32ExpFn (r69 (f32Sub c.1 u.m)).v, c.2))
    let kept := if f32Lt p.topP f32One then topPrefix (r69 (f32Mul p.topP u.s)).v 0#32 cand else cand
    if f32IsZero p.temp then (kept.headD (0#32, 0)).2
    else
      let W := kept.foldl (fun (a : F32) (x : F32 × Nat) => f32Add a x.1) 0#32
      pickAbove (r69 (f32Mul uv W)).v 0#32 0 kept

/-! ### SAMPLE -/

/-- The mask stage of a core for a batch position (R225): handle and byte offset. -/
def Device.maskStage (d : Device) (c x : Nat) : Option (Nat × Nat) :=
  match (d.inst (d.core c).seq.plan.inst).maq with
  | none => none
  | some m =>
    let sv := m.extra.serving
    match List.find? (fun (e : Nat × HandleId) => decide (e.1 = c)) sv.sampling with
    | none => none
    | some e => some (e.2.toNat, x / (max 1 sv.sampling.length) * (ceilDiv sv.vocab 512 * 64))

/-- Byte range of the stage words that cover tokens base to base + n − 1. -/
def maskSpan (base n : Nat) : Nat × Nat := (base / 32 * 4, ((base + n + 31) / 32 - base / 32) * 4)

/-- The plan of SAMPLE. -/
def Device.samplePlan (d : Device) (c : Nat) (w : StepWord) : OpPlan :=
  let x := d.core c
  let n := fld w 66 53
  let j := tForm w 85 x.regs
  let occ := ceilDiv n 64 + if w.getLsbD 101 then 1040 else 0
  let sp := maskSpan (fld w 84 67) n
  let rng := match x.seq.rowOf j with
    | none => []
    | some r =>
      if (d.req r.1.slot).maskMode = 0 then []
      else match d.maskStage c r.2 with
        | none => []
        | some h => d.bufRange h.1 (h.2 + sp.1) sp.2 false
  { listed := listedWord w 8 3 && decide (1 ≤ n),
    fault := firstFault [checkIdx (fld w 52 40) n, x.seq.checkToken j],
    ranges := rng.map (fun g => (g, occ)),
    units := ⟨.loader, 0, 1⟩ :: forCycles .sampling occ, latency := occ + 4 }

/-- What the mask says of each of `n` tokens from `base` (R225). -/
def maskBits (ws : List RWord) (base n : Nat) : List (Option Bool) :=
  (List.range n).map (fun i =>
    let b := base % 32 + i
    let x := ws.getD (b / 32) ⟨0#32, true⟩
    if x.poison then none else some (x.w.getLsbD (b % 32)))

/-- The mask a SAMPLE applies: every token with mask mode none, else the copy staged at the round's choice. -/
def Device.sampleMask (d : Device) (c x mode base n : Nat) : List (Option Bool) × Device :=
  if mode = 0 then (List.replicate n (some true), d)
  else match d.maskStage c x with
    | none => (List.replicate n (some false), d)
    | some h =>
      let sp := maskSpan base n
      let r := d.readH h.1 (h.2 + sp.1) (sp.2 / 4)
      (maskBits r.1 base n, r.2)

/-- SAMPLE (R142, R228). -/
def execSample (c : CoreIx) (w : StepWord) (s : State) : Host.Outcome State Fault Refusal :=
  s.lift (fun d => d.run c w (fun d => d.samplePlan c w) (fun t d =>
    let x := d.core c
    let n := fld w 66 53
    let base := fld w 84 67
    match x.seq.rowOf (tForm w 85 x.regs) with
    | none => d
    | some r =>
      let rq := d.req r.1.slot
      let p := d.profile r.1.slot
      let g := if f32IsZero p.temp then f32One else (r69 (f32Recip p.temp)).v
      let m := d.sampleMask c r.2 rq.maskMode base n
      let u0 := if w.getLsbD 100 then Sampler.start else x.regs.samp
      let ch := u0.chunk g base (List.zip (Tbl.slice VWord.zero x.regs.stage (fld w 52 40) n) m.1)
      let u := { ch.1 with tag := .pos r.2 }
      let d := m.2.modCore c (fun y => { y with regs := { y.regs with samp := u } })
      let d := if ch.2 then d.degradeTag c (.pos r.2) else d
      if w.getLsbD 101 then
        let tok := u.draw p (drawU rq.seed (r.1.p + r.1.q))
        let d := d.tellOwner x.seq.plan.inst (fun h => .stepStatus h r.1.slot 0 false (some tok))
          (fun d => d.setAux r.1.slot { d.aux r.1.slot with token := some tok })
        d.flyQ c (t + ceilDiv n 64 + 1044) (fld w 105 102) ⟨BitVec.ofNat 32 tok, u.poison, .pos r.2⟩ false
      else d))

end Sys2Proof.Machine
end

