-- ==== Sys2Proof/Machine/Vector.lean ====
section
/-!
DEFINITION. The vector operations of class 3 (R130–R132): VADD to VRSSQ and QSET.
-/
namespace Sys2Proof.Machine

/-- Which operands an operation takes, and where its result goes. -/
inductive VKind where
  /-- d := f(a). -/
  | unary
  /-- d := f(a, b). -/
  | binary
  /-- d := a · b + d. -/
  | fma
  /-- Q := reduction of a. -/
  | reduce
  deriving DecidableEq, Repr

/-- The second source of element i (Tab. 6.11). -/
def vecB (w : StepWord) (r : Core) : List VWord :=
  let n := fld w 66 53
  if fld w 94 93 = 0 then Tbl.slice VWord.zero r.stage (fld w 92 80) n
  else if fld w 94 93 = 1 then List.replicate n ⟨BitVec.ofNat 32 (fld w 126 95), false, .none⟩
  else List.replicate n (Tbl.get VWord.zero r.q (fld w 83 80))

/-- Cycles beyond ceil(n / 64) until the result is visible (Tab. 6.12). -/
def vecTail (op : Nat) : Nat := if op ≤ 6 then 4 else if op ≤ 9 then 8 else 6

/-- The plan of a vector operation. -/
def vecPlan (op : Nat) (k : VKind) (w : StepWord) : OpPlan :=
  let n := fld w 66 53
  let o := ceilDiv n 64
  { listed := listedWord w 3 op && decide (1 ≤ n ∧ fld w 94 93 ≠ 3),
    fault := firstFault [checkIdx (fld w 79 67) n, if k = .reduce then none else checkIdx (fld w 52 40) n,
      if (k = .binary ∨ k = .fma) ∧ fld w 94 93 = 0 then checkIdx (fld w 92 80) n else none,
      if k = .reduce then checkIdx 0 n else none],
    units := forCycles .vector o, latency := o + vecTail op }

/-- Elementwise result of a unary operation. -/
def vecUnary (f : F32 → F32) (as : List VWord) : List (VWord × Bool) :=
  as.map (fun (a : VWord) => (a.val.op1 f).out)

/-- Elementwise result of a binary operation. -/
def vecBinary (f : F32 → F32 → F32) (as bs : List VWord) : List (VWord × Bool) :=
  List.zipWith (fun (a b : VWord) => (a.val.op2 f b.val).out) as bs

/-- d := a · b + d with one rounding (VFMA). -/
def vecFma (as bs ds : List VWord) : List (VWord × Bool) :=
  List.zipWith (fun (p : VWord × VWord) (d : VWord) =>
    let r := r69 (f32Fma p.1.v p.2.v d.v)
    (⟨r.v, p.1.poison || p.2.poison || d.poison || r.poison, (p.1.tag.join p.2.tag).join d.tag⟩, r.degraded))
    (List.zip as bs) ds

/-- Adds pairs of neighbours. -/
def pairs (f : Val → Val → Val) : List Val → List Val
  | a :: b :: r => f a b :: pairs f r
  | r => r

/-- Folds a value into the lane of its element number (R132). -/
def laneIn (f : Val → Val → Val) : Nat → Val → List Val → List Val
  | _, _, [] => []
  | 0, x, l :: ls => f l x :: ls
  | n + 1, x, l :: ls => l :: laneIn f n x ls

/-- The fixed order of R132: 64 lanes, then six levels of pairs. -/
def reduceLanes (f : Val → Val → Val) (init : Val) (xs : List Val) : Val :=
  let lanes := (numbered 0 xs).foldl (fun ls e => laneIn f (e.1 % 64) e.2 ls) (List.replicate 64 init)
  match pairs f (pairs f (pairs f (pairs f (pairs f (pairs f lanes))))) with
  | [] => init
  | v :: _ => v

/-- VRMAX: the largest of the elements, with the poison and tags of all; R69 acts on the result. -/
def reduceMax (xs : List Val) : Val :=
  match xs with
  | [] => Val.imm 0#32
  | x :: r => (r.foldl (fun (m y : Val) =>
      ⟨f32MaxOp m.v y.v, m.poison || y.poison, m.tag.join y.tag, m.degraded || y.degraded⟩) x).op1 id

/-- A vector operation that writes staging. -/
def Device.vecStage (d : Device) (c : Nat) (w : StepWord) (op : Nat) (k : VKind)
    (f : List VWord → List VWord → List VWord → List (VWord × Bool)) : Device :=
  d.run c w (fun _ => vecPlan op k w) (fun t d =>
    let r := (d.core c).regs
    let n := fld w 66 53
    let as := Tbl.slice VWord.zero r.stage (fld w 79 67) n
    let ds := Tbl.slice VWord.zero r.stage (fld w 52 40) n
    d.flyStage c (t + ceilDiv n 64 + vecTail op) (fld w 52 40) (f as (vecB w r) ds))

/-- A reduction into a Q register. -/
def Device.vecReduce (d : Device) (c : Nat) (w : StepWord) (op : Nat) (f : List Val → Val) : Device :=
  d.run c w (fun _ => vecPlan op .reduce w) (fun t d =>
    let r := (d.core c).regs
    let n := fld w 66 53
    let y := f ((Tbl.slice VWord.zero r.stage (fld w 79 67) n).map VWord.val)
    d.flyQ c (t + ceilDiv n 64 + vecTail op) (fld w 43 40) y.word y.degraded)

/-- VADD (R131): d := a + b. -/
def execVadd (c : CoreIx) (w : StepWord) (s : State) : Host.Outcome State Fault Refusal :=
  s.lift (fun d => d.vecStage c w 0 .binary (fun as bs _ => vecBinary f32Add as bs))

/-- VSUB (R131): d := a − b. -/
def execVsub (c : CoreIx) (w : StepWord) (s : State) : Host.Outcome State Fault Refusal :=
  s.lift (fun d => d.vecStage c w 1 .binary (fun as bs _ => vecBinary f32Sub as bs))

/-- VMUL (R131): d := a · b. -/
def execVmul (c : CoreIx) (w : StepWord) (s : State) : Host.Outcome State Fault Refusal :=
  s.lift (fun d => d.vecStage c w 2 .binary (fun as bs _ => vecBinary f32Mul as bs))

/-- VFMA (R131): d := a · b + d, one rounding. -/
def execVfma (c : CoreIx) (w : StepWord) (s : State) : Host.Outcome State Fault Refusal :=
  s.lift (fun d => d.vecStage c w 3 .fma vecFma)

/-- VMAX (R131, R132). -/
def execVmax (c : CoreIx) (w : StepWord) (s : State) : Host.Outcome State Fault Refusal :=
  s.lift (fun d => d.vecStage c w 4 .binary (fun as bs _ => vecBinary f32MaxOp as bs))

/-- VMIN (R131, R132). -/
def execVmin (c : CoreIx) (w : StepWord) (s : State) : Host.Outcome State Fault Refusal :=
  s.lift (fun d => d.vecStage c w 5 .binary (fun as bs _ => vecBinary f32MinOp as bs))

/-- VMOV (R131): d := a. -/
def execVmov (c : CoreIx) (w : StepWord) (s : State) : Host.Outcome State Fault Refusal :=
  s.lift (fun d => d.vecStage c w 6 .unary (fun as _ _ => vecUnary id as))

/-- VEXP (R131, R132). -/
def execVexp (c : CoreIx) (w : StepWord) (s : State) : Host.Outcome State Fault Refusal :=
  s.lift (fun d => d.vecStage c w 7 .unary (fun as _ _ => vecUnary f32ExpFn as))

/-- VRSQRT (R131, R132). -/
def execVrsqrt (c : CoreIx) (w : StepWord) (s : State) : Host.Outcome State Fault Refusal :=
  s.lift (fun d => d.vecStage c w 8 .unary (fun as _ _ => vecUnary f32Rsqrt as))

/-- VRECIP (R131, R132). -/
def execVrecip (c : CoreIx) (w : StepWord) (s : State) : Host.Outcome State Fault Refusal :=
  s.lift (fun d => d.vecStage c w 9 .unary (fun as _ _ => vecUnary f32Recip as))

/-- VRSUM (R131, R132). -/
def execVrsum (c : CoreIx) (w : StepWord) (s : State) : Host.Outcome State Fault Refusal :=
  s.lift (fun d => d.vecReduce c w 10 (reduceLanes (Val.op2 f32Add) (Val.imm 0#32)))

/-- VRMAX (R131). -/
def execVrmax (c : CoreIx) (w : StepWord) (s : State) : Host.Outcome State Fault Refusal :=
  s.lift (fun d => d.vecReduce c w 11 reduceMax)

/-- VRSSQ (R131): each square rounded to FP32, then summed in the order of R132. -/
def execVrssq (c : CoreIx) (w : StepWord) (s : State) : Host.Outcome State Fault Refusal :=
  s.lift (fun d => d.vecReduce c w 12 (fun xs =>
    reduceLanes (Val.op2 f32Add) (Val.imm 0#32) (xs.map (Val.op1 (fun x => f32Mul x x)))))

/-- QSET (R131). Its Count field, which it does not use, may be 0: R115's rule is taken for operations that count (log 119);
its B kind 11b is unlisted as Tab. 6.11 has it. -/
def execQset (c : CoreIx) (w : StepWord) (s : State) : Host.Outcome State Fault Refusal :=
  s.lift (fun d => d.run c w
    (fun _ => { listed := listedWord w 3 13 && decide (fld w 94 93 ≠ 3), units := [⟨.vector, 0, 1⟩], latency := 1 })
    (fun t d => d.flyQ c (t + 1) (fld w 43 40) ⟨BitVec.ofNat 32 (fld w 126 95), false, .none⟩ false))

end Sys2Proof.Machine
end

