-- ==== Sys2Proof/Machine/Programs.lean ====
section
/-!
DEFINITION. The checks a cast makes of a step program (R94, R103, R127): listed encodings, grids, loop bodies, operations
in flight, pause points.
-/
namespace Sys2Proof.Machine

/-! ### Listed encodings -/

/-- A word's encoding is one that Tab. 5.2 and the Operation Reference list, whatever state it will meet. `b` is a device
whose core 0 holds no step. -/
def wordListed (b : Device) (w : StepWord) : Bool :=
  let op := wOp w
  match wClass w with
  | 0 => listedWord w 0 op && decide (op ≤ 5) && (decide (op ≠ 3) || decide (fld w 42 40 + fld w 45 43 ≤ 5))
  | 1 =>
    if op = 0 then listedWord w 1 0 && evalListed w && (w.getLsbD 98 || decide (1 ≤ fld w 86 79))
    else if op = 1 then listedWord w 1 1 && decide (fld w 89 82 ≤ 128 ∧ fld w 97 90 ≤ 128)
    else if op = 2 then listedWord w 1 2
    else if op = 3 then (b.rdrowPlan 0 w).listed
    else if op = 4 then (b.wrrowPlan 0 w).listed
    else (b.enablePlan 0 w).listed
  | 2 => if op = 0 then (readPlan w).listed else if op = 1 then (b.packPlan 0 w).listed else (b.loadPlan 0 w).listed
  | 3 => if op = 13 then listedWord w 3 13 && decide (fld w 94 93 ≠ 3)
         else decide (op < 13) && (vecPlan op .unary w).listed
  | 4 => decide (op ≤ 1) && listedWord w 4 op && decide (1 ≤ fld w 113 100 ∧ fld w 85 79 + 1 ≤ 64)
  | 5 => (b.outlPlan 0 w).listed
  | 6 => if op = 0 then (b.copyPlan 0 w).listed else decide (op ≤ 2) && (b.gatherPlan 0 w op).listed
  | 7 => decide (op ≤ 2) && listedWord w 7 op
  | 8 => if op = 0 then (topkPlan w).listed else if op = 1 then listedWord w 8 1
         else if op = 2 then (b.topkmrgPlan 0 w).listed else (b.samplePlan 0 w).listed
  | _ => false

/-! ### Operations in flight -/

/-- Cycles from issue to the last access of the ranges a word touches; none when it touches none. `g` is the grid as
(log2 I, log2 O), `cap` the outlier capacity of its latest EVAL, `k` the k of its top-k list. -/
def touchCycles (w : StepWord) (g : Nat × Nat) (cap k : Nat) : Option Nat :=
  let ng := 2 ^ (g.1 + g.2)
  let n := fld w 66 53
  match wClass w, wOp w with
  | 1, 0 => some ((if w.getLsbD 98 then 0 else ceilDiv (fld w 86 79) 8 - 1) + 2 * (evalPlanes w).length)
  | 1, 1 => some (5 + ng)
  | 1, 2 => some (7 + ng)
  | 1, 3 => some 3
  | 1, 4 => some 3
  | 1, 5 => some (enableCycles ng (w.getLsbD 100))
  | 2, 1 => some (fmtCycles (fld w 108 106) n + 4)
  | 2, 2 => some (fmtCycles (fld w 108 106) n)
  | 4, _ => if w.getLsbD 86 then none else some (macCycles (fld w 113 100) (fld w 85 79 + 1))
  | 5, _ => some (cap * outlU n)
  | 8, 1 => some (ceilDiv k 64 + 2)
  | 8, 2 => some (ceilDiv (fld w 89 79) 128)
  | 8, 3 => some (ceilDiv n 64 + if w.getLsbD 101 then 1040 else 0)
  | _, _ => none

/-- Splits a program after LOOP into its body through ENDLOOP and the rest; `n` loops are open inside. -/
def splitLoop : List StepWord → Nat → List StepWord → List StepWord × List StepWord
  | [], _, acc => (acc.reverse, [])
  | w :: ws, n, acc =>
    if wClass w = 0 ∧ wOp w = 4 then splitLoop ws (n + 1) (w :: acc)
    else if wClass w = 0 ∧ wOp w = 5 then
      (if n = 0 then ((w :: acc).reverse, ws) else splitLoop ws (n - 1) (w :: acc))
    else splitLoop ws n (w :: acc)

/-- What a program's loops from the length table count at most (R103). -/
structure LoopMax where
  n : Nat
  t : Nat
  len : Nat
  deriving DecidableEq, Repr

/-- Largest count of a LOOP word. -/
def loopMax (m : LoopMax) (w : StepWord) : Nat :=
  let i := fld w 58 43
  if w.getLsbD 42 = false then i
  else if i = 0 then m.n
  else if i = 1 ∨ i = 2 then m.t
  else if i = 3 then m.len
  else if i % 4 = 0 then m.t
  else if i % 4 = 2 then m.t - 1
  else m.len

/-- A program with every loop written out at most 17 times, each turn with its ENDLOOP and that word's delay: no more turns can be in flight when each touches a range,
for the seventeenth already breaks R94. `fuel` bounds the words walked. -/
def unrolled (m : LoopMax) : Nat → List StepWord → List StepWord
  | 0, _ => []
  | _ + 1, [] => []
  | fuel + 1, w :: ws =>
    if wClass w = 0 ∧ wOp w = 4 then
      let s := splitLoop ws 0 []
      let body := unrolled m fuel s.1
      w :: (List.replicate (min 17 (loopMax m w)) body).flatMap id ++ unrolled m fuel s.2
    else w :: unrolled m fuel ws

/-- The walk that counts operations in flight: time, ends of those in flight, grid, capacity, k, whether 16 held. -/
structure Flight where
  t : Nat
  ends : List Nat
  grid : Nat × Nat
  cap : Nat
  k : Nat
  ok : Bool
  deriving DecidableEq, Repr

def Flight.step (caps : Nat → Nat) (f : Flight) (w : StepWord) : Flight :=
  let t := f.t + max 1 (wDelay w)
  let grid := if wClass w = 0 ∧ wOp w = 3 then (fld w 42 40, fld w 45 43) else f.grid
  let cap := if wClass w = 1 ∧ wOp w = 0 then caps (fld w 110 99) else f.cap
  let k := if wClass w = 8 ∧ (wOp w = 0 ∨ wOp w = 2) then 1024 else f.k
  let ends := f.ends.filter (fun e => decide (t ≤ e))
  let ends := match touchCycles w grid cap k with | some c => (t + c) :: ends | none => ends
  ⟨t, ends, grid, cap, k, f.ok && decide (ends.length ≤ 16)⟩

/-- At most 16 operations that touch ranges are in flight at once. -/
def flightOk (m : LoopMax) (caps : Nat → Nat) (ws : List StepWord) : Bool :=
  ((unrolled m (ws.length + 1) ws).foldl (Flight.step caps) ⟨0, [], (0, 5), 0, 0, true⟩).ok

/-! ### Pause points (R103) -/

/-- Delay before the first pause point of a stretch, the longest between two, after the last; whether there is one. -/
structure Gaps where
  has : Bool
  pre : Nat
  mx : Nat
  suf : Nat
  deriving DecidableEq, Repr

def Gaps.cat (a b : Gaps) : Gaps :=
  if a.has then
    if b.has then ⟨true, a.pre, max (max a.mx b.mx) (a.suf + b.pre), b.suf⟩ else ⟨true, a.pre, a.mx, a.suf + b.suf⟩
  else if b.has then ⟨true, a.suf + b.pre, b.mx, b.suf⟩ else ⟨false, 0, 0, a.suf + b.suf⟩

/-- A stretch run `n` times. -/
def Gaps.times (a : Gaps) (n : Nat) : Gaps :=
  if n = 0 then ⟨false, 0, 0, 0⟩
  else if a.has then (if n = 1 then a else { a with mx := max a.mx (a.suf + a.pre) })
  else ⟨false, 0, 0, n * a.suf⟩

/-- One word: its delay, then its pause point when it carries one, as STEP and COMMIT do. -/
def wordGaps (w : StepWord) : Gaps :=
  if wPause w ∨ (wClass w = 0 ∧ (wOp w = 1 ∨ wOp w = 2)) then ⟨true, max 1 (wDelay w), 0, 0⟩
  else ⟨false, 0, 0, max 1 (wDelay w)⟩

def progGaps (m : LoopMax) : Nat → List StepWord → Gaps
  | 0, _ => ⟨false, 0, 0, 0⟩
  | _ + 1, [] => ⟨false, 0, 0, 0⟩
  | fuel + 1, w :: ws =>
    if wClass w = 0 ∧ wOp w = 4 then
      let s := splitLoop ws 0 []
      ((wordGaps w).cat ((progGaps m fuel s.1).times (loopMax m w))).cat (progGaps m fuel s.2)
    else (wordGaps w).cat (progGaps m fuel ws)

/-! ### Grids (R91) -/

/-- A grid of these log2 O keeps O · n_e within the accumulators. -/
def gridFits (ne o : Nat) : Bool := decide (2 ^ o * ne ≤ 8192)

/-- R91 on a program whose core has `ne` outputs per engine: every grid that a GRID word sets keeps O · n_e within 8,192,
and so does the grid of 1 × 32 wherever an EVAL, EVALT or EVALX may still meet it (`dflt`). `st` holds, for each open
loop, whether that grid may stand after it because the loop can run no turn. DEDUCED (log 152): the grid that STEP restores
is checked where a word evaluates under it. -/
def gridsOk (ne : Nat) : List StepWord → List Bool → Bool → Bool
  | [], _, _ => true
  | w :: ws, st, dflt =>
    if wClass w = 0 then
      if wOp w = 3 then gridFits ne (fld w 45 43) && gridsOk ne ws st false
      else if wOp w = 4 then gridsOk ne ws ((dflt && (w.getLsbD 42 || decide (fld w 58 43 = 0))) :: st) dflt
      else if wOp w = 5 then gridsOk ne ws (st.drop 1) (dflt || st.headD false)
      else gridsOk ne ws st dflt
    else (!dflt || decide (wClass w ≠ 1 ∨ 3 ≤ wOp w) || gridFits ne 5) && gridsOk ne ws st dflt

/-! ### The checks -/

/-- Every loop body, through its ENDLOOP, has at most 512 words, and every LOOP has its ENDLOOP. -/
def loopsOk : List StepWord → Bool
  | [] => true
  | w :: ws =>
    (if wClass w = 0 ∧ wOp w = 4 then
      let s := splitLoop ws 0 []
      decide (s.1.length ≤ 512 ∧ s.1 ≠ []) && (s.1.getLast?.map (fun x => decide (wClass x = 0 ∧ wOp x = 5))).getD false
     else true) && loopsOk ws

/-- R120: loops nest at most four deep, each on a counter of its own, and every ENDLOOP closes the loop of its counter; `st`
holds the counters of the open loops, innermost first. -/
def loopStack : List StepWord → List Nat → Bool
  | [], st => st.isEmpty
  | w :: ws, st =>
    let k := fld w 41 40
    if wClass w = 0 ∧ wOp w = 4 then !st.contains k && decide (st.length < 4) && loopStack ws (k :: st)
    else if wClass w = 0 ∧ wOp w = 5 then decide (st.head? = some k) && loopStack ws (st.drop 1)
    else loopStack ws st

/-- STEP stands first, COMMIT last, and neither elsewhere (R92). -/
def framed (ws : List StepWord) : Bool :=
  let is := fun (op : Nat) (w : StepWord) => decide (wClass w = 0 ∧ wOp w = op)
  (ws.head?.map (is 1)).getD false && (ws.getLast?.map (is 2)).getD false &&
    decide ((ws.filter (is 1)).length = 1 ∧ (ws.filter (is 2)).length = 1)

/-- R94, R103 and R120 on the words of a program; `ne` is n_e of its core, `frame` is false for the program of a spore
pack, which has no STEP. -/
def programOk (b : Device) (m : LoopMax) (caps : Nat → Nat) (ne : Nat) (frame : Bool) (ws : List StepWord) : Bool :=
  ws.all (wordListed b) && gridsOk ne ws [] true && (!frame || framed ws) && loopsOk ws && loopStack ws [] && flightOk m caps ws &&
    (let g := progGaps m (ws.length + 1) ws
     decide (g.mx ≤ 2600) && (frame || decide (g.pre ≤ 2600 ∧ g.suf ≤ 2600)))

/-- A word is WRROW (R127). -/
def isWrrow (w : StepWord) : Bool := decide (wClass w = 1 ∧ wOp w = 4)

end Sys2Proof.Machine
end

