-- ==== Sys2Proof/Machine/Maquette.lean ====
section
/-!
DEFINITION. The maquette (R249–R252): its header, sections, layers and placements from bytes, and the checks of a cast
and a swap on it. The sections whose byte layout the spec leaves open come with the command (MaqExtra).
-/
namespace Sys2Proof.Machine

/-! ### Status codes (Tab. 11.7) -/

def cInProgress : Nat := 0x01
def cDigest : Nat := 0x02
def cMaquette : Nat := 0x03
def cPlacement : Nat := 0x04
def cProgram : Nat := 0x05
def cKvClass : Nat := 0x06
def cFanIn : Nat := 0x07
def cWeight : Nat := 0x08
def cQuota : Nat := 0x09
def cSpace : Nat := 0x0A
def cMismatch : Nat := 0x0B
def cSwap : Nat := 0x0C
def cAborted : Nat := 0x0D
def cDenied : Nat := 0x0E
def cBusy : Nat := 0x0F
def cIncomplete : Nat := 0x10
def cRank : Nat := 0x11
def cTable : Nat := 0x12
def cNotFound : Nat := 0x13

/-! ### Header and sections (Tab. 11.1, Tab. 11.2) -/

/-- A directory entry: type, offset, length, count. -/
structure Section_ where
  type : Nat
  off : Nat
  len : Nat
  count : Nat
  deriving DecidableEq, Repr

/-- The directory of a maquette. -/
def maqSections (b : List Byte) : List Section_ :=
  (List.range (bits (wordAt b 2) 31 16)).map (fun i =>
    ⟨bits (wordAt b (4 + 4 * i)) 7 0, wordAt b (5 + 4 * i), wordAt b (6 + 4 * i), wordAt b (7 + 4 * i)⟩)

def secOf? (ss : List Section_) (t : Nat) : Option Section_ := ss.find? (fun s => decide (s.type = t))

/-- Bytes of a section; none of a section that is not there. -/
def secBytes (b : List Byte) (ss : List Section_) (t : Nat) : List Byte :=
  match secOf? ss t with
  | none => []
  | some s => bytesAt b s.off s.len

/-- R249 and R250 on the header and the directory. -/
def sectionsOk (b : List Byte) (ss : List Section_) : Bool :=
  ss.all (fun s => decide (1 ≤ s.type ∧ s.type ≤ 11 ∧ s.off % 16 = 0 ∧ 16 + 16 * ss.length ≤ s.off ∧
    s.off + s.len ≤ b.length) && decide ((ss.filter (fun x => decide (x.type = s.type))).length = 1)) &&
  [1, 2, 3, 4, 5].all (fun t => (secOf? ss t).isSome)

/-! ### Layers and placements (Tab. 11.3, Tab. 11.4) -/

def layerOf (b : List Byte) : LayerEnt :=
  let w := wordAt b
  { layer := bits (w 0) 11 0, arrival := bits (w 0) 15 12, width := bits (w 0) 18 16, mse := bit (w 0) 19,
    bits := bits (w 0) 22 20 + 1, signed := bit (w 0) 23, fanIn := w 1, outputs := w 2,
    mag := BitVec.ofNat 32 (w 3), clip := BitVec.ofNat 32 (w 4), cap := bits (w 5) 6 0, rc := bits (w 5) 13 7,
    ra := bits (w 5) 20 14, tokens := bits (w 6) 14 0, rlo := BitVec.ofNat 32 (w 7), rhi := BitVec.ofNat 32 (w 8),
    firstPl := bits (w 9) 15 0, numPl := bits (w 9) 31 16, corr := bits (w 10) 15 0, ref := bits (w 10) 31 16,
    refFmt := bits (w 11) 1 0 }

def placementOf (b : List Byte) : Placement :=
  let w := wordAt b
  { dev := BitVec.ofNat 18 (w 0), cluster := bits (w 0) 21 18, core := bits (w 0) 25 22, gi := bits (w 0) 28 26,
    go := bits (w 0) 31 29, inOff := bits (w 1) 19 0, outOff := bits (w 2) 19 0, corpus := w 3 }

/-- CIM core of a placement (cluster · 12 + core). -/
def Placement.coreIx (p : Placement) : Nat := p.cluster * 12 + p.core

/-- Logical positions of a placement. -/
def Placement.engines (p : Placement) : Nat := 2 ^ (p.gi + p.go)

/-- Placements of a layer. -/
def Maq.placesOf (m : Maq) (l : LayerEnt) : List Placement := (m.places.drop l.firstPl).take l.numPl

/-- A maquette from its bytes and the sections given beside them. -/
def maqOf (b : List Byte) (x : MaqExtra) : Maq :=
  let ss := maqSections b
  let w1 := wordAt b 1
  let n := bits (wordAt b 2) 12 0
  let recs := fun (t size : Nat) =>
    let v := secBytes b ss t
    (List.range (v.length / size)).map (fun i => bytesAt v (size * i) size)
  { inst := bits w1 9 0, tenant := bits w1 18 10, cls := bits w1 20 19, reference := bit w1 21, maint := bit w1 22,
    layers := ((recs 1 64).map layerOf).take n, places := (recs 2 16).map placementOf,
    kv := (recs 6 144).map kvClassOf, expected := recs 11 32, tables := [secBytes b ss 4, secBytes b ss 7, secBytes b ss 10],
    extra := x }

/-! ### Checks (R249–R252) -/

def f32Finite (x : F32) : Bool := !f32IsNaN x && !f32IsInf x

/-- Values of one layer entry. -/
def layerOk (m : Maq) (i : Nat) (l : LayerEnt) : Bool :=
  let regs := m.extra.regions
  let kind : Nat → Option Nat := fun r => (regs[r]?).map (fun x => x.kind)
  decide (l.layer = i ∧ l.arrival ≤ 8 ∧ l.width ≤ 4 ∧ (m.cls = 1 ∨ l.width = 0 ∨ l.width = 2)) &&
  decide (1 ≤ l.fanIn ∧ l.fanIn ≤ 1048576 ∧ 1 ≤ l.outputs ∧ l.outputs ≤ 1048576 ∧ 1 ≤ l.tokens ∧ l.tokens ≤ 16384) &&
  decide (l.cap ≤ 64 ∧ l.rc ≤ 64 ∧ l.ra ≤ 64 - l.rc) &&
  f32Finite l.mag && !f32Neg l.mag && f32Finite l.clip && f32Lt (f32Zero false) l.clip &&
  f32Finite l.rlo && f32Finite l.rhi && f32Le (f32Zero false) l.rlo && f32Lt l.rlo l.rhi &&
  (if l.rc = 0 then decide (l.corr = 0xFFFF) else decide (kind l.corr = some 0)) &&
  decide (l.refFmt ≤ 2 ∧ (l.ref = 0xFFFF ↔ l.refFmt = 0)) && (decide (l.refFmt = 0) || decide (kind l.ref = some 1)) &&
  decide (1 ≤ l.numPl ∧ l.numPl ≤ 192 ∧ l.firstPl + l.numPl ≤ m.places.length)

/-- A placement's tile of a layer, cut at the layer's edge: inputs from, to, outputs from, to. -/
def Placement.rect (p : Placement) (l : LayerEnt) : Nat × Nat × Nat × Nat :=
  (min l.fanIn p.inOff, min l.fanIn (p.inOff + 256 * 2 ^ p.gi), min l.outputs p.outOff,
   min l.outputs (p.outOff + widthOut l.width * 2 ^ p.go))

def rectsMeet (a b : Nat × Nat × Nat × Nat) : Bool :=
  decide (a.1 < b.2.1 ∧ b.1 < a.2.1 ∧ a.2.2.1 < b.2.2.2 ∧ b.2.2.1 < a.2.2.2)

def rectArea (a : Nat × Nat × Nat × Nat) : Nat := (a.2.1 - a.1) * (a.2.2.2 - a.2.2.1)

def noneMeet : List (Nat × Nat × Nat × Nat) → Bool
  | [] => true
  | r :: rs => rs.all (fun x => !rectsMeet r x) && noneMeet rs

/-- The placements of a layer (R91, R252): a tile's blocks are segments, every pair of input and output lies on exactly
one engine, and no tile exceeds the grid. -/
def placesOk (m : Maq) (l : LayerEnt) : Bool :=
  let ps := m.placesOf l
  ps.all (fun p => decide (p.core ≤ 11 ∧ p.gi + p.go ≤ 5 ∧ widthOut l.width * 2 ^ p.go ≤ 8192 ∧ p.inOff % 128 = 0) &&
    (if m.cls = 2 then decide (1 ≤ p.corpus) else decide (p.corpus = 0))) &&
  noneMeet (ps.map (fun p => p.rect l)) &&
  decide ((ps.map (fun p => rectArea (p.rect l))).sum = l.fanIn * l.outputs)

/-- Each engine holds at most one layer: no core is placed twice. -/
def coresOnce (m : Maq) : Bool :=
  let ids := m.layers.flatMap (fun l => (m.placesOf l).map (fun p => (p.dev, p.cluster, p.core)))
  decide ids.Nodup

/-- The header, the sections and what stands in them (R249–R252), with the sections required for what the maquette
holds. -/
def maquetteOk (b : List Byte) (m : Maq) : Bool :=
  let ss := maqSections b
  let w1 := wordAt b 1
  let n := bits (wordAt b 2) 12 0
  let size := fun (t k : Nat) => match secOf? ss t with
    | none => true
    | some s => decide (s.len = k * s.count)
  decide (16 ≤ b.length ∧ bits (wordAt b 0) 15 0 = 1 ∧ wordAt b 3 = b.length) &&
  sectionsOk b ss && size 1 64 && size 2 16 && size 6 144 &&
  decide ((bits w1 20 19 = 1 ∨ bits w1 20 19 = 2) ∧ (m.maint = false ∨ m.tenant = 0)) &&
  decide (1 ≤ n ∧ n ≤ 4096 ∧ m.layers.length = n ∧ (secOf? ss 1).map (·.count) = some n) &&
  (!m.extra.serving.generates || (secOf? ss 6).isSome) && (!(secOf? ss 6).isSome || (secOf? ss 7).isSome) &&
  ((secOf? ss 10).isSome || m.layers.all (fun l => decide (l.refFmt = 0))) &&
  (match secOf? ss 11 with | none => true | some s => decide (s.len = 32 * n)) &&
  m.extra.regions.all (fun r => decide (r.kind ≤ 3 ∧ 1 ≤ r.length ∧ r.length ≤ 524288 ∧ r.digest.length = 32)) &&
  (m.layers.zipIdx).all (fun l => layerOk m l.2 l.1) && m.layers.all (placesOk m) && coresOnce m

/-! ### Programs, serving, fan-in (R94, R103, R207, R72) -/

/-- R207 on the serving parameters. -/
def servingOk (x : ServInfo) : Bool :=
  decide (1 ≤ x.nMax ∧ x.nMax ≤ 256 ∧ 2 ≤ x.tMax ∧ x.tMax ≤ 16384 ∧ 1 ≤ x.pMax ∧ x.nMax + x.pMax ≤ x.tMax ∧
    1 ≤ x.kChunk ∧ x.kChunk ≤ x.pMax) &&
  (!x.generates || decide (1 ≤ x.vocab ∧ x.vocab ≤ 262144 ∧ 1 ≤ x.sampling.length ∧ x.sampling.length ≤ 12))

/-- R207, R231 on an MoE layer. -/
def moeOk (x : MoeInfo) : Bool :=
  decide (1 ≤ x.experts ∧ x.experts ≤ 256 ∧ 1 ≤ x.k ∧ x.k ≤ 8 ∧ 1 ≤ x.capacity ∧ x.capacity ≤ 16384)

/-- Most a length table of the instance can count (R103). -/
def Maq.loopMax (m : Maq) : LoopMax :=
  let s := m.extra.serving
  ⟨s.nMax, s.tMax, m.kv.foldl (fun n c => max n c.maxLen) (if m.kv.isEmpty then s.tMax else 0)⟩

/-- R134 on a program: each PATA and PATB of the adapter term follows an EVAL that reads its vector, and its Rank is the
adapter rank ceiling of that EVAL's layer. -/
def adapterWordsOk (m : Maq) : Option Nat → List StepWord → Bool
  | _, [] => true
  | l, w :: ws =>
    let l := if wClass w = 1 ∧ wOp w = 0 ∧ w.getLsbD 98 = false then some (fld w 110 99) else l
    (if wClass w = 4 ∧ w.getLsbD 86 = true then
      match l.bind (fun x => m.layers[x]?) with
      | none => false
      | some e => decide (fld w 85 79 + 1 = e.ra)
     else true) && adapterWordsOk m l ws

/-- n_e of the cores a program is placed on: the most outputs per engine of the layers cast there, 256 where none is
(R91). -/
def Maq.outsOf (m : Maq) (p : ProgInfo) : Nat :=
  (m.layers.filter (fun l => (List.range l.numPl).any (fun i => p.placements.contains (l.firstPl + i)))).foldl
    (fun n l => max n (widthOut l.width)) 256

/-- R94 and R103 on the programs, WRROW only where the maquette allows weight maintenance (R127), and their layer
ranges and placements within the maquette. -/
def programsOk (m : Maq) : Bool :=
  m.extra.programs.all (fun p =>
    programOk Device.reset m.loopMax (fun l => ((m.layers[l]?).map (·.cap)).getD 0) (m.outsOf p) true p.words &&
    (m.maint || p.words.all (fun w => !isWrrow w)) && adapterWordsOk m none p.words &&
    p.placements.all (fun i => decide (i < m.places.length)) &&
    (match p.layers with | none => true | some r => decide (r.1 ≤ r.2 ∧ r.2 < m.layers.length)))

/-- q_max, −q_min and a_max of R72 step 1. -/
def LayerEnt.qAbs (l : LayerEnt) : Nat := max (widthMax l.width).toNat (-(widthMin l.width)).toNat
def LayerEnt.aMax (l : LayerEnt) : Nat := if l.signed then 2 ^ (l.bits - 1) else 2 ^ l.bits - 1

/-- e_top: the largest e in 0–15 that keeps the integer path below 2^31, if one does. -/
def LayerEnt.eTop? (l : LayerEnt) : Option Nat :=
  ((List.range 16).reverse).find? (fun e => decide (l.fanIn * l.qAbs * l.aMax * 31 * 2 ^ e < 2 ^ 31))

def LayerEnt.eTop (l : LayerEnt) : Nat := l.eTop?.getD 0

/-- s_T (R72 step 2); a packed layer's stands in its entry. -/
def LayerEnt.sT (l : LayerEnt) : F32 :=
  if l.arrival = 8 then l.mag
  else if f32IsZero l.mag then f32One
  else f32Div l.mag (f32OfInt (widthMax l.width * (31 * 2 ^ l.eTop)))

/-- The checks of a swap's maquette against the one in force (R262): A_T or s_T, c_L, C_L, r_lo, r_hi and the digests of
correction regions, reference regions and constant buffers may differ; the expected layer digests of section 0Bh follow
the content. -/
def LayerEnt.shape (l : LayerEnt) : LayerEnt := { l with mag := 0#32, clip := 0#32, cap := 0, rlo := 0#32, rhi := 0#32 }

def regionShape (r : RegionInfo) : RegionInfo := if r.kind = 3 then r else { r with digest := [] }

def Maq.shape (m : Maq) : Maq :=
  { m with layers := m.layers.map LayerEnt.shape, expected := [],
           extra := { m.extra with regions := m.extra.regions.map regionShape } }

/-! ### The handle that holds a maquette (R253 step 1) -/

/-- The maquette's bytes: Total length bytes of a readable handle of tenant 0, none where the handle gives none or a word
of it is poisoned. -/
def Device.maquetteBytes (d : Device) (h : Nat) : Option (List Byte) :=
  match d.handle? h with
  | none => none
  | some x =>
    if x.tenant ≠ 0 ∨ x.releasing = true ∨ x.remote = true ∨ x.readable = false ∨ x.bad = true then none
    else
      let total := (d.peek (x.addr 12 / 4)).w.toNat
      if total < 16 ∨ total > x.bytes then none
      else
        let ws := (List.range (ceilDiv total 4)).map (fun i => d.peek (x.addr 0 / 4 + i))
        if ws.any (·.poison) then none else some ((rwBytes ws).take total)

/-- A word of a maquette's handle: counted and scrubbed as any read. -/
def Device.readMaquette (d : Device) (h : Nat) : Option (List Byte) × Device :=
  match d.maquetteBytes h with
  | none => (none, d)
  | some b => (some b, (d.readH h 0 (ceilDiv b.length 4)).2)

end Sys2Proof.Machine
end

