-- ==== Sys2Proof/Machine/Quantise.lean ====
section
/-!
DEFINITION. Arrival blocks (R254), their dequantisation and quantisation (R70, R72, R73, R235), and the bit slices an
engine image holds (R22, R256).
-/
namespace Sys2Proof.Machine

/-! ### Arrival blocks (R254) -/

/-- Bytes of a block of 128 inputs of one output. -/
def blockBytes (fmt : Nat) : Nat :=
  if fmt ≤ 1 then 256 else if fmt ≤ 3 then 128 else if fmt = 4 then 68 else if fmt ≤ 6 then 100
  else if fmt = 7 then 132 else 65

/-- Blocks of one output. -/
def LayerEnt.blocksPer (l : LayerEnt) : Nat := ceilDiv l.fanIn 128

/-- Bytes of a layer's arrival tensor. -/
def LayerEnt.arrivalBytes (l : LayerEnt) : Nat := l.outputs * l.blocksPer * blockBytes l.arrival

/-- An element of an MX block (32 elements after an E8M0 scale byte) as FP32, exact; a scale of FFh and a value outside
FP32 come out as an infinity. -/
def mxElem (fmt s v : Nat) : F32 :=
  let k : Int := (s : Int) - 127
  if s = 255 then f32Inf false
  else if fmt = 7 then
    let q := signedOf 8 v
    f32RoundInt false q (k - 6)
  else
    let w := if fmt = 4 then 4 else 6
    let mb := if fmt = 4 then 1 else if fmt = 5 then 2 else 3
    let bias := if fmt = 5 then 3 else 1
    let e := smallToF32 mb bias (v.testBit (w - 1)) (v % 2 ^ (w - 1))
    if f32IsZero e then e else f32Round (f32Neg e) (f32Man e) (f32Exp e + k)

/-- The 32 elements of one MX block. -/
def mxBlock (fmt : Nat) (b : List Byte) : List F32 :=
  let w := if fmt = 4 then 4 else if fmt = 7 then 8 else 6
  let s := leAt b 0 1
  let n := ofLe (b.drop 1)
  (List.range 32).map (fun i => mxElem fmt s (n / 2 ^ (w * i) % 2 ^ w))

/-- The 128 values of a block of formats 0–7. -/
def dequantBlock (fmt : Nat) (b : List Byte) : List F32 :=
  if fmt = 0 then (List.range 128).map (fun i => bf16ToF32 (BitVec.ofNat 16 (leAt b (2 * i) 2)))
  else if fmt = 1 then (List.range 128).map (fun i => fp16ToF32 (BitVec.ofNat 16 (leAt b (2 * i) 2)))
  else if fmt = 2 then b.map e4m3ToF32
  else if fmt = 3 then b.map e5m2ToF32
  else
    let n := blockBytes fmt / 4
    (List.range 4).flatMap (fun i => mxBlock fmt (bytesAt b (n * i) n))

/-! ### Block codes (R72 step 3, R235) -/

/-- M of a code, as FP32. -/
def codeM (c : Nat) : F32 := f32OfInt (blockMult (BitVec.ofNat 8 c))

/-- R72 step 4. -/
def quantWeight (l : LayerEnt) (c : Nat) (w : F32) : Int :=
  let x := f32Div w (f32Mul l.sT (codeM c))
  if f32IsInf x then (if f32Neg x then widthMin l.width else widthMax l.width)
  else clampInt (widthMin l.width) (widthMax l.width) (f32ScaleRound x 0)

/-- The absmax code: the smallest whose M is at least M*, capped. -/
def absmaxCode (l : LayerEnt) (ab : F32) : Nat :=
  let cap := l.eTop * 16 + 15
  let ms := f32Div ab (f32Mul l.sT (f32OfInt (widthMax l.width)))
  ((List.range cap).find? (fun c => f32Le ms (codeM c))).getD cap

/-- The error of a code (MSE). -/
def codeErr (l : LayerEnt) (ws : List F32) (c : Nat) : F32 :=
  let sm := f32Mul l.sT (codeM c)
  ws.foldl (fun e w =>
    let x := f32Sub w (f32Mul sm (f32OfInt (quantWeight l c w)))
    f32Add e (f32Mul x x)) (f32Zero false)

/-- The code with the smallest error among the absmax code and the 15 below it; ties to the larger code. -/
def mseCode (l : LayerEnt) (ws : List F32) (top : Nat) : Nat :=
  ((List.range (min 16 (top + 1))).map (fun i => top - i)).foldl
    (fun (b : Nat × F32) c => let e := codeErr l ws c; if f32Lt e b.2 then (c, e) else b) (top, codeErr l ws top) |>.1

/-- Code of a block of dequantised values. -/
def blockCode (l : LayerEnt) (corpus : Bool) (ws : List F32) : Nat :=
  if corpus then l.eTop * 16 + 15
  else
    let ab := maxAbs ws
    if f32IsZero ab then 0
    else
      let a := absmaxCode l ab
      if l.mse then mseCode l ws a else a

/-! ### A block's image -/

/-- What a block gives its engine: the scale code, 128 integers, and the largest magnitude seen. -/
structure BlockOut where
  code : Nat
  q : List Int
  big : F32
  deriving DecidableEq, Repr

/-- A packed record (R73): none where a nibble lies outside the width. -/
def packedBlock (l : LayerEnt) (corpus : Bool) (b : List Byte) : Option BlockOut :=
  let qs := (List.range 128).map (fun i => signedOf 4 (leAt b (1 + i / 2) 1 / 16 ^ (i % 2) % 16))
  if qs.all (fun q => decide (widthMin l.width ≤ q ∧ q ≤ widthMax l.width)) then
    some ⟨if corpus then l.eTop * 16 + 15 else leAt b 0 1, qs, 0#32⟩
  else none

/-- A block of a layer (R256 step 2). `used` inputs of it lie below the fan-in; the padding is 0. None where the block
holds a NaN, an infinity or a magnitude above A_T. -/
def LayerEnt.block (l : LayerEnt) (corpus : Bool) (used : Nat) (b : List Byte) : Option BlockOut :=
  if l.arrival = 8 then
    (packedBlock l corpus b).map (fun x => { x with q := x.q.take used ++ List.replicate (128 - used) 0 })
  else
    let all := dequantBlock l.arrival b
    let ws := all.take used ++ List.replicate (128 - used) (f32Zero false)
    if all.all f32Finite && ws.all (fun w => f32Le (f32Abs w) l.mag) then
      let c := blockCode l corpus ws
      some ⟨c, ws.map (quantWeight l c), maxAbs ws⟩
    else none

/-- Bit of slice j of an integer (R22). -/
def sliceBit (width j : Nat) (q : Int) : Bool :=
  if width = 3 then (if j = 0 then decide (q = 1) else decide (q = -1))
  else (q % 2 ^ widthK width).toNat.testBit j

/-- Slice j of 128 integers, row 0 in bit 0. -/
def sliceBits (width j : Nat) (qs : List Int) : BitVec 128 :=
  BitVec.ofNat 128 (qs.foldr (fun q n => 2 * n + (if sliceBit width j q then 1 else 0)) 0)

end Sys2Proof.Machine
end

