-- ==== Sys2Proof/Machine/Zstd.lean ====
section
/-!
DEFINITION. The frames of a zstd payload (R255; RFC 8878, log 20): where each ends, the window limit, the dictionary, the
content size and the content checksum. What a frame's blocks decompress to is Config.zstd.
-/
namespace Sys2Proof.Machine

/-! ### The content checksum: the low 32 bits of XXH64 with seed 0 -/

def xxP1 : BitVec 64 := 0x9E3779B185EBCA87#64
def xxP2 : BitVec 64 := 0xC2B2AE3D27D4EB4F#64
def xxP3 : BitVec 64 := 0x165667B19E3779F9#64
def xxP4 : BitVec 64 := 0x85EBCA77C2B2AE63#64
def xxP5 : BitVec 64 := 0x27D4EB2F165667C5#64

/-- One lane of a 32-byte stripe. -/
def xxLane (acc x : BitVec 64) : BitVec 64 := (acc + x * xxP2).rotateLeft 31 * xxP1

/-- Little-endian 64 bits at a byte offset. -/
def word64At (bs : List Byte) (i : Nat) : BitVec 64 := BitVec.ofNat 64 (leAt bs i 8)

/-- The four lanes over `n` stripes. -/
def xxStripes : Nat → List Byte → BitVec 64 × BitVec 64 × BitVec 64 × BitVec 64 → BitVec 64 × BitVec 64 × BitVec 64 × BitVec 64
  | 0, _, v => v
  | n + 1, bs, (a, b, c, e) =>
    xxStripes n (bs.drop 32) (xxLane a (word64At bs 0), xxLane b (word64At bs 8), xxLane c (word64At bs 16), xxLane e (word64At bs 24))

/-- A lane joins the hash. -/
def xxJoin (h v : BitVec 64) : BitVec 64 := (h ^^^ xxLane 0#64 v) * xxP1 + xxP4

/-- The bytes after the last stripe, eight, four and one at a time. -/
def xxTail : Nat → List Byte → BitVec 64 → BitVec 64
  | 0, _, h => h
  | n + 1, bs, h =>
    if 8 ≤ bs.length then xxTail n (bs.drop 8) ((h ^^^ xxLane 0#64 (word64At bs 0)).rotateLeft 27 * xxP1 + xxP4)
    else if 4 ≤ bs.length then
      xxTail n (bs.drop 4) ((h ^^^ BitVec.ofNat 64 (leAt bs 0 4) * xxP1).rotateLeft 23 * xxP2 + xxP3)
    else
      match bs with
      | [] => h
      | b :: rest => xxTail n rest ((h ^^^ b.setWidth 64 * xxP5).rotateLeft 11 * xxP1)

def xxh64 (bs : List Byte) : BitVec 64 :=
  let n := bs.length
  let v := xxStripes (n / 32) bs (xxP1 + xxP2, xxP2, 0#64, 0#64 - xxP1)
  let h := if n < 32 then xxP5
    else xxJoin (xxJoin (xxJoin (xxJoin (v.1.rotateLeft 1 + v.2.1.rotateLeft 7 + v.2.2.1.rotateLeft 12 + v.2.2.2.rotateLeft 18) v.1)
      v.2.1) v.2.2.1) v.2.2.2
  let h := xxTail n (bs.drop (n / 32 * 32)) (h + BitVec.ofNat 64 n)
  let h := (h ^^^ (h >>> 33)) * xxP2
  let h := (h ^^^ (h >>> 29)) * xxP3
  h ^^^ (h >>> 32)

/-! ### Frames -/

/-- Bytes that a frame's blocks take, up to and with the last one; none where they do not end inside the payload or a block
is of no listed type. -/
def zBlocks : Nat → List Byte → Option Nat
  | 0, _ => none
  | n + 1, bs =>
    if bs.length < 3 then none
    else
      let h := leAt bs 0 3
      let type := h / 2 % 4
      let len := 3 + (if type = 1 then 1 else h / 8)
      if type = 3 ∨ bs.length < len then none
      else if h % 2 = 1 then some len
      else (zBlocks n (bs.drop len)).map (len + ·)

/-- Header of a frame, behind its magic number: bytes it takes, window size, dictionary number, content size, whether a
checksum follows the blocks. -/
structure ZHeader where
  len : Nat
  window : Nat
  dict : Nat
  size : Option Nat
  check : Bool
  deriving DecidableEq, Repr

def zHeader (bs : List Byte) : ZHeader :=
  let d := leAt bs 0 1
  let single := d.testBit 5
  let dn := [0, 1, 2, 4].getD (d % 4) 0
  let sn := if d / 64 = 0 then (if single then 1 else 0) else 2 ^ (d / 64)
  let w := if single then 0 else 1
  let wd := leAt bs 1 1
  let base := 2 ^ (10 + wd / 8)
  let size := leAt bs (1 + w + dn) sn + (if sn = 2 then 256 else 0)
  { len := 1 + w + dn + sn, window := if single then size else base + base / 8 * (wd % 8),
    dict := leAt bs (1 + w) dn, size := if sn = 0 then none else some size, check := d.testBit 2 }

/-- One frame at the front of a payload: its content and what follows it; none where a rule of R255 or the frame's own form
rejects it. -/
def zFrame (bs : List Byte) : Option (List Byte × List Byte) :=
  let m := leAt bs 0 4
  if bs.length < 8 then none
  else if m / 16 = 0x184D2A5 then
    let n := 8 + leAt bs 4 4
    if bs.length < n then none else some ([], bs.drop n)
  else if m ≠ 0xFD2FB528 then none
  else
    let h := zHeader (bs.drop 4)
    let body := bs.drop (4 + h.len)
    if h.window > 8388608 ∨ h.dict ≠ 0 ∨ (leAt bs 4 1).testBit 3 = true then none
    else
      match zBlocks body.length body with
      | none => none
      | some n =>
        match Config.zstd (body.take n) with
        | none => none
        | some c =>
          let rest := body.drop n
          if (match h.size with | some k => decide (c.length ≠ k) | none => false) then none
          else if !h.check then some (c, rest)
          else if rest.length < 4 ∨ leAt rest 0 4 ≠ (xxh64 c).toNat % 2 ^ 32 then none
          else some (c, rest.drop 4)

/-- The content of one or more complete frames. -/
def zFrames : Nat → List Byte → Option (List Byte)
  | 0, _ => none
  | n + 1, bs =>
    match zFrame bs with
    | none => none
    | some (c, rest) => if rest.isEmpty then some c else (zFrames n rest).map (c ++ ·)

/-- A decompressed payload. -/
def zDecode (bs : List Byte) : Option (List Byte) := zFrames bs.length bs

end Sys2Proof.Machine
end

