-- ==== Sys2Proof/Machine/Cast.lean ====
section
/-!
DEFINITION. Casting (R248–R261): opening a cast, chunks of layers and regions, engine images, closing and aborting,
digests. What chunks do inside a swap is staging only (R262).
-/
namespace Sys2Proof.Machine

/-! ### Digests (R260) -/

/-- The 128 bytes of a row of an image in logical form. -/
def imageRow (img : Tbl (BitVec 128)) (r : Nat) : List Byte :=
  leBytes 128 ((List.range 1024).foldl (fun n l =>
    if (Tbl.get 0#128 img (2 * l + r / 128)).getLsbD (r % 128) then n + 2 ^ l else n) 0)

/-- Block scale codes of outputs 0 to n − 1, lower segment then upper. -/
def scaleCodes (sc : Tbl Byte) (n : Nat) : List Byte := (List.range (2 * n)).map (fun i => Tbl.get 0#8 sc i)

/-- What a digest covers before its engines. -/
def digestHead (l : LayerEnt) : List Byte := leBytes 2 l.layer ++ leBytes 1 l.width ++ leBytes 4 l.sT.toNat

/-- One engine's share of a layer digest. -/
def imageBytes (width : Nat) (img : Tbl (BitVec 128)) (sc : Tbl Byte) : List Byte :=
  (List.range 256).flatMap (imageRow img) ++ scaleCodes sc (widthOut width)

/-- Key of an engine image: placement · 32 + logical position. -/
def engKey (pl pos : Nat) : Nat := pl * 32 + pos

/-- Engine keys of a layer in placement order and ascending position. -/
def Maq.layerKeys (m : Maq) (l : LayerEnt) : List Nat :=
  ((m.placesOf l).zipIdx).flatMap (fun p => (List.range p.1.engines).map (fun x => engKey (l.firstPl + p.2) x))

/-- The digest of a layer from its staged images. -/
def CastJob.digest (j : CastJob) (l : LayerEnt) : List Byte :=
  sha256 (digestHead l ++ (j.maq.layerKeys l).flatMap (fun k =>
    imageBytes l.width (Tbl.get [] j.image k) (Tbl.get [] j.scales k)))

/-! ### Blocks into images (R252, R256) -/

/-- Where a block of an output lies: placement, position, segment, output of the engine. -/
def Maq.blockAt (m : Maq) (l : LayerEnt) (o b : Nat) : Option (Nat × Nat × Nat × Nat) :=
  let ne := widthOut l.width
  ((m.placesOf l).zipIdx).findSome? (fun p =>
    let s := b - p.1.inOff / 128
    let t := o - p.1.outOff
    if p.1.inOff / 128 ≤ b ∧ s < 2 * 2 ^ p.1.gi ∧ p.1.outOff ≤ o ∧ t < ne * 2 ^ p.1.go then
      some (l.firstPl + p.2, s / 2 * 2 ^ p.1.go + t / ne, s % 2, t % ne)
    else none)

/-- Blocks that an engine of a placement receives. -/
def Maq.blocksOf (m : Maq) (l : LayerEnt) (key : Nat) : Nat :=
  match m.places[key / 32]? with
  | none => 0
  | some p =>
    let ne := widthOut l.width
    let x := key % 32
    let o := p.outOff + x % 2 ^ p.go * ne
    let b := p.inOff / 128 + x / 2 ^ p.go * 2
    (min l.outputs (o + ne) - o) * (min l.blocksPer (b + 2) - b)

/-- A quantised block joins its engine's image. -/
def CastJob.putBlock (j : CastJob) (l : LayerEnt) (at_ : Nat × Nat × Nat × Nat) (x : BlockOut) : CastJob :=
  let k := engKey at_.1 at_.2.1
  let s := at_.2.2.1
  let o := at_.2.2.2
  let w := widthK l.width
  let img := (List.range w).foldl (fun m i => Tbl.set 0#128 m (2 * (w * o + i) + s) (sliceBits l.width i x.q))
    (Tbl.get [] j.image k)
  let big := Tbl.get 0#32 j.big l.layer
  { j with image := Tbl.set [] j.image k img,
           scales := Tbl.set [] j.scales k (Tbl.set 0#8 (Tbl.get [] j.scales k) (2 * o + s) (BitVec.ofNat 8 x.code)),
           count := Tbl.set 0 j.count k (Tbl.get 0 j.count k + 1),
           big := Tbl.set 0#32 j.big l.layer (if f32Lt big x.big then x.big else big) }

/-- Blocks from number `k` of a layer's tensor on; none where R70, R73 or R256 rejects one. -/
def CastJob.putBlocks (j : CastJob) (l : LayerEnt) : Nat → List (List Byte) → Option CastJob
  | _, [] => some j
  | k, b :: bs =>
    let o := k / l.blocksPer
    let i := k % l.blocksPer
    match l.block (decide (j.maq.cls = 2)) (min 128 (l.fanIn - 128 * i)) b, j.maq.blockAt l o i with
    | some x, some at_ => (j.putBlock l at_ x).putBlocks l (k + 1) bs
    | _, _ => none

/-! ### Casting writes (R39, R256) -/

/-- All rows of an engine written in logical form. -/
def Engine.castImage (e : Engine) (img : Tbl (BitVec 128)) : Engine :=
  (List.range 1024).foldl (fun (e : Engine) l => (e.writeCols l).foldl (fun (e : Engine) p =>
    let lo := Tbl.set 0#128 e.cells (2 * p) (Tbl.get 0#128 img (2 * l))
    { e with cells := Tbl.set 0#128 lo (2 * p + 1) (Tbl.get 0#128 img (2 * l + 1)) }) e) e

/-- An image with its scale file written to the engine at a logical position; a replacement under way follows (R64). -/
def Device.writeImage (d : Device) (c pos : Nat) (img : Tbl (BitVec 128)) (sc : Tbl Byte) (width cls : Nat)
    (use : Option (Nat × Nat)) : Device :=
  let d := d.castStart c pos
  let ph := d.physAt c pos
  let e := d.engine c ph
  let e' := { (e.castImage img).breakProbe true true with scales := sc, width := width, cls := cls, use := use }
  let d := d.putCells c ph e'
  if e.replacing then d.putCells c 32 (copyLogical e' (d.engine c 32)) else d

/-- The core and position of an engine key, on this device. -/
def Device.localEng (d : Device) (m : Maq) (key : Nat) : Option (Nat × Nat) :=
  match m.places[key / 32]? with
  | none => none
  | some p => if p.dev = d.fab.coord then some (p.coreIx, key % 32) else none

/-- Writes a staged engine image. -/
def Device.castEngine (d : Device) (i : Nat) (j : CastJob) (l : LayerEnt) (key : Nat) : Device :=
  match d.localEng j.maq key with
  | none => d
  | some e => d.writeImage e.1 e.2 (Tbl.get [] j.image key) (Tbl.get [] j.scales key) l.width j.maq.cls (some (i, l.layer))

/-- A casting write to an engine key is held by nothing (R100 rule 2, R365). -/
def Device.keyFree (d : Device) (m : Maq) (key : Nat) : Bool :=
  match d.localEng m key with
  | none => true
  | some e => d.castable e.1 e.2

/-- Writes an engine to zero: it is of the empty class (R259). A write that is held waits. -/
def Device.zeroEngine (d : Device) (e : Nat × Nat) : Device :=
  if d.castable e.1 e.2 then d.writeImage e.1 e.2 [] [] 0 0 none
  else { d with cast := { d.cast with zeros := d.cast.zeros ++ [e] } }

def Device.emptyEngine (d : Device) (m : Maq) (key : Nat) : Device :=
  match d.localEng m key with
  | none => d
  | some e => d.zeroEngine e

/-- Zero writes that wait are tried again. -/
def Device.zeroHeld (d : Device) : Device :=
  d.cast.zeros.foldl Device.zeroEngine { d with cast := { d.cast with zeros := [] } }

/-- Engine keys of a layer whose image is whole and not yet written. -/
def CastJob.whole (j : CastJob) (l : LayerEnt) : List Nat :=
  (j.maq.layerKeys l).filter (fun k => !j.written.contains k && decide (Tbl.get 0 j.count k = j.maq.blocksOf l k))

/-- A cast writes every engine whose image is whole and whose write nothing holds. -/
def Device.castWhole (d : Device) (i : Nat) (j : CastJob) (l : LayerEnt) : CastJob × Device :=
  if j.swap then (j, d)
  else
    let ks := (j.whole l).filter (fun k => d.keyFree j.maq k)
    ({ j with written := j.written ++ ks }, ks.foldl (fun d k => d.castEngine i j l k) d)

/-! ### Ranges received (R255) -/

/-- A range meets one received before. -/
def gotMeets (g : List (Nat × Nat)) (off len : Nat) : Bool :=
  g.any (fun r => decide (off < r.1 + r.2 ∧ r.1 < off + len))

def gotBytes (g : List (Nat × Nat)) : Nat := (g.map (·.2)).sum

/-! ### Handles of a cast (R248, R253) -/

/-- A handle to be made: tenant, cluster, units to try, length, attributes. -/
structure Want where
  tenant : Nat
  cluster : Nat
  units : List Nat
  len : Nat
  attrs : BitVec 11

/-- Makes handles in order. -/
def Device.allocMany (d : Device) : List Want → Except NoHandle (List Nat × Device)
  | [] => .ok ([], d)
  | w :: ws =>
    if (d.cluster w.cluster).ready = false then .error .space
    else
      match d.alloc w.tenant w.cluster w.units w.len w.attrs with
      | .error e => .error e
      | .ok x =>
        match x.2.allocMany ws with
        | .error e => .error e
        | .ok y => .ok (x.1 :: y.1, y.2)

/-- Region handles: Read, Write and Shared. Program handles: Read, Program and Shared. -/
def regionAttrs : BitVec 11 := 0x00B#11
def programAttrs : BitVec 11 := 0x00D#11

/-- Local cores a program runs on. -/
def Device.programCores (d : Device) (m : Maq) (p : ProgInfo) : List Nat :=
  ((p.placements.filterMap (fun i => m.places[i]?)).filter (fun x => decide (x.dev = d.fab.coord))).map Placement.coreIx
    |>.eraseDups

/-- (program, core) of each program handle, in order. -/
def Device.programSpots (d : Device) (m : Maq) : List (Nat × Nat) :=
  (m.extra.programs.zipIdx).flatMap (fun p => (d.programCores m p.1).map (fun c => (p.2, c)))

def regionWants (m : Maq) : List Want :=
  m.extra.regions.map (fun r => ⟨m.tenant, r.cluster.val, [r.unit.val], r.length, regionAttrs⟩)

def Device.programWants (d : Device) (m : Maq) : List Want :=
  (d.programSpots m).map (fun s =>
    let n := ((m.extra.programs[s.1]?).map (fun p => p.words.length)).getD 0
    ⟨m.tenant, s.2 / 12, [s.2 % 12], max 1 (ceilDiv (16 * n) 64), programAttrs⟩)

/-- Local clusters that are placed, ascending. -/
def Device.placedClusters (d : Device) (m : Maq) : List Nat :=
  (List.range 16).filter (fun k => m.places.any (fun p => decide (p.dev = d.fab.coord ∧ p.cluster = k)))

/-- 64 B units of staging an engine of a width needs: its rows and its scale file. -/
def imageUnits (width : Nat) : Nat := 512 + ceilDiv (2 * widthOut width) 64

/-- A staging handle for each placed cluster (R253 step 3, R262): tenant 0, Reserve. -/
def Device.stagingWants (d : Device) (m : Maq) : List Want :=
  (d.placedClusters m).map (fun k =>
    let n := (m.layers.map (fun l => ((m.placesOf l).filter (fun p => decide (p.dev = d.fab.coord ∧ p.cluster = k))).foldl
      (fun n p => n + p.engines * imageUnits l.width) 0)).sum
    ⟨0, k, [15, 14, 13], max 1 n, 1#11 <<< 6⟩)

/-- The words of a program. -/
def progBytes (p : ProgInfo) : List Byte := p.words.flatMap (fun w => leBytes 16 w.toNat)

/-! ### Opening a cast (R253) -/

/-- Every placed local core is up and every placed position of it is empty and usable. -/
def Device.placesFree (d : Device) (m : Maq) : Bool :=
  m.places.all (fun p => decide (p.dev ≠ d.fab.coord) ||
    (d.coreUp p.coreIx && !(d.health (anyOfCore p.coreIx)).retired && (List.range p.engines).all (fun x =>
      let e := d.engine p.coreIx (d.physAt p.coreIx x)
      e.usable && decide (e.cls = 0 ∧ e.use = none))))

/-- The checks of R253 step 2 before handles, in their order: the first that fails. -/
def Device.castFault (d : Device) (i : Nat) (bytes : Option (List Byte)) (digest : List Byte) (m : Maq) : Option Nat :=
  match bytes with
  | none => some cDigest
  | some b =>
    if sha256 b ≠ digest then some cDigest
    else if !maquetteOk b m || decide (m.inst ≠ i) then some cMaquette
    else if (d.inst i).state ≠ 0 then some cBusy
    else if !d.placesFree m then some cPlacement
    else if !programsOk m then some cProgram
    else if !m.kv.all kvClassOk then some cKvClass
    else if !servingOk m.extra.serving || !m.extra.moe.all moeOk then some cProgram
    else if m.reference && m.layers.any (fun l => decide (l.refFmt = 0)) then some cMaquette
    else if m.layers.any (fun l => l.eTop?.isNone) then some cFanIn
    else none

/-- A refused or failed cast: the instance is absent with its last status (R253, R259). -/
def Device.castFailed (d : Device) (i code : Nat) : Device :=
  let d := d.bump (key 0x7070 4) 1
  if (d.inst i).state = 0 then d.setInst i { Inst.absent with status := code } else d

/-- A new job. -/
def CastJob.start (m : Maq) (h : Nat) (swap policy : Bool) (prior : Nat) (staging : List Nat) : CastJob :=
  { maq := m, maqH := h, swap := swap, got := [], raw := [], image := [], scales := [], count := [], big := [],
    staged := [], written := [], staging := staging, policy := policy, rewriting := false,
    prior := prior }

/-- The cast's handles made, its programs written, its instance casting; engines that receive no block are written
empty at once. -/
def Device.startCast (d : Device) (i h : Nat) (m : Maq) : Except NoHandle Device :=
  let spots := d.programSpots m
  let nr := m.extra.regions.length
  let np := spots.length
  match d.allocMany (regionWants m ++ d.programWants m ++ d.stagingWants m) with
  | .error e => .error e
  | .ok x =>
    let regH := x.1.take nr
    let ph := (x.1.drop nr).take np
    let progs := (spots.zip ph).foldl (fun t s => Tbl.put t (s.1.1 * 192 + s.1.2) s.2) ([] : Tbl Nat)
    let d := (spots.zip ph).foldl (fun d s =>
      match m.extra.programs[s.1.1]? with
      | none => d
      | some p => d.writeH s.2 0 (cleanWords (progBytes p))) x.2
    let j := CastJob.start m h false false 0 (x.1.drop (nr + np))
    let r := m.layers.foldl (fun (a : CastJob × Device) l => a.2.castWhole i a.1 l) (j, d)
    .ok (r.2.setInst i { Inst.absent with
      state := 1, tenant := m.tenant, cls := m.cls, status := cInProgress, layers := m.layers.length,
      front := m.layers.length, maqH := h, job := some r.1, progH := progs, regH := regH })

def runCastOpen (x : MaqExtra) (d : Device) (_r : Req) (v : List Byte) : Answer :=
  let i := leAt v 0 2
  let h := leAt v 2 2
  if i > 1023 ∨ h > 8191 then refuse d dInvalid
  else
    let rb := d.readMaquette h
    let m := maqOf (rb.1.getD []) x
    let d := rb.2
    match d.castFault i rb.1 (bytesAt v 4 32) m with
    | some c => refuseOwn (d.castFailed i c) c
    | none =>
      match d.startCast i h m with
      | .error .quota => refuseOwn (d.castFailed i cQuota) cQuota
      | .error .space => refuseOwn (d.castFailed i cSpace) cSpace
      | .ok d => done d

def ruleCastOpen (x : MaqExtra) : WriteRule := (WriteRule.plain (sized 36 (runCastOpen x))).ownCodes

def execCastOpen (r : Req) (x : MaqExtra) (s : State) : Host.Outcome State Fault Refusal :=
  s.lift (fun d => d.write 0x7000 1 (ruleCastOpen x) r)

/-! ### Failing a cast (R259) -/

def Device.releaseAllH (d : Device) (hs : List Nat) : Device := hs.foldl (fun d h => d.startRelease h) d

/-- Zeroes what a cast has touched, releases what it has made, and leaves the instance absent. -/
def Device.undoCast (d : Device) (i : Nat) (j : CastJob) (code : Nat) : Device :=
  let x := d.inst i
  let d := j.written.foldl (fun d k => d.emptyEngine j.maq k) d
  let d := d.releaseAllH (x.regH ++ x.progH.map (·.2) ++ j.staging)
  d.setInst i { Inst.absent with status := code }

/-! ### Chunks of layers and regions (R255, R256) -/

/-- A chunk's header (Tab. 11.5). -/
structure ChunkHdr where
  inst : Nat
  target : Nat
  zstd : Bool
  swap : Bool
  index : Nat
  off : Nat
  plen : Nat
  dlen : Nat
  adapter : Nat
  deriving DecidableEq, Repr

def chunkHdr (v : List Byte) : ChunkHdr :=
  let w := wordAt v
  ⟨bits (w 0) 9 0, bits (w 0) 11 10, bit (w 0) 12, bit (w 0) 13, bits (w 0) 31 16, w 1, w 2, w 3, bits (w 4) 11 0⟩

/-- The decompressed payload; none where a rule of R255 fails. -/
def chunkData (h : ChunkHdr) (v : List Byte) : Option (List Byte) :=
  let p := v.drop 32
  if h.plen ≠ p.length then none
  else
    match if h.zstd then zDecode p else some p with
    | none => none
    | some b => if b.length = h.dlen then some b else none

/-- A layer's chunk: the job after it, or the status it fails with. -/
def CastJob.layerChunk (j : CastJob) (h : ChunkHdr) (b : List Byte) : Except Nat (CastJob × LayerEnt) :=
  match j.maq.layers[h.index]? with
  | none => .error cMaquette
  | some l =>
    let n := blockBytes l.arrival
    let g := Tbl.get [] j.got h.index
    if h.off % n ≠ 0 ∨ b.length % n ≠ 0 ∨ h.off + b.length > l.arrivalBytes ∨ gotMeets g h.off b.length = true then
      .error cMaquette
    else
      match j.putBlocks l (h.off / n) (chunksOf n (b.length / n) b) with
      | none => .error cWeight
      | some j =>
        let g := g ++ [(h.off, b.length)]
        let j := { j with got := Tbl.set [] j.got h.index g }
        if gotBytes g < l.arrivalBytes then .ok (j, l)
        else if l.arrival ≠ 8 ∧ f32Eq (Tbl.get 0#32 j.big l.layer) l.mag = false then .error cWeight
        else .ok ({ j with staged := j.staged ++ [l.layer] }, l)

/-- Key of a region in `got`. -/
def regionGot (r : Nat) : Nat := 65536 + r

/-- A region's chunk. -/
def CastJob.regionChunk (j : CastJob) (h : ChunkHdr) (b : List Byte) : Except Nat CastJob :=
  match j.maq.extra.regions[h.index]? with
  | none => .error cMaquette
  | some r =>
    let g := Tbl.get [] j.got (regionGot h.index)
    if h.off + b.length > 64 * r.length ∨ gotMeets g h.off b.length = true then .error cMaquette
    else .ok { j with got := Tbl.set [] j.got (regionGot h.index) (g ++ [(h.off, b.length)]),
                      raw := Tbl.set [] j.raw h.index (Tbl.setRange 0#8 (Tbl.get [] j.raw h.index) h.off b) }

/-- Every byte of a region has arrived. -/
def CastJob.regionWhole (j : CastJob) (i : Nat) : Bool :=
  match j.maq.extra.regions[i]? with
  | none => true
  | some r => decide (gotBytes (Tbl.get [] j.got (regionGot i)) = 64 * r.length)

/-- A region's bytes as received. -/
def CastJob.regionBytes (j : CastJob) (i : Nat) : List Byte :=
  match j.maq.extra.regions[i]? with
  | none => []
  | some r => Tbl.sliceFrom 0#8 (64 * r.length) 0 (Tbl.get [] j.raw i)

/-- A region whose digest agrees with its entry. -/
def CastJob.regionGood (j : CastJob) (i : Nat) : Bool :=
  match j.maq.extra.regions[i]? with
  | none => true
  | some r => decide (sha256 (j.regionBytes i) = r.digest)

/-- Writes a region's bytes into its handle. -/
def Device.putRegion (d : Device) (i : Nat) (j : CastJob) (r : Nat) : Device :=
  match (d.inst i).regH[r]? with
  | none => d
  | some h => d.writeH h 0 (cleanWords (j.regionBytes r))

def Device.setJob (d : Device) (i : Nat) (j : CastJob) : Device := d.setInst i { d.inst i with job := some j }

/-- A chunk of a layer or a region of an open cast or swap: the device after it, or the status that ends the job. -/
def Device.jobChunk (d : Device) (i : Nat) (j : CastJob) (h : ChunkHdr) (v : List Byte) : Except Nat Device :=
  match chunkData h v with
  | none => .error cMaquette
  | some b =>
    if h.target = 0 then
      match j.layerChunk h b with
      | .error c => .error c
      | .ok x =>
        let y := d.castWhole i x.1 x.2
        .ok (y.2.setJob i y.1)
    else
      match j.regionChunk h b with
      | .error c => .error c
      | .ok j =>
        let d := if j.regionWhole h.index && !j.swap then d.putRegion i j h.index else d
        .ok (d.setJob i j)

/-- Casting writes that were held are tried again: those of open casts, and zero writes. -/
def Device.castHeld (d : Device) : Device :=
  d.zeroHeld.cast.insts.foldl (fun (d : Device) (x : Nat × Inst) =>
    match x.2.job with
    | none => d
    | some j =>
      let r := j.maq.layers.foldl (fun (a : CastJob × Device) l => a.2.castWhole x.1 a.1 l) (j, d)
      r.2.setJob x.1 r.1) d.zeroHeld

/-- Every whole image of a cast is written. -/
def CastJob.settled (j : CastJob) : Bool := j.maq.layers.all (fun l => (j.whole l).isEmpty)

/-! ### Closing and aborting (R258, R259) -/

/-- The first layer precision record of a layer (R86, R88). -/
def Device.freshLayer (d : Device) (l : LayerEnt) : LayerRec :=
  let k : F32 := BitVec.ofNat 32 (d.reg (key 0x7058 1))
  let mu := f32Div (f32Add l.rlo l.rhi) (f32OfInt 2)
  let s := f32Div (f32Sub l.rhi l.rlo) (f32Mul (f32OfInt 2) k)
  let v := f32Mul s s
  { LayerRec.zero with cap := l.cap, mu := mu, v := v, sigma := f32Sqrt v }

def Device.putRegionRec (d : Device) (h : Nat) (x : Region) : Device :=
  { d with cast := { d.cast with regions := Tbl.put d.cast.regions h x } }

/-- Ends a cast well: records, digests, the instance ready. -/
def Device.finishCast (d : Device) (i : Nat) (j : CastJob) : Device :=
  let x := d.inst i
  let d := j.maq.layers.foldl (fun d l => d.setLayerRec i l.layer (d.freshLayer l)) d
  let d := (x.regH.zip j.maq.extra.regions).foldl (fun d r => d.putRegionRec r.1 ⟨i, r.2.kind, r.2.digest, none⟩) d
  let d := d.releaseAllH j.staging
  let digs := j.maq.layers.map (fun l => j.digest l)
  let d := d.setInst i { x with state := 2, status := 0, job := none, maq := some j.maq,
                                digests := numbered 0 digs }
  d.bump (key 0x7070 1) 1

def runCastClose (d : Device) (r : Req) (i : Nat) : Answer :=
  if r.tenant ≠ 0#9 then refuseOwn d cDenied
  else
    let d := d.castHeld
    let x := d.inst i
    match x.job with
    | none => refuseOwn d cNotFound
    | some j =>
      if x.state ≠ 1 then refuseOwn d cNotFound
      else
        let nr := j.maq.extra.regions.length
        if !j.maq.layers.all (fun l => j.staged.contains l.layer) || !(List.range nr).all j.regionWhole || !j.settled then
          refuseOwn d cInProgress
        else
          let digs := j.maq.layers.map (fun l => j.digest l)
          if !(List.range nr).all j.regionGood || (!j.maq.expected.isEmpty && decide (digs ≠ j.maq.expected)) then
            refuseOwn ((d.undoCast i j cMismatch).bump (key 0x7070 4) 1) cMismatch
          else done (d.finishCast i j)

def ruleCastClose : WriteRule := (WriteRule.plain (valued (key 0x7000 2) runCastClose)).ownCodes

def runCastAbort (d : Device) (r : Req) (i : Nat) : Answer :=
  if r.tenant ≠ 0#9 then refuseOwn d cDenied
  else
    let x := d.inst i
    match x.job with
    | none => refuseOwn d cNotFound
    | some j => if x.state ≠ 1 then refuseOwn d cNotFound else done (d.undoCast i j cAborted)

def ruleCastAbort : WriteRule := (WriteRule.plain (valued (key 0x7000 3) runCastAbort)).ownCodes

def execCastClose (r : Req) (s : State) : Host.Outcome State Fault Refusal :=
  s.lift (fun d => d.write 0x7000 2 ruleCastClose r)

def execCastAbort (r : Req) (s : State) : Host.Outcome State Fault Refusal :=
  s.lift (fun d => d.write 0x7000 3 ruleCastAbort r)

/-! ### Region re-casts (R261, R175) -/

/-- Instance and region record of a handle. -/
def Device.region? (d : Device) (h : Nat) : Option Region := Tbl.find? d.cast.regions h

def runRecast (d : Device) (_r : Req) (h : Nat) : Answer :=
  match d.region? h with
  | none => refuseOwn d cNotFound
  | some x =>
    let d := d.putRegionRec h { x with recast := some ([], []) }
    done (d.setInst x.inst { d.inst x.inst with status := cInProgress })

/-- The handle is a region of an instance, not a factor of an adapter version. -/
def Device.instRegion (d : Device) (h : Nat) : Bool :=
  match d.region? h with
  | none => false
  | some x => (d.inst x.inst).regH.contains h

/-- Tenant 0; of a region that is no instance's, the tenant that owns its handle too (R248, R261). -/
def ruleRecast : WriteRule :=
  (WriteRule.guarded (fun d r =>
    let h := leAt r.payload 0 2
    match d.handle? h with
    | none => true
    | some x => decide (r.tenant = 0#9) || (decide (x.tenant = r.tenant.toNat) && !d.instRegion h))
    (valued (key 0x7032 0) runRecast)).ownCodes

def execRegionRecast (r : Req) (s : State) : Host.Outcome State Fault Refusal :=
  s.lift (fun d => d.write 0x7032 0 ruleRecast r)

/-- Handle that a region chunk of a ready instance names: the region of that index with a re-cast open, else the handle
of that number, as a version's factors are named (R270). -/
def Device.recastTarget (d : Device) (h : ChunkHdr) : Option (Nat × Region) :=
  let open_ := fun (n : Nat) => match d.region? n with
    | some x => if x.inst = h.inst ∧ x.recast.isSome = true then some (n, x) else none
    | none => none
  match ((d.inst h.inst).regH[h.index]?).bind open_ with
  | some x => some x
  | none => open_ h.index

/-- A chunk of an open re-cast. -/
def Device.recastChunk (d : Device) (n : Nat) (x : Region) (h : ChunkHdr) (v : List Byte) : Except Nat Device :=
  match chunkData h v, d.handle? n, x.recast with
  | some b, some e, some r =>
    if h.off + b.length > e.bytes ∨ gotMeets r.1 h.off b.length = true then .error cMaquette
    else .ok (d.putRegionRec n { x with recast := some (r.1 ++ [(h.off, b.length)], Tbl.setRange 0#8 r.2 h.off b) })
  | _, _, _ => .error cMaquette

/-- A chunk that fails ends the re-cast; Bad stays set. -/
def Device.recastFailed (d : Device) (n : Nat) (x : Region) (code : Nat) : Device :=
  let d := d.putRegionRec n { x with recast := none }
  d.setInst x.inst { d.inst x.inst with status := code }

/-- REGION_RECAST_DONE (R261): when every row has arrived, the rows are written and the digest is compared. -/
def execRegionRecastDone (h : HandleId) (s : State) : Host.Outcome State Fault Refusal :=
  s.lift (fun d =>
    let n := h.toNat
    match d.region? n, d.handle? n with
    | some x, some e =>
      match x.recast with
      | none => d
      | some r =>
        if gotBytes r.1 ≠ e.bytes then d
        else
          let b := Tbl.sliceFrom 0#8 e.bytes 0 r.2
          let good := decide (sha256 b = x.digest)
          let d := d.writeH n 0 (cleanWords b)
          let d := if good then d.putHandle n { e with attrs := e.attrs &&& ~~~(1#11 <<< 9) } else d
          let d := d.putRegionRec n { x with recast := none }
          let d := d.setInst x.inst { d.inst x.inst with status := if good then 0 else cMismatch }
          d.bump (key 0x7070 8) 1
    | _, _ => d)

end Sys2Proof.Machine
end

