-- ==== Sys2Proof/Machine/Frames.lean ====
section
/-!
DEFINITION. Frames and chains (08): the page table and owner words (R181, R182), allocation (R183, R184), release (R185),
the walk and its look-aside buffer (R187).
-/
namespace Sys2Proof.Machine

/-! ### Page table entries (Tab. 8.4, R182) -/

/-- Entries of one slice. -/
def sliceSize : Nat := 32768

/-- A local entry. -/
def localEntry (sizeCode format cluster tile row next : Nat) : BitVec 64 :=
  BitVec.ofNat 64 (1 + sizeCode * 2 + format * 2 ^ 5 + cluster * 2 ^ 8 + tile * 2 ^ 12 + row * 2 ^ 14 + next * 2 ^ 45)

/-- An entry of a frame on another device. -/
def remoteEntry (sizeCode format : Nat) (dev : Coord) (far next : Nat) : BitVec 64 :=
  BitVec.ofNat 64 (1 + sizeCode * 2 + format * 2 ^ 5 + 2 ^ 7 + dev.toNat * 2 ^ 8 + far * 2 ^ 26 + next * 2 ^ 45)

def PageEnt.remote (p : PageEnt) : Bool := p.e.getLsbD 7
def PageEnt.format (p : PageEnt) : Nat := bits p.e.toNat 6 5
def PageEnt.tokens (p : PageEnt) : Nat := 2 ^ (bits p.e.toNat 4 1 + 4)
def PageEnt.cluster (p : PageEnt) : Nat := bits p.e.toNat 11 8
def PageEnt.tile (p : PageEnt) : Nat := bits p.e.toNat 13 12
def PageEnt.row (p : PageEnt) : Nat := bits p.e.toNat 32 14
def PageEnt.dev (p : PageEnt) : Coord := BitVec.ofNat 18 (bits p.e.toNat 25 8)
def PageEnt.far (p : PageEnt) : Nat := bits p.e.toNat 44 26
def PageEnt.next (p : PageEnt) : Nat := bits p.e.toNat 63 45
def PageEnt.slot (p : PageEnt) : Nat := bits p.owner.toNat 15 0
def PageEnt.stream (p : PageEnt) : Nat := bits p.owner.toNat 18 16
def PageEnt.page (p : PageEnt) : Nat := bits p.owner.toNat 29 19
def PageEnt.isFar (p : PageEnt) : Bool := p.owner.getLsbD 31

/-- First byte of a local entry's frame. -/
def PageEnt.addr (p : PageEnt) : Nat := rowAddr p.cluster (13 + p.tile) p.row

/-- An owner word. -/
def ownerWord (slot stream page : Nat) (far : Bool) : BitVec 32 :=
  BitVec.ofNat 32 (slot + stream * 2 ^ 16 + page * 2 ^ 19 + (if far then 2 ^ 31 else 0))

/-- The entry links to the next page's. -/
def PageEnt.link (p : PageEnt) (next : Nat) : PageEnt :=
  { p with e := BitVec.ofNat 64 (p.e.toNat % 2 ^ 45 + next * 2 ^ 45) }

def noPage : PageEnt := ⟨0#64, 0#32⟩

def Device.pageEnt (d : Device) (e : Nat) : PageEnt := Tbl.get noPage d.attn.pages e

def Device.setAttnS (d : Device) (x : AttnS) : Device := { d with attn := x }

/-- Writes an entry; look-aside buffers drop what they hold of it. -/
def Device.putPage (d : Device) (e : Nat) (p : PageEnt) : Device :=
  let us := d.attn.units.map (fun u => (u.1, { u.2 with look := u.2.look.filter (fun l => decide (l.2.2.2.2 ≠ e)) }))
  d.setAttnS { d.attn with pages := Tbl.set noPage d.attn.pages e p, units := us }

/-- The lowest free entry of a slice. -/
def Device.freePage (d : Device) (k : Nat) : Option Nat :=
  lowestFree (Tbl.keys d.attn.pages ++ d.attn.deadPages) sliceSize (k * sliceSize)

/-! ### Finding pages -/

/-- Key of a frame. -/
def frameKey (cluster tile row : Nat) : Nat := (cluster * 3 + tile) * 2 ^ 19 + row

/-- The owner record of a page's frame, on this device. -/
def Device.frameOf (d : Device) (owner : Coord) (slot stream page : Nat) : Option (Nat × Frame) :=
  List.find? (fun (f : Nat × Frame) => decide (f.2.owner = owner ∧ f.2.slot = slot ∧ f.2.stream = stream ∧ f.2.page = page) &&
    !f.2.releasing) d.attn.frames

/-- The page is one of a stream of a request. -/
def FarPage.isOf (a : FarPage) (owner : Coord) (slot : Nat) : Bool := decide (a.q.owner = owner ∧ a.q.slot.toNat = slot)

/-- The entry here of a page that another device holds for a request of a third (R183). -/
def Device.farEntry (d : Device) (owner : Coord) (slot stream page : Nat) : Option Nat :=
  (d.attn.asked.filter (fun a => a.isOf owner slot && decide (a.q.stream.val = stream ∧ a.q.page.toNat = page))).findSome?
    (fun a => match a.st with | .placed e => some e | _ => none)

/-- Index of the entry of a page. -/
def Device.entryOf (d : Device) (owner : Coord) (slot stream page : Nat) : Option Nat :=
  if owner = d.fab.coord then
    (List.find? (fun (p : Nat × PageEnt) => decide (p.2.slot = slot ∧ p.2.stream = stream ∧ p.2.page = page) && !p.2.isFar)
      d.attn.pages).map (·.1)
  else
    match d.frameOf owner slot stream page with
    | some f => some f.2.entry
    | none => d.farEntry owner slot stream page

/-- Pages of a stream of a request of this device that the stream's home on another device holds. -/
def Device.pagesAway (d : Device) (slot stream : Nat) : Nat :=
  (d.attn.asked.filter (fun a => a.isOf d.fab.coord slot && decide (a.q.stream.val = stream ∧ a.st = .away))).length

/-- Pages a stream of a request of this device has. -/
def Device.pagesHeld (d : Device) (slot stream : Nat) : Nat :=
  (List.filter (fun (p : Nat × PageEnt) => decide (p.2.slot = slot ∧ p.2.stream = stream) && !p.2.isFar) d.attn.pages).length +
    d.pagesAway slot stream

/-- Pages of a stream of a request of another device whose entries stand here, at the stream's home. -/
def Device.pagesHome (d : Device) (owner : Coord) (slot stream : Nat) : Nat :=
  (List.filter (fun (f : Nat × Frame) => decide (f.2.owner = owner ∧ f.2.slot = slot ∧ f.2.stream = stream) &&
    !f.2.releasing) d.attn.frames).length +
  (d.attn.asked.filter (fun a => a.isOf owner slot && decide (a.q.stream.val = stream) &&
    (match a.st with | .placed _ => true | _ => false))).length

/-- The KV class a request or a frame is laid out by. -/
def Device.kvClass? (d : Device) (inst kv : Nat) : Option KvClass :=
  match (d.inst inst).maq with
  | none => none
  | some m => m.kv[kv]?

/-! ### The walk (R187) -/

def Device.lookOf (d : Device) (k : Nat) (owner : Coord) (slot stream page : Nat) : Option Nat :=
  ((d.attnUnit k).look.find? (fun l => decide (l.1 = owner ∧ l.2.1 = slot ∧ l.2.2.1 = stream ∧ l.2.2.2.1 = page))).map
    (fun l => l.2.2.2.2)

/-- Puts an entry into the buffer of 64, latest used first. -/
def Device.noteLook (d : Device) (k : Nat) (owner : Coord) (slot stream page e : Nat) : Device :=
  let u := d.attnUnit k
  let rest := u.look.filter (fun l => !decide (l.1 = owner ∧ l.2.1 = slot ∧ l.2.2.1 = stream ∧ l.2.2.2.1 = page))
  d.setAttn k { u with look := ((owner, slot, stream, page, e) :: rest).take 64 }

/-- Follows Next from entry `e` of page `p`, one slice read a hop, until it reaches page `page`; none where an entry is lost or
the chain ends before. -/
def Device.hops (d : Device) (k : Nat) (owner : Coord) (slot stream page : Nat) : Nat → Nat → Nat → Option Nat × Device
  | 0, _, _ => (none, d)
  | n + 1, e, p =>
    let d := d.bump (key 0x8022 3) 1
    let x := d.pageEnt e
    if d.attn.deadPages.contains e ∨ x = noPage then (none, d)
    else
      let d := d.noteLook k owner slot stream p e
      if p = page then (some e, d)
      else if x.next = e then (none, d)
      else d.hops k owner slot stream page n x.next (p + 1)

/-- Where the walk starts without help of the buffer: the inline field of a request of this device (R182), else the entry of
page 0. -/
def Device.firstEntry (d : Device) (owner : Coord) (slot stream : Nat) : Option Nat :=
  if owner = d.fab.coord then (d.req slot).pages[stream]? else d.entryOf owner slot stream 0

/-- The entry of page `page` as the walk of attention core `k` finds it; a remote entry is resolved further by its holder. -/
def Device.walk (d : Device) (k : Nat) (owner : Coord) (slot stream page : Nat) : Option Nat × Device :=
  match d.lookOf k owner slot stream page with
  | some e => (some e, (d.bump (key 0x8022 1) 1).noteLook k owner slot stream page e)
  | none =>
    let d := d.bump (key 0x8022 2) 1
    let near := ((d.attnUnit k).look.filter (fun l =>
      decide (l.1 = owner ∧ l.2.1 = slot ∧ l.2.2.1 = stream ∧ l.2.2.2.1 < page))).foldl
      (fun (m : Option (Nat × Nat)) l => if (match m with | none => true | some x => decide (x.1 < l.2.2.2.1)) then some l.2.2.2 else m)
      none
    match near with
    | some x =>
      let nx := (d.pageEnt x.2).next
      if nx = x.2 then (none, d) else d.hops k owner slot stream page (page - x.1) nx (x.1 + 1)
    | none =>
      match d.firstEntry owner slot stream with
      | none => (none, d)
      | some e => d.hops k owner slot stream page (page + 1) e 0

/-- Key of a stream's written length. -/
def streamKey (owner : Coord) (slot stream : Nat) : Nat := owner.toNat * 2 ^ 19 + slot * 8 + stream

/-- Written length of a stream: one past the furthest position an entry was written to (R196). -/
def Device.writtenLen (d : Device) (owner : Coord) (slot stream : Nat) : Nat :=
  Tbl.get 0 d.attn.written (streamKey owner slot stream)

def Device.noteWritten (d : Device) (owner : Coord) (slot stream n : Nat) : Device :=
  d.setAttnS { d.attn with
    written := Tbl.set 0 d.attn.written (streamKey owner slot stream) (max (d.writtenLen owner slot stream) n) }

/-! ### Allocation (R183, R184) -/

/-- KV pools of a tile: (first row, rows), lowest first. -/
def Device.pools (d : Device) (k tile : Nat) : List (Nat × Nat) :=
  d.mem.handles.foldl (fun l h =>
    if h.2.tenant = 0 ∧ h.2.kv = true ∧ h.2.remote = false ∧ h.2.releasing = false ∧ h.2.cluster = k ∧ h.2.unit = 13 + tile then
      insertExt (h.2.base, h.2.len) l else l) []

/-- Rows of a tile that frames hold. -/
def Device.frameRows (d : Device) (k tile : Nat) : List (Nat × Nat) :=
  d.attn.frames.foldl (fun l f =>
    if f.1 / 2 ^ 19 = k * 3 + tile then insertExt (f.1 % 2 ^ 19, f.2.rows) l else l) []

/-- The first free extent of `rows` rows in the pools of a tile. -/
def Device.fitTile (d : Device) (k tile rows : Nat) : Option Nat :=
  (d.pools k tile).findSome? (fun p => firstFit rows (p.1 + p.2) p.1 (d.frameRows k tile))

/-- The first cluster of a list whose pools have room: cluster, tile, row. -/
def Device.fitFrame (d : Device) (rows : Nat) : List Nat → Option (Nat × Nat × Nat)
  | [] => none
  | k :: ks =>
    match ([0, 1, 2] : List Nat).findSome? (fun t => (d.fitTile k t rows).map (fun r => (k, t, r))) with
    | some x => some x
    | none => d.fitFrame rows ks

def Device.kvUsed (d : Device) (t : Nat) : Nat := Tbl.get 0 d.attn.kvUse t

def Device.addKv (d : Device) (t n : Nat) : Device :=
  d.setAttnS { d.attn with kvUse := Tbl.set 0 d.attn.kvUse t (d.kvUsed t + n) }

def Device.subKv (d : Device) (t n : Nat) : Device :=
  d.setAttnS { d.attn with kvUse := Tbl.set 0 d.attn.kvUse t (d.kvUsed t - n) }

/-- What a frame is for. -/
structure PageFor where
  owner : Coord
  slot : Nat
  client : Nat
  stream : Nat
  page : Nat
  tenant : Nat
  inst : Nat
  kv : Nat
  deriving DecidableEq, Repr

/-- Takes a local frame from the clusters in order, with its entry in slice `slice` (of the frame's own cluster where
none is given): the entry's index. -/
def Device.takeFrame (d : Device) (f : PageFor) (c : KvClass) (s : Stream) (order : List Nat) (slice : Option Nat) :
    Option (Nat × Device) :=
  let t := c.pageTokens f.page
  let rows := s.frameBytes t / 64
  if d.kvUsed f.tenant + rows / 64 > (d.limits f.tenant).kv then none
  else
    match d.fitFrame rows order with
    | none => none
    | some x =>
      match d.freePage (slice.getD x.1) with
      | none => none
      | some e =>
        let fr : Frame := ⟨rows, f.owner, f.slot, f.client, f.stream, f.page, f.tenant, f.inst, f.kv, e, false⟩
        let d := d.putPage e ⟨localEntry (min (c.s0 + f.page) c.cap - 4) s.format x.1 x.2.1 x.2.2 e,
          ownerWord f.slot f.stream f.page (decide (f.owner ≠ d.fab.coord))⟩
        let d := d.setAttnS { d.attn with frames := Tbl.put d.attn.frames (frameKey x.1 x.2.1 x.2.2) fr }
        some (e, d.addKv f.tenant (rows / 64))

/-- Span device `i` of a class, over slots 0 to 3 in ascending coordinate order. -/
def KvClass.spanDev (c : KvClass) (i : Nat) : Coord :=
  let n := c.spanFirst.toNat / 8 * 4 + c.spanFirst.toNat % 8 + i
  BitVec.ofNat 18 (n / 4 * 8 + n % 4)

/-- Devices a page of a stream is asked of, in order (R183): the stream's home, or for a cap-sized page of a span class
the span devices. -/
def KvClass.askOrder (c : KvClass) (s : Stream) (page : Nat) : List Coord :=
  if c.span && decide (c.grow ≤ page) then
    (List.range c.spanCount).map (fun i => c.spanDev ((page - c.grow + i) % c.spanCount))
  else [s.home]

/-- Clusters in the order a home cluster's frames are sought. -/
def homeFirst (k : Nat) : List Nat := k :: (List.range 16).filter (fun x => decide (x ≠ k))

inductive PageRes where
  | got (e : Nat)
  | waiting
  | none
  deriving DecidableEq, Repr

/-- Writes the index of page 0 into a request's inline page list (R182). -/
def Device.setInline (d : Device) (slot stream e : Nat) : Device :=
  let r := d.req slot
  let ps := r.pages ++ List.replicate (8 - r.pages.length) 0
  d.setReq slot { r with pages := ps.set stream e }

/-- Puts a new entry into its chain, in whichever order pages come: before the entry of the next page, behind that of the
page before; page 0's index goes into the inline field. -/
def Device.chainPage (d : Device) (f : PageFor) (e : Nat) : Device :=
  let d := match d.entryOf f.owner f.slot f.stream (f.page + 1) with
    | none => d
    | some n => d.putPage e ((d.pageEnt e).link n)
  if f.page = 0 then (if f.owner = d.fab.coord then d.setInline f.slot f.stream e else d)
  else
    match d.entryOf f.owner f.slot f.stream (f.page - 1) with
    | none => d
    | some p => d.putPage p ((d.pageEnt p).link e)

/-- 4 KiB units of frames lent to other devices. -/
def Device.lentUnits (d : Device) : Nat :=
  d.attn.frames.foldl (fun n f => if f.2.owner = d.fab.coord then n else n + f.2.rows / 64) 0

/-- A frame of `n` units may be lent to an owner (8020h.05). -/
def Device.lends (d : Device) (owner : Coord) (n : Nat) : Bool :=
  decide (owner = d.fab.coord ∨ d.lentUnits + n ≤ d.reg (key 0x8020 5))

/-- What a request for a frame is for. -/
def pageForOf (q : FrameReq) : PageFor :=
  ⟨q.owner, q.slot.toNat, q.clientId.toNat, q.stream.val, q.page.toNat, q.tenant.toNat, q.inst.toNat, q.kvClass.toNat⟩

/-- Devices this one asks for a page of a stream, in order (R183): the stream's home; the home itself as the class says. -/
def Device.askOrder (d : Device) (c : KvClass) (s : Stream) (page : Nat) : List Coord :=
  if s.home = d.fab.coord then c.askOrder s page else [s.home]

/-- Seeks a frame for a page among devices in order: the first that has one, or the first other device, which is asked
(R183). -/
def Device.seekPage (d : Device) (q : FrameReq) (c : KvClass) (s : Stream) : List Coord → PageRes × Device
  | [] => (.none, d)
  | dev :: devs =>
    let f := pageForOf q
    if dev = d.fab.coord then
      match if d.lends f.owner (s.frameBytes (c.pageTokens f.page) / 4096)
        then d.takeFrame f c s (homeFirst s.homeCluster) (some s.homeCluster) else none with
      | some x => (.got x.1, x.2.chainPage f x.1)
      | none => d.seekPage q c s devs
    else
      let d := d.setAttnS { d.attn with asked := d.attn.asked ++ [⟨q, dev, .waiting⟩] }
      (.waiting, d.send (.frameReq dev q))

/-- The request for page `page` of stream `stream` of a request of this device. -/
def Device.frameReqOf (d : Device) (slot stream page : Nat) : FrameReq :=
  let r := d.req slot
  ⟨d.fab.coord, BitVec.ofNat 9 r.tenant, BitVec.ofNat 16 slot, BitVec.ofNat 32 r.client, Fin.ofNat 8 stream,
    BitVec.ofNat 11 page, BitVec.ofNat 10 r.inst, BitVec.ofNat 8 r.kvClass, true⟩

/-- The pages a request lacks for `n` pages in every stream: page by page, and in each every stream at once. -/
def Device.lacking (d : Device) (slot n : Nat) (c : KvClass) : List (Nat × Nat × Stream) :=
  (List.range n).flatMap (fun p => (c.streams.zipIdx).filterMap (fun s =>
    if d.pagesHeld slot s.2 ≤ p then some (p, s.2, s.1) else none))

/-- Seeks a list of pages (page, stream number, stream). -/
def Device.seekPages (d : Device) (slot : Nat) (c : KvClass) : List (Nat × Nat × Stream) → PageRes × Device
  | [] => (.got 0, d)
  | x :: xs =>
    match d.seekPage (d.frameReqOf slot x.2.1 x.1) c x.2.2 (d.askOrder c x.2.2 x.1) with
    | (.none, d) => (.none, d)
    | (.waiting, d) => let r := d.seekPages slot c xs; (if r.1 = .none then .none else .waiting, r.2)
    | (.got _, d) => d.seekPages slot c xs

/-- Pages of every stream of a request up to a length of `n` tokens (R183). -/
def Device.allocFor (d : Device) (slot n : Nat) : PageRes × Device :=
  let r := d.req slot
  match d.kvClass? r.inst r.kvClass with
  | none => (.got 0, d)
  | some c => d.seekPages slot c (d.lacking slot (c.pagesFor n) c)

/-- A request of this device waits on a remote allocation (R184). -/
def Device.waitsFrame (d : Device) (slot : Nat) : Bool :=
  d.attn.asked.any (fun a => a.isOf d.fab.coord slot && decide (a.st = .waiting))

/-! ### Remote frames (R183, R184) -/

/-- The answer to a page asked for: to the owner from the stream's home, to the home from a span device. -/
def Device.answerFrame (d : Device) (q : FrameReq) (to_ : Coord) (e : Option Nat) : Device :=
  d.send (.frameAnswer to_ q.slot.toNat q.stream.val q.page.toNat e)

/-- REMOTE_FRAME_REQUEST (R183): the stream's home seeks a frame as the class says, and a span device takes one of its own; it
answers with its entry, at once or when the device it asks in turn has answered. -/
def execRemoteFrameRequest (q : FrameReq) (s : State) : Host.Outcome State Fault Refusal :=
  s.lift (fun d =>
    let f := pageForOf q
    let no := d.answerFrame q q.owner none
    if !q.authenticated ∨ d.reg (key 0x8020 4) = 0 then no
    else
      match d.kvClass? f.inst f.kv with
      | none => no
      | some c =>
        match c.streams[f.stream]? with
        | none => no
        | some s =>
          if s.home = d.fab.coord then
            match d.seekPage q c s (d.askOrder c s f.page) with
            | (.got e, d) => d.answerFrame q q.owner (some e)
            | (.waiting, d) => d
            | (.none, d) => d.answerFrame q q.owner none
          else
            match if d.lends f.owner (s.frameBytes (c.pageTokens f.page) / 4096)
              then d.takeFrame f c s (List.range 16) none else none with
            | none => d.answerFrame q s.home none
            | some x => x.2.answerFrame q s.home (some x.1))

/-- The page an answer is for: of a request of this device first. -/
def Device.askedFor (d : Device) (sl stream p : Nat) : Option FarPage :=
  let w := d.attn.asked.filter (fun a => decide (a.st = .waiting ∧ a.q.slot.toNat = sl ∧ a.q.stream.val = stream ∧ a.q.page.toNat = p))
  (w.filter (fun a => decide (a.q.owner = d.fab.coord)) ++ w).head?

/-- No frame can be had for a page (R184): a request of this device fails, another's owner hears of it. -/
def Device.noFrame (d : Device) (q : FrameReq) : Device :=
  if q.owner = d.fab.coord then (d.bump (key 0x8022 5) 1).fixFailure q.slot.toNat 0x0D else d.answerFrame q q.owner none

/-- A frame has been had for a page: another's owner is told its entry. -/
def Device.hasFrame (d : Device) (q : FrameReq) (e : Nat) : Device :=
  if q.owner = d.fab.coord then d else d.answerFrame q q.owner (some e)

/-- Notes what became of a page asked for. -/
def Device.noteAsked (d : Device) (a : FarPage) (st : FarState) : Device :=
  d.setAttnS { d.attn with asked := d.attn.asked ++ [{ a with st := st }] }

/-- A far entry answers a remote allocation: it joins the chain at the stream's home; or the next device of the order is
asked, and with none left there is no frame to be had (R184). -/
def Device.frameAnswered (d : Device) (sl : Nat) (stream : Fin 8) (p : Nat) (far : Option (BitVec 19)) : Device :=
  match d.askedFor sl stream.val p with
  | none => d
  | some a =>
    let d := d.setAttnS { d.attn with asked := List.filter (fun (x : FarPage) => decide (x ≠ a)) d.attn.asked }
    match d.kvClass? a.q.inst.toNat a.q.kvClass.toNat with
    | none => d
    | some c =>
      match c.streams[stream.val]? with
      | none => d
      | some st =>
        match far with
        | some x =>
          if st.home ≠ d.fab.coord then
            let d := d.noteAsked a .away
            if p = 0 then d.setInline sl stream.val x.toNat else d
          else
            match d.freePage st.homeCluster with
            | none => (d.noteAsked a .unplaced).noFrame a.q
            | some e =>
              let d := d.putPage e ⟨remoteEntry (min (c.s0 + p) c.cap - 4) st.format a.dev x.toNat e,
                ownerWord sl stream.val p (decide (a.q.owner ≠ d.fab.coord))⟩
              ((d.noteAsked a (.placed e)).chainPage (pageForOf a.q) e).hasFrame a.q e
        | none =>
          let rest := ((d.askOrder c st p).dropWhile (fun x => decide (x ≠ a.dev))).drop 1
          match d.seekPage a.q c st rest with
          | (.none, d) => d.noFrame a.q
          | (.got e, d) => d.hasFrame a.q e
          | (.waiting, d) => d

/-! ### Release (R185) -/

/-- A descriptor of a request waits or runs on some attention core. -/
def Device.descLive (d : Device) (owner : Coord) (slot : Nat) : Bool :=
  let own := fun (w0 w1 : Nat) => decide (w0 % 65536 = slot ∧ w1 % 2 ^ 18 = owner.toNat)
  List.any d.attn.units (fun (u : Nat × Attn) =>
    u.2.queue.any (fun q => own ((q.map (fun x => x.1.toNat)).getD 0 0) ((q.map (fun x => x.1.toNat)).getD 1 0)) ||
    (match u.2.cur with | none => false | some j => own (j.words.getD 0 0) (j.words.getD 1 0)))

/-- Releases a request's frames through the owner records: they turn to zeroing, its entries are invalid, the look-aside
buffers drop them, and every device that was asked for a frame of it is told. An entry whose owner word is lost too stays
unusable (R186). -/
def Device.dropFrames (d : Device) (owner : Coord) (slot : Nat) : Device :=
  let mine := fun (f : Frame) => decide (f.owner = owner ∧ f.slot = slot)
  let theirs := d.attn.asked.filter (fun a => a.isOf owner slot)
  let gone := (List.filter (fun (f : Nat × Frame) => mine f.2 && !f.2.releasing) d.attn.frames).map (fun f => f.2.entry) ++
    theirs.filterMap (fun a => match a.st with | .placed e => some e | _ => none)
  let own := fun (p : PageEnt) => decide (owner = d.fab.coord) && decide (p.slot = slot) && !p.isFar
  let dead := (List.filter (fun (p : Nat × PageEnt) => own p.2) d.attn.pages).map (·.1)
  let frames := d.attn.frames.map (fun f => if mine f.2 then (f.1, { f.2 with releasing := true }) else f)
  let pages := List.filter (fun (p : Nat × PageEnt) => !gone.contains p.1 && !own p.2) d.attn.pages
  let units := d.attn.units.map (fun u => (u.1, { u.2 with look := u.2.look.filter (fun l => !decide (l.1 = owner ∧ l.2.1 = slot)) }))
  let still := d.attn.deadPages.filter (fun e => (!gone.contains e && !dead.contains e) || decide (d.pageEnt e = noPage))
  let written := dropKeys d.attn.written (fun k => decide (k / 8 = owner.toNat * 2 ^ 16 + slot))
  let d := d.setAttnS { d.attn with
    frames := frames, pages := pages, units := units, asked := d.attn.asked.filter (fun a => !a.isOf owner slot),
    lost := d.attn.lost.filter (fun x => !decide (x.1 = owner ∧ x.2.1 = slot)), deadPages := still, written := written }
  ((theirs.map (·.dev)).eraseDups).foldl (fun d dev => d.send (.frameRelease dev owner slot)) d

/-- FRAME_RELEASE (R185): once a terminal request has no descriptor left; a device that only holds frames of it hears of
the end from the owner. -/
def execFrameRelease (owner : Coord) (slot : BitVec 16) (s : State) : Host.Outcome State Fault Refusal :=
  s.lift (fun d =>
    let sl := slot.toNat
    if d.descLive owner sl || (decide (owner = d.fab.coord) && (d.req sl).live) then d
    else d.dropFrames owner sl)

/-- FRAME_ZERO_DONE (R185): a released frame holds zeros and returns to its pool. -/
def execFrameZeroDone (k : ClusterIx) (tile : Fin 3) (row : Nat) (s : State) : Host.Outcome State Fault Refusal :=
  s.lift (fun d =>
    let fk := frameKey k.val tile.val row
    match Tbl.find? d.attn.frames fk with
    | none => d
    | some f =>
      if f.releasing then
        let a := rowAddr k.val (13 + tile.val) row
        let d := d.zeroExtent k.val (13 + tile.val) a (64 * f.rows)
        let d := d.setAttnS { d.attn with frames := Tbl.del d.attn.frames fk }
        (d.subKv f.tenant (f.rows / 64)).bump (key 0x8022 8) 1
      else d)

/-! ### Loss (R186, R204) -/

/-- A failure of a request, by the device that owns it: fixed here, or told to it (R17). -/
def Device.failAt (d : Device) (owner : Coord) (slot code : Nat) : Device :=
  if owner = d.fab.coord then d.fixFailure slot code else d.send (.stepStatus owner slot code false none)

/-- A descriptor in progress of a request: its outputs will be poisoned. -/
def Attn.poison (u : Attn) (owner : Coord) (slot : Nat) : Attn :=
  match u.cur with
  | none => u
  | some j =>
    if j.words.getD 0 0 % 65536 = slot ∧ j.words.getD 1 0 % 2 ^ 18 = owner.toNat then { u with cur := some { j with failed := true } }
    else u

/-- A request has lost a frame (R204): it fails at its next commit mark, its descriptors end poisoned, and it is counted once. -/
def Device.pageLost (d : Device) (owner : Coord) (slot client : Nat) : Device :=
  if d.attn.lost.contains (owner, slot, client) ∨ (owner = d.fab.coord ∧ (d.req slot).live = false) then d
  else
    let d := d.setAttnS { d.attn with
      lost := d.attn.lost ++ [(owner, slot, client)],
      units := d.attn.units.map (fun u => (u.1, u.2.poison owner slot)) }
    (d.bump (key 0x8022 4) 1).failAt owner slot 0x0E

/-- Requests with a frame on a device: owner, slot, client request ID. -/
def Device.framesOn (d : Device) (dev : Coord) : List (Coord × Nat × Nat) :=
  ((d.attn.asked.filter (fun a => decide (a.dev = dev ∧ a.st ≠ .waiting))).map
    (fun a => (a.q.owner, a.q.slot.toNat, a.q.clientId.toNat))).eraseDups

/-- A holding device is lost, or answers page-lost (R204): every request with a frame there. -/
def Device.loseFrames (d : Device) (dev : Coord) : Device :=
  (d.framesOn dev).foldl (fun d x => d.pageLost x.1 x.2.1 x.2.2) d

/-- Owner of the request an entry names. -/
def Device.ownerOf (d : Device) (e : Nat) (p : PageEnt) : Coord :=
  if !p.isFar then d.fab.coord
  else
    match List.find? (fun (f : Nat × Frame) => decide (f.2.entry = e)) d.attn.frames with
    | some f => f.2.owner
    | none =>
      match d.attn.asked.find? (fun a => decide (a.st = .placed e)) with
      | some a => a.q.owner
      | none => d.fab.coord

/-- A double error in a page entry, with its owner word or not (R186): recorded and counted; the request it names fails at its
next commit mark. -/
def Device.losePage (d : Device) (e : Nat) (ownerToo : Bool) : Device :=
  let p := d.pageEnt e
  if d.attn.deadPages.contains e then d
  else
    let o := d.ownerOf e p
    let d := d.setAttnS { d.attn with deadPages := d.attn.deadPages ++ [e] }
    let d := d.err { cls := 3, cluster := e / sliceSize, unit := 12, tenant := (d.req p.slot).tenant, loc := e, slot := p.slot } 0x0D 0
    let d := d.bump (key 0x8022 4) 1
    if p = noPage then d
    else if ownerToo then d.putPage e noPage
    else if o = d.fab.coord ∧ ((d.req p.slot).live = false ∨ p.isFar = true) then d
    else d.failAt o p.slot 0x0E

end Sys2Proof.Machine
end

