-- ==== Sys2Proof/Machine/Slices.lean ====
section
/-!
DEFINITION. Field-test slices (16): spore pack records (Tab. 16.3), what a pass holds (R361), when a slice may start
(R362) and its start (R363 step 1). A slice's save, program and restore are one effect at its end: its scoreboard entries
keep every other agent off its ranges meanwhile.
-/
namespace Sys2Proof.Machine

/-! ### Slice records (Tab. 16.3) -/

/-- A slice record. -/
structure SliceRec where
  target : Nat
  engines : Nat
  regOff : Nat
  regLen : Nat
  resOff : Nat
  resLen : Nat
  progOff : Nat
  words : Nat
  digest : List Byte
  deriving DecidableEq, Repr

/-- Slice record `i` of a pack. -/
def sliceRec (b : List Byte) (i : Nat) : SliceRec :=
  let w := fun k => wordAt b (8 + 16 * i + k)
  ⟨bits (w 0) 1 0, w 1, bits (w 2) 16 0, bits (w 3) 12 0, bits (w 4) 12 0, bits (w 5) 10 0, w 6, bits (w 7) 15 0,
   bytesAt b (32 + 64 * i + 48) 16⟩

/-- Slices of a pack. -/
def packSlices (b : List Byte) : Nat := bits (wordAt b 0) 31 16

/-- Logical positions of a slice's engines. -/
def SliceRec.positions (r : SliceRec) : List Nat := (List.range 32).filter (fun p => r.engines.testBit p)

/-- The pack that a slice in an open pass was taken from. -/
def Device.pack? (d : Device) (ident version : Nat) : Option Pack :=
  List.find? (fun (p : Pack) => decide (p.ident = ident ∧ p.version = version)) d.rel.packs

/-- The record of a pack slice. -/
def Device.sliceRec? (d : Device) (x : SliceId) : Option SliceRec :=
  match x with
  | .scan _ => none
  | .pack ident v ix => (d.pack? ident v).map (fun p => sliceRec p.bytes ix)

/-! ### Cores by index (R361) -/

/-- A core index names an attention core. -/
def isAttn (i : Nat) : Bool := decide (i % 13 = 12)

/-- CIM core of a core index. -/
def cimOf (i : Nat) : Nat := i / 13 * 12 + i % 13

/-- Unit of the buffer a core's slices use: its own, or the attention buffer. -/
def bufferUnit (i : Nat) : Nat := i % 13

/-- Built-in scan segments of a core (R368). -/
def scanSegments (i : Nat) : Nat := if isAttn i then 6 else 8

/-- Packs in ascending identifier. -/
def insertPack (p : Pack) : List Pack → List Pack
  | [] => [p]
  | x :: xs => if p.ident < x.ident then p :: x :: xs else x :: insertPack p xs

/-- The slice list of a pass that opens now (R361). -/
def Device.passSlices (d : Device) (i : Nat) : List SliceId :=
  let t := if isAttn i then 1 else 0
  let ps := (d.rel.packs.filter (fun p => !p.removed)).foldl (fun l p => insertPack p l) []
  ps.flatMap (fun p => ((List.range (packSlices p.bytes)).filter (fun k => decide ((sliceRec p.bytes k).target = t))).map
    (fun k => SliceId.pack p.ident p.version k)) ++ (List.range (scanSegments i)).map SliceId.scan

/-! ### The start of a slice (R362, R363) -/

def Device.setRuns (d : Device) (t : Tbl SliceRun) : Device := { d with rel := { d.rel with runs := t } }

/-- Some core of a cluster is in a slice. -/
def Device.clusterTests (d : Device) (k : Nat) : Bool := d.rel.runs.any (fun r => decide (r.1 / 13 = k))

/-- A core can run slices: its cluster is ready, and it has neither stopped nor been disabled. -/
def Device.testable (d : Device) (i : Nat) : Bool :=
  let h := d.health i
  (d.cluster (i / 13)).ready && h.enabled && !h.drained && !h.retired &&
    (isAttn i || !((d.cluster (i / 13)).coresFailed.getLsbD (i % 13)))

/-- A slice of an open pass may start on a core. -/
def Device.sliceReady (d : Device) (i : Nat) : Bool :=
  let h := d.health i
  d.testable i && h.openAt.isSome && !h.slices.isEmpty && !d.clusterTests (i / 13)

/-- Scoreboard entries of a slice on a CIM core from cycle `t`: its region and its engines' rows, agent 11b. -/
def Device.sliceEntries (d : Device) (i : Nat) (r : SliceRec) (ident t : Nat) : List SbEntry :=
  let _ := d
  let off := 64 * r.regOff
  ⟨ident, ⟨false, rowAddr (i / 13) (bufferUnit i) 0 + off, 64 * r.regLen, true, true⟩, 0, off, 3, t, none⟩ ::
    r.positions.map (fun p => ⟨ident, ⟨true, 256 * p, 256, true, true⟩, 0, p * 256, 3, t, none⟩)

/-- Takes a slice's scoreboard entries, where nothing conflicts (R100 rule 2); a slice that is held takes them later. -/
def Device.takeEntries (d : Device) (i : Nat) : Device :=
  match Tbl.find? d.rel.runs i with
  | none => d
  | some r =>
    if r.started then d
    else
      match d.sliceRec? r.slice with
      | none => d.setRuns (Tbl.put d.rel.runs i { r with started := true })
      | some x =>
        if isAttn i then d.setRuns (Tbl.put d.rel.runs i { r with started := true })
        else
          let c := cimOf i
          let es := d.sliceEntries i x r.ident d.cyc
          if (d.core c).seq.mayStart es d.cyc then
            let d := d.bump (key 0xC020 5) ((d.core c).seq.fullCycles r.at_ (d.cyc - r.at_))
            (d.modCore c (fun y => { y with seq := { y.seq with board := y.seq.board ++ es } })).setRuns
              (Tbl.put d.rel.runs i { r with started := true, at_ := d.cyc })
          else d

/-- Starts the next slice of a core's open pass. -/
def Device.startSlice (d : Device) (i : Nat) : Device :=
  let h := d.health i
  match h.slices with
  | [] => d
  | x :: _ =>
    let c := cimOf i
    let run : SliceRun := ⟨x, (d.core c).seq.nextOp, h.reserved, d.cyc, false⟩
    let d := if isAttn i then d
             else d.modCore c (fun y => { y with seq := { y.seq with phase := .testSlice, nextOp := y.seq.nextOp + 1 },
                                                 aux := { y.aux with next := 6 } })
    (d.setRuns (Tbl.put d.rel.runs i run)).takeEntries i

/-- A CIM core with nothing to run, or an attention core with no descriptor. -/
def Device.idleCore (d : Device) (i : Nat) : Bool :=
  if isAttn i then
    let u := d.attnUnit (i / 13)
    u.cur.isNone && u.queue.isEmpty && (Tbl.find? d.rel.runs i).isNone
  else decide ((d.core (cimOf i)).seq.phase = .idle)

/-- An idle core runs its next slice at once (R362). -/
def Device.idleSlice (d : Device) (i : Nat) : Device :=
  if d.idleCore i && d.sliceReady i then d.startSlice i else d

/-- Idle cores of a cluster in turn, when a slice of the cluster has ended. -/
def Device.idleSlices (d : Device) (k : Nat) : Device :=
  (List.range 13).foldl (fun d j => d.idleSlice (k * 13 + j)) d

/-- Action 5: a reserved slice runs before the next step. Answers whether one started. -/
def Device.markSlice (d : Device) (i : Nat) : Bool × Device :=
  if (d.health i).reserved && d.sliceReady i then (true, d.startSlice i) else (false, d)

/-- An attention core takes descriptors: its cluster is ready, it has not stopped, and it is in no slice. -/
def Device.attnUp (d : Device) (k : Nat) : Bool :=
  (d.cluster k).ready && !(d.health (k * 13 + 12)).drained && (Tbl.find? d.rel.runs (k * 13 + 12)).isNone

/-- What an attention core does between descriptors: a slice that is overdue goes first, and an empty queue lets one run
(R362). -/
def Device.attnBetween (d : Device) (k : Nat) : Device :=
  let i := k * 13 + 12
  if (d.markSlice i).1 then (d.markSlice i).2 else d.idleSlice i

end Sys2Proof.Machine
end

