-- ==== Sys2Proof/Machine/SyncOps.lean ====
section
/-!
DEFINITION. Sync operations (13): SIGNAL, WAIT, ARRIVE of class 7, what arrives on SYNC, retries, and ELASTIC_START.
-/
namespace Sys2Proof.Machine

/-! ### Words (R139, R309, R313) -/

/-- The request that owns the step's first token: its context and tenant. -/
def Device.stepContext (d : Device) (c : Nat) : Nat × Nat :=
  match (d.core c).seq.rows.head? with
  | none => (0, 0)
  | some r => ((d.req r.slot).context, (d.req r.slot).tenant)

/-- This device owns the requests of a core's step. -/
def Device.ownsStep (d : Device) (c : Nat) : Bool := d.ownsInst (d.core c).seq.plan.inst

/-- Home device of the requests of a core's step. -/
def Device.stepHome (d : Device) (c : Nat) : Coord :=
  match (d.inst (d.core c).seq.plan.inst).maq with
  | none => d.fab.coord
  | some m => m.extra.serving.home

/-- An operation on a local object that can only fault (R309, R315). -/
def Device.objFaults (d : Device) (obj op a : Nat) : Bool :=
  match Tbl.find? d.sync.objs obj with
  | none => true
  | some o => o.lost || (decide (op = 2) && decide (a = 0 ∨ a > 65535 ∨ (o.barrier ≠ 0 ∧ o.barrier ≠ a)))

/-- The sync fault a word raises at issue (R139): no translation, or an operation the object refuses. -/
def Device.syncFault (d : Device) (c vid op a : Nat) : Option Nat :=
  if !d.ownsStep c then none
  else
    match d.transEntry (d.stepContext c).1 vid with
    | none => some stSync
    | some e =>
      match d.targetOf ((d.peekH e.1 e.2 1).headD ⟨0#32, true⟩) with
      | none => some stSync
      | some (.here obj) => if d.objFaults obj op a then some stSync else none
      | some (.there _ _) => none

/-- An operation's tag once it needs no more waiting; the sequencer's one cycle has passed. -/
def Device.syncDone (d : Device) (c ident t : Nat) : Device := d.elasticDone c ident (t + 1)

def opFin (op : Nat) : Fin 3 := ⟨op % 3, Nat.mod_lt _ (by decide)⟩

/-- Sends an operation to another device and keeps its reference (R313): its tag signals on the answer, a SIGNAL's too,
since that is when the update is applied (R309). -/
def Device.sendSync (d : Device) (c ident : Nat) (dest : Coord) (msg : SyncMsg) : Device :=
  let r : RemoteOp := { ident := d.sync.nextRef, core := c, op := ident, dest := dest, msg := msg, retryAt := none }
  let d := d.setSync { d.sync with remote := d.sync.remote ++ [r], nextRef := d.sync.nextRef + 1 }
  d.send (.sync dest msg)

def Device.markSync (d : Device) (c ident : Nat) : Device :=
  d.modCore c (fun x => { x with seq := { x.seq with ops := x.seq.ops.map (fun (y : ElOp) =>
    if y.ident = ident then { y with started := true } else y) } })

/-- Starts a queued sync operation at cycle `t`: `srcH` is the operation, `srcOff` the value, `dstH` the context, `dstOff`
the virtual ID, `len` the tenant. -/
def Device.startSync (d : Device) (c : Nat) (o : ElOp) (t : Nat) : Device :=
  let a : Word := BitVec.ofNat 32 o.srcOff
  let ref := d.sync.nextRef
  if !d.ownsStep c then
    (d.markSync c o.ident).sendSync c o.ident (d.stepHome c)
      (.virtualOp d.fab.coord (BitVec.ofNat 9 o.len) (BitVec.ofNat 11 o.dstH) (BitVec.ofNat 12 o.dstOff) (opFin o.srcH) a ref)
  else
    let tr := d.translate o.dstH o.dstOff
    match tr.1 with
    | none => tr.2.endStep c stSync t 0
    | some (.there dev obj) =>
      (tr.2.markSync c o.ident).sendSync c o.ident dev
        (.physicalOp tr.2.fab.coord (BitVec.ofNat 9 o.len) (BitVec.ofNat 14 obj) (opFin o.srcH) a ref)
    | some (.here obj) =>
      let w : Waiter := ⟨obj, false, a, 0, some (c, o.ident), tr.2.fab.coord, 0⟩
      match tr.2.syncApply obj o.srcH a w with
      | (.done, d) => d.syncDone c o.ident t
      | (.waiting, d) => d.markSync c o.ident
      | (.full, d) => d
      | (.fault, d) => d.endStep c stSync t 0

/-- A sync word (R139). On a device that does not own the requests, the context the packet carries is the request's on
its owner, which this device does not hold. A later word that waits on its tag past the hold limit reports agent 00b,
DMA: Tab. 5.3 codes no sync operation (log 153). -/
def Device.syncWord (d : Device) (c : Nat) (w : StepWord) (op : Nat) : Device :=
  let vid := fld w 51 40
  let a := fld w 83 52
  d.run c w (fun d => { listed := listedWord w 7 op, fault := d.syncFault c vid op a, units := [⟨.sequencer, 0, 1⟩],
                        latency := 1, elastic := some 0 })
    (fun t d =>
      let own := d.ownsStep c
      let f := d.fresh
      let ctx := if own then d.stepContext c else ((f.1.setWidth 11).toNat, d.stepTenant c)
      let d := if own then d else f.2
      let id := (d.core c).seq.nextOp
      let o : ElOp := { ident := id, kind := .sync, tag := wTag w, queued := t, started := false, ofStep := true,
                        srcH := op, srcOff := a, dstH := ctx.1, dstOff := vid, len := ctx.2, desc := none, data := [] }
      (d.queueOp c o).startSync c o t)

/-- SIGNAL (R309). -/
def execSignal (c : CoreIx) (w : StepWord) (s : State) : Host.Outcome State Fault Refusal :=
  s.lift (fun d => d.syncWord c w 0)

/-- WAIT (R309). -/
def execWait (c : CoreIx) (w : StepWord) (s : State) : Host.Outcome State Fault Refusal :=
  s.lift (fun d => d.syncWord c w 1)

/-- ARRIVE (R309). -/
def execArrive (c : CoreIx) (w : StepWord) (s : State) : Host.Outcome State Fault Refusal :=
  s.lift (fun d => d.syncWord c w 2)

/-! ### ELASTIC_START (R99, R100, R315) -/

/-- The reads of memory tiles that an operation makes when it has started. -/
def Device.combineStarted (d : Device) (c id cycle : Nat) : Device :=
  match List.find? (fun (y : ElOp) => decide (y.ident = id) && y.started) (d.core c).seq.ops with
  | none => d
  | some y => (d.dropRows c id).combineReads c y cycle

/-- ELASTIC_START: a waiting elastic operation of a core tries to start at a cycle. -/
def execElasticStart (c : CoreIx) (id cycle : Nat) (s : State) : Host.Outcome State Fault Refusal :=
  s.lift (fun d =>
    match List.find? (fun (o : ElOp) => decide (o.ident = id) && !o.started) (d.core c).seq.ops with
    | none => d
    | some o =>
      let d := (d.reachCyc cycle).landUpTo c cycle
      if o.kind = .sync then d.startSync c o cycle
      else
        (d.startOp c o cycle).combineStarted c id cycle)

/-! ### What arrives on SYNC (R313, R315) -/

/-- Applies an operation from another device to a physical object here, and answers its requester. -/
def Device.applyFor (d : Device) (src : Coord) (tenant obj op : Nat) (a : Word) (ref : Nat) : Device :=
  match Tbl.find? d.sync.objs obj with
  | none => d.send (.sync src (.fault ref))
  | some o =>
    if o.tenant ≠ tenant then d.send (.sync src (.fault ref))
    else
      match d.syncApply obj op a ⟨obj, false, a, 0, none, src, ref⟩ with
      | (.done, d) => d.send (.sync src (.satisfied ref))
      | (.waiting, d) => d
      | (.full, d) => d.send (.sync src (.retry ref))
      | (.fault, d) => d.send (.sync src (.fault ref))

def Device.remoteOp? (d : Device) (ref : Nat) : Option RemoteOp :=
  d.sync.remote.find? (fun r => decide (r.ident = ref))

def Device.dropRemote (d : Device) (ref : Nat) : Device :=
  d.setSync { d.sync with remote := d.sync.remote.filter (fun r => decide (r.ident ≠ ref)) }

/-- The step of a core ends with a sync fault, when one runs. -/
def Device.syncFaultStep (d : Device) (c : Nat) : Device :=
  let q := (d.core c).seq
  if (q.phase = .running ∨ q.phase = .drain) ∧ q.ended = false then d.endStep c stSync d.cyc 0 else d

/-- SYNC_PACKET_RECEIVE (R313). -/
def execSyncPacketReceive (m : SyncMsg) (s : State) : Host.Outcome State Fault Refusal :=
  s.lift (fun d =>
    match m with
    | .virtualOp src tenant ctx vid op a ref =>
      let tr := d.translate ctx.toNat vid.toNat
      match tr.1 with
      | none => tr.2.send (.sync src (.fault ref))
      | some (.here obj) => tr.2.applyFor src tenant.toNat obj op.val a ref
      | some (.there dev obj) => tr.2.send (.sync dev (.physicalOp src tenant (BitVec.ofNat 14 obj) op a ref))
    | .physicalOp src tenant obj op a ref => d.applyFor src tenant.toNat obj.toNat op.val a ref
    | .virtualLeave src tenant ctx vid ref =>
      let tr := d.translate ctx.toNat vid.toNat
      match tr.1 with
      | none => tr.2
      | some (.here obj) => tr.2.leaveFor src tenant.toNat obj ref
      | some (.there dev obj) => tr.2.send (.sync dev (.physicalLeave src tenant (BitVec.ofNat 14 obj) ref))
    | .physicalLeave src tenant obj ref => d.leaveFor src tenant.toNat obj.toNat ref
    | .satisfied ref =>
      match d.remoteOp? ref with
      | none => d
      | some r => (d.dropRemote ref).elasticDone r.core r.op d.cyc
    | .fault ref =>
      match d.remoteOp? ref with
      | none => d
      | some r => (d.dropRemote ref).syncFaultStep r.core
    | .retry ref =>
      d.setSync { d.sync with remote := d.sync.remote.map (fun r =>
        if r.ident = ref then { r with retryAt := some (d.clk.up + 1000) } else r) })

/-- REMOTE_WAITER_RETRY (R315): 1 µs after a retry response the operation is sent again. -/
def execRemoteWaiterRetry (id : Nat) (s : State) : Host.Outcome State Fault Refusal :=
  s.lift (fun d =>
    match d.remoteOp? id with
    | none => d
    | some r =>
      match r.retryAt with
      | none => d
      | some u =>
        let d := (d.reach u).setSync { d.sync with remote := d.sync.remote.map (fun y =>
          if y.ident = id then { y with retryAt := none } else y) }
        (d.bump (key 0xB030 5) 1).send (.sync r.dest r.msg))

end Sys2Proof.Machine
end

