-- ==== Sys2Proof/Machine/Attention.lean ====
section
/-!
DEFINITION. Attention (08): descriptors (R191, R192), KV formats (R81, R179), partials and their merge (R193–R197), page
requests between attention cores (R202, R203). Costs (R198–R201) are timing and stand outside.
-/
namespace Sys2Proof.Machine

/-! ### KV vectors (R81, R179, R192) -/

def Val.of (x : F32) (p : Bool) : Val := ⟨x, p, .none, false⟩

/-- A stored vector's values. -/
def kvDecode (fmt dh : Nat) (bs : List (Byte × Bool)) : List Val :=
  let at_ := fun (i : Nat) => bs.getD i (0, true)
  if fmt = 0 then bs.map (fun b => Val.of (e4m3ToF32 b.1) b.2)
  else if fmt = 1 then bs.map (fun b => Val.of (e5m2ToF32 b.1) b.2)
  else if fmt = 2 then (List.range dh).map (fun i =>
    Val.of (BitVec.ofNat 32 (((at_ (2 * i)).1.toNat + 256 * (at_ (2 * i + 1)).1.toNat) * 65536))
      ((at_ (2 * i)).2 || (at_ (2 * i + 1)).2))
  else (List.range dh).map (fun i =>
    let g := i / 64 * 33
    let b := at_ (g + 1 + i % 64 / 2)
    let q := signedOf 4 (b.1.toNat / 16 ^ (i % 2) % 16)
    Val.of (f32Mul (f32OfInt q) (e4m3ToF32 (at_ g).1)) (b.2 || (at_ g).2))

/-- The smallest E4M3 value at least A / 7, as its code, and whether 448 does not reach it (R81). -/
def kvScale (a : F32) : Nat × Bool :=
  if f32IsZero a then (0, false)
  else
    match (List.range 127).find? (fun c => f32Le a (f32Mul (f32OfInt 7) (e4m3ToF32 (BitVec.ofNat 8 c)))) with
    | some c => (c, false)
    | none => (126, true)

/-- A group of 64 elements in 33 bytes, its poison, whether it marks the request degraded. `free` gives the nibble of an
element that is no number: its word is poisoned and the spec names none (log 83). The largest magnitude, and so the scale,
of a group that holds a NaN is taken over its other elements (log 154). -/
def kvGroup (free : Nat) (xs : List Val) : List (Byte × Bool) × Bool :=
  let bad := xs.any (fun x => x.poison || f32IsNaN x.v)
  let inf := xs.any (fun x => f32IsInf x.v)
  let vs := xs.map (fun x => if f32IsInf x.v then bf16Max (f32Neg x.v) else x.v)
  let s := kvScale (maxAbs (vs.filter (fun v => !f32IsNaN v)))
  let sv := e4m3ToF32 (BitVec.ofNat 8 s.1)
  let q := fun (x : F32) =>
    if f32IsNaN x then free % 16
    else if f32IsZero sv then 0
    else lowBits 4 (clampInt (-8) 7 (f32ScaleRound (f32Div x sv) 0))
  let ns := vs.map q
  let body := (List.range 32).map (fun i => (BitVec.ofNat 8 (ns.getD (2 * i) 0 + 16 * ns.getD (2 * i + 1) 0), bad))
  ((BitVec.ofNat 8 s.1, bad) :: body, inf || s.2)

/-- A vector of BF16 values in the stream's format: bytes with their poison, and whether R81 marks degraded. -/
def kvEncode (free fmt : Nat) (xs : List Val) : List (Byte × Bool) × Bool :=
  if fmt = 0 then (xs.map (fun x => (f32ToE4m3 x.v, x.poison || f32IsNaN x.v)), false)
  else if fmt = 1 then (xs.map (fun x => (f32ToE5m2 x.v, x.poison || f32IsNaN x.v)), false)
  else if fmt = 2 then
    (xs.flatMap (fun x => (leBytes 2 (x.v.toNat / 65536)).map (fun b => (b, x.poison || f32IsNaN x.v))), false)
  else
    let gs := (chunksOf 64 (xs.length / 64) xs).map (kvGroup free)
    (gs.flatMap (·.1), gs.any (·.2))

/-- A query rounded to the stream's format (R193). -/
def queryRound (fmt : Nat) (x : Val) : Val :=
  if fmt = 0 then { x with v := e4m3ToF32 (f32ToE4m3 x.v) }
  else if fmt = 1 then { x with v := e5m2ToF32 (f32ToE5m2 x.v) } else x

/-! ### Partials (R194, R195) -/

def Partial.neutral (n : Nat) : Partial :=
  ⟨f32NegInf, 0#32, List.replicate n 0#32, List.replicate n false, false⟩

/-- R195. -/
def Partial.merge (a b : Partial) : Partial :=
  if a.mu = f32NegInf then { b with bad := List.zipWith (· || ·) a.bad b.bad, degraded := a.degraded || b.degraded }
  else if b.mu = f32NegInf then { a with bad := List.zipWith (· || ·) a.bad b.bad, degraded := a.degraded || b.degraded }
  else
    let mu := f32MaxOp a.mu b.mu
    let fa := ((Val.of a.mu false).op2 f32Sub (Val.of mu false)).op1 f32ExpFn
    let fb := ((Val.of b.mu false).op2 f32Sub (Val.of mu false)).op1 f32ExpFn
    let mix := fun (x y : F32) => ((Val.of x false).op2 f32Mul fa).op2 f32Add ((Val.of y false).op2 f32Mul fb)
    let l := mix a.lam b.lam
    let os := List.zipWith mix a.o b.o
    let bad := List.zipWith (fun (v : Val) (p : Bool) => v.poison || p) os (List.zipWith (· || ·) a.bad b.bad)
    ⟨mu, l.v, os.map (·.v), bad.map (fun x => x || l.poison), a.degraded || b.degraded || l.degraded || os.any (·.degraded)⟩

/-- x_0·k_0 + x_1·k_1 + … in FP32, ascending (R193). -/
def dotSum (xs ks : List Val) : Val :=
  (List.zip xs ks).foldl (fun acc p => acc.op2 f32Add (p.1.op2 f32Mul p.2)) (Val.of 0#32 false)

/-- R194 on one block: its keys and values, ascending, those of the key set only. -/
def blockPartial (x : List Val) (scale : F32) (dh : Nat) (kvs : List (List Val × List Val)) : Partial :=
  match kvs with
  | [] => Partial.neutral dh
  | _ =>
    let ss := kvs.map (fun kv => (dotSum x kv.1).op2 f32Mul (Val.of scale false))
    let keyBad := ss.any (·.poison)
    let mu := ss.foldl (fun m s => f32MaxOp m s.v) f32NegInf
    let ds := ss.map (fun s => s.op2 f32Sub (Val.of mu false))
    let deg := ds.any (·.degraded)
    let ps := ds.map (fun s => bf16Round (f32ExpFn s.v))
    let lam := ps.foldl (fun a p => f32Add a p) 0#32
    let os := (List.range dh).map (fun i =>
      (List.zip ps kvs).foldl (fun (acc : Val) p =>
        acc.op2 f32Add ((Val.of p.1 false).op2 f32Mul (p.2.2.getD i (Val.of 0#32 true)))) (Val.of 0#32 false))
    ⟨mu, lam, os.map (fun v => if v.v = 0x80000000#32 then 0#32 else v.v), os.map (fun v => v.poison || keyBad),
     deg || os.any (·.degraded)⟩

/-! ### The partial of a page (R196) -/

/-- Where a page's areas lie and how. -/
structure PageView where
  addr : Nat
  tokens : Nat
  format : Nat
  layers : Nat
  heads : Nat
  headSize : Nat
  deriving DecidableEq, Repr

def PageView.stream (p : PageView) : Stream :=
  { layers := p.layers, heads := p.heads, headSize := p.headSize, format := p.format, cross := false, group := 1,
    window := 0, home := 0#18, homeCluster := 0, first := 0 }

/-- The stored vector of one token of an area: v is 0 for the key, 1 for the value. -/
def Device.readKv (d : Device) (p : PageView) (layer head v i : Nat) : List Val × Device :=
  let s := p.stream
  let r := d.readBytes (p.addr + s.areaOff p.tokens layer head v + i * s.stride) s.stride
  (kvDecode p.format p.headSize r.1, r.2)

/-- Keys and values of offsets `i` to `i + n − 1`. -/
def Device.readKvs (d : Device) (p : PageView) (layer head : Nat) : Nat → Nat → List (List Val × List Val) × Device
  | 0, _ => ([], d)
  | n + 1, i =>
    let k := d.readKv p layer head 0 i
    let v := k.2.readKv p layer head 1 i
    let r := v.2.readKvs p layer head n (i + 1)
    ((k.1, v.1) :: r.1, r.2)

/-- The partial of a page for one query: the left-to-right merge of its blocks of 128 keys. `kvs` are the page's keys from
offset `lo`. -/
def pagePartial (x : List Val) (scale : F32) (dh lo : Nat) (kvs : List (List Val × List Val)) (from_ dst : Nat)
    (excluded : List Nat) : Partial :=
  let keep := fun (i : Nat) => decide (from_ ≤ i ∧ i < dst) && !excluded.contains i
  let mine := (numbered lo kvs).filter (fun e => keep e.1)
  let blocks := ((List.range 512).map (fun b => (mine.filter (fun e => decide (e.1 / 128 = b))).map (·.2))).filter
    (fun b => !b.isEmpty)
  blocks.foldl (fun acc b => Partial.merge acc (blockPartial x scale dh b)) (Partial.neutral dh)

/-- Partials of a page for every query of a head group. -/
def Device.pageParts (d : Device) (p : PageView) (layer head : Nat) (qs : List PageQuery) (scale : F32)
    (excluded : List Nat) : List Partial × Device :=
  let live := qs.filter (fun q => decide (q.lo < q.hi))
  let lo := live.foldl (fun m q => min m q.lo) p.tokens
  let hi := live.foldl (fun m q => max m q.hi) 0
  let r := d.readKvs p layer head (min hi p.tokens - lo) lo
  (qs.map (fun q => pagePartial (q.x.map (fun x => Val.of x false)) scale p.headSize lo r.1 q.lo q.hi excluded), r.2)

/-! ### Descriptors (Tab. 8.6) -/

/-- The fields of a descriptor. -/
structure Desc where
  slot : Nat
  stream : Nat
  layer : Nat
  write : Bool
  owner : Coord
  client : Nat
  entPos : Nat
  nNew : Nat
  qPos : Nat
  q : Nat
  qH : Nat
  qOff : Nat
  eH : Nat
  eOff : Nat
  oH : Nat
  oOff : Nat
  scale : F32
  sync : Nat
  signal : Bool
  maskH : Nat
  deriving DecidableEq, Repr

def descOf (ws : List Nat) : Desc :=
  let w := fun (i : Nat) => ws.getD i 0
  { slot := bits (w 0) 15 0, stream := bits (w 0) 18 16, layer := bits (w 0) 26 19, write := bit (w 0) 27,
    owner := BitVec.ofNat 18 (w 1), client := w 2, entPos := bits (w 3) 22 0, nNew := bits (w 4) 14 0,
    qPos := bits (w 5) 22 0, q := if bit (w 0) 27 then 0 else bits (w 6) 14 0, qH := bits (w 7) 12 0, qOff := w 8,
    eH := bits (w 9) 12 0, eOff := w 10, oH := bits (w 11) 12 0, oOff := w 12, scale := BitVec.ofNat 32 (w 13),
    sync := bits (w 14) 11 0, signal := bit (w 14) 12, maskH := bits (w 15) 12 0 }

/-- R192 step 1: the owner record of page 0 names owner, slot and client; a page 0 on another device is named by its entry's
owner word and the request itself, or by what it was asked for. -/
def Device.descOwner (d : Device) (x : Desc) : Option (Nat × Nat × Nat) :=
  match d.frameOf x.owner x.slot x.stream 0 with
  | some f => if f.2.client = x.client then some (f.2.inst, f.2.kv, f.2.tenant) else none
  | none =>
    let r := d.req x.slot
    if x.owner = d.fab.coord ∧ (d.entryOf x.owner x.slot x.stream 0).isSome ∧ r.client = x.client then
      some (r.inst, r.kvClass, r.tenant)
    else
      (d.attn.asked.find? (fun a => a.isOf x.owner x.slot && decide (a.q.stream.val = x.stream ∧ a.q.page = 0#11 ∧
        a.q.clientId.toNat = x.client ∧ x.owner ≠ d.fab.coord) && (match a.st with | .placed _ => true | _ => false))).map
        (fun a => (a.q.inst.toNat, a.q.kvClass.toNat, a.q.tenant.toNat))

/-- Query vectors, queries × heads of the group × KV heads; and the bytes of each area. -/
def Stream.vectors (s : Stream) (q : Nat) : Nat := q * s.group * s.heads
def Stream.queryBytes (s : Stream) (q : Nat) : Nat := 2 * s.headSize * s.vectors q
def Stream.entryBytes (s : Stream) (n : Nat) : Nat := 4 * s.headSize * s.heads * n
def Stream.outBytes (s : Stream) (q : Nat) : Nat := 4 * s.headSize * s.vectors q + 4 * q

/-- An area lies in the cluster's attention buffer, the tenant may reach it, and the handle holds it: the fault
otherwise. -/
def Device.areaFault (d : Device) (k t h off len : Nat) (write : Bool) : Option Nat :=
  if len = 0 then none
  else
    match d.handle? h with
    | none => some stHandle
    | some x =>
      if x.allows t write = false ∨ x.remote = true ∨ x.cluster ≠ k ∨ x.unit ≠ 12 then some stHandle
      else if off % 64 ≠ 0 ∨ off + len > x.bytes then some stRange else none

/-- The key mask's handle holds m bits the tenant may read. -/
def Device.maskFault (d : Device) (t : Nat) (s : Stream) (x : Desc) : Option Nat :=
  if !s.cross || decide (x.maskH = 0 ∨ x.write = true) then none
  else
    match d.handle? x.maskH with
    | none => some stHandle
    | some h => if h.allows t false = false ∨ h.remote = true then some stHandle
                else if ceilDiv x.qPos 8 > h.bytes then some stRange else none

/-- Tokens the pages of a stream hold. -/
def Device.tokensHeld (d : Device) (c : KvClass) (owner : Coord) (slot stream : Nat) : Nat :=
  c.pageStart (if owner = d.fab.coord then d.pagesHeld slot stream else d.pagesHome owner slot stream)

/-- A descriptor whose positions leave the request's pages, or reach position 4,194,304 (R192, R205). -/
def Desc.outside (x : Desc) (s : Stream) (held : Nat) : Bool :=
  decide (max (x.entPos + x.nNew) (if x.write then 0 else if s.cross then x.qPos else x.qPos + x.q) > 4194304) ||
  decide (x.layer ≥ s.layers ∨ x.nNew > 16384 ∨ x.q > 16384 ∨ x.entPos + x.nNew > held) ||
  (!x.write && decide (if s.cross then x.qPos > held else x.qPos + x.q > held))

/-! ### New entries (R192 step 2) -/

/-- BF16 elements of words as values. -/
def bf16Vals (ws : List RWord) : List Val :=
  ws.flatMap (fun (x : RWord) => [Val.of (x.w <<< 16) x.poison, Val.of (x.w &&& 0xFFFF0000#32) x.poison])

/-- A page's place: a frame of this device, or another device with its own entry. -/
def Device.placeOf (d : Device) (e : Nat) : PageEnt := d.pageEnt e

/-- Pages that hold the positions of the new entries. -/
def Desc.newPages (x : Desc) (c : KvClass) : List Nat :=
  if x.nNew = 0 then []
  else
    let a := (c.pageOf x.entPos).1
    (List.range ((c.pageOf (x.entPos + x.nNew - 1)).1 - a + 1)).map (fun i => a + i)

/-- A descriptor's walk: each page once, in ascending order (R188); the entry of each page found. -/
def Device.walkAll (d : Device) (k : Nat) (x : Desc) : List Nat → Tbl Nat × Device
  | [] => ([], d)
  | p :: ps =>
    let w := d.walk k x.owner x.slot x.stream p
    let r := w.2.walkAll k x ps
    match w.1 with
    | none => r
    | some e => (Tbl.put r.1 p e, r.2)

/-- Marks the result of a request degraded, by the device that owns it: here, or told to it (R17). -/
def Device.degradeAt (d : Device) (owner : Coord) (slot : Nat) : Device :=
  if owner = d.fab.coord then d.degrade slot else d.send (.stepStatus owner slot 0 true none)

/-- Rule 2 of R174 for a KV page: each core that runs a step of the request notes it at its position; with no step that
runs, the request fails with poison, counted in 8010h.08. -/
def Device.poisonPages (d : Device) (inst : Nat) (x : Desc) : Device :=
  let cs := (List.filter (fun (e : Nat × CimCore) => decide (e.2.seq.phase = .running ∨ e.2.seq.phase = .drain) &&
    decide (e.2.seq.plan.inst = inst) && e.2.seq.rows.any (fun r => decide (r.slot = x.slot))) d.cim.cores).map (·.1)
  if cs.isEmpty then (d.failAt x.owner x.slot 0x06).bump (key 0x8010 8) 1
  else
    cs.foldl (fun (d : Device) c => d.modCore c (fun y =>
      let ps := (List.filter (fun (r : LenRow × Nat) => decide (r.1.slot = x.slot)) y.seq.rows.zipIdx).map (·.2)
      { y with seq := ps.foldl (fun (q : Seq) p => q.notePoison (.pos p)) y.seq })) d

/-- Writes one stored vector of a token into the page that holds its position; `at_` holds the entries the walk found. -/
def Device.putKv (d : Device) (at_ : Tbl Nat) (c : KvClass) (s : Stream) (x : Desc) (pos h v : Nat) (val : List Val) : Device :=
  let pg := c.pageOf pos
  match Tbl.find? at_ pg.1 with
  | none => d
  | some e =>
    let p := d.pageEnt e
    let f := d.fresh
    let enc := kvEncode f.1.toNat s.format val
    let d := if s.format = 3 ∧ val.any (fun y => f32IsNaN y.v) = true then f.2 else d
    let off := s.areaOff p.tokens x.layer h v + pg.2 * s.stride
    let d := if p.remote then d.send (.rows p.dev p.far off enc.1) else d.writeBytes (p.addr + off) enc.1
    if enc.2 then d.degradeAt x.owner x.slot else d

/-- Writes `n` entries of a descriptor from number `i` on. -/
def Device.putEntries (d : Device) (at_ : Tbl Nat) (c : KvClass) (s : Stream) (x : Desc) (vals : List Val) : Nat → Nat → Device
  | 0, _ => d
  | n + 1, i =>
    let one := fun (h v : Nat) => ((vals.drop (((i * s.heads + h) * 2 + v) * s.headSize)).take s.headSize)
    let d := (List.range s.heads).foldl (fun (d : Device) h =>
      (d.putKv at_ c s x (x.entPos + i) h 0 (one h 0)).putKv at_ c s x (x.entPos + i) h 1 (one h 1)) d
    d.putEntries at_ c s x vals n (i + 1)

/-! ### Attending (R192 step 3, R202) -/

/-- Key range of query `j` (R193). -/
def Desc.keys (x : Desc) (s : Stream) (j : Nat) : Nat × Nat :=
  if s.cross then (0, x.qPos)
  else
    let t := x.qPos + j
    (if s.window = 0 then 0 else t + 1 - s.window, t + 1)

/-- Pages that hold a key of some query. -/
def Desc.pages (x : Desc) (c : KvClass) (s : Stream) : List Nat :=
  let rs := (List.range x.q).map (x.keys s)
  let lo := rs.foldl (fun m r => min m r.1) (2 ^ 22)
  let hi := rs.foldl (fun m r => max m r.2) 0
  if lo < hi then
    let a := (c.pageOf lo).1
    (List.range ((c.pageOf (hi - 1)).1 - a + 1)).map (fun i => a + i)
  else []

/-- Queries of one KV head for one page; their keys lie below the stream's written length (R196). -/
def Desc.pageQueries (x : Desc) (c : KvClass) (s : Stream) (wl page h : Nat) (vecs : List (List Val)) : List PageQuery :=
  let st := c.pageStart page
  let n := c.pageTokens page
  (List.range x.q).flatMap (fun j => (List.range s.group).map (fun i =>
    let r := x.keys s j
    ⟨(vecs.getD ((j * s.heads + h) * s.group + i) []).map (·.v), min n (r.1 - st), min n (min r.2 wl - st)⟩))

/-- Key of a part: KV head, level, index. -/
def partKey (h level ix : Nat) : Nat := h * 2 ^ 15 + level * 2 ^ 11 + ix

/-- Offsets of a page that the key mask excludes; and whether a word of the mask is poisoned. -/
def Device.maskOf (d : Device) (s : Stream) (x : Desc) : (List Nat × Bool) × Device :=
  if !s.cross || decide (x.maskH = 0) then (([], false), d)
  else
    let r := d.readH x.maskH 0 (ceilDiv x.qPos 32)
    let v := wordsNat r.1
    (((List.range x.qPos).filter (fun j => v.testBit j), r.1.any (·.poison)), r.2)

/-- One page of a descriptor for every KV head: computed here, or asked of the core that holds it. -/
def Device.attendPage (d : Device) (k : Nat) (at_ : Tbl Nat) (c : KvClass) (s : Stream) (x : Desc) (vecs : List (List Val))
    (excl : List Nat) (j : DescJob) (page : Nat) : DescJob × Device :=
  match Tbl.find? at_ page with
  | none => ({ j with failed := true }, d.failAt x.owner x.slot 0x0E)
  | some e =>
    let p := d.pageEnt e
    let wl := d.writtenLen x.owner x.slot x.stream
    let st := c.pageStart page
    let ex := (excl.filter (fun i => decide (st ≤ i ∧ i < st + c.pageTokens page))).map (fun i => i - st)
    (List.range s.heads).foldl (fun (a : DescJob × Device) h =>
      let qs := x.pageQueries c s wl page h vecs
      if p.remote = false ∧ p.cluster = k then
        let r := a.2.pageParts ⟨p.addr, p.tokens, p.format, s.layers, s.heads, s.headSize⟩ x.layer h qs x.scale ex
        ({ a.1 with parts := Tbl.put a.1.parts (partKey h 0 page) r.1 }, r.2)
      else
        let q : PageReq := ⟨a.2.fab.coord, Fin.ofNat 16 k, x.owner, BitVec.ofNat 16 x.slot, Fin.ofNat 8 x.stream,
          BitVec.ofNat 11 page, BitVec.ofNat 19 (if p.remote then p.far else e), x.layer, h, qs, x.scale, s.layers, s.heads,
          s.headSize, ex⟩
        (a.1, a.2.send (.pageReq (if p.remote then p.dev else a.2.fab.coord) (if p.remote then 0 else p.cluster) q)))
      (j, d)

/-! ### ATTENTION_DESCRIPTOR (R192) -/

/-- A descriptor discarded as stale, or because words of it are poisoned. -/
def Device.dropDesc (d : Device) (x : Desc) (ws : List (Word × Bool)) : Device :=
  let d := d.bump (key 0x8022 6) 1
  if ws.any (·.2) && (ws.take 3).all (fun w => !w.2) && (d.descOwner x).isSome then d.failAt x.owner x.slot 6 else d

/-- A taken descriptor that passed the owner check. -/
def Device.startDesc (d : Device) (k : Nat) (words : List Nat) (x : Desc) (c : KvClass) (s : Stream) (inst tenant : Nat) :
    DescJob × Device :=
  let j : DescJob := ⟨words, [], [], [], false, false, false⟩
  if x.outside s (d.tokensHeld c x.owner x.slot x.stream) then ({ j with range := true }, d.failAt x.owner x.slot stRange)
  else
    match firstFault [d.areaFault k tenant x.eH x.eOff (s.entryBytes x.nNew) false,
        if x.write then none else d.areaFault k tenant x.qH x.qOff (s.queryBytes x.q) false,
        if x.write then none else d.areaFault k tenant x.oH x.oOff (s.outBytes x.q) true, d.maskFault tenant s x] with
    | some f => ({ j with handle := true }, d.failAt x.owner x.slot f)
    | none =>
      let need := if x.write then [] else x.pages c s
      let w := d.walkAll k x ((List.range (c.pageOf (max (x.entPos + x.nNew) (max (x.qPos + x.q) x.qPos))).1.succ).filter
        (fun p => (x.newPages c).contains p || need.contains p))
      let d := w.2
      let er := d.readH x.eH x.eOff (s.entryBytes x.nNew / 4)
      let vals := bf16Vals er.1
      let d := if x.nNew = 0 then d
        else (er.2.putEntries w.1 c s x vals x.nNew 0).noteWritten x.owner x.slot x.stream (x.entPos + x.nNew)
      let d := if vals.any (fun v => v.poison || f32IsNaN v.v) then d.poisonPages inst x else d
      if x.write then (j, d)
      else
        let qr := d.readH x.qH x.qOff (s.queryBytes x.q / 4)
        let vecs := chunksOf s.headSize (s.vectors x.q) ((bf16Vals qr.1).map (queryRound s.format))
        let m := qr.2.maskOf s x
        let badQ := ((vecs.zipIdx).filter (fun v => v.1.any (·.poison))).map (·.2)
        let j := { j with need := need, badQ := badQ, failed := m.1.2 || d.attn.lost.contains (x.owner, x.slot, x.client) }
        j.need.foldl (fun (a : DescJob × Device) p => a.2.attendPage k w.1 c s x vecs m.1.1 a.1 p) (j, m.2)

/-- ATTENTION_DESCRIPTOR: the core takes the oldest queued descriptor when it has none in progress. -/
def execAttentionDescriptor (k : ClusterIx) (s : State) : Host.Outcome State Fault Refusal :=
  s.lift (fun d =>
    let u := d.attnUnit k.val
    if !d.attnUp k.val || !u.pausing.isEmpty || !u.pauseQ.isEmpty then d else
    match u.cur, u.queue with
    | none, ws :: rest =>
      let d := d.setAttn k.val { u with queue := rest }
      let words := ws.map (fun w => w.1.toNat)
      let x := descOf words
      let own := d.descOwner x
      match if ws.any (·.2) then none else own with
      | none => d.dropDesc x ws
      | some o =>
        match d.kvClass? o.1 o.2.1 with
        | none => d.dropDesc x ws
        | some c =>
          match c.streams[x.stream]? with
          | none => d.dropDesc x ws
          | some st =>
            let r := d.startDesc k.val words x c st o.1 o.2.2
            r.2.setAttn k.val { r.2.attnUnit k.val with cur := some r.1 }
    | _, _ => d)

/-! ### Outputs (R196, R197, R203) -/

/-- A node of the merge tree over `n` pages: what arrived for the whole subtree, else its children merged; none while a
page of it is missing. A page of no key stands as neutral. -/
def treeNode (parts : Tbl (List Partial)) (need : List Nat) (h n count dh : Nat) : Nat → Nat → Option (List Partial)
  | 0, ix =>
    match Tbl.find? parts (partKey h 0 ix) with
    | some p => some p
    | none => if need.contains ix then none else some (List.replicate count (Partial.neutral dh))
  | l + 1, ix =>
    match Tbl.find? parts (partKey h (l + 1) ix) with
    | some p => some p
    | none =>
      match treeNode parts need h n count dh l (2 * ix) with
      | none => none
      | some a =>
        if (2 * ix + 1) * 2 ^ l ≥ n then some a
        else
          match treeNode parts need h n count dh l (2 * ix + 1) with
          | none => none
          | some b => some (List.zipWith Partial.merge a b)

/-- Levels of the tree over `n` pages. -/
def treeLevels (n : Nat) : Nat := if n ≤ 1 then 0 else Nat.log2 (n - 1) + 1

/-- Partials of every query of a KV head over the whole stream. -/
def DescJob.merged (j : DescJob) (x : Desc) (s : Stream) (h : Nat) : Option (List Partial) :=
  let n := j.need.foldl (fun m p => max m (p + 1)) 1
  let count := x.q * s.group
  if j.failed then some (List.replicate count (Partial.neutral s.headSize)) else treeNode j.parts j.need h n count s.headSize (treeLevels n) 0

/-- A query head's outputs (R197): values with poison, whether it is empty, whether it degrades. -/
def outputOf (p : Partial) : List RWord × Bool × Bool :=
  if p.mu = f32NegInf then ((List.zip p.o p.bad).map (fun b => ⟨0#32, b.2⟩), true, p.degraded)
  else
    let ys := (List.zip p.o p.bad).map (fun o => (Val.of o.1 o.2).op2 f32Div (Val.of p.lam false))
    (ys.map (fun y => ⟨y.v, y.poison⟩), false, p.degraded || ys.any (·.degraded))

/-- Signals a descriptor's completion (R192 step 4): +1 on the sync object of its request's context; the owner's device
translates a virtual ID of a request of its own. -/
def Device.signalDesc (d : Device) (x : Desc) (tenant : Nat) : Device :=
  if !x.signal then d
  else if x.owner ≠ d.fab.coord then
    let f := d.fresh
    f.2.send (.sync x.owner (.virtualOp f.2.fab.coord (BitVec.ofNat 9 tenant) (f.1.setWidth 11) (BitVec.ofNat 12 x.sync)
      (opFin 0) 1#32 0))
  else
    let t := d.translate (d.req x.slot).context x.sync
    match t.1 with
    | none => t.2
    | some (.there dev obj) =>
      t.2.send (.sync dev (.physicalOp t.2.fab.coord (BitVec.ofNat 9 tenant) (BitVec.ofNat 14 obj) (opFin 0) 1#32 0))
    | some (.here obj) => (t.2.syncApply obj 0 1#32 ⟨obj, false, 1#32, 0, none, t.2.fab.coord, 0⟩).2

/-- Outputs of a descriptor that lost a page or whose mask is poisoned: free words, all poisoned; none is empty (R204). -/
def Device.writePoisoned (d : Device) (x : Desc) (s : Stream) : Device :=
  let r := d.freshWords (s.headSize * s.vectors x.q)
  r.2.writeH x.oH x.oOff (r.1.map (fun w => { w with poison := true }) ++ List.replicate x.q ⟨2#32, false⟩)

/-- Writes the outputs and status words of a descriptor whose parts are whole. -/
def Device.writeOutputs (d : Device) (x : Desc) (s : Stream) (badQ : List Nat) (hs : List (List Partial)) : Device :=
  let vec := fun (n : Nat) =>
    let j := n / (s.group * s.heads)
    let h := n / s.group % s.heads
    let o := outputOf ((hs.getD h []).getD (j * s.group + n % s.group) (Partial.neutral s.headSize))
    if badQ.contains n then (o.1.map (fun w => { w with poison := true }), o.2) else o
  let outs := (List.range (s.vectors x.q)).map vec
  let status := (List.range x.q).map (fun j =>
    let mine := (outs.drop (j * s.group * s.heads)).take (s.group * s.heads)
    let empty := mine.any (fun o => o.2.1)
    let bad := mine.any (fun o => o.1.any (·.poison))
    (⟨BitVec.ofNat 32 ((if empty then 1 else 0) + (if bad then 2 else 0)), false⟩ : RWord))
  let empties := (status.filter (fun w => w.w.getLsbD 0)).length
  let d := d.writeH x.oH x.oOff (outs.flatMap (·.1) ++ status)
  let d := d.bump (key 0x8022 7) empties
  let d := if outs.any (fun o => o.2.2) then d.degradeAt x.owner x.slot else d
  if empties = 0 then d
  else if x.owner = d.fab.coord then d.setReq x.slot { d.req x.slot with empty := true }
  else d.send (.emptyKeys x.owner x.slot)

/-- ATTENTION_DESCRIPTOR_DONE (R203): every page or subtree has a partial. -/
def execAttentionDescriptorDone (k : ClusterIx) (s : State) : Host.Outcome State Fault Refusal :=
  s.lift (fun d =>
    let u := d.attnUnit k.val
    match u.cur with
    | none => d
    | some j =>
      let x := descOf j.words
      match d.descOwner x with
      | none => (d.setAttn k.val { u with cur := none }).attnBetween k.val
      | some o =>
        match (d.kvClass? o.1 o.2.1).bind (fun c => c.streams[x.stream]?) with
        | none => (d.setAttn k.val { u with cur := none }).attnBetween k.val
        | some st =>
          let finish := fun (d : Device) =>
            ((d.setAttn k.val { d.attnUnit k.val with cur := none }).signalDesc x o.2.2).attnBetween k.val
          if j.handle || x.write then finish d
          else if j.range then
            let n := st.outBytes x.q / 4
            match d.areaFault k.val o.2.2 x.oH x.oOff (4 * n) true with
            | some _ => finish d
            | none => finish (d.writeH x.oH x.oOff (List.replicate n ⟨0#32, true⟩))
          else if j.failed then finish (d.writePoisoned x st)
          else
            let hs := (List.range st.heads).map (j.merged x st)
            if hs.any (·.isNone) then d else finish (d.writeOutputs x st j.badQ (hs.map (fun h => h.getD []))))

/-! ### Between attention cores (R202–R204) -/

/-- PAGE_REQUEST: the holding core computes the page's partial and returns it; a page it does not hold is lost. -/
def execPageRequest (k : ClusterIx) (q : PageReq) (s : State) : Host.Outcome State Fault Refusal :=
  s.lift (fun d =>
    let e := q.entry.toNat
    let p := d.pageEnt e
    let held := decide (p.slot = q.slot.toNat ∧ p.stream = q.stream.val ∧ p.page = q.page.toNat ∧ p.remote = false ∧
      p.cluster = k.val ∧ p ≠ noPage) && !d.attn.deadPages.contains e && !(d.health (k.val * 13 + 12)).drained
    let answer := fun (d : Device) (lost : Bool) (ps : List Partial) =>
      d.send (.partialTo q.home q.homeCluster.val ⟨q.slot, q.kvHead, 0, q.page.toNat, false, lost, ps⟩)
    if held then
      let r := d.pageParts ⟨p.addr, p.tokens, p.format, q.layers, q.heads, q.headSize⟩ q.layer q.kvHead q.queries q.scale
        q.excluded
      answer r.2 false r.1
    else answer d true [])

/-- The other device that holds a page of a descriptor's stream. -/
def Device.holderOf (d : Device) (x : Desc) (page : Nat) : Option Coord :=
  match d.entryOf x.owner x.slot x.stream page with
  | none => none
  | some e => if (d.pageEnt e).remote then some (d.pageEnt e).dev else none

/-- PAGE_PARTIAL_RECEIVE: a partial joins the descriptor in progress; a neutral one without a tree position is discarded;
page-lost fails every request with a frame on the device that answers (R204). -/
def execPagePartialReceive (k : ClusterIx) (m : PartialMsg) (s : State) : Host.Outcome State Fault Refusal :=
  s.lift (fun d =>
    let u := d.attnUnit k.val
    match u.cur with
    | none => d
    | some j =>
      if (descOf j.words).slot ≠ m.slot.toNat ∨ m.neutral = true then d
      else if m.lost then
        let x := descOf j.words
        let d := d.setAttn k.val { u with cur := some { j with failed := true } }
        match d.holderOf x m.index with
        | none => d.pageLost x.owner x.slot x.client
        | some dev => (d.pageLost x.owner x.slot x.client).loseFrames dev
      else
        let parts := Tbl.put j.parts (partKey m.kvHead m.level m.index) m.parts
        d.setAttn k.val { u with cur := some { j with parts := parts } })

/-- SPAN_NEUTRAL_ANSWER (R203): a span device that holds no page of the stream at the query's length, whose last page the
request names, answers with one neutral partial. -/
def execSpanNeutralAnswer (_k : ClusterIx) (q : PageReq) (s : State) : Host.Outcome State Fault Refusal :=
  s.lift (fun d =>
    if List.any d.attn.frames (fun (f : Nat × Frame) => decide (f.2.owner = q.owner ∧ f.2.slot = q.slot.toNat ∧
        f.2.stream = q.stream.val ∧ f.2.page ≤ q.page.toNat) && !f.2.releasing) then d
    else d.send (.partialTo q.home q.homeCluster.val ⟨q.slot, q.kvHead, 0, 0, true, false,
      List.replicate q.queries.length (Partial.neutral q.headSize)⟩))

end Sys2Proof.Machine
end

