-- ==== Sys2Proof/Machine/Requests.lean ====
section
/-!
DEFINITION. Requests (09): the result record (R213, R214), deadlines (R211), costs and the admission bound (R217), choice
order (R218), automata (R226), the end of a request and its adapter pin (R212, R269), fences (R223).
-/
namespace Sys2Proof.Machine

/-! ### Codes -/

def rsQueued : Nat := 2
def rsPrefill : Nat := 3
def rsDecode : Nat := 4
def rsDone : Nat := 5
def rsCancelled : Nat := 6
def rsExpired : Nat := 7
def rsFailed : Nat := 8

/-! ### Time (R211) -/

def Device.now48 (d : Device) : Nat := d.clk.time.toNat % 2 ^ 48

def noDeadline : Nat := 2 ^ 48 - 1

/-- A deadline has passed. -/
def Device.passed (d : Device) (dl : Nat) : Bool :=
  decide (dl ≠ noDeadline) && decide ((d.now48 + 2 ^ 48 - dl) % 2 ^ 48 < 2 ^ 47)

/-- Nanoseconds to a deadline that has not passed. -/
def Device.timeLeft (d : Device) (dl : Nat) : Nat := (dl + 2 ^ 48 - d.now48) % 2 ^ 48

/-! ### The result record (Tab. 9.5) -/

def recordBytes (slot state status : Nat) (late degraded empty restarted : Bool) (client len time : Nat) : List Byte :=
  let f := fun (b : Bool) (k : Nat) => if b then 2 ^ k else 0
  wordsBytes [slot + state * 2 ^ 16 + status * 2 ^ 20 + f late 28 + f degraded 29 + f empty 30 + f restarted 31,
    client, len, time]

def Device.time32 (d : Device) : Nat := d.clk.time.toNat % 2 ^ 32

/-- Record of a request's entry with a status, at a time. -/
def Device.recordOf (d : Device) (slot status time : Nat) : List Byte :=
  let r := d.req slot
  recordBytes slot r.state status (r.cancel && decide (r.state = rsDone)) r.degraded r.empty r.restarted r.client r.len time

/-- The current record: a terminal entry's is the one written when it ended. -/
def Device.currentRecord (d : Device) (slot : Nat) : List Byte :=
  d.recordOf slot (d.req slot).status (if (d.req slot).live then d.time32 else (d.aux slot).recorded)

/-- A record that names no entry. -/
def Device.bareRecord (d : Device) (slot state status client : Nat) : List Byte :=
  recordBytes slot state status false false false false client 0 d.time32

/-- Sends a request's record to its submitting source (R214). -/
def Device.sendRecord (d : Device) (slot : Nat) : Device :=
  let a := d.aux slot
  d.send (.result a.car a.source (BitVec.ofNat 9 (d.req slot).tenant) (d.currentRecord slot))

/-! ### Instances and their requests -/

def Device.setRounds (d : Device) (t : Tbl Round) : Device := { d with serv := { d.serv with rounds := t } }

def Device.serving? (d : Device) (i : Nat) : Option ServInfo := (d.inst i).maq.map (fun m => m.extra.serving)

/-- Live requests of an instance, ascending. -/
def Device.instReqs (d : Device) (i : Nat) : List (Nat × ReqEnt) :=
  List.filter (fun (e : Nat × ReqEnt) => e.2.live && decide (e.2.inst = i)) d.serv.reqs

/-- CIM cores of this device an instance is placed on. -/
def Device.instCores (d : Device) (i : Nat) : List Nat :=
  match (d.inst i).maq with
  | none => []
  | some m => ((m.places.filter (fun p => decide (p.dev = d.fab.coord))).map Placement.coreIx).eraseDups

/-- Clusters of this device that home a stream of a request's class or hold a frame of it (R373). -/
def Device.attnClusters (d : Device) (slot : Nat) : List Nat :=
  let r := d.req slot
  let homes := match d.kvClass? r.inst r.kvClass with
    | none => []
    | some c => (c.streams.filter (fun s => decide (s.home = d.fab.coord))).map (·.homeCluster)
  let held := (List.filter (fun (f : Nat × Frame) => decide (f.2.owner = d.fab.coord ∧ f.2.slot = slot)) d.attn.frames).map
    (fun f => f.1 / 2 ^ 19 / 3)
  homes ++ held

/-- Cores, by cluster · 13 + core, that a request's work may run on (R373). -/
def Device.reqCores (d : Device) (slot : Nat) : List Nat :=
  (d.instCores (d.req slot).inst).map anyOfCore ++ (d.attnClusters slot).map (fun k => k * 13 + 12)

/-- A submission to an instance is turned away for a disabled core (R373). -/
def Device.coreClosed (d : Device) (i kv : Nat) : Bool :=
  let off := fun (x : Nat) => !(d.health x).enabled
  (d.instCores i).any (fun c => off (anyOfCore c)) ||
    (match d.kvClass? i kv with
     | none => false
     | some c => c.streams.any (fun s => decide (s.home = d.fab.coord) && off (s.homeCluster * 13 + 12)))

/-! ### Choice order (R218) -/

/-- Key of a request in choice order: priority, DECODE first, deadline with none last, slot. -/
def Device.choiceKey (d : Device) (slot : Nat) (r : ReqEnt) : Nat :=
  let dl := if r.deadline = noDeadline then 2 ^ 48 else (r.deadline + 2 ^ 48 + 2 ^ 47 - d.now48) % 2 ^ 48
  ((r.prio * 2 + if r.state = rsDecode then 0 else 1) * 2 ^ 49 + dl) * 65536 + slot

def insertKey (k slot : Nat) : List (Nat × Nat) → List (Nat × Nat)
  | [] => [(k, slot)]
  | x :: xs => if k ≤ x.1 then (k, slot) :: x :: xs else x :: insertKey k slot xs

/-- Requests in choice order. -/
def Device.inOrder (d : Device) (rs : List (Nat × ReqEnt)) : List Nat :=
  ((rs.foldl (fun l e => insertKey (d.choiceKey e.1 e.2) e.1 l) []).map (·.2))

/-! ### Costs (R217) -/

def rowCovers (r : CostRow) (n t longest far : Nat) : Bool :=
  decide (n ≤ r.requests ∧ t ≤ r.tokens ∧ longest ≤ r.longest ∧ far ≤ r.furthest)

/-- Cost of a round in cycles: the first row that covers its length table, else the full-round cost. -/
def roundCost (s : ServInfo) (n t longest far : Nat) : Nat :=
  match s.costs.find? (fun r => rowCovers r n t longest far) with
  | some r => r.cost
  | none => s.cFull

/-- c_full of R217: the largest cost the tables give for N_max requests and T_max tokens, no request with more than K of
them and none reaching beyond `far`. A row that is the first to cover some such round is the first to cover its own
corner. -/
def fullCost (s : ServInfo) (far : Nat) : Nat :=
  (s.costs.filter (fun r => decide (s.nMax ≤ r.requests ∧ s.tMax ≤ r.tokens))).foldl
    (fun m r => max m (roundCost s s.nMax s.tMax (min r.longest s.kChunk) (min r.furthest far)))
    (roundCost s s.nMax s.tMax s.kChunk far)

/-- Cores of this device that run a layer. -/
def Device.layerCores (d : Device) (m : Maq) (l : LayerEnt) : List Nat :=
  ((m.placesOf l).filter (fun p => decide (p.dev = d.fab.coord))).map Placement.coreIx |>.eraseDups

/-- Value of a policy object in force on the first core of a layer. -/
def Device.layerPolicy (d : Device) (m : Maq) (l : LayerEnt) (k : Nat) : Nat :=
  match d.layerCores m l with
  | [] => d.reg k
  | c :: _ => d.policy c k

/-- Cycles by which raised capacities make a round of an instance dearer (R80): the maquette's entry for the largest
capacity in force on a core of the layer. -/
def Device.raisedCost (d : Device) (i : Nat) : Nat :=
  match (d.inst i).maq with
  | none => 0
  | some m => (m.extra.serving.raised.map (fun x =>
      match m.layers[x.1]? with
      | none => 0
      | some l =>
        if l.cap < x.2.1 ∧ (d.layerCores m l).foldl (fun n c => max n (d.capOn c i x.1)) 0 = x.2.1 then x.2.2 else 0)).sum

/-- Remaining cost of an instance's round in thirteenths of a nanosecond; a cycle is ten of them. -/
def Device.roundLeft (d : Device) (i : Nat) : Nat :=
  match Tbl.find? d.serv.rounds i with
  | none => 0
  | some r => 13 * r.chosen + 10 * r.cost - 13 * d.clk.up

/-- Rounds a request still needs under R217: n_p · max(f, f_p) + n_d · f. -/
def Device.roundsNeeded (d : Device) (slot : Nat) (r : ReqEnt) (s : ServInfo) : Nat :=
  let ahead := (d.instReqs r.inst).filter (fun e => decide (e.1 ≠ slot ∧ d.choiceKey e.1 e.2 < d.choiceKey slot r))
  let ap := (ahead.filter (fun e => decide (e.2.state ≠ rsDecode))).length
  let f := 1 + ahead.length / s.nMax
  let fp := 1 + ap / max 1 (s.pMax / s.kChunk)
  ceilDiv (r.prompt - r.len) s.kChunk * max f fp + (r.maxLen - max r.prompt r.len - 1) * f

/-- The admission bound of a request exceeds its deadline (R217): exact in μ's binary fraction. -/
def Device.boundExceeds (d : Device) (slot : Nat) (r : ReqEnt) (s : ServInfo) : Bool :=
  if r.deadline = noDeadline then false
  else
    let far := (d.instReqs r.inst).foldl (fun m e => max m e.2.maxLen) r.maxLen
    let mu : F32 := BitVec.ofNat 32 (d.reg (key 0x6000 1))
    let k := (-(f32Exp mu)).toNat
    let m := f32Man mu * 2 ^ (f32Exp mu + k).toNat
    decide (100 * 2 ^ k * (13 * d.timeLeft r.deadline) <
      100 * 2 ^ k * d.roundLeft r.inst + (100 * 2 ^ k + m) * (10 * (fullCost s far + d.raisedCost r.inst)) * d.roundsNeeded slot r s)

/-! ### Adapter pins (R269) -/

def Device.version (d : Device) (v : Nat) : Version := Tbl.get Version.free d.cast.versions v

def Device.setVersion (d : Device) (v : Nat) (x : Version) : Device :=
  { d with cast := { d.cast with versions := Tbl.set Version.free d.cast.versions v x } }

/-- Frees a version slot: its handles are released and their region records go. -/
def Device.freeVersion (d : Device) (v : Nat) : Device :=
  let x := d.version v
  let hs := (x.hA ++ x.hB).map (·.2)
  let d := hs.foldl (fun d h => d.startRelease h) d
  let regs := List.filter (fun (e : Nat × Region) => !hs.contains e.1) d.cast.regions
  let d := { d with cast := { d.cast with regions := regs } }
  (d.setVersion v Version.free).bump (key 0x7070 6) 1

/-- A request's pin goes; a retiring version without pins is freed. -/
def Device.unpin (d : Device) (v : Nat) : Device :=
  if v = 0 then d
  else
    let x := d.version v
    let d := d.setVersion v { x with pins := x.pins - 1 }
    if x.st = 3 ∧ x.pins ≤ 1 then d.freeVersion v else d

/-! ### The end of a request (R212, R214) -/

/-- Counts an ended request (Tab. 9.13). -/
def Device.countEnd (d : Device) (state status : Nat) (late : Bool) : Device :=
  if state = rsDone then
    let d := d.bump (key 0x6010 4) 1
    if late then d.bump (key 0x6010 5) 1 else d
  else if state = rsCancelled then d.bump (key 0x6010 6) 1
  else if state = rsExpired then d.bump (key 0x6010 (if status = 0x04 then 8 else 7)) 1
  else
    let d := d.bump (key 0x6010 9) 1
    if status = 0x0C then d.bump (key 0x6010 0x0C) 1 else d

/-- Makes a request terminal: its record is fixed and written to its I/O handle, its pin released. -/
def Device.closeReq (d : Device) (slot state status : Nat) : Device :=
  let r := d.req slot
  let d := (d.countEnd state status r.cancel).setReq slot { r with state := state, status := status, pin := 0 }
  let d := d.setAux slot { d.aux slot with inRound := false, failure := none, token := none, fenced := false,
                                           sent := d.clk.up, recorded := d.time32 }
  let rec_ := d.recordOf slot status d.time32
  (d.writeH r.io 0 (cleanWords (rec_ ++ List.replicate 48 0#8))).unpin r.pin

/-- Ends a live request and sends its record. -/
def Device.endReq (d : Device) (slot state status : Nat) : Device :=
  if (d.req slot).live then (d.closeReq slot state status).sendRecord slot else d

/-- A failure of a request: at once when it is in no round, else at its closing commit mark. -/
def Device.failReq (d : Device) (slot code : Nat) : Device :=
  if (d.aux slot).inRound then d.fixFailure slot code else d.endReq slot rsFailed code

/-- A FENCE reaches a request (R223). -/
def Device.fenceReq (d : Device) (slot : Nat) : Device :=
  if (d.req slot).live = false then d
  else if (d.aux slot).inRound then d.setAux slot { d.aux slot with fenced := true }
  else d.endReq slot rsFailed 0x05

/-- Fences every live request that meets a condition. -/
def Device.fenceAll (d : Device) (p : ReqEnt → Bool) : Device :=
  (List.filter (fun (e : Nat × ReqEnt) => e.2.live && p e.2) d.serv.reqs).foldl (fun d e => d.fenceReq e.1) d

/-! ### Automata (R226, Tab. 9.11) -/

/-- Clean bytes of a local handle, none beyond it or where a word is poisoned, which turns a Shared handle Bad (R175). -/
def Device.readClean (d : Device) (hid off n : Nat) : Option (List Byte) × Device :=
  match d.handle? hid with
  | none => (none, d)
  | some h =>
    if h.remote || h.bad || decide (off + n > h.bytes) then (none, d)
    else
      let r := d.readBytes (h.addr off) n
      if r.1.any (·.2) then (none, if h.shared then r.2.markBad hid h else r.2) else (some (r.1.map (·.1)), r.2)

/-- Header of an automaton: states, vocabulary, offsets of bitmaps, states, transitions. -/
structure AutoHead where
  states : Nat
  vocab : Nat
  bitmaps : Nat
  stateOff : Nat
  trans : Nat
  deriving DecidableEq, Repr

def Device.autoHead (d : Device) (hid : Nat) : Option AutoHead × Device :=
  match d.readClean hid 0 64 with
  | (none, d) => (none, d)
  | (some b, d) => (some ⟨bits (wordAt b 0) 15 0, wordAt b 1, wordAt b 2, wordAt b 3, wordAt b 4⟩, d)

/-- The check at admission. -/
def Device.autoOk (d : Device) (hid v start : Nat) : Bool × Device :=
  match d.autoHead hid with
  | (none, d) => (false, d)
  | (some a, d) =>
    let n := match d.handle? hid with | some h => h.bytes | none => 0
    (decide (1 ≤ a.states ∧ a.states ≤ 32768 ∧ a.vocab = v ∧ a.bitmaps < n ∧ a.stateOff < n ∧ a.trans < n ∧ start < a.states), d)

/-- Finds a token among the transition entries from `lo` on, `n` of them, by binary search: its next state, none inside
when no entry names it, none outside when a read fails. `fuel` is the reads left. -/
def Device.autoSearch (d : Device) (hid base token : Nat) : Nat → Nat → Nat → Option (Option Nat) × Device
  | 0, _, _ => (some none, d)
  | fuel + 1, lo, n =>
    if n = 0 then (some none, d)
    else
      let mid := lo + n / 2
      match d.readClean hid (base + 8 * mid) 8 with
      | (none, d) => (none, d)
      | (some b, d) =>
        if wordAt b 0 = token then (some (some (bits (wordAt b 1) 14 0)), d)
        else if wordAt b 0 < token then d.autoSearch hid base token fuel (mid + 1) (n - n / 2 - 1)
        else d.autoSearch hid base token fuel lo (n / 2)

/-- The automaton's step after a token: its next state and whether that is Final; none is status 12h. -/
def Device.autoStep (d : Device) (hid st token : Nat) : Option (Nat × Bool) × Device :=
  match d.autoHead hid with
  | (none, d) => (none, d)
  | (some a, d) =>
    match d.readClean hid (a.stateOff + 16 * st) 16 with
    | (none, d) => (none, d)
    | (some b, d) =>
      match d.autoSearch hid a.trans token 17 (wordAt b 2) (wordAt b 3) with
      | (none, d) => (none, d)
      | (some x, d) =>
        let nxt := x.getD (bits (wordAt b 1) 14 0)
        if nxt ≥ a.states then (none, d)
        else
          match d.readClean hid (a.stateOff + 16 * nxt) 16 with
          | (none, d) => (none, d)
          | (some f, d) => (some (nxt, bit (wordAt f 0) 16), d)

/-- Byte offset of the bitmap of an automaton's state. -/
def Device.autoBitmap (d : Device) (hid st v : Nat) : Option Nat × Device :=
  match d.autoHead hid with
  | (none, d) => (none, d)
  | (some a, d) =>
    match d.readClean hid (a.stateOff + 16 * st) 16 with
    | (none, d) => (none, d)
    | (some b, d) => (some (a.bitmaps + bits (wordAt b 0) 15 0 * (ceilDiv v 512 * 64)), d)

end Sys2Proof.Machine
end

