-- ==== Sys2Proof/Machine/Rounds.lean ====
section
/-!
DEFINITION. Rounds (09): what action 2 does at a closing commit mark (R208, R219, R226, R230, R266), the choice of a batch
and what it puts before the cores (R218, R225), the router (R231–R233).
-/
namespace Sys2Proof.Machine

/-! ### Action 2 (R219) -/

/-- Rows 4 to 6 of Tab. 9.8 on a request: ended, or not. -/
def Device.settleRest (d : Device) (s : ServInfo) (slot : Nat) : Option Device :=
  let r := d.req slot
  if (d.aux slot).fenced then some (d.endReq slot rsFailed 0x05)
  else if d.passed r.deadline then some (d.endReq slot rsExpired 0x03)
  else if d.reg (key 0x6000 3) = 1 ∧ d.boundExceeds slot r s = true then some (d.endReq slot rsExpired 0x04)
  else none

/-- A request in no round at its instance's action 2: a failure fixed for it, then rows 4 to 6. -/
def Device.settleIdle (d : Device) (s : ServInfo) (slot : Nat) : Device :=
  match (d.aux slot).failure with
  | some c => d.endReq slot rsFailed c
  | none => (d.settleRest s slot).getD d

/-- Writes a token at its position of the I/O handle (R213). -/
def Device.writeToken (d : Device) (slot pos tok : Nat) : Device :=
  d.writeH (d.req slot).io (64 + 4 * pos) [⟨BitVec.ofNat 32 tok, false⟩]

/-- The token a request's round sampled: its position, itself, the automaton's next state and whether that ends. -/
structure Sampled where
  pos : Nat
  tok : Nat
  next : Nat
  final : Bool
  deriving DecidableEq, Repr

/-- Commits a sampled token, if there is one. -/
def Device.commitToken (d : Device) (slot : Nat) (t : Option Sampled) : Device :=
  match t with
  | none => d
  | some t =>
    let d := d.writeToken slot t.pos t.tok
    d.setReq slot { d.req slot with autoState := t.next }

def Device.profileOf (d : Device) (r : ReqEnt) : Profile := Tbl.get Profile.reset d.serv.profiles (r.tenant * 8 + r.profile)


/-- Rows 2 to 7 for a request whose round took `q` tokens of it: `fin` is the round's own end of it. -/
def Device.settleRound (d : Device) (s : ServInfo) (slot q : Nat) (t : Option Sampled) (fin : Bool) : Device :=
  let r := d.req slot
  let len := r.len + q
  let d := d.setReq slot { r with len := len }
  if fin then
    let d := d.commitToken slot t
    d.endReq slot rsDone (if d.passed r.deadline then 0x01 else 0x00)
  else if r.cancel then d.endReq slot rsCancelled 0x02
  else
    match d.settleRest s slot with
    | some d => d
    | none =>
      let d := d.commitToken slot t
      d.setReq slot { d.req slot with state := if s.generates ∧ len ≥ r.prompt then rsDecode else rsPrefill, status := 0 }

/-- What the round's sample of a request comes to (R226, R230); none where the automaton fails it. -/
def Device.sampled (d : Device) (r : ReqEnt) (p : Profile) (pos tok : Nat) : Option Sampled × Device :=
  let fin := decide (pos ≥ r.maxLen - 1) || decide (p.endTok ≠ 0xFFFFFFFF ∧ tok = p.endTok)
  if r.maskMode = 2 then
    match d.autoStep r.maskHandle r.autoState tok with
    | (none, d) => (none, d)
    | (some x, d) => (some ⟨pos, tok, x.1, fin || x.2⟩, d)
  else (some ⟨pos, tok, r.autoState, fin⟩, d)

/-- A request of the round at its closing commit mark (Tab. 9.8), with the profile of the round. -/
def Device.settle (d : Device) (s : ServInfo) (slot q : Nat) (p : Profile) : Device :=
  let r := d.req slot
  let a := d.aux slot
  let d := d.setAux slot { a with inRound := false, token := none }
  if !r.live then d
  else
    match a.failure with
    | some c => d.endReq slot rsFailed c
    | none =>
      let pos := r.len + q
      if !s.generates then d.settleRound s slot q none (decide (pos ≥ r.prompt))
      else if pos < r.prompt then d.settleRound s slot q none false
      else
        match a.token with
        | none => d.settleRound s slot q none false
        | some tok =>
          match d.sampled r p pos tok with
          | (none, d) => d.endReq slot rsFailed 0x12
          | (some t, d) => d.settleRound s slot q (some t) t.final

/-- R266 under RESTART on one request in PREFILL or DECODE. -/
def Device.restartReq (d : Device) (slot : Nat) : Device :=
  let r := d.req slot
  if r.state = rsPrefill ∨ r.state = rsDecode then
    let d := d.dropFrames d.fab.coord slot
    d.setReq slot { r with state := rsPrefill, prompt := if r.state = rsDecode then r.len + 1 else r.prompt, len := 0,
                           restarted := true, pages := [] }
  else d

/-- RESTART, when the old round closes or none runs as the swap opens (R266). -/
def Device.applyPolicy (d : Device) (i : Nat) (restart : Bool) : Device :=
  if restart then (d.instReqs i).foldl (fun d e => d.restartReq e.1) d else d

/-- Sends the records of an instance's live requests whose profile streams (R214); `ps` are the profiles of the round. -/
def Device.streamRecords (d : Device) (i : Nat) (ps : Tbl Profile) : Device :=
  (d.instReqs i).foldl (fun d e =>
    if ((Tbl.find? ps e.1).getD (d.profileOf e.2)).w2.testBit 11 then d.sendRecord e.1 else d) d

/-- The closing commit mark of an instance's round (R208, R219). -/
def Device.closeRound (d : Device) (i : Nat) : Device :=
  match Tbl.find? d.serv.rounds i, d.serving? i with
  | some r, some s =>
    let d := d.setRounds (Tbl.del d.serv.rounds i)
    let d := r.batch.foldl (fun d b => d.settle s b.1 b.2 ((Tbl.find? r.profiles b.1).getD Profile.reset)) d
    let others := (d.instReqs i).filter (fun e => !r.batch.any (fun b => decide (b.1 = e.1)))
    let d := others.foldl (fun d e => d.settleIdle s e.1) d
    (d.applyPolicy i r.restart).streamRecords i r.profiles
  | _, _ => d

/-! ### The choice (R218) -/

/-- One candidate of the walk: batch so far, tokens, prefill tokens. -/
def walkOne (d : Device) (s : ServInfo) (a : List (Nat × Nat) × Nat × Nat) (slot : Nat) : List (Nat × Nat) × Nat × Nat :=
  if a.1.length ≥ s.nMax then a
  else
    let r := d.req slot
    let dec := decide (r.state = rsDecode)
    let q := if dec then (if a.2.1 < s.tMax then 1 else 0)
             else min (min s.kChunk (r.prompt - r.len)) (min (s.pMax - a.2.2) (s.tMax - a.2.1))
    if q = 0 then a else (a.1 ++ [(slot, q)], a.2.1 + q, if dec then a.2.2 else a.2.2 + q)

/-- Pages for the batch (R183, R184): a request that gets none fails, one that waits stays out. -/
def Device.allocBatch (d : Device) : List (Nat × Nat) → List (Nat × Nat) × Device
  | [] => ([], d)
  | b :: bs =>
    match d.allocFor b.1 ((d.req b.1).len + b.2) with
    | (.got _, d) => let r := d.allocBatch bs; (b :: r.1, r.2)
    | (.waiting, d) => d.allocBatch bs
    | (.none, d) => ((d.bump (key 0x8022 5) 1).endReq b.1 rsFailed 0x0D).allocBatch bs

/-- A free memory length for a request with CROSS streams (R189: nothing the spec gives the scheduler says it). -/
def Device.crossLen (d : Device) (slot : Nat) : Nat × Device :=
  match d.kvClass? (d.req slot).inst (d.req slot).kvClass with
  | none => (0, d)
  | some c => if c.streams.any (·.cross) then (d.fresh.1.toNat % 4194305, d.fresh.2) else (0, d)

/-- Rows of the length table of a batch, from base `b`. -/
def Device.batchRows (d : Device) (b : Nat) : List (Nat × Nat) → List LenRow × Device
  | [] => ([], d)
  | x :: xs =>
    let m := d.crossLen x.1
    let r := m.2.batchRows (b + x.2) xs
    (⟨x.1, x.2, (d.req x.1).len, b, m.1⟩ :: r.1, r.2)

/-- Words of a length table (Tab. 8.5). -/
def lenTable (rows : List LenRow) : List Nat :=
  [rows.length, (rows.map (·.q)).sum, (rows.map (·.q)).foldl max 0, (rows.map (fun r => r.p + r.q)).foldl max 0] ++
    rows.flatMap (fun r => [r.q, r.p, r.base, r.m])

/-- Writes bytes into a handle where they fit. -/
def Device.putBytes (d : Device) (hid off : Nat) (bs : List Byte) : Device :=
  match d.handle? hid with
  | none => d
  | some h => if off + (bs.length + 3) / 4 * 4 ≤ h.bytes then d.writeH hid off (cleanWords bs) else d

/-- The STEP word of a program. -/
def progStepWord (p : ProgInfo) : StepWord := p.words.headD 0#128

/-- Writes request list and length table into a core's batch handle, where the STEP word of a program looks for them. -/
def Device.putTables (d : Device) (s : ServInfo) (c : Nat) (w : StepWord) (rows : List LenRow) : Device :=
  match List.find? (fun (b : Nat × HandleId) => decide (b.1 = c)) s.batch with
  | none => d
  | some b =>
    let h := b.2.toNat
    let d := if fld w 52 40 = h then d.putBytes h (64 * fld w 67 53) (rows.flatMap (fun r => leBytes 2 r.slot)) else d
    if fld w 80 68 = h then d.putBytes h (64 * fld w 95 81) (wordsBytes (lenTable rows)) else d

/-- Local cores of a program. -/
def Maq.progCores (m : Maq) (me : Coord) (p : ProgInfo) : List Nat :=
  ((p.placements.filterMap (fun i => m.places[i]?)).filter (fun x => decide (x.dev = me))).map Placement.coreIx |>.eraseDups

/-- A program is one of an MoE layer's expert steps. -/
def Maq.isExpert (m : Maq) (p : ProgInfo) : Bool := m.extra.moe.any (fun x => decide (x.expertProg = p.ident))

/-- Index of the MoE layer a program is the gate of. -/
def Maq.gateOf (m : Maq) (p : ProgInfo) : Option Nat :=
  ((m.extra.moe.zipIdx).find? (fun x => decide (x.1.gate = p.ident))).map (·.2)

/-- The steps of a round on the cores of this device, in the programs' order: core and plan. -/
def Maq.roundPlans (m : Maq) (me : Coord) (i : Nat) (fresh : Bool) : List (Nat × Plan) :=
  (m.extra.programs.zipIdx).flatMap (fun p =>
    if m.isExpert p.1 then []
    else (m.progCores me p.1).map (fun c =>
      (c, { Plan.zero with inst := i, prog := p.2, ident := p.1.ident, layers := p.1.layers, newRound := fresh,
                           gate := m.gateOf p.1 })))

/-- The last step of all is marked: it closes the round where the lead core has none. -/
def markLast (ps : List (Nat × Plan)) : List (Nat × Plan) :=
  (ps.zipIdx).map (fun x => (x.1.1, { x.1.2 with last := decide (x.2 + 1 = ps.length) }))

def Device.addPlan (d : Device) (c : Nat) (p : Plan) : Device :=
  d.modCore c (fun x => { x with aux := { x.aux with plans := x.aux.plans ++ [p] } })

/-- Queues the copy of a mask and starts it as soon as nothing holds it: it takes its entry at the choice, so that a SAMPLE
that reads the stage waits for it (R99, R225). -/
def Device.queueMask (d : Device) (c : Nat) (o : ElOp) : Device :=
  let q := (d.core c).seq
  let es := d.opEntries c o d.cyc
  let t := es.foldl (fun (t : Option Nat) e => t.bind (fun n => (q.startCycle e.rng n))) (some d.cyc)
  let d := d.queueOp c o
  match t with
  | none => d
  | some t => (d.startOp c { o with ident := q.nextOp } t).combineStarted c q.nextOp t

/-- `n` bytes of a mask from a byte offset of a local handle, as words; a byte brings its word's poison. -/
def Device.maskWords (d : Device) (h : Handle) (off n : Nat) : List RWord × Device :=
  let r := d.readBytes (h.addr off) (min n (h.bytes - off))
  let bs := r.1 ++ List.replicate (n - r.1.length) (0#8, false)
  ((chunksOf 4 (n / 4) bs).map (fun b => ⟨BitVec.ofNat 32 (ofLe (b.map (·.1))), b.any (·.2)⟩), r.2)

/-- The copy of one request's mask into the stage of its sampling core (R225), with what the mask holds at the choice. -/
def Device.stageMask (d : Device) (s : ServInfo) (x slot : Nat) : Device :=
  let r := d.req slot
  let n := s.sampling.length
  match s.sampling[x % (max 1 n)]? with
  | none => d
  | some sc =>
    let len := ceilDiv s.vocab 512 * 64
    let go := fun (d : Device) (off : Nat) =>
      let ws := match d.handle? r.maskHandle with
        | some h => if h.remote then d.elRead r.maskHandle off (len / 4)
                    else if h.bad then (List.replicate (len / 4) ⟨0#32, true⟩, d)
                    else
                      let m := d.maskWords h off len
                      if h.shared && m.1.any (·.poison) then (m.1, m.2.markBad r.maskHandle h) else m
        | none => ([], d)
      ws.2.queueMask sc.1 { ident := 0, kind := .mask, tag := 0, queued := d.cyc, started := false, ofStep := false,
                            srcH := r.maskHandle, srcOff := off, dstH := sc.2.toNat, dstOff := x / (max 1 n) * len, len := len,
                            desc := none, data := ws.1 }
    if r.maskMode = 1 then go d 0
    else if r.maskMode = 2 then
      match d.autoBitmap r.maskHandle r.autoState s.vocab with
      | (none, d) => d.fixFailure slot 0x12
      | (some off, d) =>
        let n := match d.handle? r.maskHandle with | some h => h.bytes | none => 0
        if off + ceilDiv s.vocab 8 > n then d.fixFailure slot 0x12 else go d off
    else d

/-- The masks of a round: each request that samples in it. -/
def Device.stageMasks (d : Device) (s : ServInfo) (batch : List (Nat × Nat)) : Device :=
  if !s.generates then d
  else (batch.zipIdx).foldl (fun d b =>
    if (d.req b.1.1).len + b.1.2 ≥ (d.req b.1.1).prompt then d.stageMask s b.2 b.1.1 else d) d

/-- Puts a chosen batch before the cores: tables, plans, masks, the round itself (R208, R218, R225). -/
def Device.openRound (d : Device) (i : Nat) (m : Maq) (batch : List (Nat × Nat)) : Device :=
  let s := m.extra.serving
  let rr := d.batchRows 0 batch
  let rows := rr.1
  let d := batch.foldl (fun d b => d.setAux b.1 { d.aux b.1 with inRound := true, token := none }) rr.2
  let fresh := decide ((d.inst i).state = 3)
  let d := m.extra.programs.foldl (fun d pr =>
    (m.progCores d.fab.coord pr).foldl (fun d c => d.putTables s c (progStepWord pr) rows) d) d
  let d := (markLast (m.roundPlans d.fab.coord i fresh)).foldl (fun d p => d.addPlan p.1 p.2) d
  let devs := ((m.places.filter (fun p => decide (p.dev ≠ d.fab.coord))).map (·.dev)).eraseDups
  let d := devs.foldl (fun d x => d.send (.batch x i (rows.map (·.slot)) (lenTable rows))) d
  let t := lenTable rows
  let cost := roundCost s (t.getD 0 0) (t.getD 1 0) (t.getD 2 0) (t.getD 3 0) + d.raisedCost i
  let d := d.setRounds (Tbl.put d.serv.rounds i
    { batch := batch, chosen := d.clk.up, cost := cost, old := false, routed := [], restart := false,
      profiles := batch.foldl (fun p b => Tbl.put p b.1 (d.profileOf (d.req b.1))) [] })
  let d := { d with serv := { d.serv with roundCount := Tbl.set 0 d.serv.roundCount i (Tbl.get 0 d.serv.roundCount i + 1) } }
  (d.stageMasks s batch).bump (key 0x6010 0x0E) 1

/-- Requests an instance may choose from: those with a failure fixed between rounds have failed at this mark. -/
def Device.candidates (d : Device) (i : Nat) : List Nat × Device :=
  let d := (d.instReqs i).foldl (fun d e =>
    match (d.aux e.1).failure with
    | some c => d.endReq e.1 rsFailed c
    | none => d) d
  (d.inOrder ((d.instReqs i).filter (fun e => decide (2 ≤ e.2.state) && !d.waitsFrame e.1)), d)

/-- Action 6 for an instance with no round: chooses a batch, if there is one (R218). -/
def Device.chooseRound (d : Device) (i : Nat) : Device :=
  let x := d.inst i
  match x.maq with
  | none => d
  | some m =>
    if (Tbl.find? d.serv.rounds i).isSome ∨ (x.state ≠ 2 ∧ x.state ≠ 3) ∨ (m.roundPlans d.fab.coord i false).isEmpty then d
    else
      let c := d.candidates i
      let w := c.1.foldl (walkOne c.2 m.extra.serving) ([], 0, 0)
      let b := c.2.allocBatch w.1
      if b.1.isEmpty then b.2 else b.2.openRound i m b.1

/-- Instances of this device that core `c` leads, ascending. -/
def Device.ledBy (d : Device) (c : Nat) : List Nat :=
  (List.filter (fun (e : Nat × Inst) => match e.2.maq with
    | none => false
    | some m => decide (m.extra.serving.home = d.fab.coord ∧ m.extra.serving.lead.val = c)) d.cast.insts).map (·.1)

/-! ### The router (R231–R233) -/

/-- What the router has found: tokens by expert in order, and the device. -/
structure Routed where
  toks : Tbl (List Nat)
  dev : Device

/-- An expert is disabled (6030h.00). -/
def Device.expertOff (d : Device) (i e : Nat) : Bool := !((Tbl.get 1 d.serv.experts (i * 256 + e)).testBit 0)

/-- A step of an instance fixes a failure for a request, or tells its owner (R17, R208). -/
def Device.failRow (d : Device) (i slot code : Nat) : Device :=
  d.tellOwner i (fun h => .stepStatus h slot code false none) (fun d => d.fixFailure slot code)

/-- A request of an instance fails with poison (R174); each failure is counted where it is judged. -/
def Device.poisonRow (d : Device) (i slot : Nat) : Device :=
  if !d.ownsInst i || ((d.req slot).live && (d.aux slot).failure.isNone) then
    (d.failRow i slot 0x06).bump (key 0x8010 8) 1
  else d

/-- One entry of a routing record: token `j` of request `slot`, at byte `off` of the routing area. -/
def routeEntry (i : Nat) (x : MoeInfo) (a : Routed) (j slot off : Nat) : Routed :=
  let r := a.dev.readH x.routing.toNat off 2
  let d := r.2
  let id := (r.1.getD 1 ⟨0#32, true⟩).w.toNat
  if r.1.any (·.poison) then { a with dev := d.poisonRow i slot }
  else if id = 0xFFFFFFFF then { a with dev := d }
  else if id ≥ x.experts ∨ d.expertOff i id = true then
    let d := d.writeH x.routing.toNat off [⟨0xFF800000#32, false⟩, ⟨0xFFFFFFFF#32, false⟩]
    { a with dev := (d.degrade slot).bump (key 0x6010 0x10) 1 }
  else { toks := Tbl.put a.toks id ((Tbl.get [] a.toks id) ++ [j]), dev := d }

/-- The record of one token, its entries in rank order. -/
def routeToken (i : Nat) (x : MoeInfo) (a : Routed) (t : Nat × Nat) : Routed :=
  (List.range x.k).foldl (fun a e => routeEntry i x a t.2 t.1 (x.routingOff + 8 * (x.k * t.2 + e))) a

/-- Splits a list into parts of at most `n`. -/
def splitAt (n : Nat) : Nat → List Nat → List (List Nat)
  | 0, _ => []
  | fuel + 1, l => if l.isEmpty then [] else l.take n :: splitAt n fuel (l.drop n)

/-- The batch of an expert step: requests with tokens in it, in batch order, with their counts. -/
def stepBatch (slots : List Nat) (toks : List Nat) : List (Nat × Nat) :=
  let mine := toks.map (fun j => slots.getD j 0)
  (slots.eraseDups.map (fun s => (s, (mine.filter (fun x => decide (x = s))).length))).filter (fun b => decide (b.2 ≠ 0))

/-- Puts a plan before those of the instance's later programs. -/
def insertPlan (p : Plan) : List Plan → List Plan
  | [] => [p]
  | x :: xs => if x.inst = p.inst ∧ p.prog < x.prog then p :: x :: xs else x :: insertPlan p xs

/-- The expert steps of one expert. -/
def Device.planExpert (d : Device) (i : Nat) (m : Maq) (x : MoeInfo) (slots : List Nat) (fresh : Bool) (e : Nat)
    (toks : List Nat) : Device :=
  match (m.extra.programs.zipIdx).find? (fun p => decide (p.1.ident = x.expertProg)) with
  | none => d
  | some p =>
    let cores := (x.expertCores.filter (fun y => decide (y.1 = e))).map (·.2)
    (splitAt x.capacity toks.length toks).foldl (fun d part =>
      let pl : Plan := { Plan.zero with inst := i, prog := p.2, ident := p.1.ident, layers := p.1.layers, newRound := fresh,
                                        batch := stepBatch slots part, expert := e, index := part }
      cores.foldl (fun d c => d.modCore c (fun y => { y with aux := { y.aux with plans := insertPlan pl y.aux.plans } })) d) d

/-- Cost of an expert's steps over `n` tokens: whole steps at the maquette's cost, the rest at a cost that no table states
and that is no more (R233; log 149). -/
def expertCost (x : MoeInfo) (n : Nat) : Nat :=
  let c := max 1 x.capacity
  n / c * x.stepCost + (if n % c = 0 then 0 else min x.stepCost (Config.partCost x.stepCost (n % c) c))

/-- The router at the commit mark of a gate step (R232), and the bound of R233. -/
def Device.runRouter (d : Device) (i g : Nat) : Device :=
  match (d.inst i).maq, Tbl.find? d.serv.rounds i with
  | some m, some r =>
    match m.extra.moe[g]? with
    | none => d
    | some x =>
      let slots := r.batch.flatMap (fun b => List.replicate b.2 b.1)
      let a := (slots.zipIdx).foldl (routeToken i x) ⟨[], d⟩
      let fresh := decide ((a.dev.inst i).state = 3) && !r.old
      let routed := r.routed ++ a.toks.flatMap (fun t => (t.2.map (fun j => (t.1, slots.getD j 0))).eraseDups)
      let d := a.dev.setRounds (Tbl.put a.dev.serv.rounds i { r with routed := routed })
      let d := a.toks.foldl (fun d t => d.planExpert i m x slots fresh t.1 t.2) d
      let t := slots.length
      let bound := t * x.k / (max 1 x.capacity) + min x.experts (t * x.k)
      let real := (a.toks.map (fun t => expertCost x t.2.length)).sum
      d.bump (key 0x6010 0x0F) (bound * x.stepCost - real)
  | _, _ => d

/-- Writes an expert step's own tables and index list as it becomes the core's next step. -/
def Device.putExpert (d : Device) (c : Nat) (p : Plan) : Device :=
  match (d.inst p.inst).maq with
  | none => d
  | some m =>
    match m.extra.programs[p.prog]? with
    | none => d
    | some pr =>
      let rr := d.batchRows 0 p.batch
      let d := rr.2.putTables m.extra.serving c (progStepWord pr) rr.1
      match m.extra.moe.find? (fun x => decide (x.expertProg = pr.ident)) with
      | none => d
      | some x =>
        match x.lists[p.expert]? with
        | none => d
        | some l => d.putBytes l.1.toNat l.2 (wordsBytes p.index)

end Sys2Proof.Machine
end

