-- ==== Sys2Proof/Machine/Swap.lean ====
section
/-!
DEFINITION. Swaps (R262–R267): opening one, the front's rewrites, the plinth, failure.
-/
namespace Sys2Proof.Machine

/-! ### Failure (R267) -/

/-- Every live request of an instance is fenced (R223). -/
def Device.fenceInst (d : Device) (i : Nat) : Device := d.fenceAll (fun r => decide (r.inst = i))

def Device.setCtlI (d : Device) (i : Nat) (c : Ctl) : Device :=
  { d with serv := { d.serv with insts := Tbl.set Ctl.reset d.serv.insts i c } }

/-- Whether the old round's close restarts the instance's requests (R266). -/
def Device.setRestart (d : Device) (i : Nat) (b : Bool) : Device :=
  match Tbl.find? d.serv.rounds i with
  | none => d
  | some r => d.setRounds (Tbl.put d.serv.rounds i { r with restart := b })

/-- A swap fails: past its first rewrite the instance is disabled with Mode FENCE and failed; before it, the instance
stays ready on its old weights. -/
def Device.swapFail (d : Device) (i code : Nat) : Device :=
  let x := d.inst i
  match x.job with
  | none => d
  | some j =>
    let d := (d.releaseAllH j.staging).setRestart i false
    if x.front > 0 ∨ j.rewriting = true then
      let d := d.setInst i { x with state := 4, status := cIncomplete, job := none, front := x.layers }
      (d.setCtlI i ⟨false, true⟩).fenceInst i
    else d.setInst i { x with state := j.prior, status := code, job := none, front := x.layers }

/-! ### Opening (R262) -/

/-- What the opening finds wrong with a new maquette. -/
def swapFault (x : Inst) (i : Nat) (bytes : Option (List Byte)) (digest : List Byte) (m : Maq) : Option Nat :=
  match bytes, x.maq with
  | some b, some old =>
    if sha256 b ≠ digest then some cDigest
    else if !maquetteOk b m || decide (m.inst ≠ i) then some cMaquette
    else if m.shape ≠ old.shape then some cSwap
    else none
  | _, _ => some cDigest

def Device.setReplica (d : Device) (i : Nat) (x : Replica) : Device :=
  { d with rel := { d.rel with replicas := Tbl.set Replica.reset d.rel.replicas i x } }

def Device.replica (d : Device) (i : Nat) : Replica := Tbl.get Replica.reset d.rel.replicas i

/-- A replica scan of the instance is abandoned (R375). -/
def Device.dropScan (d : Device) (i : Nat) : Device :=
  let x := d.replica i
  if x.scanning.isSome then (d.setReplica i { x with scanning := none }).bump (key 0xA041 3) 1 else d

/-- The steps of the round that runs or is chosen as a swap opens are the old round's, though an earlier swap was open when
they were chosen (R263). -/
def Device.oldPlans (d : Device) (i : Nat) : Device :=
  let old := fun (p : Plan) => if p.inst = i then { p with newRound := false } else p
  d.cim.cores.foldl (fun (d : Device) (x : Nat × CimCore) => d.modCore x.1 (fun y => { y with
    seq := { y.seq with plan := old y.seq.plan }, aux := { y.aux with plans := y.aux.plans.map old } })) d

/-- The swap is open: the round that runs or is chosen is the old one; with none the KV policy applies at once. -/
def Device.startSwap (d : Device) (i h : Nat) (m : Maq) (policy : Bool) (staging : List Nat) : Device :=
  let x := d.inst i
  let d := (d.dropScan i).setInst i { x with state := 3, status := cInProgress, policy := policy, front := 0,
                                             job := some (CastJob.start m h true policy x.state staging) }
  match Tbl.find? d.serv.rounds i with
  | some r => (d.oldPlans i).setRounds (Tbl.put d.serv.rounds i { r with old := true, restart := policy })
  | none => d.applyPolicy i policy

def runSwapOpen (x : MaqExtra) (d : Device) (_r : Req) (v : List Byte) : Answer :=
  let i := leAt v 0 2
  let h := leAt v 2 2
  let pol := leAt v 4 1
  if i > 1023 ∨ h > 8191 ∨ pol > 1 then refuse d dInvalid
  else
    let s := d.inst i
    if (s.state ≠ 2 ∧ s.state ≠ 4) ∨ s.job.isSome = true then refuseOwn d cBusy
    else
      let rb := d.readMaquette h
      let m := maqOf (rb.1.getD []) x
      let d := rb.2
      let no := fun (c : Nat) => refuseOwn (d.setInst i { s with status := c }) c
      match swapFault s i rb.1 (bytesAt v 8 32) m with
      | some c => no c
      | none =>
        match d.allocMany (d.stagingWants m) with
        | .error .quota => no cQuota
        | .error .space => no cSpace
        | .ok y => done (y.2.startSwap i h m (decide (pol = 1)) y.1)

def ruleSwapOpen (x : MaqExtra) : WriteRule := (WriteRule.plain (sized 40 (runSwapOpen x))).ownCodes

/-- SWAP_OPEN (R262). -/
def execSwapOpen (r : Req) (x : MaqExtra) (s : State) : Host.Outcome State Fault Refusal :=
  s.lift (fun d => d.write 0x7010 1 (ruleSwapOpen x) r)

/-! ### The front (R263) -/

/-- A step's layer range contains layer `l`. -/
def Plan.uses (p : Plan) (l : Nat) : Bool :=
  match p.layers with | none => false | some r => decide (r.1 ≤ l ∧ l ≤ r.2)

/-- A core's step is one of instance `i` that has not committed. -/
def CimCore.runs (x : CimCore) (i : Nat) : Bool := decide (x.seq.phase = .running ∨ x.seq.phase = .drain) && decide (x.seq.plan.inst = i)

/-- Steps of an instance on this device's cores that have not committed: waiting, or running. -/
def Device.openSteps (d : Device) (i : Nat) : List Plan :=
  List.flatMap (fun (c : Nat × CimCore) =>
    (c.2.aux.plans.filter (fun p => decide (p.inst = i))) ++ (if c.2.runs i then [c.2.seq.plan] else [])) d.cim.cores

/-- Expert steps that an uncommitted gate may still put before a core. -/
def expertSteps (m : Maq) (ps : List Plan) : List Plan :=
  ps.flatMap (fun p => match p.gate.bind (fun g => m.extra.moe[g]?) with
    | none => []
    | some x => (m.extra.programs.filter (fun pr => decide (pr.ident = x.expertProg))).map (fun pr =>
        { Plan.zero with inst := p.inst, layers := pr.layers, newRound := p.newRound }))

/-- The old round has committed every step whose layer range contains `l`, and has none left to issue. -/
def Device.oldPast (d : Device) (i l : Nat) (m : Maq) : Bool :=
  let ps := (d.openSteps i).filter (fun p => !p.newRound)
  !(ps ++ expertSteps m ps).any (fun p => p.uses l)

/-- A region that a layer needs: its new content stands verified, or it keeps its content and nothing was sent. After a failed
swap no content is kept, since the front may have rewritten it (R267). -/
def CastJob.regionSet (j : CastJob) (old : Maq) (r : Nat) : Bool :=
  (j.regionWhole r && j.regionGood r) ||
    (decide (j.prior ≠ 4) && (Tbl.get [] j.got (regionGot r)).isEmpty &&
      decide ((j.maq.extra.regions[r]?).map (·.digest) = (old.extra.regions[r]?).map (·.digest)))

/-- Regions a layer's rewrite copies: its correction and reference regions. -/
def Maq.regionsOf (_m : Maq) (l : LayerEnt) : List Nat := [l.corr, l.ref].filter (fun r => decide (r ≠ 0xFFFF))

/-- Regions that no layer's rewrite copies and that a swap may change: they are installed at its end. -/
def Maq.restRegions (m : Maq) : List Nat :=
  ((m.extra.regions.zipIdx).filter (fun r => decide (r.1.kind ≠ 3) && !m.layers.any (fun l => (m.regionsOf l).contains r.2))).map
    (·.2)

/-- A region arrived whole with a digest that disagrees. -/
def CastJob.regionWrong (j : CastJob) (r : Nat) : Bool := j.regionWhole r && !j.regionGood r

/-- A field test runs on a core of the layer (R365). -/
def Device.layerTested (d : Device) (m : Maq) (l : LayerEnt) : Bool :=
  (m.placesOf l).any (fun p => decide (p.dev = d.fab.coord) && decide ((d.core p.coreIx).seq.phase = .testSlice))

/-- LAYER_REWRITE_START (R263): the lowest layer not rewritten starts, once R263 lets it; a wrong digest fails the swap. -/
def execLayerRewriteStart (inst : BitVec 10) (s : State) : Host.Outcome State Fault Refusal :=
  s.lift (fun d =>
    let i := inst.toNat
    let x := d.inst i
    match x.job, x.maq with
    | some j, some old =>
      match j.maq.layers[x.front]? with
      | none => d
      | some l =>
        let rs := j.maq.regionsOf l
        if !j.swap || j.rewriting || !j.staged.contains l.layer || d.layerTested j.maq l then d
        else if rs.any j.regionWrong || (!j.maq.expected.isEmpty && decide (some (j.digest l) ≠ j.maq.expected[l.layer]?)) then
          d.swapFail i cMismatch
        else if rs.all (j.regionSet old) && d.oldPast i l.layer old then d.setJob i { j with rewriting := true }
        else d
    | _, _ => d)

/-- Returns the outlier reserve that raises of a layer took above the capacity `l` gives it (R80). -/
def Device.returnReserve (d : Device) (m : Maq) (l : LayerEnt) (cap : Nat) : Device :=
  let n := 4 * (cap - l.cap) * l.tokens
  if n = 0 then d
  else
    let ks := ((m.placesOf l).filter (fun p => decide (p.dev = d.fab.coord))).map (·.cluster) |>.eraseDups
    let t := ks.foldl (fun t k => Tbl.set 0 t k (Tbl.get 0 t k - n)) d.cast.reserve
    { d with cast := { d.cast with reserve := t } }

/-- Drops the capacities that lag on the cores for a layer. -/
def Device.dropLag (d : Device) (i l : Nat) : Device :=
  { d with cast := { d.cast with lagCap := List.filter (fun (e : Nat × Nat) => decide (e.1 % 2 ^ 22 ≠ i * 4096 + l)) d.cast.lagCap } }

/-- A layer's precision record after its rewrite: the maquette's capacity, norm watch as after a cast; counts stand. -/
def Device.resetLayer (d : Device) (i : Nat) (l : LayerEnt) : Device :=
  let o := d.layerRec i l.layer
  let n := d.freshLayer l
  d.setLayerRec i l.layer { n with burst := o.burst, ovr := o.ovr, events := o.events, raises := o.raises }

/-- The last layer is rewritten: the new maquette is in force (R265). -/
def Device.finishSwap (d : Device) (i : Nat) (j : CastJob) : Device :=
  let x := d.inst i
  let d := d.releaseAllH j.staging
  let d := (x.regH.zip j.maq.extra.regions).foldl (fun d r => d.putRegionRec r.1 ⟨i, r.2.kind, r.2.digest, none⟩) d
  let d := d.setInst i { x with state := 2, status := 0, job := none, front := x.layers, gen := (x.gen + 1) % 2 ^ 32,
                                maq := some j.maq, maqH := j.maqH }
  d.bump (key 0x7070 2) 1

/-- A handle rewritten whole with a matching digest is no longer Bad (R175). -/
def Device.clearBad (d : Device) (h : Nat) : Device :=
  match d.handle? h with
  | none => d
  | some e => d.putHandle h { e with attrs := e.attrs &&& ~~~(1#11 <<< 9) }

/-- A swap whose last layer is rewritten ends once the regions left have arrived; a wrong one fails it. -/
def Device.settleSwap (d : Device) (i : Nat) : Device :=
  let x := d.inst i
  match x.job, x.maq with
  | some j, some old =>
    let rs := j.maq.restRegions
    if !j.swap || j.rewriting || decide (x.front < j.maq.layers.length) then d
    else if rs.any j.regionWrong then d.swapFail i cMismatch
    else if rs.all (j.regionSet old) then
      ((rs.filter j.regionWhole).foldl (fun d r => (d.putRegion i j r).clearBad ((x.regH[r]?).getD 0)) d).finishSwap i j
    else d
  | _, _ => d

/-- A layer as the maquette in force has it. -/
def oldLayer (x : Inst) (l : LayerEnt) : LayerEnt := (x.maq.bind (fun m => m.layers[l.layer]?)).getD l

/-- LAYER_REWRITE_DONE (R265); while a slice holds rows of the layer's engines, nothing is done yet (R365). -/
def execLayerRewriteDone (inst : BitVec 10) (s : State) : Host.Outcome State Fault Refusal :=
  s.lift (fun d =>
    let i := inst.toNat
    let x := d.inst i
    match x.job with
    | none => d
    | some j =>
      match j.maq.layers[x.front]? with
      | none => d
      | some l =>
        if !j.rewriting || !(j.maq.layerKeys l).all (fun k => d.keyFree j.maq k) then d
        else
          let d := (j.maq.layerKeys l).foldl (fun d k => d.castEngine i j l k) d
          let d := ((j.maq.regionsOf l).filter j.regionWhole).foldl (fun d r =>
            (d.putRegion i j r).clearBad ((x.regH[r]?).getD 0)) d
          let d := ((d.returnReserve j.maq (oldLayer x l) (d.layerRec i l.layer).cap).dropLag i l.layer).resetLayer i l
          let y := d.inst i
          let j := { j with rewriting := false }
          let d := d.setInst i { y with digests := Tbl.put y.digests l.layer (j.digest l), front := x.front + 1, job := some j }
          (d.bump (key 0x7070 3) 1).settleSwap i)

/-! ### The plinth (R264) -/

/-- A step of a new round waits: its layer range holds a layer that the open swap has not rewritten. -/
def Device.plinthHolds (d : Device) (p : Plan) : Bool :=
  let x := d.inst p.inst
  match x.job, p.layers with
  | some j, some r => j.swap && p.newRound && decide (x.front ≤ r.2)
  | _, _ => false

end Sys2Proof.Machine
end

