-- ==== Sys2Proof/Machine/Adapters.lean ====
section
/-!
DEFINITION. Adapters (R268–R270, R83), and the chunks that carry layers, regions and adapters (R255).
-/
namespace Sys2Proof.Machine

/-! ### Records -/

def Device.adapter (d : Device) (n : Nat) : Adapter := Tbl.get Adapter.reset d.cast.adapters n

def Device.setAdapter (d : Device) (n : Nat) (x : Adapter) : Device :=
  { d with cast := { d.cast with adapters := Tbl.set Adapter.reset d.cast.adapters n x } }

/-- Layers of an instance that adapters may reach: those whose ceiling is 1 or more. -/
def adapterLayers (m : Maq) : List LayerEnt := m.layers.filter (fun l => decide (1 ≤ l.ra))

/-- Bytes of one layer's A and B at rank `r`, as they arrive. -/
def LayerEnt.adapterBytes (l : LayerEnt) (r : Nat) : Nat := 2 * r * (l.fanIn + l.outputs)

/-! ### Installation (R268) -/

/-- A handle for a factor record on a core. -/
def factorWant (t c bytes : Nat) : Want := ⟨t, c / 12, [c % 12], max 1 (ceilDiv bytes 64), regionAttrs⟩

/-- Layer and core of each factor, in layer order and placement order. -/
def Device.factorSpots (d : Device) (m : Maq) : List (LayerEnt × Nat) :=
  (adapterLayers m).flatMap (fun l =>
    (((m.placesOf l).filter (fun p => decide (p.dev = d.fab.coord))).map Placement.coreIx |>.eraseDups).map (fun c => (l, c)))

/-- A and B handles of a version. -/
def Device.allocFactors (d : Device) (t : Nat) (m : Maq) : Except NoHandle ((Tbl Nat × Tbl Nat) × Device) :=
  let spots := d.factorSpots m
  let wants := spots.flatMap (fun s => [factorWant t s.2 (2 * s.1.ra * s.1.fanIn), factorWant t s.2 (4 + 2 * s.1.ra * s.1.outputs)])
  match d.allocMany wants with
  | .error e => .error e
  | .ok x =>
    .ok (((spots.zipIdx).foldl (fun t s =>
      let k := s.1.1.layer * 192 + s.1.2
      (Tbl.put t.1 k (x.1.getD (2 * s.2) 0), Tbl.put t.2 k (x.1.getD (2 * s.2 + 1) 0))) (([], []) : Tbl Nat × Tbl Nat)), x.2)

def runAdapterInstall (d : Device) (r : Req) (v : List Byte) : Answer :=
  let w0 := wordAt v 0
  let n := bits w0 11 0
  let i := bits w0 21 12
  let rank := bits w0 28 22
  let t := r.tenant.toNat
  let a := d.adapter n
  if n = 0 ∨ rank = 0 ∨ rank > 64 then refuse d dInvalid
  else if a.bound = true ∧ (a.tenant ≠ t ∨ a.inst ≠ i) then refuseOwn d cDenied
  else
    match (d.inst i).maq with
    | none => refuse d dInvalid
    | some m =>
      if m.extra.serving.home ≠ d.fab.coord then refuse d dInvalid
      else if (adapterLayers m).any (fun l => decide (l.ra < rank)) then refuseOwn d cRank
      else
        match lowestFree (Tbl.keys d.cast.versions) 4095 1 with
        | none => refuseOwn d cTable
        | some s =>
          match d.allocFactors t m with
          | .error .quota => refuseOwn d cQuota
          | .error .space => refuseOwn d cSpace
          | .ok x =>
            let d := x.2.setAdapter n { a with bound := true, inst := i, tenant := t }
            done (d.setVersion s { Version.free with adapter := n, st := 1, rank := rank, alpha := BitVec.ofNat 32 (wordAt v 1),
                                                     hA := x.1.1, hB := x.1.2 })

def ruleAdapterInstall : WriteRule := (WriteRule.plain (sized 16 runAdapterInstall)).ownCodes

def execAdapterInstall (r : Req) (s : State) : Host.Outcome State Fault Refusal :=
  s.lift (fun d => d.write 0x7061 0 ruleAdapterInstall r)

/-- The version of an adapter that is loading. -/
def Device.loading? (d : Device) (n : Nat) : Option (Nat × Version) :=
  List.find? (fun (e : Nat × Version) => decide (e.2.adapter = n ∧ e.2.st = 1)) d.cast.versions

/-- A chunk of an adapter's layer. -/
def Device.adapterChunk (d : Device) (s : Nat) (x : Version) (h : ChunkHdr) (v : List Byte) : Option Device :=
  match chunkData h v, (d.inst h.inst).maq with
  | some b, some m =>
    match (adapterLayers m).find? (fun l => decide (l.layer = h.index)) with
    | none => none
    | some l =>
      let g := Tbl.get [] x.got h.index
      if h.off + b.length > l.adapterBytes x.rank ∨ gotMeets g h.off b.length = true then none
      else some (d.setVersion s { x with
        got := Tbl.set [] x.got h.index (g ++ [(h.off, b.length)]),
        raw := Tbl.set [] x.raw h.index (Tbl.setRange 0#8 (Tbl.get [] x.raw h.index) h.off b) })
  | _, _ => none

/-! ### The version becomes current (R268 step 5, R83) -/

/-- Square root of the sum of squares of BF16 elements, in FP32 in ascending order. -/
def frobenius (bs : List Byte) : F32 :=
  f32Sqrt ((List.range (bs.length / 2)).foldl (fun a i =>
    let x := bf16ToF32 (BitVec.ofNat 16 (leAt bs (2 * i) 2))
    f32Add a (f32Mul x x)) 0#32)

/-- A layer's A and B as received. -/
def Version.factors (x : Version) (l : LayerEnt) : List Byte × List Byte :=
  let raw := Tbl.get [] x.raw l.layer
  let n := 2 * x.rank * l.fanIn
  (Tbl.sliceFrom 0#8 n 0 raw, Tbl.sliceFrom 0#8 (2 * x.rank * l.outputs) n raw)

/-- ν of R83. -/
def Version.norm (x : Version) (l : LayerEnt) : F32 :=
  let f := Version.factors x l
  f32Mul (f32Mul (frobenius f.1) (frobenius f.2)) (f32Abs x.alpha)

/-- The A record of a layer: padded with rows of zeros to the ceiling. -/
def Version.recA (x : Version) (l : LayerEnt) : List Byte :=
  (Version.factors x l).1 ++ List.replicate (2 * (l.ra - x.rank) * l.fanIn) 0#8

/-- The B record: α, then each output's row padded with zeros to the ceiling. -/
def Version.recB (x : Version) (l : LayerEnt) : List Byte :=
  leBytes 4 x.alpha.toNat ++ (chunksOf (2 * x.rank) l.outputs (Version.factors x l).2).flatMap (fun b =>
    b ++ List.replicate (2 * (l.ra - x.rank)) 0#8)

/-- Writes a factor record and its region record. -/
def Device.putFactor (d : Device) (i h : Nat) (bs : List Byte) : Device :=
  let n := match d.handle? h with | some e => e.bytes | none => 0
  let b := bs ++ List.replicate (n - bs.length) 0#8
  (d.writeH h 0 (cleanWords b)).putRegionRec h ⟨i, 0, sha256 b, none⟩

/-- The comparison of one layer with the version it follows. -/
def Device.normCheck (d : Device) (n t : Nat) (m : Maq) (old new : Tbl F32) (l : LayerEnt) : Device :=
  let k : F32 := BitVec.ofNat 32 (d.layerPolicy m l (key 0x7060 1))
  let q := f32Div (Tbl.get 0#32 new l.layer) (Tbl.get 0#32 old l.layer)
  if f32Lt k q || f32Lt q (f32Recip k) then
    (d.bump (key 0x7060 2) 1).notify 4 t 0x7063 0 n l.layer
  else d

/-- ADAPTER_VERSION_CURRENT (R268, R269): the last byte of a loading version has arrived. -/
def execAdapterVersionCurrent (slot : BitVec 12) (s : State) : Host.Outcome State Fault Refusal :=
  s.lift (fun d =>
    let v := slot.toNat
    let x := d.version v
    let a := d.adapter x.adapter
    match (d.inst a.inst).maq with
    | none => d
    | some m =>
      let ls := adapterLayers m
      if x.st ≠ 1 ∨ !ls.all (fun l => decide (gotBytes (Tbl.get [] x.got l.layer) = l.adapterBytes x.rank)) then d
      else
        let d := (d.factorSpots m).foldl (fun d p =>
          let k := p.1.layer * 192 + p.2
          (d.putFactor a.inst (Tbl.get 0 x.hA k) (Version.recA x p.1)).putFactor a.inst (Tbl.get 0 x.hB k) (Version.recB x p.1)) d
        let nus := ls.foldl (fun t l => Tbl.set 0#32 t l.layer (Version.norm x l)) ([] : Tbl F32)
        let nu := ls.foldl (fun m l => f32MaxOp m (Tbl.get 0#32 nus l.layer)) 0#32
        let d := if a.cur = 0 then d else ls.foldl (fun d l => d.normCheck x.adapter a.tenant m (d.version a.cur).nus nus l) d
        let d := d.setVersion v { x with st := 2, nu := nu, nus := nus, raw := [], got := [] }
        let d := d.setAdapter x.adapter { a with cur := v }
        let d := d.bump (key 0x7070 5) 1
        if a.cur = 0 then d
        else
          let o := d.version a.cur
          let d := d.setVersion a.cur { o with st := 3 }
          if o.pins = 0 then d.freeVersion a.cur else d)

/-! ### Disabling and removal (R270) -/

/-- The adapter a request pins, 0 where it pins none. -/
def Device.adapterOf (d : Device) (r : ReqEnt) : Nat := if r.pin = 0 then 0 else (d.version r.pin).adapter

/-- Writes one adapter record's Enabled and Mode. -/
def Device.setAdapterCtl (d : Device) (n : Nat) (c : Ctl) : Device :=
  let d := d.setAdapter n { d.adapter n with ctl := c }
  if !c.enabled && c.mode then d.fenceAll (fun r => decide (d.adapterOf r = n)) else d

/-- 7062h.00: bytes of records that are not the writer's are ignored (R274, R320). -/
def runAdapterRecords (d : Device) (r : Req) (v : List Byte) : Answer :=
  let t := r.tenant.toNat
  done (d.mergeRecords 4096 16 v (fun d n b =>
    let a := d.adapter n
    let c : Ctl := ⟨bit (wordAt b 0) 0, bit (wordAt b 0) 1⟩
    if n = 0 ∨ (t ≠ 0 ∧ (a.bound = false ∨ a.tenant ≠ t)) ∨ (c = a.ctl ∧ a.bound = false) then d else d.setAdapterCtl n c))

def ruleAdapterRecords : WriteRule := (WriteRule.plain (sized 65536 runAdapterRecords)).ownCodes

def execAdapterRecordWrite (r : Req) (s : State) : Host.Outcome State Fault Refusal :=
  s.lift (fun d => d.write 0x7062 0 ruleAdapterRecords r)

def runAdapterRemove (d : Device) (_r : Req) (n : Nat) : Answer :=
  if (d.adapter n).bound = false then refuseOwn d cNotFound
  else
    let vs := List.filter (fun (e : Nat × Version) => decide (e.2.adapter = n ∧ e.2.st ≠ 0)) d.cast.versions
    if vs.any (fun e => decide (e.2.pins ≠ 0)) then refuseOwn d cBusy
    else done ((vs.foldl (fun d e => d.freeVersion e.1) d).setAdapter n Adapter.reset)

def ruleAdapterRemove : WriteRule :=
  (WriteRule.guarded (fun d r =>
    let a := d.adapter (leAt r.payload 0 2)
    decide (r.tenant = 0#9) || !a.bound || decide (a.tenant = r.tenant.toNat))
    (valued (key 0x7064 0) runAdapterRemove)).ownCodes

def execAdapterRemove (r : Req) (s : State) : Host.Outcome State Fault Refusal :=
  s.lift (fun d => d.write 0x7064 0 ruleAdapterRemove r)

/-! ### Chunks (R255) -/

/-- A chunk that meets no open cast, swap, re-cast or installation is discarded. -/
def discardChunk (d : Device) : Answer := done (d.bump (key 0x7070 4) 1)

/-- A layer's or a region's chunk. -/
def Device.targetChunk (d : Device) (h : ChunkHdr) (v : List Byte) : Answer :=
  let open_ := match (d.inst h.inst).job with
    | some j => if j.swap = h.swap then some j else none
    | none => none
  match open_ with
  | some j =>
    match d.jobChunk h.inst j h v with
    | .ok d => done (d.settleSwap h.inst)
    | .error c =>
      refuseOwn (if j.swap then d.swapFail h.inst c else (d.undoCast h.inst j c).bump (key 0x7070 4) 1) c
  | none =>
    if h.target ≠ 1 ∨ h.swap = true then discardChunk d
    else
      match d.recastTarget h with
      | none => discardChunk d
      | some x =>
        match d.recastChunk x.1 x.2 h v with
        | .ok d => done d
        | .error c => refuseOwn (d.recastFailed x.1 x.2 c) c

def runChunk (d : Device) (_r : Req) (v : List Byte) : Answer :=
  if v.length < 32 then refuse d dLength
  else
    let h := chunkHdr v
    if h.target = 3 ∨ (h.target ≠ 2 ∧ h.adapter ≠ 0) then refuse d dInvalid
    else if h.target = 2 then
      match d.loading? h.adapter with
      | none => discardChunk d
      | some x =>
        if (d.adapter h.adapter).inst ≠ h.inst then discardChunk d
        else
          match d.adapterChunk x.1 x.2 h v with
          | some d => done d
          | none => refuseOwn ((d.freeVersion x.1).bump (key 0x7070 4) 1) cMaquette
    else d.targetChunk h v

/-- R255 gives chunks no tenant rule: what may be written was decided as its cast, swap, re-cast or installation opened. -/
def ruleChunk : WriteRule := (WriteRule.plain runChunk).ownCodes

/-- CHUNK (R255). -/
def execChunk (r : Req) (s : State) : Host.Outcome State Fault Refusal :=
  s.lift (fun d => d.write 0x7002 0 ruleChunk r)

end Sys2Proof.Machine
end

