-- ==== Sys2Proof/Machine/FieldTest.lean ====
section
/-!
DEFINITION. Passes and core health (16): when a pass opens and becomes overdue (R361, R362), what a failing test sets
(R371), what the health function decides (R372), retirement and disabling (R373), the end of a slice (R363, R364).
-/
namespace Sys2Proof.Machine

def flFieldTest : Nat := 0
def flLogicScan : Nat := 1
def flMemory : Nat := 2
def flRestore : Nat := 3
def flRetest : Nat := 4

def Health.setFlag (h : Health) (k : Nat) : Health := { h with flags := h.flags ||| (1#5 <<< k) }
def Health.clearFlag (h : Health) (k : Nat) : Health := { h with flags := h.flags &&& ~~~(1#5 <<< k) }

/-- Flag and trigger bit of a slice's kind: 0 field test, 1 logic scan. -/
def SliceId.kind : SliceId → Nat
  | .pack _ _ _ => 0
  | .scan _ => 1

/-- Slice index or scan segment (Tab. 16.2). -/
def SliceId.detail : SliceId → Nat
  | .pack _ _ ix => ix % 256
  | .scan seg => seg

/-- Place of a core in an error record (Tab. 16.1). -/
def coreAt (i : Nat) : ErrAt := { cls := if isAttn i then 3 else 2, cluster := i / 13, unit := i % 13 }

/-- A test failure (R371). -/
def Device.testFailed (d : Device) (unit kind : Nat) : Device := d.notify 0x10 0 0xA060 0 unit kind

/-! ### Passes (R361, R362) -/

def Health.closePass (h : Health) : Health :=
  { h with openAt := none, slices := [], overdue := false, reserved := false }

/-- A pass uses a pack. -/
def Device.packUsed (d : Device) (p : Pack) : Bool :=
  let is := fun (x : SliceId) => match x with
    | .pack i v _ => decide (i = p.ident ∧ v = p.version)
    | .scan _ => false
  d.rel.health.any (fun e => e.2.slices.any is) || d.rel.runs.any (fun e => is e.2.slice)

/-- Removed packs that no pass uses any more go, with their handles. -/
def Device.dropPacks (d : Device) : Device :=
  let gone := d.rel.packs.filter (fun p => p.removed && !d.packUsed p)
  let d := { d with rel := { d.rel with packs := d.rel.packs.filter (fun p => !(p.removed && !d.packUsed p)) } }
  gone.foldl (fun d p => p.handles.foldl (fun d h => d.startRelease h.2) d) d

/-- A pass opens with a slice list. -/
def Device.openPass (d : Device) (i : Nat) (l : List SliceId) : Device :=
  d.setHealth i { d.health i with openAt := some d.clk.up, slices := l, done := 0, overdue := false, reserved := false }

/-- TEST_PASS_OPEN (R361): a pass still open closes at once and counts. -/
def execTestPassOpen (c : AnyCore) (s : State) : Host.Outcome State Fault Refusal :=
  s.lift (fun d =>
    let i := c.val
    match (d.health i).passDue with
    | none => d
    | some t =>
      if !d.testable i then d
      else
        let d := d.reach t
        let d := if (d.health i).openAt.isSome then d.bump (key 0xA030 7) 1 else d
        let run := Tbl.find? d.rel.runs i
        let l := d.passSlices i
        let l := match run with | some r => r.slice :: l | none => l
        let d := (d.setHealth i { (d.health i).closePass with
          passDue := some (t + d.reg (key 0xA000 1) * 1000000000) }).openPass i l
        d.dropPacks.idleSlice i)

/-- Reserves a core's next commit mark, once the spacing has passed. -/
def Health.reserve (h : Health) (now : Nat) : Health :=
  if h.openAt.isSome && h.overdue && decide (h.spacing ≤ now) then { h with reserved := true } else h

/-- An attention core between descriptors, or an idle CIM core, runs a reserved slice at once. -/
def Device.startReserved (d : Device) (i : Nat) : Device := d.idleSlice i

/-- PASS_OVERDUE (R362). -/
def execPassOverdue (c : AnyCore) (s : State) : Host.Outcome State Fault Refusal :=
  s.lift (fun d =>
    let i := c.val
    match (d.health i).openAt with
    | none => d
    | some t =>
      if (d.health i).overdue then d
      else
        let d := d.reach (t + d.reg (key 0xA000 2) * 1000000000)
        (d.setHealth i ({ d.health i with overdue := true }.reserve d.clk.up)).startReserved i)

/-- FORCED_SPACING_EXPIRY (R362). -/
def execForcedSpacingExpiry (c : AnyCore) (s : State) : Host.Outcome State Fault Refusal :=
  s.lift (fun d =>
    let i := c.val
    let h := d.health i
    if h.openAt.isNone || !h.overdue || h.reserved then d
    else
      let d := d.reach h.spacing
      (d.setHealth i ((d.health i).reserve d.clk.up)).startReserved i)

/-! ### Retirement (R372, R373) -/

/-- Live requests whose work may run on a core. -/
def Device.coreReqs (d : Device) (i : Nat) : List Nat :=
  (List.filter (fun (e : Nat × ReqEnt) => e.2.live && (d.reqCores e.1).contains i) d.serv.reqs).map (·.1)

/-- FENCE of a core: those requests fail with 05h at their next closing commit mark. -/
def Device.fenceCore (d : Device) (i : Nat) : Device := (d.coreReqs i).foldl (fun d s => d.fenceReq s) d

/-- Disabling a core acts with the Mode it is given; an open pass closes (R365). -/
def Device.disableCore (d : Device) (i : Nat) (mode : Bool) : Device :=
  let d := (d.setHealth i { (d.health i).closePass with enabled := false }).dropPacks
  if mode then d.fenceCore i else d

/-- Retires a core (R373). `detail` is the trigger bit. -/
def Device.retireCore (d : Device) (i detail : Nat) (mode : Bool) : Device :=
  if (d.health i).retired then d
  else
    let d := d.setHealth i { d.health i with retired := true, retest := [], news := [] }
    let d := (d.err (coreAt i) 0x1C detail).notify 0x11 0 0xA060 0 i
    (d.bump (key 0xA030 6) 1).disableCore i mode

/-- Retirement by a trigger, in the record's Mode. -/
def Device.retireBy (d : Device) (i bit : Nat) : Device := d.retireCore i bit (d.health i).mode

/-- A trigger's bit in A050h.01 is set. -/
def Device.trigger (d : Device) (bit : Nat) : Bool := (d.reg (key 0xA050 1)).testBit bit

/-- Retest pending for a slice: it comes next in the open pass, or in one that opens for it, and the pass is overdue at
once. -/
def Device.setRetest (d : Device) (i : Nat) (x : SliceId) : Device :=
  let h := d.health i
  let d := if h.openAt.isSome then d.setHealth i { h with slices := x :: h.slices }
           else d.openPass i (x :: (d.passSlices i).filter (fun y => decide (y ≠ x)))
  let h := d.health i
  d.setHealth i ({ h.setFlag flRetest with overdue := true, retest := h.retest ++ [x] }.reserve d.clk.up)

/-- One failure of a slice, as the health function reads it. -/
def Device.readFailure (d : Device) (i : Nat) (x : SliceId) : Device :=
  if !d.trigger x.kind || (d.health i).retired then d
  else if d.reg (key 0xA050 2) = 0 ∨ (d.health i).retest.contains x = true then d.retireBy i x.kind
  else d.setRetest i x

/-- HEALTH_FLAG_ACTION (R372). -/
def execHealthFlagAction (c : AnyCore) (s : State) : Host.Outcome State Fault Refusal :=
  s.lift (fun d =>
    let i := c.val
    let h := d.health i
    let d := d.setHealth i { h with news := [], noEngine := false }
    let d := if h.noEngine && d.trigger 3 then d.retireBy i 3 else d
    let d := if decide (2 ≤ h.badWords.length) && d.trigger 2 && !isAttn i then d.retireBy i 2 else d
    (h.news.foldl (fun d x => d.readFailure i x) d).idleSlice i)

/-- One record of A060h.00. -/
def Device.writeHealth (d : Device) (i : Nat) (en mode : Bool) : Device :=
  let h := d.health i
  if h.enabled = en ∧ h.mode = mode then d
  else
    let d := d.setHealth i { h with mode := mode }
    if en then (if h.enabled || h.retired then d else d.setHealth i { d.health i with enabled := true, drained := false })
    else if h.enabled then d.disableCore i mode
    else if mode && !h.drained then d.fenceCore i
    else d

def runCoreHealth (d : Device) (_r : Req) (v : List Byte) : Answer :=
  done (d.mergeRecords 208 16 v (fun d i b => d.writeHealth i (bit (wordAt b 0) 0) (bit (wordAt b 0) 1)))

def ruleCoreHealth : WriteRule := WriteRule.guarded (fun _ r => decide (r.tenant = 0#9)) (sized 3328 runCoreHealth)

/-- CORE_HEALTH_WRITE (R373). -/
def execCoreHealthWrite (r : Req) (s : State) : Host.Outcome State Fault Refusal :=
  s.lift (fun d => d.write 0xA060 0 ruleCoreHealth r)

/-! ### The end of a slice (R363, R364) -/

/-- Sum of the delays of a program, every loop at its count: the issue cycle of its end. -/
def progDelay (m : LoopMax) : Nat → List StepWord → Nat
  | 0, _ => 0
  | _ + 1, [] => 0
  | fuel + 1, w :: ws =>
    if wClass w = 0 ∧ wOp w = 4 then
      let s := splitLoop ws 0 []
      max 1 (wDelay w) + loopMax m w * progDelay m fuel s.1 + progDelay m fuel s.2
    else max 1 (wDelay w) + progDelay m fuel ws

/-- The program of a slice. -/
def slicePrograms (b : List Byte) (r : SliceRec) : List StepWord :=
  (List.range r.words).map (fun k => BitVec.ofNat 128 (leAt b (r.progOff + 16 * k) 16))

/-- Duration of a slice in cycles without its mesh wait (R365). -/
def sliceCycles (b : List Byte) (r : SliceRec) : Nat :=
  let ws := slicePrograms b r
  2 * ceilDiv (64 * r.regLen) 128 + (if r.engines = 0 then 0 else 2 * 528) + ceilDiv (16 * r.words) 128 +
    progDelay ⟨0, 0, 0⟩ (ws.length + 1) ws + ceilDiv (64 * r.resLen) 64 + 80

/-- A passing slice clears its retest, and its flag when no other of its kind waits. -/
def Health.passed (h : Health) (x : SliceId) : Health :=
  if h.retest.contains x then
    let rs := h.retest.filter (fun y => decide (y ≠ x))
    let h := { h with retest := rs }
    let h := if rs.any (fun y => decide (y.kind = x.kind)) then h else h.clearFlag x.kind
    if rs.isEmpty then h.clearFlag flRetest else h
  else h

/-- A failing slice (R363 step 4, R368). -/
def Device.sliceFailed (d : Device) (i : Nat) (x : SliceId) : Device :=
  let h := d.health i
  let d := d.setHealth i { h.setFlag x.kind with news := h.news ++ [x], failing := h.done % 65536 }
  let k := if x.kind = 0 then 0x18 else 0x1A
  ((d.err (coreAt i) k x.detail).bump (key 0xA030 (3 + x.kind)) 1).testFailed i k

/-- Frees a slice's scoreboard entries, its place in the cluster and its place in the pass, and counts it. -/
def Device.closeSlice (d : Device) (i : Nat) (r : SliceRun) : Device :=
  let d := d.setRuns (Tbl.del d.rel.runs i)
  let d := if isAttn i then d
           else d.modCore (cimOf i) (fun y => { y with seq := { y.seq with
             board := y.seq.board.map (fun e => if e.ident = r.ident ∧ e.agent = 3 ∧ e.freed = none then
               { e with freed := some d.cyc } else e) } })
  let d := d.bump (key 0xA030 1) 1
  let d := if r.reserved then d.bump (key 0xA030 2) 1 else d
  let h := d.health i
  let h := { h with done := min 65535 (h.done + 1), slices := h.slices.drop 1,
                    reserved := if r.reserved then false else h.reserved,
                    spacing := if r.reserved then d.clk.up + d.reg (key 0xA000 3) * 1000000 else h.spacing }
  let h := if h.openAt.isSome && h.slices.isEmpty then { h.closePass with completed := min 65535 (h.completed + 1) } else h
  (d.setHealth i h).dropPacks

/-- The save area of a cluster (R161): the reserve of 512 KiB that its core tests use. -/
def Device.saveArea (d : Device) (k : Nat) : Option Nat := Tbl.find? d.rel.saveAreas k

/-- The bytes of an engine in the save area: its 256 rows in physical read form, then its count file. -/
def Engine.saved (e : Engine) : List Byte :=
  (List.range 256).flatMap (fun r =>
    leBytes 130 ((List.range 1040).foldl (fun n p => if e.cell p r then n + 2 ^ p else n) 0)) ++
    (List.range 2080).flatMap (fun cs => leBytes 1 (e.wcount cs))

/-- Copies the test region to the save area and back, and the engines beside it: what reading and restoring the region
leaves is each word with the poison it carried. -/
def Device.saveRestore (d : Device) (i : Nat) (r : SliceRec) : Device :=
  let lo := (rowAddr (i / 13) (bufferUnit i) 0 + 64 * r.regOff) / 4
  let ws := d.readWords lo (16 * r.regLen)
  let bad := (List.range r.regLen).filter (fun j => ((ws.1.drop (16 * j)).take 16).any (·.poison))
  let ws := (ws.1, bad.foldl (fun (d : Device) j => d.markRow (i / 13) (bufferUnit i) (r.regOff + j)) ws.2)
  let es := if isAttn i then []
            else r.positions.flatMap (fun p => (d.engine (cimOf i) (d.physAt (cimOf i) p)).saved)
  let d := match d.saveArea (i / 13) with
    | none => ws.2
    | some h =>
      let bytes := match d.handle? h with | some x => x.bytes | none => 0
      if 64 * r.regLen + (es.length + 3) / 4 * 4 ≤ bytes then
        (ws.2.writeH h 0 ws.1).writeH h (64 * r.regLen) (cleanWords es)
      else ws.2.writeH h 0 ws.1
  d.writeWords lo ws.1

/-- An engine whose restored counts differ (R364): a rewrite mends it, or its position moves to the spare engine, or the
core is retired in FENCE. -/
def Device.restoreEngine (d : Device) (i : Nat) (p : Nat) (persists : Bool) : Device :=
  let c := cimOf i
  let e := d.physAt c p
  let at_ : ErrAt := { cls := 1, cluster := c / 12, unit := c % 12, phys := e, pos := p, loc := 0x7FF }
  if !persists then d.err at_ 0x19 0
  else
    let d := d.err at_ 0x19 1
    let d := (d.setHealth i ((d.health i).setFlag flRestore)).testFailed i 0x19
    if e ≠ 32 ∧ d.spareReady c = true then
      (d.putCells c 32 (copyLogical (d.engine c e) (d.engine c 32))).switchEngine c e
    else
      let f := d.fresh
      f.2.retireCore i (f.1.toNat % 256) true

/-- What a pack slice does by its end, when its entries are taken: save, program, digest, restore. -/
def Device.runSlice (d : Device) (i : Nat) (r : SliceRun) (b : List Byte) (x : SliceRec) (res : SliceResult) : Device :=
  let d := (d.reachCyc (r.at_ + sliceCycles b x + res.meshWait)).bump (key 0xA030 5) res.meshWait
  let d := d.saveRestore i x
  let good := decide (res.result.length = 64 * x.resLen ∧ (sha256 res.result).take 16 = x.digest)
  let d := if good then d.setHealth i ((d.health i).passed r.slice) else d.sliceFailed i r.slice
  let d := d.closeSlice i r
  if isAttn i then d
  else (res.differ.filter (fun e => x.positions.contains e.1.val)).foldl (fun d e => d.restoreEngine i e.1.val e.2) d |>.castHeld

end Sys2Proof.Machine
end

