-- ==== Sys2Proof/Machine/Precision.lean ====
section
/-!
DEFINITION. Precision control (04): the norm watch (R86, R87), the overflow window (R80), reference mode (R84, R85).
-/
namespace Sys2Proof.Machine

/-! ### Norm watch (R86, R87) -/

/-- Puts an output record after those of earlier tokens and of the token's lower outputs; outputs of a token that are read
again replace those read before. -/
def insertOut (o : NormOut) : List NormOut → List NormOut
  | [] => [o]
  | x :: xs =>
    if o.tok < x.tok ∨ (o.tok = x.tok ∧ o.lo + o.ys.length ≤ x.lo) then o :: x :: xs
    else if o.tok = x.tok ∧ o.lo < x.lo + x.ys.length then
      -- what of the earlier record lies outside the later one
      (if x.lo < o.lo then [{ x with ys := x.ys.take (o.lo - x.lo) }] else []) ++
        o :: (if o.lo + o.ys.length < x.lo + x.ys.length then
          { x with lo := o.lo + o.ys.length, ys := x.ys.drop (o.lo + o.ys.length - x.lo) } :: xs
        else xs.filter (fun y => !(decide (y.tok = o.tok ∧ y.lo + y.ys.length ≤ o.lo + o.ys.length))))
    else x :: insertOut o xs

/-- Output records of a layer that count: their token's request is neither failed with poison nor degraded. -/
def Device.goodOuts (d : Device) (q : Seq) (l : Nat) : List NormOut :=
  ((q.norms.filter (fun o => decide (o.layer = l) && !q.poisonAll && !q.poisoned.contains o.pos &&
    !(match q.rows[o.pos]? with | some r => (d.req r.slot).degraded | none => true))).foldl
      (fun l o => insertOut o l) [])

/-- r of R86: none where no element counts. -/
def normOf (os : List NormOut) : Option F32 :=
  let ys := os.flatMap (·.ys)
  if ys.isEmpty then none
  else some (f32Sqrt (f32Div (ys.foldl (fun s y => f32Add s (f32Mul y y)) 0#32) (f32OfInt ys.length)))

/-- A sample departs from the band. -/
def LayerRec.event (x : LayerRec) (r k rlo rhi : F32) (warm : Bool) : Bool :=
  if !warm then f32Lt r rlo || f32Lt rhi r else f32Lt (f32Mul k x.sigma) (f32Abs (f32Sub r x.mu))

/-- A sample is folded in. -/
def LayerRec.fold (x : LayerRec) (r : F32) (e : Nat) : LayerRec :=
  let al := f32Pow2 (-(e : Int))
  let dd := f32Sub r x.mu
  let v := f32Mul (f32Sub f32One al) (f32Add x.v (f32Mul al (f32Mul dd dd)))
  { x with mu := f32Add x.mu (f32Mul al dd), v := v, sigma := f32Sqrt v }

/-- The next record of a layer after a sample, and whether it raised an event. -/
def LayerRec.sample (x : LayerRec) (r k rlo rhi : F32) (warmup e : Nat) : LayerRec × Bool :=
  let warm := decide (warmup ≤ x.samples)
  let ev := x.event r k rlo rhi warm
  let y := if ev && warm then x else x.fold r e
  ({ y with last := r, samples := x.samples + 1, events := if ev then min 65535 (x.events + 1) else x.events }, ev)

/-- Marks the results of a step's requests degraded. -/
def Device.flagStep (d : Device) (q : Seq) : Device :=
  q.rows.foldl (fun d r => d.tellOwner q.plan.inst (fun h => .stepStatus h r.slot 0 true none) (fun d => d.degrade r.slot)) d

/-- Local engines of a layer: core and physical engine. -/
def Device.layerEngines (d : Device) (i l : Nat) : List (Nat × Nat) :=
  (List.filter (fun (e : Nat × Engine) => decide (e.2.use = some (i, l))) d.cim.engines).map (fun e => (e.1 / 33, e.1 % 33))

/-- Every engine of the layer is queued for a probe of every column-segment (R87). -/
def Device.probeLayer (d : Device) (i l : Nat) : Device :=
  (d.layerEngines i l).foldl (fun d e => d.modEngine e.1 e.2 (fun g =>
    (List.range 2).foldl (fun (g : Engine) s =>
      if g.queue.contains (probeJob s) then g else { g with queue := g.queue ++ [probeJob s] }) g)) d

/-- Acts on an event by the policy 7058h.03. -/
def Device.normPolicy (d : Device) (c : Nat) (q : Seq) (i : Nat) (l : LayerEnt) : Device :=
  let pol := d.policy c (key 0x7058 3)
  if pol = 0 then d.flagStep q
  else if pol = 1 ∧ l.refFmt ≠ 0 ∧ (match q.plan.layers with | some r => decide (r.2 = l.layer) | none => false) = true then
    { d with cast := { d.cast with reruns := d.cast.reruns ++ [(i, l.layer)] } }
  else (d.flagStep q).probeLayer i l.layer

/-- The norm watch of one layer at a commit mark of core `c`. -/
def Device.watchLayer (d : Device) (c : Nat) (q : Seq) (l : Nat) : Device :=
  let i := q.plan.inst
  match d.layerEnt? i l, normOf (d.goodOuts q l) with
  | some e, some r =>
    let x := (d.layerRec i l).sample r (BitVec.ofNat 32 (d.policy c (key 0x7058 1))) e.rlo e.rhi (d.policy c (key 0x7058 2))
      (d.policy c (key 0x7058 4))
    let d := d.setLayerRec i l x.1
    if x.2 then
      ((d.bump (key 0x7058 5) 1).notify 5 (d.inst i).tenant 0x7048 0 i l).normPolicy c q i e
    else d
  | _, _ => d

/-- The tokens of a step join the overflow windows of its layers, counted on the first core of each (R80; log 75). -/
def Device.countTokens (d : Device) (c : Nat) (q : Seq) : Device :=
  let i := q.plan.inst
  match (d.inst i).maq, q.plan.layers with
  | some m, some r =>
    (m.layers.filter (fun l => decide (r.1 ≤ l.layer ∧ l.layer ≤ r.2 ∧ (d.layerCores m l).head? = some c))).foldl (fun d l =>
      let x := d.layerRec i l.layer
      d.setLayerRec i l.layer { x with winTok := x.winTok + (q.rows.map (·.q)).sum }) d
  | _, _ => d

/-- Action 1 of Tab. 5.4 for the norm watch: every layer whose output the step produced, in ascending order. -/
def Device.normWatch (d : Device) (c : Nat) (q : Seq) : Device :=
  let ls := (q.norms.foldl (fun (t : Tbl Unit) o => Tbl.put t o.layer ()) []).keys
  ls.foldl (fun d l => d.watchLayer c q l) (d.countTokens c q)

/-! ### The overflow window (R80) -/

/-- Bytes of outlier reserve of a cluster. -/
def Device.reserveBytes (d : Device) : Nat := d.reg (key 0x7040 5) * 1024

/-- A raise of layer `n` to capacity `cap` that the reserves cover: taken from each cluster, in force on idle cores at once and on the
others at their next commit mark. -/
def Device.raiseCap (d : Device) (i n : Nat) (m : Maq) (l : LayerEnt) (cap : Nat) : Device :=
  let x := d.layerRec i n
  let need := 4 * (cap - x.cap) * l.tokens
  let cs := d.layerCores m l
  let ks := (cs.map (· / 12)).eraseDups
  if ks.any (fun k => decide (d.reserveBytes < Tbl.get 0 d.cast.reserve k + need)) then d.bump (key 0x7041 4) 1
  else
    let res := ks.foldl (fun t k => Tbl.set 0 t k (Tbl.get 0 t k + need)) d.cast.reserve
    let lag := cs.foldl (fun (t : Tbl Nat) c =>
      let k := c * 2 ^ 22 + i * 4096 + n
      if (d.core c).seq.phase = .idle ∨ (Tbl.find? t k).isSome then t else Tbl.put t k x.cap) d.cast.lagCap
    let d := { d with cast := { d.cast with reserve := res, lagCap := lag } }
    (d.setLayerRec i n { x with cap := cap, raises := min 65535 (x.raises + 1) }).bump (key 0x7041 3) 1

/-- OVERFLOW_WINDOW_CLOSE (R80): a window holds 7040h.02 tokens; one that is not full stays open. -/
def execOverflowWindowClose (inst : BitVec 10) (layer : BitVec 12) (s : State) : Host.Outcome State Fault Refusal :=
  s.lift (fun d =>
    let i := inst.toNat
    let l := layer.toNat
    match (d.inst i).maq, d.layerEnt? i l with
    | some m, some e =>
      let x := d.layerRec i l
      if x.winTok < d.layerPolicy m e (key 0x7040 2) then d
      else
        let cap := min (x.cap + d.layerPolicy m e (key 0x7040 3)) (d.layerPolicy m e (key 0x7040 4))
        let d := d.setLayerRec i l { x with winOver := 0, winTok := 0 }
        if d.layerPolicy m e (key 0x7040 1) < x.winOver ∧ x.cap < cap then d.raiseCap i l m e cap else d
    | _, _ => d)

/-- The capacities and policies in force on core `c` from its commit mark on (R80, R89). -/
def Device.takeCaps (d : Device) (c : Nat) : Device :=
  { d with cast := { d.cast with
      lagCap := List.filter (fun (e : Nat × Nat) => decide (e.1 / 2 ^ 22 ≠ c)) d.cast.lagCap,
      policyLag := List.filter (fun (e : Nat × Nat) => decide (e.1 / 2 ^ 24 ≠ c)) d.cast.policyLag } }

/-! ### Reference mode (R84, R85) -/

/-- Element `i`, `o` of a reference copy held in words. -/
def refElem (ws : List RWord) (l : LayerEnt) (i o : Nat) : Val :=
  let bf := decide (l.refFmt = 2)
  let at_ := Config.refPlace bf l.fanIn l.outputs i o
  let w := ws.getD (at_ / 4) ⟨0#32, true⟩
  let b := w.w.toNat / 256 ^ (at_ % 4)
  ⟨if bf then BitVec.ofNat 32 (b % 65536) <<< 16 else f32OfInt (signedOf 8 (b % 256)), w.poison, .none, false⟩

/-- Scale of an output. -/
def refScaleOf (ws : List RWord) (l : LayerEnt) (o : Nat) : Val :=
  if l.refFmt = 2 then Val.imm f32One
  else
    let w := ws.getD (Config.refScale l.fanIn l.outputs o) ⟨0#32, true⟩
    ⟨w.w, w.poison, .none, false⟩

/-- y[o] of R84, before the adapter term. -/
def refOut (ws : List RWord) (l : LayerEnt) (xs : List Val) (o : Nat) : Val :=
  (dotVals xs ((List.range l.fanIn).map (fun i => refElem ws l i o))).op2 f32Mul (refScaleOf ws l o)

/-- The adapter term of R82 for a version, from the first core that holds its factors; none without a version. -/
def Device.refTerm (d : Device) (m : Maq) (l : LayerEnt) (pin : Nat) (xs : List Val) : Option (List Val) × Device :=
  match d.layerCores m l with
  | [] => (none, d)
  | c :: _ =>
    if pin = 0 ∨ (d.factorH pin c l.layer false).isNone then (none, d)
    else
      let a := d.readFactor c pin l.layer (ceilDiv (l.ra * l.fanIn) 2) false
      let b := a.2.readFactor c pin l.layer (ceilDiv (l.ra * l.outputs) 2 + 1) true
      let al : Val := match b.1 with | x :: _ => ⟨x.w, x.poison, .none, false⟩ | [] => Val.imm 0#32
      let us := patinaU xs (bf16Elems a.1) l.ra l.fanIn .none
      (some ((patinaTerm us (bf16Elems (b.1.drop 1)) l.ra l.outputs).map (fun v => v.op2 f32Mul al)), b.2)

/-- The layer's activation vector of a token as its bursts represent it (R82). -/
def Device.refVector (d : Device) (l : LayerEnt) (t : RefTok) : List Val × Device :=
  let r := d.readH t.src.toNat t.off (16 * t.bursts)
  let v := (buildVec r.1 t.bursts 8 none l.cap .none t.slot.toNat l.layer).hv
  ((List.range l.fanIn).map (fun i => ⟨v.x.getD i 0#32, v.poison.getD i false, .none, false⟩), r.2)

/-- The layer's outputs in reference mode for one token. -/
def Device.refToken (d : Device) (m : Maq) (l : LayerEnt) (ws : List RWord) (t : RefTok) : List Val × Device :=
  let v := d.refVector l t
  let ys := (List.range l.outputs).map (refOut ws l v.1)
  match v.2.refTerm m l (v.2.req t.slot.toNat).pin v.1 with
  | (none, d) => (ys, d)
  | (some ts, d) => (List.zipWith (fun (a b : Val) => a.op2 f32Add b) ys ts, d)

/-- Outputs of tokens. -/
def Device.refAll (d : Device) (m : Maq) (l : LayerEnt) (ws : List RWord) : List RefTok → List (List Val) × Device
  | [] => ([], d)
  | t :: ts =>
    let a := d.refToken m l ws t
    let b := a.2.refAll m l ws ts
    (a.1 :: b.1, b.2)

/-- Delivers a token's reference outputs in FP32 to a handle; R69 and poison bear on its request. -/
def Device.refDeliver (d : Device) (i h off slot : Nat) (ys : List Val) : Device :=
  let n := match d.handle? h with | some x => x.bytes | none => 0
  let d := if off + 4 * ys.length ≤ n then d.writeH h off (ys.map (fun y => ⟨y.v, y.poison⟩)) else d
  let d := if ys.any (·.degraded) then
      d.tellOwner i (fun c => .stepStatus c slot 0 true none) (fun d => d.degrade slot) else d
  if ys.any (·.poison) then d.poisonRow i slot else d

/-- The root mean square of a list, FP32 in order. -/
def rmsOf (xs : List F32) : F32 :=
  f32Sqrt (f32Div (xs.foldl (fun s x => f32Add s (f32Mul x x)) 0#32) (f32OfInt xs.length))

/-- The comparison record of a sampled request's layer: clean elements in token order and then output order. -/
def Device.refCompare (d : Device) (i l : Nat) (ref : List Val) (narrow : List F32) : Device :=
  let ps := (ref.zip narrow).filter (fun p => !p.1.poison)
  let ds := ps.map (fun p => f32Sub p.1.v p.2)
  let mx := ds.foldl (fun m x => f32MaxOp m (f32Abs x)) 0#32
  let den := rmsOf (ps.map (fun p => p.1.v))
  let q := if ps.isEmpty ∨ f32IsZero den then ((d.fresh.1.setWidth 32 : F32), d.fresh.2) else (f32Div (rmsOf ds) den, d)
  ({ q.2 with cast := { q.2.cast with comparisons := Tbl.put q.2.cast.comparisons (i * 4096 + l) (mx, q.1) } }).bump
    (key 0x7050 2) 1

/-- Whether a layer runs in reference mode for a step: a rerun asked for it, a request of the step is sampled, or the whole
instance runs so (R84, R85). -/
def Device.refWanted (d : Device) (m : Maq) (x : RefStep) : Bool :=
  match x.scope with
  | .layer => d.cast.reruns.contains (x.inst.toNat, x.layer.toNat)
  | .sampled => x.toks.any (fun t => (d.aux t.slot.toNat).sampled)
  | .inst => m.reference

/-- The words of a layer's reference copy. -/
def Device.refCopy (d : Device) (i : Nat) (e : LayerEnt) : List RWord × Device :=
  let h := ((d.inst i).regH[e.ref]?).getD 0
  let n := match d.handle? h with | some y => y.len * 16 | none => 0
  d.readH h 0 n

/-- Delivers the outputs of a step's tokens, one after the other. -/
def Device.refDeliverAll (d : Device) (x : RefStep) (e : LayerEnt) (ts : List (RefTok × List Val)) : Device :=
  ts.zipIdx.foldl (fun d t =>
    d.refDeliver x.inst.toNat x.dest.toNat (x.off + 4 * e.outputs * t.2) t.1.1.slot.toNat t.1.2) d

/-- The sampled tokens of a step, each with its place among the step's tokens. -/
def Device.refSampled (d : Device) (x : RefStep) : List (RefTok × Nat) :=
  (x.toks.zipIdx).filter (fun t => (d.aux t.1.slot.toNat).sampled)

/-- The narrow outputs that stand for some tokens of a step. -/
def Device.refNarrow (d : Device) (x : RefStep) (e : LayerEnt) : List (RefTok × Nat) → List F32 × Device
  | [] => ([], d)
  | t :: ts =>
    let r := d.readH x.dest.toNat (x.off + 4 * e.outputs * t.2) e.outputs
    let rs := r.2.refNarrow x e ts
    (r.1.map (fun (y : RWord) => y.w) ++ rs.1, rs.2)

/-- The reference outputs of a step's tokens delivered, or compared for sampled requests. -/
def Device.refRun (d : Device) (m : Maq) (e : LayerEnt) (x : RefStep) : Device :=
  let i := x.inst.toNat
  let l := x.layer.toNat
  let c := d.refCopy i e
  if x.scope = .sampled then
    let ts := c.2.refSampled x
    let r := c.2.refAll m e c.1 (ts.map (·.1))
    let nar := r.2.refNarrow x e ts
    nar.2.refCompare i l (r.1.flatMap id) nar.1
  else
    let r := c.2.refAll m e c.1 x.toks
    let d := r.2.refDeliverAll x e (x.toks.zip r.1)
    { d with cast := { d.cast with reruns := d.cast.reruns.filter (fun y => decide (y ≠ (i, l))) } }

/-- Cost in cycles of a reference step: the first row of the reference cost tables that covers it, 0 where none does. -/
def refCost (m : Maq) (l n : Nat) : Nat :=
  match m.extra.refCosts.find? (fun r => decide (r.1 = l ∧ n ≤ r.2.1)) with
  | some r => r.2.2
  | none => 0

/-- Clusters of this device whose attention cores serve a layer. -/
def Device.layerClusters (d : Device) (m : Maq) (l : LayerEnt) : List Nat := ((d.layerCores m l).map (· / 12)).eraseDups

/-- REFERENCE_STEP (R84, R85): a step of its own on the layer's attention core, at the cost of the maquette's table; a layer
without a copy runs in no reference mode. -/
def execReferenceStep (k : ClusterIx) (x : RefStep) (s : State) : Host.Outcome State Fault Refusal :=
  s.lift (fun d =>
    match (d.inst x.inst.toNat).maq, d.layerEnt? x.inst.toNat x.layer.toNat with
    | some m, some e =>
      if e.refFmt = 0 ∨ d.refWanted m x = false ∨ (d.layerClusters m e).contains k.val = false ∨ d.attnUp k.val = false then d
      else (d.reachCyc (d.cyc + refCost m x.layer.toNat x.toks.length)).refRun m e x
    | _, _ => d)

end Sys2Proof.Machine
end

