-- ==== Sys2Proof/Machine/Commit.lean ====
section
/-!
DEFINITION. The commit mark of a CIM core (05): the drain and the commit cycles (R105), the actions of Tab. 5.4 (R106), an
idle core (R107), the pause (R104), the slices (R61, R362) and the plinth (R264) that stand between them.
-/
namespace Sys2Proof.Machine

def Device.setPhase (d : Device) (c : Nat) (p : Phase) : Device :=
  d.modCore c (fun x => { x with seq := { x.seq with phase := p } })

/-! ### Actions 6 to 8 -/

/-- A plan has left action 7: an expert step's tables are written, and the core awaits its STEP word. -/
def Device.readyPlan (d : Device) (c : Nat) (p : Plan) : Device :=
  (if p.batch.isEmpty then d else d.putExpert c p).setPhase c .ready

/-- Action 7 for an idle core with a step at hand. -/
def Device.plinthCheck (d : Device) (c : Nat) : Device :=
  let x := d.core c
  match x.aux.plans with
  | [] => d
  | p :: _ =>
    if x.seq.phase ≠ .idle then d
    else if d.plinthHolds p then
      d.modCore c (fun y => { y with seq := { y.seq with phase := .plinth }, aux := { y.aux with plinthAt := d.cyc } })
    else d.readyPlan c p

/-- Every idle core that a choice has given a step passes action 7. -/
def Device.plinthAll (d : Device) : Device :=
  ((d.cim.cores).map (·.1)).foldl (fun d c => d.plinthCheck c) d

/-- Action 6 on a core: the instances it leads that have no round choose one. -/
def Device.choose (d : Device) (c : Nat) : Device := (d.ledBy c).foldl (fun d i => d.chooseRound i) d


/-- An idle lead core runs action 6 as soon as its cause arises (R107). -/
def Device.kick (d : Device) (i : Nat) : Device :=
  match d.serving? i with
  | none => d
  | some s =>
    let c := s.lead.val
    if decide (s.home = d.fab.coord) && d.coreUp c && decide ((d.core c).seq.phase = .idle) then
      ((d.choose c).plinthAll).idleSlice (anyOfCore c)
    else d

/-! ### The closing mark (R208) -/

/-- A gate step of the plan's program still waits or runs on a core. -/
def CimCore.gatePending (x : CimCore) (i g : Nat) : Bool :=
  x.aux.plans.any (fun p => decide (p.inst = i ∧ p.gate = some g)) ||
    (decide (x.seq.phase = .running ∨ x.seq.phase = .drain) && decide (x.seq.plan.inst = i ∧ x.seq.plan.gate = some g))

/-- A gate of the instance is out, or its router waits, whose experts have steps on core `c`. -/
def Device.gateOut (d : Device) (i c : Nat) : Bool :=
  match (d.inst i).maq with
  | none => false
  | some m => (m.extra.moe.zipIdx).any (fun x => x.1.expertCores.any (fun e => decide (e.2 = c)) &&
      d.cim.cores.any (fun y => y.2.gatePending i x.2 || decide (y.2.aux.route = some (i, x.2))))

/-- The lead core of an instance, where it runs steps of the instance's rounds on this device. -/
def Device.leadOf (d : Device) (i : Nat) : Option Nat :=
  match (d.inst i).maq with
  | none => none
  | some m =>
    let c := m.extra.serving.lead.val
    if m.extra.programs.any (fun p => (m.progCores d.fab.coord p).contains c) then some c else none

/-- No step of the round is left for the lead core: none runs or waits there, and no gate may still send one. -/
def Device.leadDone (d : Device) (i c : Nat) : Bool :=
  !(d.core c).runs i && !((d.core c).aux.plans.any (fun p => decide (p.inst = i))) && !d.gateOut i c

/-- The commit mark on core `c` of a step is its round's closing commit mark: the step is the round's last on the lead core,
an expert step or another; where the lead core runs none, the last of all. -/
def Device.closesAt (d : Device) (c : Nat) (p : Plan) : Bool :=
  match d.leadOf p.inst with
  | none => p.last
  | some l => decide (c = l) && d.leadDone p.inst l

/-- The router of a core's last gate step runs (R232). Where it leaves the lead core without a step, the round closes. -/
def Device.route (d : Device) (c : Nat) : Device :=
  match (d.core c).aux.route with
  | none => d
  | some r =>
    let d := (d.modCore c (fun x => { x with aux := { x.aux with route := none } })).runRouter r.1 r.2
    match d.leadOf r.1 with
    | none => d
    | some l => if d.leadDone r.1 l then (d.closeRound r.1).kick r.1 else d

/-- Actions 6 to 8; a core that finds no step is idle and may run a slice (R107, R362). -/
def Device.nextStep (d : Device) (c : Nat) : Device :=
  ((((d.setPhase c .idle).route c).choose c).plinthAll).idleSlice (anyOfCore c)

/-! ### Actions 3 to 5 -/

/-- Action 5, and what follows when no slice starts. -/
def Device.actFive (d : Device) (c : Nat) : Device :=
  let r := (d.setPhase c .idle).markSlice (anyOfCore c)
  if r.1 then r.2 else r.2.nextStep c

/-- Action 4. -/
def Device.actFour (d : Device) (c : Nat) : Device :=
  if (d.core c).aux.calReserved then d.startCalSlice c else d.actFive c

/-- The actions from `k` on: 4, 5, or 6. -/
def Device.actFrom (d : Device) (c k : Nat) : Device :=
  if k ≤ 4 then d.actFour c else if k = 5 then d.actFive c else d.nextStep c

/-- A pending pause is taken (R104), and the actions from `k` on follow it; with none they follow at once. -/
def Device.pauseOr (d : Device) (c k : Nat) : Device :=
  match (d.core c).seq.pause with
  | none => d.actFrom c k
  | some q =>
    (d.bump (key 0xC020 7) q).modCore c (fun x => { x with
      seq := { x.seq with phase := .markPause, pause := none }, aux := { x.aux with next := k, pauseEnd := d.cyc + q } })

/-! ### COMMIT_MARK (R105, R106, R174) -/

/-- The step of a core has issued its COMMIT, or ended early, and nothing it started is outstanding. -/
def CimCore.drained (x : CimCore) : Bool :=
  (decide (x.seq.phase = .drain) || (decide (x.seq.phase = .running) && x.seq.ended)) && x.seq.ops.all (fun o => !o.ofStep)

/-- The judgement of the step's requests: its own status, poison, an empty mask. -/
def Device.judgeStep (d : Device) (q : Seq) : Device :=
  let d := if q.status = 0 then d else q.rows.foldl (fun d r => d.failRow q.plan.inst r.slot q.status) d
  let d := (q.rows.zipIdx).foldl (fun d r => if q.poisonAll || q.poisoned.contains r.2 then d.poisonRow q.plan.inst r.1.slot else d) d
  if d.ownsInst q.plan.inst then
    q.rows.foldl (fun d r => if (d.aux r.slot).token = some 0xFFFFFFFF then d.fixFailure r.slot 0x0C else d) d
  else d

/-- Action 2: when the last gate step has committed, the router stands ready for action 6; the round closes at its closing
mark. -/
def Device.actTwo (d : Device) (c : Nat) (p : Plan) : Device :=
  let d := match p.gate with
    | none => d
    | some g =>
      if d.cim.cores.any (fun x => x.2.gatePending p.inst g) then d
      else d.modCore c (fun x => { x with aux := { x.aux with route := some (p.inst, g) } })
  if d.closesAt c p then (d.closeRound p.inst).kick p.inst else d

/-- The end of the commit cycles: in-flight list, tags and reservations are clear, the step is counted. -/
def CimCore.committedAt (x : CimCore) (t : Nat) : CimCore :=
  { x with
    seq := { x.seq with phase := .markPause, resv := [], flight := [], tags := [], landing := [], norms := [], wait := none,
                        poisoned := [], poisonAll := false, ended := false, prev := t,
                        board := x.seq.board.filter (fun e => e.busy t) },
    aux := { x.aux with committed := min (2 ^ 32 - 1) (x.aux.committed + 1) } }

/-- COMMIT_MARK (R105, R106). -/
def execCommitMark (c : CoreIx) (s : State) : Host.Outcome State Fault Refusal :=
  s.lift (fun d =>
    if !(d.coreUp c && (d.core c).drained) then d
    else
      let d := d.landAll c
      let q := (d.core c).seq
      let last := max q.prev q.done
      let d := (d.bump (key 0xC020 4) (last - q.prev)).reachCyc (last + 16)
      let d := (d.judgeStep q).modCore c (fun x => x.committedAt (last + 16))
      let d := ((d.normWatch c q).takeCaps c).actTwo c q.plan
      d.pauseOr c 4)

/-! ### What ends a wait at the mark -/

/-- A pause of the engines of an attention core runs out (R397): the earliest. -/
def Device.endEnginePause (d : Device) (k : Nat) : Device :=
  let u := d.attnUnit k
  match u.pausing with
  | [] => d
  | p :: ps =>
    let e := ps.foldl (fun (m : Nat × Nat) x => if x.2 < m.2 then x else m) p
    (d.reachCyc e.2).setAttn k { u with pausing := u.pausing.filter (fun x => decide (x ≠ e)) }

/-- PAUSE_END (R104, R397). -/
def execPauseEnd (c : AnyCore) (s : State) : Host.Outcome State Fault Refusal :=
  s.lift (fun d =>
    if isAttn c.val then d.endEnginePause (c.val / 13)
    else
      let i := cimOf c.val
      let x := d.core i
      if x.seq.phase = .markPause then (d.reachCyc x.aux.pauseEnd).actFrom i x.aux.next else d)

/-- CALIBRATION_SLICE_END (R61): a pause that has come meanwhile is taken before anything else. -/
def execCalibrationSliceEnd (c : CoreIx) (s : State) : Host.Outcome State Fault Refusal :=
  s.lift (fun d =>
    let x := d.core c
    if x.seq.phase = .calSlice then
      ((d.reachCyc x.aux.pauseEnd).bump (key 0x9030 6) 1).pauseOr c 5
    else d)

/-- PLINTH_RELEASE (R264). -/
def execPlinthRelease (c : CoreIx) (s : State) : Host.Outcome State Fault Refusal :=
  s.lift (fun d =>
    let x := d.core c
    match x.seq.phase, x.aux.plans with
    | .plinth, p :: _ =>
      if d.plinthHolds p then d else (d.bump (key 0x7070 7) (d.cyc - x.aux.plinthAt)).readyPlan c p
    | _, _ => d)

/-! ### The end of a field-test slice (R363, R365) -/

/-- What follows a slice: on a CIM core a pause that has come meanwhile, then the choice of the next step; elsewhere the
next descriptor or slice. Slices that waited for the cluster start. -/
def Device.afterSlice (d : Device) (i : Nat) : Device :=
  let d := if isAttn i then d else if (d.core (cimOf i)).seq.phase = .testSlice then d.pauseOr (cimOf i) 6 else d
  d.idleSlices (i / 13)

/-- FIELD_TEST_SLICE_END (R363, R364). -/
def execFieldTestSliceEnd (c : AnyCore) (x : SliceResult) (s : State) : Host.Outcome State Fault Refusal :=
  s.lift (fun d =>
    let i := c.val
    let d := d.takeEntries i
    match Tbl.find? d.rel.runs i with
    | none => d
    | some r =>
      match r.slice, d.sliceRec? r.slice with
      | .pack id v _, some rec_ =>
        if !r.started then d
        else
          let b := match d.pack? id v with | some p => p.bytes | none => []
          (d.runSlice i r b rec_ x).afterSlice i
      | _, _ => d)

/-- LOGIC_SCAN_SLICE_END (R368). -/
def execLogicScanSliceEnd (c : AnyCore) (pass : Bool) (s : State) : Host.Outcome State Fault Refusal :=
  s.lift (fun d =>
    let i := c.val
    match Tbl.find? d.rel.runs i with
    | none => d
    | some r =>
      if r.slice.kind = 0 then d
      else
        let d := if pass then d.setHealth i ((d.health i).passed r.slice) else d.sliceFailed i r.slice
        (d.closeSlice i r).afterSlice i)

/-! ### A core stops (R373) -/

/-- A disabled core's remaining work has ended: under DRAIN its requests are terminal and its step has committed, under
FENCE its step has committed; an attention core has no descriptor left (log 166). -/
def Device.mayStop (d : Device) (i : Nat) : Bool :=
  let h := d.health i
  let free := if isAttn i then (d.attnUnit (i / 13)).cur.isNone && (d.attnUnit (i / 13)).queue.isEmpty
              else decide ((d.core (cimOf i)).seq.phase = .idle ∨ (d.core (cimOf i)).seq.phase = .ready ∨
                (d.core (cimOf i)).seq.phase = .plinth)
  !h.enabled && !h.drained && free && (h.mode || (d.coreReqs i).isEmpty)

/-- Rounds whose closing step stood on a stopped core close at its last commit mark. -/
def Device.dropPlans (d : Device) (c : Nat) : Device :=
  let ps := (d.core c).aux.plans
  let d := d.modCore c (fun x => { x with aux := { x.aux with plans := [] }, seq := { x.seq with phase := .idle } })
  ps.foldl (fun d p =>
    match d.leadOf p.inst with
    | none => if p.last then d.closeRound p.inst else d
    | some l => if d.leadDone p.inst l then d.closeRound p.inst else d) d

/-- CORE_DRAINED (R373). -/
def execCoreDrained (c : AnyCore) (s : State) : Host.Outcome State Fault Refusal :=
  s.lift (fun d =>
    let i := c.val
    if d.mayStop i then
      let d := d.setHealth i { d.health i with drained := true }
      if isAttn i then d else d.dropPlans (cimOf i)
    else d)

end Sys2Proof.Machine
end

