-- ==== Sys2Proof/Machine/Ports.lean ====
section
/-!
DEFINITION. Ports as links (12): a port that goes down and what becomes of its packets (R286, R298), route notices (R297),
reachability (R300), the parent of fabric time (R302, R303), training and hello (R289).
-/
namespace Sys2Proof.Machine

/-- A port in an error record. -/
def portAt (p : Nat) : ErrAt := { cls := 6, unit := p }

/-- Fabric ports may run: the straps read a slot of a quad (R288). -/
def Device.fabricSlot (d : Device) : Bool := decide (d.fab.slot.toNat < 4)

/-! ### Packets out of flits -/

/-- The words of a flit with their poison. -/
def flitRWords (f : Flit) : List RWord := (f.payload.zipIdx).map (fun x => ⟨x.1, f.mask.getLsbD x.2⟩)

/-- Whole packets of one channel's flits: what precedes a First flit, and what has no Last flit, is no packet. -/
def cutPackets : List Flit → List Flit → List (List Flit)
  | _, [] => []
  | acc, f :: fs =>
    if f.isFirst then (if f.isLast then [f] :: cutPackets [] fs else cutPackets [f] fs)
    else if acc.isEmpty then cutPackets [] fs
    else if f.isLast then (acc ++ [f]) :: cutPackets [] fs
    else cutPackets (acc ++ [f]) fs

/-- Header words 0 to 3 read (Tab. 12.5) over the payload words. -/
def packetOfWords (h : Nat → Nat) (ws : List RWord) : Packet :=
  ⟨BitVec.ofNat 18 (bits (h 0) 17 0), bit (h 0) 18, bits (h 0) 25 19, bits (h 0) 31 26, BitVec.ofNat 18 (bits (h 1) 17 0),
   BitVec.ofNat 9 (bits (h 1) 26 18), bit (h 1) 27, BitVec.ofNat 16 (bits (h 2) 15 0), bits (h 2) 31 16,
   bits (h 3) 30 14, ws.take (bits (h 3) 13 0 + 1)⟩

/-- The packet that flits carry, and whether a header word is poisoned. -/
def packetOf (fs : List Flit) : Packet × Bool :=
  let ws := fs.flatMap flitRWords
  let h := fun i => (ws.getD i ⟨0#32, false⟩).w.toNat
  (packetOfWords h (ws.drop 4), (ws.take 4).any (·.poison))

/-- The flits carry as many words as the header says, so that nothing is missing or over but fill. -/
def packetWhole (fs : List Flit) : Bool :=
  let k := (packetOf fs).1
  let h3 := ((fs.flatMap flitRWords).getD 3 ⟨0#32, false⟩).w.toNat
  decide (k.words.length = bits h3 13 0 + 1 ∧ fs.length = (k.words.length + 4 + 58) / 59)

/-! ### Reachability (R300) and the parent of fabric time (R302) -/

/-- This device has a route or a detour to a destination. -/
def Device.routed (d : Device) (dest : Coord) : Bool :=
  let e := d.exitFor 0 0 0 dest
  decide (e = .here) || (d.upExit e).isSome || (d.detour 0 0 0 dest e).isSome

/-- Devices this one deals with: they hold its remote pages or windows, or a sync operation is out to them. -/
def Device.partners (d : Device) : List Coord :=
  (d.attn.asked.map (·.dev) ++
    (List.filter (fun (e : Nat × Handle) => e.2.remote) d.mem.handles).map (fun e => BitVec.ofNat 18 e.2.base) ++
    d.sync.remote.map (·.dest)).eraseDups

/-- Records a device as unreachable, once. -/
def Device.setUnreachable (d : Device) (dev : Coord) : Device :=
  if d.fab.unreachable.contains dev then d
  else
    (({ d with fab := { d.fab with unreachable := d.fab.unreachable ++ [dev] } }).notify 3 0 0x4050 0 dev.toNat 1).loseFrames
      dev

/-- A device is reachable again; what has failed stays failed. -/
def Device.setReachable (d : Device) (dev : Coord) : Device :=
  if d.fab.unreachable.contains dev then
    ({ d with fab := { d.fab with unreachable := d.fab.unreachable.filter (fun x => !decide (x = dev)) } }).notify 3 0 0x4050 0
      dev.toNat 0
  else d

/-- A change of routes: a device that loses its last route is unreachable at once, one that had none and gains one is
reachable again. -/
def Device.withRoutes (d : Device) (f : Device → Device) : Device :=
  let lost := d.fab.unreachable.filter (fun x => !d.routed x)
  let had := d.partners.filter (fun x => d.routed x)
  let e := f d
  let e := (lost.filter (fun x => e.routed x)).foldl (fun e x => e.setReachable x) e
  (had.filter (fun x => !e.routed x)).foldl (fun e x => e.setUnreachable x) e

def Device.timeRoot (d : Device) : Coord := BitVec.ofNat 18 (d.reg (key 0x4040 1))

/-- The port toward the parent: the next hop of the route toward the time root; none at the root. -/
def Device.parentPort (d : Device) : Option Nat :=
  if d.timeRoot = d.fab.coord then none else d.upExit (d.exitFor 0 0 0 d.timeRoot)

/-- A device that loses its parent loses its lock (R303). -/
def Device.keepParent (d : Device) (f : Device → Device) : Device :=
  let e := f d
  if e.parentPort = d.parentPort then e else { e with fab := { e.fab with locked := false, good := 0 } }

/-! ### A port goes down (R286, R297, R298) -/

/-- Tells every device of the scope that a port went down or came up. -/
def Device.routeNotice (d : Device) (p : Nat) (up : Bool) : Device := d.send (.notice p up)

/-- The crossing of the ring dateline by an exit (R292). -/
def Device.dateline (d : Device) (p : Nat) : Bool :=
  let q := cQuad d.fab.coord
  decide ((p = 4 ∧ q = 7) ∨ (p = 5 ∧ q = 0))

/-- Routes again a packet that was bound for a failed port: its hop and, where that hop was to cross the dateline, its h are
taken back. -/
def Device.rerouteOne (d : Device) (p chan : Nat) (fs : List Flit) : Device :=
  let cls := match fs.head? with | some f => f.cls | none => 0
  let k := (packetOf fs).1
  d.forward chan (cls / 2) (if d.dateline p then 0 else cls % 2) k.dest { k with hops := k.hops + 1 }

/-- Packets whose first flit is still in the retry buffer, and those queued, in order (R298). -/
def Port.pendingPackets (x : Port) (chan : Nat) : List (List Flit) :=
  cutPackets [] (x.retry.filter (fun f => decide (f.chan = chan)) ++ (Tbl.get [] x.queue chan).flatten)

def Device.rerouteAll (d : Device) (p : Nat) (x : Port) : Device :=
  (List.range 4).foldl (fun d c => (x.pendingPackets c).foldl (fun d fs => d.rerouteOne p c fs) d) d

/-- What a port's link forgets when it goes down. -/
def Port.cut (x : Port) (st : Nat) : Port :=
  { x with st := st, txSeq := 0, retry := [], rxSeq := 0, asked := false, credits := [], retries := [], queue := [], share := 0,
           partialIn := [], shared := [], draining := false }

/-- State after the link is down: retraining at once, disabled, or down where no fabric port may run. -/
def Device.downState (d : Device) (p : Nat) : Nat :=
  if !(d.port p).enabled then 5 else if d.fabricSlot && d.clk.refOk then 1 else 0

/-- The link at a port is lost: error, counter, notification, notice, packets routed again (R286, R297, R298). -/
def Device.portDown (d : Device) (p : Nat) : Device :=
  let x := d.port p
  if x.st ≤ 1 ∨ x.st = 5 then d
  else
    let st := d.downState p
    (d.withRoutes (fun d => d.keepParent (fun d =>
      let d := d.setPort p { x.cut st with drained := !x.enabled }
      let d := (d.err (portAt p) 0x11 0).bump (key 0x4030 5) 1
      let d := d.notify 2 0 0x4010 0 p st
      let d := if x.st = 3 ∧ x.draining = false then d.routeNotice p false else d
      d.rerouteAll p x)))

/-- A port starts training (Tab. 18.5 step 6, R286). -/
def Device.startTraining (d : Device) (p : Nat) : Device :=
  let x := d.port p
  if x.enabled ∧ d.fabricSlot = true ∧ d.clk.refOk = true ∧ (x.st = 0 ∨ x.st = 5) then
    d.setPort p { x.cut 1 with drained := false }
  else d

/-! ### Training and hello (R289) -/

/-- Credits a sender holds after training: the 2 flits that R284 reserves for each class on each channel (log 8). -/
def startCredits : Tbl Nat := (List.range 64).foldl (fun (t : Tbl Nat) k => if k % 16 < 12 then Tbl.set 0 t k 2 else t) []

/-- Hello payload (Tab. 12.8). -/
def Device.helloWords (d : Device) (p : Nat) : List Nat :=
  let id := Config.deviceId.toNat
  [d.fab.coord.toNat + (if d.fab.written then 2 ^ 18 else 0) + p * 2 ^ 19, id % 2 ^ 32, id / 2 ^ 32 % 2 ^ 32, (d.port p).epoch]

/-- A flit outside packets: type, channel MGMT, the port's acknowledge. -/
def Device.sendBare (d : Device) (p type link : Nat) (ws : List Nat) : Device :=
  let ack := (d.port p).ackValue
  d.send (.flit p (sealFlit (type + ack * 2 ^ 25 + link) 0 (flitWords (ws.map (fun x => ⟨BitVec.ofNat 32 x, false⟩)))))

/-- Sends a hello flit. -/
def Device.sendHello (d : Device) (p : Nat) : Device := d.sendBare p 2 0 (d.helloWords p)

/-- A port has trained: it starts its hello exchange with a new epoch and fresh sequences and credits. -/
def Device.trained (d : Device) (p : Nat) (half : Bool) : Device :=
  let x := d.port p
  let h := half && d.isHostPort p
  (d.setPort p { x.cut 2 with half := h, epoch := (x.epoch + 1) % 2 ^ 32, credits := startCredits,
                              lastFlit := d.clk.up }).sendHello p

end Sys2Proof.Machine
end

