-- ==== Sys2Proof/Machine/Security.lean ====
section
/-!
DEFINITION. Identity, boot and attestation (15): envelopes (R348), controller images (R349, R350), the attestation set-up
and requests (R351–R353), diagnostics (R355), the secrets (R356). Signatures are those of an outside standard and stand in
Config.
-/
namespace Sys2Proof.Machine

def Device.setSec (d : Device) (x : SecS) : Device := { d with sec := x }

/-! ### Boot (R347) -/

/-- The stored vendor key agrees with the hash in ROM; otherwise every envelope is rejected. -/
def vendorOk : Bool :=
  Config.itemOk 2 && decide (sha256 (leBytes 60 Config.vendorKey.toNat) = leBytes 32 Config.romHash.toNat)

/-- Place of the security tile and its identity store in an error record. -/
def tileAt : ErrAt := { cls := 8 }

/-- The boot ROM reads the identity store: an item whose digest does not match is recorded (R346). -/
def Device.readStore (d : Device) : Device :=
  (List.range 9).foldl (fun (d : Device) i => if Config.itemOk i then d else d.err tileAt 0x13 i) d

/-- The device keeps only what the identity store holds across a reset of the management domain. -/
def SecS.reboot (x : SecS) (now : Nat) : SecS :=
  { SecS.reset with leafCounter := x.leafCounter, floor := x.floor, pullAt := now }

/-! ### Envelopes (R348, Tab. 15.4) -/

/-- Bytes of an HSS vendor signature (Tab. 15.2). -/
def hssBytes : Nat := 3604

/-- Payload of an envelope. -/
def envPayload (e : List Byte) : List Byte := bytesAt e 16 (wordAt e 2)

def envVersion (e : List Byte) : Nat := wordAt e 1

/-- The envelope's form is right for a kind. -/
def envForm (kind : Nat) (e : List Byte) : Bool :=
  decide (16 ≤ e.length) && decide (bits (wordAt e 0) 15 0 = 0x7A44) && decide (bits (wordAt e 0) 23 16 = kind) &&
    decide (bits (wordAt e 0) 31 24 = 1) && decide (1 ≤ wordAt e 2 ∧ wordAt e 2 ≤ 4194304) &&
    decide (e.length = 16 + wordAt e 2 + hssBytes)

/-- Its signature verifies under the vendor key. -/
def envSigned (e : List Byte) : Bool :=
  vendorOk && Config.hssVerify Config.vendorKey (e.take (e.length - hssBytes)) (e.drop (e.length - hssBytes))

/-- Why an envelope is rejected: 01h form, 02h signature, 03h version. -/
def Device.envFault (d : Device) (kind : Nat) (e : List Byte) : Option Nat :=
  if !envForm kind e then some 1
  else if !envSigned e then some 2
  else if kind = 1 ∧ envVersion e < d.sec.floor then some 3
  else none

/-- A rejection counts in 1010h.04. -/
def Device.rejected (d : Device) : Device := d.setSec { d.sec with rejected := min (2 ^ 32 - 1) (d.sec.rejected + 1) }

/-! ### Controller images (R349, R350) -/

/-- IMAGE_LOAD: the envelope goes to verification, and the write is answered when that ends. -/
def runImageLoad (d : Device) (r : Req) (v : List Byte) : Answer :=
  if v.length > 4197924 then refuse d dLength
  else if d.sec.verifying.isSome then refuse d dBusy
  else ⟨dPending, [], d.setSec { d.sec with verifying := some (v, some r) }⟩

/-- An image is pushed over the sideband or MGMT (R349). -/
def ruleImageLoad : WriteRule := WriteRule.guarded (fun _ r => decide (r.carrier ≠ .cmd)) runImageLoad

def execImageLoad (r : Req) (s : State) : Host.Outcome State Fault Refusal :=
  s.lift (fun d => d.write 0x1020 0 ruleImageLoad r)

/-- The next up port from `p` on, to ask for an image. -/
def Device.nextPull (d : Device) (p : Nat) : Option Nat :=
  ((List.range 8).filter (fun q => decide (p ≤ q))).find? (fun q => d.portUp q)

/-- An unkeyed READ of 1021h.00 from an offset on, to the neighbour of a port. -/
def Device.readImage (d : Device) (q off : Nat) : Device :=
  d.sendPdu 0 1 (d.port q).nbr 0#9 0#16
    (pduBytes (pduHeader 1 0 false false false 0x1021 0 0 0 0 0 off 4197924) [] [])

/-- Asks the next up neighbour. -/
def Device.askImage (d : Device) (p : Nat) : Device :=
  match d.nextPull p with
  | none => d.setSec { d.sec with pullPort := none, pullGot := [] }
  | some q => ((d.setSec { d.sec with pullPort := some q, pullGot := [] }).send (.imagePull q)).readImage q 0

/-- IMAGE_PULL: every 1010h.05 ms while no image runs. -/
def execImagePull (s : State) : Host.Outcome State Fault Refusal :=
  s.lift (fun d =>
    if d.sec.running ≠ [] then d
    else
      let d := d.reach (d.sec.pullAt + d.reg (key 0x1010 5) * 1000000)
      (d.setSec { d.sec with pullAt := d.clk.up }).askImage 0)

/-- A neighbour's answer: its image goes to verification; after zero length the next neighbour is asked. -/
def Device.pullAnswer (d : Device) (p : Nat) (env : List Byte) : Device :=
  if d.sec.running ≠ [] ∨ d.sec.pullPort ≠ some p then d
  else if env = [] then d.askImage (p + 1)
  else
    let d := d.setSec { d.sec with pullPort := none, pullGot := [] }
    if d.sec.verifying.isSome then d else d.setSec { d.sec with verifying := some (env, none) }

/-- One READ's answer in the pull under way: the next READ continues where it ends (R331). -/
def Device.pullPart (d : Device) (q total : Nat) (part : List Byte) : Device :=
  let got := d.sec.pullGot ++ part
  if part = [] ∨ total ≤ got.length then d.pullAnswer q got
  else (d.setSec { d.sec with pullGot := got }).readImage q got.length

def execImagePullResponse (p : PortIx) (env : List Byte) (s : State) : Host.Outcome State Fault Refusal :=
  s.lift (fun d => d.pullAnswer p.val env)

/-- Answers the write that brought an image. -/
def Device.answerImage (d : Device) (r : Option Req) (status : Nat) (payload : List Byte) : Device :=
  match r with
  | none => d
  | some r => d.finishWrite (d.answerKey r) r 0x1020 0 true status payload

/-- A readiness point: its bit of 3000h.01, and notification 30h (R409). -/
def Device.readyBit (d : Device) (b : Nat) : Device :=
  if d.clk.ready.getLsbD b then d
  else ({ d with clk := { d.clk with ready := d.clk.ready ||| (1#7 <<< b) } }).notify 0x30 0 0x3000 1 b

/-- IMAGE_START (R350): the first accepted image starts. -/
def execImageStart (s : State) : Host.Outcome State Fault Refusal :=
  s.lift (fun d =>
    match d.sec.verifying with
    | none => d
    | some (env, r) =>
      let d := d.setSec { d.sec with verifying := none }
      match d.envFault 1 env with
      | some f => d.rejected.answerImage r dRefused [BitVec.ofNat 8 f]
      | none =>
        let d := if d.sec.running = [] then (d.setSec { d.sec with running := env, pullPort := none }).readyBit 6 else d
        d.answerImage r dOk [])

/-- Security version of the running image; 0 when none runs. -/
def SecS.imageVersion (x : SecS) : Nat := if x.running = [] then 0 else envVersion x.running

/-- Digest of the running envelope; zeros when none runs. -/
def SecS.imageDigest (x : SecS) : List Byte := if x.running = [] then leBytes 32 0 else sha256 x.running

/-- RAISE_FLOOR (R350). -/
def runRaiseFloor (d : Device) (_r : Req) (_x : Nat) : Answer :=
  if d.sec.running = [] then refuse d dNotReady
  else if d.sec.imageVersion < d.sec.floor then refuse d dInvalid
  else done (d.setSec { d.sec with floor := d.sec.imageVersion })

def ruleRaiseFloor : WriteRule := WriteRule.plain (valued (key 0x1010 6) runRaiseFloor)

def execRaiseFloor (r : Req) (s : State) : Host.Outcome State Fault Refusal :=
  s.lift (fun d => d.write 0x1010 6 ruleRaiseFloor r)

/-! ### Attestation (R351–R353) -/

/-- The seed can be reconstructed: helper data, identifier I and nodes stand in the store (R346). -/
def seedItems : Bool := Config.itemOk 3 && Config.itemOk 4 && Config.itemOk 5

/-- ATTESTATION_READY: the set-up ends. `pufOk`: the seed's leaf agrees with the stored node; `readBack`: the counter read
back as written. Without the items it needs, the reconstruction fails its check. -/
def execAttestationReady (pufOk readBack : Bool) (s : State) : Host.Outcome State Fault Refusal :=
  s.lift (fun d =>
    let q := d.sec.leafCounter
    if d.sec.attReady || d.sec.attOff then d
    else if q ≥ 32768 ∨ Config.itemOk 7 = false then d.setSec { d.sec with attOff := true }
    else if !(pufOk && seedItems) then (d.setSec { d.sec with attOff := true }).err tileAt 0x14 0
    else if !readBack then
      let f := d.fresh
      f.2.setSec { f.2.sec with leafCounter := f.1.toNat % 32769, attOff := true }
    else
      let d' := { d with free := d.free + 1 }
      (d'.setSec { d'.sec with
        leafCounter := q + 1, topLeaf := q, bottom := some d.free, leaves := 0, attReady := true }).readyBit 5)

/-- The bottom public key of this boot. -/
def SecS.bottomKey (x : SecS) : BitVec 448 :=
  match x.bottom with
  | none => 0#448
  | some g => Config.bottomPublic g

/-- The statement of Tab. 15.5. -/
def Device.statement (d : Device) (challenge : List Byte) (tenant : Nat) (source : Coord) : List Byte :=
  challenge ++ leBytes 8 Config.deviceId.toNat ++ leBytes 4 d.sec.topLeaf ++ leBytes 4 d.sec.leaves ++
    leBytes 8 d.clk.time.toNat ++ leBytes 4 d.fab.coord.toNat ++ leBytes 4 d.sec.imageVersion ++ d.sec.imageDigest ++
    leBytes 4 (tenant + source.toNat * 2 ^ 14) ++ leBytes 28 0

/-- Stores evidence for a pair; the oldest of more than 16 pairs goes. -/
def SecS.keep (x : SecS) (tenant : Nat) (source : Coord) (b : List Byte) : SecS :=
  let l := x.evidence.filter (fun e => !decide (e.1 = tenant ∧ e.2.1 = source)) ++ [(tenant, source, b)]
  { x with evidence := l.drop (l.length - 16) }

/-- ATTESTATION_REQUEST. -/
def runAttestation (d : Device) (r : Req) (v : List Byte) : Answer :=
  if !d.sec.attReady then refuse d dNotReady
  else if d.sec.leaves ≥ 1024 then refuse d dSpace
  else
    let st := d.statement v r.tenant.toNat (reqSrc r)
    let g := d.sec.bottom.getD 0
    let ev := st ++ leBytes 2508 (Config.bottomSig g d.sec.leaves st).toNat ++ leBytes 56 d.sec.bottomKey.toNat ++
      leBytes 1612 (Config.topSig d.sec.topLeaf d.sec.bottomKey).toNat
    done (d.setSec { d.sec.keep r.tenant.toNat (reqSrc r) ev with leaves := d.sec.leaves + 1 })

def ruleAttestation : WriteRule := WriteRule.plain (sized 32 runAttestation)

def execAttestationRequest (r : Req) (s : State) : Host.Outcome State Fault Refusal :=
  s.lift (fun d => d.write 0x1030 0 ruleAttestation r)

/-- Evidence a reader may see. -/
def Device.evidenceFor (d : Device) (tenant : Nat) (source : Coord) : List Byte :=
  match d.sec.evidence.find? (fun e => decide (e.1 = tenant ∧ e.2.1 = source)) with
  | some e => e.2.2
  | none => []

/-! ### Diagnostics and secrets (R355, R356) -/

/-- DIAGNOSTIC_UNLOCK: the payload names this device and this boot's bottom key. -/
def runUnlock (d : Device) (_r : Req) (v : List Byte) : Answer :=
  match d.envFault 3 v with
  | some f => refuseOwn d.rejected f
  | none =>
    let want := leBytes 8 Config.deviceId.toNat ++ sha256 (leBytes 56 d.sec.bottomKey.toNat)
    if d.sec.bottom.isSome && decide (envPayload v = want) then done (d.setSec { d.sec with unlocked := true })
    else refuseOwn d 4

def ruleUnlock : WriteRule := WriteRule.plain runUnlock

def execDiagnosticUnlock (r : Req) (s : State) : Host.Outcome State Fault Refusal :=
  s.lift (fun d => d.write 0x1022 0 ruleUnlock r)

/-- The secrets are cleared: key slots, top and bottom seeds. Attestation is set up anew. -/
def Device.clearSecrets (d : Device) : Device :=
  let d := d.dict.keys.foldl (fun d e => d.dropSlotTransfers e.2.tenant e.2.source) d
  { d with dict := { d.dict with keys := [] },
           sec := { d.sec with bottom := none, attReady := false, leaves := 0 } }

/-- SCAN_SECURITY_TILE (R370). -/
def runScanTile (d : Device) (_r : Req) (_x : Nat) : Answer := done d.clearSecrets

def ruleScanTile : WriteRule := WriteRule.plain (valued (key 0xA000 6) runScanTile)

def execScanSecurityTile (r : Req) (s : State) : Host.Outcome State Fault Refusal :=
  s.lift (fun d => d.write 0xA000 6 ruleScanTile r)

end Sys2Proof.Machine
end

