-- ==== Sys2Proof/Machine/Packs.lean ====
section
/-!
DEFINITION. Spore packs (16): the checks and the effect of installing one (R366, R367), its removal, its copy in a
cluster's reserve (R161).
-/
namespace Sys2Proof.Machine

/-! ### What R367 checks -/

/-- Handle field of a word, where its operation has one. -/
def wordHandle (w : StepWord) : Option Nat :=
  match wClass w, wOp w with
  | 1, 0 => if w.getLsbD 98 then none else some (fld w 52 40)
  | 1, _ => some (fld w 52 40)
  | 2, 1 => some (fld w 79 67)
  | 2, 2 => some (fld w 79 67)
  | 4, _ => some (fld w 52 40)
  | 8, 1 => some (fld w 52 40)
  | 8, 2 => some (fld w 52 40)
  | _, _ => none

/-- A word that a pack's program may hold: no STEP, COMMIT, LOOP from the length table, SAMPLE, class 6 or 7, and no handle
but 1, which names the test region. -/
def packWord (w : StepWord) : Bool :=
  !(decide (wClass w = 0) && (decide (wOp w = 1 ∨ wOp w = 2) || (decide (wOp w = 4) && w.getLsbD 42))) &&
    decide (wClass w ≠ 6 ∧ wClass w ≠ 7) && !decide (wClass w = 8 ∧ wOp w = 3) &&
    (match wordHandle w with | none => true | some h => decide (h = 1))

/-- Number of bits set. -/
def bitCount (n v : Nat) : Nat := ((List.range n).filter (fun i => v.testBit i)).length

/-- A slice record follows Tab. 16.3, and its program fits into its region before the result range. -/
def sliceFieldsOk (b : List Byte) (i : Nat) : Bool :=
  let r := sliceRec b i
  let units := if r.target = 0 then 2 ^ 15 else 2 ^ 17
  decide (r.target ≤ 1) && decide (bitCount 32 r.engines ≤ 4) && (decide (r.target = 0) || decide (r.engines = 0)) &&
    decide (1 ≤ r.regLen ∧ r.regLen ≤ 4096 ∧ r.regOff + r.regLen ≤ units) &&
    decide (1 ≤ r.resLen ∧ r.resLen ≤ 1024 ∧ r.resOff + r.resLen ≤ r.regLen) &&
    decide (1 ≤ r.words ∧ r.words ≤ 16384 ∧ r.progOff % 16 = 0 ∧ 32 + 64 * packSlices b ≤ r.progOff ∧
      r.progOff + 16 * r.words ≤ b.length ∧ 16 * r.words ≤ 64 * r.resOff)

/-- The program of a slice passes R94 but for WRROW. -/
def sliceProgramOk (b : List Byte) (i : Nat) : Bool :=
  let ws := slicePrograms b (sliceRec b i)
  ws.all packWord && programOk Device.reset ⟨0, 0, 0⟩ (fun _ => 0) 256 false ws

/-- 10h: a field or a program. -/
def packOk (b : List Byte) : Bool :=
  decide (32 ≤ b.length) && decide (1 ≤ bits (wordAt b 0) 15 0) && decide (1 ≤ packSlices b ∧ packSlices b ≤ 4096) &&
    decide (32 + 64 * packSlices b ≤ b.length) &&
    (List.range (packSlices b)).all (fun i => sliceFieldsOk b i && sliceProgramOk b i)

/-- 11h: a slice longer than 26,000 cycles. -/
def packLong (b : List Byte) : Bool :=
  (List.range (packSlices b)).any (fun i => decide (26000 < sliceCycles b (sliceRec b i)))

/-- Installed packs but one identifier's. -/
def Device.otherPacks (d : Device) (ident : Nat) : List Pack :=
  d.rel.packs.filter (fun p => !p.removed && decide (p.ident ≠ ident))

/-- The code of R367 that refuses a pack. -/
def Device.packFault (d : Device) (b : List Byte) : Option Nat :=
  let ident := bits (wordAt b 0) 15 0
  let step := bits (wordAt b 2) 7 0
  let others := d.otherPacks ident
  if !packOk b then some 0x10
  else if packLong b then some 0x11
  else if others.length + 1 > 8 ∨ (others.map (fun p => p.bytes.length)).sum + b.length > 2 ^ 23 then some 0x12
  else if d.rel.packs.any (fun p => !p.removed && decide (p.ident = ident ∧ wordAt b 1 ≤ p.version)) then some 0x13
  else if step ≠ 0xFF ∧ step ≠ Config.stepping.toNat then some 0x14
  else none

/-! ### Installing (R161, R367) -/

/-- Copies a pack into a reserve of a cluster. -/
def Device.placePack (d : Device) (k : Nat) (b : List Byte) : Option (Nat × Device) :=
  (d.allocReserve k ((b.length + 63) / 64)).map (fun x => (x.1, x.2.writeH x.1 0 (cleanWords b)))

/-- Into every ready cluster. -/
def Device.placePacks (d : Device) (b : List Byte) : List Nat → Option (Tbl Nat × Device)
  | [] => some ([], d)
  | k :: ks =>
    match d.placePack k b with
    | none => none
    | some x => (x.2.placePacks b ks).map (fun y => (Tbl.put y.1 k x.1, y.2))

def Device.readyClusters (d : Device) : List Nat := (List.range 16).filter (fun k => (d.cluster k).ready)

/-- SPORE_PACK_INSTALL. -/
def runPackInstall (d : Device) (_r : Req) (v : List Byte) : Answer :=
  match d.envFault 2 v with
  | some f => refuseOwn d.rejected f
  | none =>
    let b := envPayload v
    match d.packFault b with
    | some f => refuseOwn d f
    | none =>
      match d.placePacks b d.readyClusters with
      | none => refuse d dSpace
      | some x =>
        let ident := bits (wordAt b 0) 15 0
        let p : Pack := ⟨ident, wordAt b 1, bits (wordAt b 2) 7 0, b, false, x.1⟩
        let e := x.2
        let old := e.rel.packs.map (fun (q : Pack) => if q.ident = ident then { q with removed := true } else q)
        let e := ({ e with rel := { e.rel with packs := old ++ [p] } }).dropPacks
        done ((e.bump (key 0xA030 8) 1).notify 0x15 0 0xA021 0 ident (wordAt b 1))

def rulePackInstall : WriteRule := WriteRule.plain runPackInstall

def execSporePackInstall (r : Req) (s : State) : Host.Outcome State Fault Refusal :=
  s.lift (fun d => d.write 0xA020 0 rulePackInstall r)

/-- SPORE_PACK_REMOVE: from the next pass on. -/
def runPackRemove (d : Device) (_r : Req) (ident : Nat) : Answer :=
  let ps := d.rel.packs.map (fun (q : Pack) => if q.ident = ident then { q with removed := true } else q)
  done ({ d with rel := { d.rel with packs := ps } }).dropPacks

def rulePackRemove : WriteRule := WriteRule.plain (valued (key 0xA022 0) runPackRemove)

def execSporePackRemove (r : Req) (s : State) : Host.Outcome State Fault Refusal :=
  s.lift (fun d => d.write 0xA022 0 rulePackRemove r)

/-- A021h.00. -/
def Device.packList (d : Device) : List Byte :=
  (d.rel.packs.filter (fun p => !p.removed)).flatMap (fun p =>
    leBytes 2 p.ident ++ leBytes 1 p.stepping ++ leBytes 1 0 ++ leBytes 4 p.version)

end Sys2Proof.Machine
end

