-- ==== Sys2Proof/Machine/Patrol.lean ====
section
/-!
DEFINITION. PATROL_READ: the patrol of the scratchpad and of the table SRAMs (R170), the transparent memory test that one
pass in A000h.05 is (R369), and what a double error in a table costs (R162, R186, R224, R315).
-/
namespace Sys2Proof.Machine

/-! ### Where a patrol stands -/

/-- Key of a bank's patrol. Tables follow the units: the page table slices, then the request, handle and sync tables. -/
def patrolUnitKey : PatrolUnit → Nat
  | .scratch k u => k.val * 16 + u.val
  | .pageTable k => 256 + k.val
  | .requestTable => 272
  | .handleTable => 273
  | .syncObjects => 274

def patrolKey (u : PatrolUnit) (bank : Nat) : Nat := patrolUnitKey u * 64 + bank

/-- Rows of a bank: of a scratchpad unit its own; a table row holds one entry, dealt over the 64 banks. -/
def patrolRows : PatrolUnit → Nat
  | .scratch _ u => unitRows u.val
  | .pageTable _ => 512
  | .requestTable => 1024
  | .handleTable => 128
  | .syncObjects => 256

def Device.patrolRow (d : Device) (u : PatrolUnit) (bank : Nat) : Nat := Tbl.get 0 d.mem.patrol (patrolKey u bank)
def Device.patrolPasses (d : Device) (u : PatrolUnit) (bank : Nat) : Nat := Tbl.get 0 d.mem.passes (patrolKey u bank)

/-- The next request of the bank goes to the next row. -/
def Device.nextRow (d : Device) (u : PatrolUnit) (bank : Nat) : Device :=
  let k := patrolKey u bank
  let r := d.patrolRow u bank + 1
  if r < patrolRows u then { d with mem := { d.mem with patrol := Tbl.set 0 d.mem.patrol k r } }
  else { d with mem := { d.mem with patrol := Tbl.set 0 d.mem.patrol k 0,
                                    passes := Tbl.set 0 d.mem.passes k (d.patrolPasses u bank + 1) } }

/-- One pass in every A000h.05 is a test pass. -/
def Device.testPass (d : Device) (u : PatrolUnit) (bank : Nat) : Bool :=
  decide ((d.patrolPasses u bank + 1) % d.reg (key 0xA000 5) = 0)

/-! ### The memory test (R369) -/

/-- A unit under patrol in an error record. -/
def patrolAt : PatrolUnit → ErrAt
  | .scratch k u => { cls := 4, cluster := k.val, unit := u.val }
  | .pageTable k => { cls := 3, cluster := k.val, unit := 12 }
  | _ => { cls := 7 }

/-- Sets the memory flag of the unit's core, or of the unit itself; a core buffer's failing word is remembered (R372). -/
def Device.flagMemory (d : Device) (u : PatrolUnit) (word : Nat) : Device :=
  match u with
  | .scratch k n =>
    if n.val ≤ 12 then
      let i := k.val * 13 + n.val
      let h := (d.health i).setFlag flMemory
      d.setHealth i { h with badWords := if n.val < 12 ∧ h.badWords.contains word = false then h.badWords ++ [word] else h.badWords }
    else if d.rel.unitFlags.contains (patrolUnitKey u) then d
    else { d with rel := { d.rel with unitFlags := d.rel.unitFlags ++ [patrolUnitKey u] } }
  | _ => if d.rel.unitFlags.contains (patrolUnitKey u) then d
         else { d with rel := { d.rel with unitFlags := d.rel.unitFlags ++ [patrolUnitKey u] } }

/-- A core index, or the unit's key. -/
def patrolName : PatrolUnit → Nat
  | .scratch k n => if n.val ≤ 12 then k.val * 13 + n.val else k.val * 16 + n.val
  | u => patrolUnitKey u

/-- A bit that does not return its complement. -/
def Device.stuckBit (d : Device) (u : PatrolUnit) (row : Nat) (x : Fin 16 × Fin 39) : Device :=
  let d := d.err { patrolAt u with loc := row, word := x.1.val } 0x1B x.2.val
  (((d.bump (key 0xA030 9) 1).flagMemory u (row * 16 + x.1.val)).testFailed (patrolName u) 0x1B)

/-! ### A row of the scratchpad -/

/-- Soft errors found in a row's stored codewords. -/
def Device.strike (d : Device) (wa : Nat) (soft : List (Nat × BitVec 39)) : Device :=
  soft.foldl (fun (d : Device) x =>
    if x.1 < 16 then
      let m := d.mem.m
      d.setMem { m with flips := Tbl.set 0#39 m.flips (wa + x.1) (Tbl.get 0#39 m.flips (wa + x.1) ^^^ x.2) }
    else d) d

/-- Reads the 16 words of a row; whether one of them is poisoned. -/
def Device.patrolWords (d : Device) (wa : Nat) : Device × Bool :=
  (List.range 16).foldl (fun (a : Device × Bool) i =>
    let r := a.1.readWord (wa + i) 1
    (r.2, a.2 || r.1.poison)) (d, false)

/-- The patrol of a scratchpad row: every word is read; a poisoned one in a Shared handle marks it Bad (R175). -/
def Device.patrolScratch (d : Device) (k u row : Nat) (soft : List (Nat × BitVec 39)) : Device :=
  let wa := rowAddr k u row / 4
  let r := (d.strike wa soft).patrolWords wa
  if r.2 then r.1.markRow k u row else r.1

/-! ### An entry of a table -/

/-- Words of an entry that are read with a double error. -/
def lostWords (soft : List (Nat × BitVec 39)) : List Nat :=
  (soft.filter (fun x => decide (eccRead x.2 = .poisoned))).map (·.1)

/-- Words of an entry that are corrected. -/
def fixedWords (soft : List (Nat × BitVec 39)) : Nat :=
  (soft.filter (fun x => match eccRead x.2 with | .corrected _ => true | _ => false)).length

/-- A handle entry lost in both copies (R162). -/
def Device.loseHandle (d : Device) (h : Nat) : Device :=
  match d.handle? h with
  | none => d
  | some x =>
    let d := { d with mem := { d.mem with lost := d.mem.lost ++ [h] } }
    (d.err { cls := 7, tenant := x.tenant, loc := h } 0x0B 0).bump (key 0x8010 0x0A) 1

/-- A request that is no more leaves its instance's round: a later request in its slot is not settled by it. -/
def Device.leaveRound (d : Device) (i slot : Nat) : Device :=
  match Tbl.find? d.serv.rounds i with
  | none => d
  | some r => d.setRounds (Tbl.put d.serv.rounds i { r with
      batch := r.batch.filter (fun b => decide (b.1 ≠ slot)), profiles := Tbl.del r.profiles slot })

/-- A request entry word is lost (R224), of a free entry too: words 0 and 1 hold state, tenant and client request ID. -/
def Device.loseRequest (d : Device) (slot : Nat) (readable : Bool) : Device :=
  let d := d.bump (key 0x6010 0x0D) 1
  let r := d.req slot
  if readable then (if r.live then d.failReq slot 0x0F else d)
  else
    let d := (d.dropFrames d.fab.coord slot).err { cls := 7, loc := slot, slot := slot } 0x0E 0
    let d := d.leaveRound r.inst slot
    ((d.unpin r.pin).setReq slot ReqEnt.free).setAux slot ReqAux.free

/-- Removes a waiter with a sync fault. -/
def Device.faultWaiter (d : Device) (w : Waiter) : Device :=
  match w.core with
  | some c => d.syncFaultStep c.1
  | none => d.send (.sync w.dev (.fault w.ref))

/-- An object word is lost (R315). -/
def Device.loseObject (d : Device) (o : Nat) : Device :=
  match Tbl.find? d.sync.objs o with
  | none => d
  | some x =>
    if x.lost then d
    else
      let t := (d.putObj o { x with lost := true }).takeWaiters (fun w => decide (w.obj = o))
      let d := t.1.foldl (fun d w => d.faultWaiter w) t.2
      (d.err { cls := 7, tenant := x.tenant, loc := o } 0x0F 0).bump (key 0xB030 6) 1

/-- The patrol of a table entry: a word read with a double error is counted and recorded like any (R167), and the table's
owner decides the rest. Handle entries stand in two copies, words 0–3 and 4–7. -/
def Device.patrolTable (d : Device) (u : PatrolUnit) (n : Nat) (soft : List (Nat × BitVec 39)) : Device :=
  let bad := lostWords soft
  let d := d.bump (key 0x8010 1) (fixedWords soft)
  let d := bad.foldl (fun (d : Device) w => (d.bump (key 0x8010 2) 1).err { patrolAt u with loc := n, word := w } 0x0A 1) d
  match u with
  | .scratch _ _ => d
  | .pageTable k => if bad.any (fun w => decide (w < 3)) then d.losePage (k.val * sliceSize + n) (bad.contains 2) else d
  | .requestTable => if bad.isEmpty then d else d.loseRequest n (!(bad.contains 0 || bad.contains 1))
  | .handleTable =>
    if bad.any (fun w => decide (w < 4)) && bad.any (fun w => decide (4 ≤ w ∧ w < 8)) then d.loseHandle n else d
  | .syncObjects => if bad.any (fun w => decide (w < 4)) then d.loseObject n else d

/-- A unit is under patrol: its cluster is ready, or the central block tables are zeroed (R170). -/
def Device.patrolOn (d : Device) : PatrolUnit → Bool
  | .scratch k _ => (d.cluster k.val).ready
  | _ => d.clk.ready.getLsbD 3

/-- The cycle at which a unit's patrols started. -/
def Device.patrolStart (d : Device) : PatrolUnit → Nat
  | .scratch k _ => Tbl.get 0 d.mem.starts k.val
  | .pageTable k => max (Tbl.get 0 d.mem.starts 16) (Tbl.get 0 d.mem.starts (17 + k.val))
  | _ => Tbl.get 0 d.mem.starts 16

/-- The cycle of a bank's next patrol request: 8000h.01 cycles after the one before, or after the start (R170). -/
def Device.patrolDue (d : Device) (u : PatrolUnit) (bank : Nat) : Nat :=
  (Tbl.find? d.mem.asked (patrolKey u bank)).getD (d.patrolStart u) + d.reg (key 0x8000 1)

/-- The patrols of a group start at row 0 now; `mine` are the keys of their banks. -/
def Device.startPatrols (d : Device) (group : Nat) (mine : Nat → Bool) : Device :=
  { d with mem := { d.mem with starts := Tbl.set 0 d.mem.starts group d.cyc, asked := dropKeys d.mem.asked mine,
                               patrol := dropKeys d.mem.patrol mine, passes := dropKeys d.mem.passes mine } }

/-- Banks of a cluster's scratchpad units, of its page table slice, of every table SRAM. -/
def clusterBanks (k n : Nat) : Bool := decide (n < 256 * 64 ∧ n / 64 / 16 = k)
def sliceBanks (k n : Nat) : Bool := decide (n / 64 = 256 + k)
def tableBanks (n : Nat) : Bool := decide (256 * 64 ≤ n)

/-- PATROL_READ: the timed read of a bank's next row; time has reached the cycle of the request. `soft` are the errors that have come into its stored codewords,
`stuck` the bits that do not return their complement in a test pass. -/
def execPatrolRead (u : PatrolUnit) (bank : Fin 64) (soft : List (Nat × BitVec 39)) (stuck : List (Fin 16 × Fin 39)) (s : State) :
    Host.Outcome State Fault Refusal :=
  s.lift (fun d =>
    if !d.patrolOn u then d
    else
      let due := d.patrolDue u bank.val
      let d := d.reachCyc due
      let d := { d with mem := { d.mem with asked := Tbl.put d.mem.asked (patrolKey u bank.val) due } }
      let row := d.patrolRow u bank.val * 64 + bank.val
      let test := d.testPass u bank.val
      let d := match u with
        | .scratch k n => d.patrolScratch k.val n.val row soft
        | _ => d.patrolTable u row soft
      let d := if test then stuck.foldl (fun d x => d.stuckBit u row x) d else d
      d.nextRow u bank.val)

end Sys2Proof.Machine
end

