-- ==== Sys2Proof/Machine/Resets.lean ====
section
/-!
DEFINITION. Cluster resets (18): what a reset costs instances, handles, requests and sync translation tables (R408), the
state that a cluster loses (Tab. 18.4), and the removal of the core rails (R380, R381).
-/
namespace Sys2Proof.Machine

/-! ### Instances, handles and requests (R408 steps 1 to 3) -/

/-- An instance has a placement in a cluster of this device. -/
def Device.placedIn (d : Device) (x : Inst) (k : Nat) : Bool :=
  let has := fun (m : Maq) => m.places.any (fun p => decide (p.dev = d.fab.coord ∧ p.cluster = k))
  (match x.maq with | some m => has m | none => false) || (match x.job with | some j => has j.maq | none => false)

/-- The round of an instance cannot close any more: its requests leave it, and those that have failed end. -/
def Device.breakRound (d : Device) (i : Nat) : Device :=
  match Tbl.find? d.serv.rounds i with
  | none => d
  | some r =>
    let d := d.setRounds (Tbl.del d.serv.rounds i)
    r.batch.foldl (fun d b =>
      let a := d.aux b.1
      let d := d.setAux b.1 { a with inRound := false, fenced := false }
      match a.failure, a.fenced with
      | some f, _ => d.endReq b.1 rsFailed f
      | none, true => d.endReq b.1 rsFailed 0x05
      | none, false => d) d

/-- Every instance with a placement in the cluster becomes failed. -/
def Device.failPlaced (d : Device) (k : Nat) : Device :=
  ((List.filter (fun (e : Nat × Inst) => decide (e.2.state ≠ 0) && d.placedIn e.2 k) d.cast.insts).map (·.1)).foldl
    (fun (d : Device) i =>
      let x := d.inst i
      let d := match x.job with | some j => d.releaseAllH j.staging | none => d
      d.setInst i { x with state := 4, job := none }) d

/-- Shared handles of the cluster turn Bad, each with its record (R175). -/
def Device.badHandles (d : Device) (k : Nat) : Device :=
  (List.filter (fun (e : Nat × Handle) => decide (e.2.cluster = k) && !e.2.remote && e.2.shared) d.mem.handles).foldl
    (fun (d : Device) e => d.markBad e.1 e.2) d

/-- Requests with a stream homed in the cluster or a frame in it fail with 0Eh. -/
def Device.failHomed (d : Device) (k : Nat) : Device :=
  ((List.filter (fun (e : Nat × ReqEnt) => e.2.live && (d.attnClusters e.1).contains k) d.serv.reqs).map (·.1)).foldl
    (fun (d : Device) s => d.failReq s 0x0E) d

/-! ### Sync translation tables (R408 step 5) -/

/-- The cluster tables are moved to: the lowest that is ready and not named. -/
def Device.tableHome (d : Device) : Option Nat := (List.range 16).find? (fun k => d.tableCluster k)

/-- An object whose home binding is lost is freed, its waiters removed with a sync fault. -/
def Device.loseHomed (d : Device) (o : Nat) (x : SyncObj) : Device :=
  let t := d.takeWaiters (fun w => decide (w.obj = o))
  let d := t.1.foldl (fun d w => d.faultWaiter w) t.2
  let d := d.setSync { d.sync with objs := Tbl.del d.sync.objs o }
  (d.err { cls := 7, tenant := x.tenant, loc := o } 0x0F 0).bump (key 0xB030 6) 1

/-- A context's table is lost: every binding becomes invalid. -/
def Device.loseTable (d : Device) (ctx tenant h : Nat) : Device :=
  let words := (d.readH h 0 4096).1
  let als := words.filterMap (fun w => match d.targetOf w with
    | some (.there _ _) => some (w.w.toNat % 16384)
    | _ => none)
  let d := d.setSync { d.sync with aliases := als.foldl (fun t a => Tbl.del t a) d.sync.aliases }
  let homed := List.filter (fun (e : Nat × SyncObj) => decide (e.2.context = ctx)) d.sync.objs
  let d := homed.foldl (fun (d : Device) e => d.loseHomed e.1 e.2) d
  { d with dict := { d.dict with contexts := Tbl.put d.dict.contexts ctx (tenant, 0) },
           mem := { d.mem with handles := Tbl.del d.mem.handles h } }

/-- Moves a context's table, word by word, to a new Reserve handle. -/
def Device.moveTable (d : Device) (ctx tenant h : Nat) : Device :=
  match d.tableHome.bind (fun k => d.allocReserve k 256) with
  | none => d.loseTable ctx tenant h
  | some x =>
    let r := x.2.readH h 0 4096
    let d := r.2.writeH x.1 0 r.1
    { d with dict := { d.dict with contexts := Tbl.put d.dict.contexts ctx (tenant, x.1) },
             mem := { d.mem with handles := Tbl.del d.mem.handles h } }

/-- Every table held in a cluster is moved. -/
def Device.moveTables (d : Device) (k : Nat) : Device :=
  (List.filter (fun (e : Nat × Nat × Nat) =>
    match Tbl.find? d.mem.handles e.2.2 with | some h => decide (h.cluster = k) | none => false) d.dict.contexts).foldl
    (fun (d : Device) e => d.moveTable e.1 e.2.1 e.2.2) d

/-! ### What a cluster loses (Tab. 18.4) -/

/-- The cluster's own reserves are freed: command window, save area, outlier reserve, packs. -/
def Device.freeReserves (d : Device) (k : Nat) : Device :=
  let hs := [Tbl.find? d.attn.windows k, Tbl.find? d.rel.saveAreas k, Tbl.find? d.rel.outliers k].filterMap id ++
    d.rel.packs.filterMap (fun p => Tbl.find? p.handles k)
  { d with
    mem := { d.mem with handles := hs.foldl (fun t h => Tbl.del t h) d.mem.handles },
    attn := { d.attn with windows := Tbl.del d.attn.windows k },
    rel := { d.rel with saveAreas := Tbl.del d.rel.saveAreas k, outliers := Tbl.del d.rel.outliers k,
                        packs := d.rel.packs.map (fun p => { p with handles := Tbl.del p.handles k }) } }

/-- Frames in the cluster are gone, with the charge for them. -/
def Device.dropClusterFrames (d : Device) (k : Nat) : Device :=
  let gone := List.filter (fun (e : Nat × Frame) => decide (e.1 / 2 ^ 19 / 3 = k)) d.attn.frames
  let d := gone.foldl (fun (d : Device) e => d.subKv e.2.tenant (e.2.rows / 64)) d
  d.setAttnS { d.attn with frames := dropKeys d.attn.frames (fun f => decide (f / 2 ^ 19 / 3 = k)) }

/-- The cluster's cores, attention core, memory units, page table slice and redundancy map are reset. -/
def Device.wipeCluster (d : Device) (k : Nat) : Device :=
  let unit := fun (n : Nat) => decide (n / 16 = k)
  let bank := fun (n : Nat) => clusterBanks k n || sliceBanks k n
  let d := (d.freeReserves k).dropClusterFrames k
  let d := d.zeroRange (k * 2 ^ 27) (2 ^ 27)
  { d with
    cim := { d.cim with cores := dropKeys d.cim.cores (fun c => decide (c / 12 = k)),
                        engines := dropKeys d.cim.engines (fun e => decide (e / 33 / 12 = k)) },
    mem := { d.mem with scrub := dropKeys d.mem.scrub unit, patrol := dropKeys d.mem.patrol bank,
                        passes := dropKeys d.mem.passes bank, asked := dropKeys d.mem.asked bank,
                        windows := d.mem.windows.filter (fun w => decide (w.cluster ≠ k)) },
    attn := { d.attn with units := Tbl.del d.attn.units k,
                          pages := dropKeys d.attn.pages (fun e => decide (e / sliceSize = k)),
                          deadPages := d.attn.deadPages.filter (fun e => decide (e / sliceSize ≠ k)) },
    cast := { d.cast with lagCap := dropKeys d.cast.lagCap (fun c => decide (c / 2 ^ 22 / 12 = k)),
                          policyLag := dropKeys d.cast.policyLag (fun c => decide (c / 2 ^ 24 / 12 = k)),
                          reserve := Tbl.del d.cast.reserve k },
    rel := { d.rel with health := dropKeys d.rel.health (fun i => decide (i / 13 = k)),
                        runs := dropKeys d.rel.runs (fun i => decide (i / 13 = k)),
                        unitFlags := d.rel.unitFlags.filter (fun n => decide (n ≥ 256 ∨ n / 16 ≠ k)) } }

/-- Resets a cluster, which then stands in a state of Tab. 18.6. A cluster that was off counts no reset. -/
def Device.resetCluster (d : Device) (k st : Nat) : Device :=
  let was := d.cluster k
  let d := ((d.badHandles k).failHomed k).failPlaced k
  let ids := (List.filter (fun (e : Nat × Inst) => d.placedIn e.2 k) d.cast.insts).map (·.1)
  let d := ids.foldl (fun d i => d.breakRound i) d
  let d := (d.moveTables k).wipeCluster k
  let n := if was.st = 0 then was.resets else min 65535 (was.resets + 1)
  let d := d.setCluster k { Cluster.reset with st := st, park := was.park, resets := n, wakes := was.wakes }
  let d := { d with clk := { d.clk with ready := d.clk.ready &&& ~~~(1#7 <<< 4) } }
  if was.st = 0 then d else d.bump (key 0x3020 3) 1

/-- Every cluster is reset and off. -/
def Device.resetAll (d : Device) : Device :=
  let d := { d with clk := { d.clk with resetting := 0xFFFF#16, draining := 0#16 } }
  let d := (List.range 16).foldl (fun d k => d.resetCluster k 0) d
  { d with clk := { d.clk with resetting := 0#16 } }

/-! ### Rails (R380, R381) -/

/-- The core rails are removed: PGOOD falls and every cluster is reset. -/
def Device.railsOff (d : Device) (input : Nat) : Device :=
  let d := { d with pwr := { d.pwr with rails := false, pgood := false, input := input } }
  let d := { d with clk := { d.clk with ready := d.clk.ready &&& ~~~(1#7 <<< 2) } }
  d.resetAll

end Sys2Proof.Machine
end

