-- ==== Sys2Proof/Machine/Power.lean ====
section
/-!
DEFINITION. Power input, telemetry and thermal control (17): the input's thresholds (R380), PS_SYNC (R382), the telemetry
sequence and its results (R383–R389), the thermal model (R390–R394), the governor (R395, R396), the trip (R398).
-/
namespace Sys2Proof.Machine

def Device.setPwr (d : Device) (x : PwrS) : Device := { d with pwr := x }

/-- Power stage in an error record. -/
def stageAt : ErrAt := { cls := 9 }

/-! ### The input (R380, Tab. 17.2) -/

/-- An input fault: the rails go, error 22h, notification 23h. -/
def Device.inputFault (d : Device) (input detail : Nat) : Device :=
  let d := d.railsOff input
  ((d.err stageAt 0x22 detail).notify 0x23 0 0x2001 6 detail).bump (key 0x2050 8) 1

/-- UNDERVOLTAGE: below 44.0 V for 10 µs. -/
def execUndervoltage (s : State) : Host.Outcome State Fault Refusal :=
  s.liftStage (fun d => d.inputFault 2 1)

/-- OVERVOLTAGE: above 60.0 V for 10 µs. -/
def execOvervoltage (s : State) : Host.Outcome State Fault Refusal :=
  s.liftStage (fun d => d.inputFault 3 2)

/-- OVERCURRENT: above 48 A for 20 µs; bring-up restarts only after RST_N. -/
def execOvercurrent (s : State) : Host.Outcome State Fault Refusal :=
  s.liftStage (fun d => d.inputFault 4 3)

/-- OVERVOLTAGE_CLEAR: below 59.0 V, bring-up may restart. -/
def execOvervoltageClear (s : State) : Host.Outcome State Fault Refusal :=
  s.liftStage (fun d => if d.pwr.input = 3 then d.setPwr { d.pwr with input := 0 } else d)

/-! ### PS_SYNC (R382) -/

/-- 2010h.04. -/
def PwrS.syncStatus (p : PwrS) : Nat := (if p.locked then 1 else 0) + (if p.lost then 2 else 0)

/-- PS_SYNC_LOCK: 16 edges in 0.8–1.2 MHz; their period in whole ns, that of 2010h.02 where the block drives the
net itself. -/
def execPsSyncLock (period : Nat) (s : State) : Host.Outcome State Fault Refusal :=
  s.liftStage (fun d =>
    let period := if d.reg (key 0x2010 1) = 1 then 1000000 / d.reg (key 0x2010 2) else period
    if 833 ≤ period ∧ period ≤ 1250 ∧ d.pwr.locked = false then
      let d := d.setPwr { d.pwr with locked := true, lost := false, period := period }
      d.notify 0x22 0 0x2001 6 d.pwr.syncStatus
    else d)

/-- PS_SYNC_LOSS: no edge for 5 µs, or a period out of range. -/
def execPsSyncLoss (outOfRange : Bool) (s : State) : Host.Outcome State Fault Refusal :=
  s.liftStage (fun d =>
    if d.pwr.lost then d
    else
      let d := d.setPwr { d.pwr with locked := false, lost := true, period := 1000 }
      ((d.err stageAt 0x23 (if outOfRange then 1 else 0)).notify 0x22 0 0x2001 6 d.pwr.syncStatus).bump (key 0x2050 5) 1)

/-! ### Channels (R383) -/

/-- Converter of a channel. -/
def chanAdc (ch : Nat) : Nat :=
  if ch = 0 then 0 else if ch = 1 then 1
  else if ch ≤ 9 then (if ch % 2 = 0 then (if ch % 4 = 2 then 0 else 2) else (if ch % 4 = 3 then 1 else 3))
  else ch - 10

/-- Physical values of the latest codes. -/
def Device.vin (d : Device) : F32 := f32Div (f32OfInt (d.code 0 * 16)) (f32OfInt 1000)
def Device.iin (d : Device) : F32 := f32Div (f32OfInt (d.code 1 * 125)) (f32OfInt 10000)
def Device.pin (d : Device) : F32 := f32Mul d.vin d.iin
def Device.fieldPower (d : Device) (f : Nat) : F32 :=
  f32Mul (f32Div (f32OfInt (d.code (2 + 2 * f))) (f32OfInt 4000)) (f32RoundInt false (d.code (3 + 2 * f)) (-2))

/-- A diode's temperature of a code. -/
def diodeOf (code : Nat) : F32 := f32RoundInt false ((code : Int) - 1024) (-4)
def Device.diode (d : Device) (f : Nat) : F32 := diodeOf (d.code (10 + f))

/-! ### The sequence (R384–R387) -/

/-- Channel that an entry names for a converter; 15 is none. -/
def entChan (e adc : Nat) : Nat := bits e (4 * adc + 3) (4 * adc)

/-- An entry's channels are wired to their converters. -/
def entOk (e : Nat) : Bool :=
  (List.range 4).all (fun a => decide (entChan e a = 15) || (decide (entChan e a ≤ 13) && decide (chanAdc (entChan e a) = a)))

/-- Entries in force of a control word. -/
def ctlLen (c : Nat) : Nat := bits c 3 0 + 1

/-- Every channel 0–13 stands in the first n entries. -/
def seqCovers (es : List Nat) (c : Nat) : Bool :=
  (List.range 14).all (fun ch => (es.take (ctlLen c)).any (fun e => decide (entChan e (chanAdc ch) = ch)))

/-- The sequence and control word as last written. -/
def PwrS.seqNext (p : PwrS) : List Nat := p.seqPend.getD p.seq
def PwrS.ctlNext (p : PwrS) : Nat := p.ctlPend.getD p.ctl

/-- 2020h.02. -/
def runSequence (d : Device) (_r : Req) (v : List Byte) : Answer :=
  let es := (List.range 16).map (fun i => bits (wordAt v i) 15 0)
  if es.all entOk && seqCovers es d.pwr.ctlNext then done (d.setPwr { d.pwr with seqPend := some es })
  else refuse d dInvalid

def ruleSequence : WriteRule := WriteRule.plain (sized 64 runSequence)

def execSequenceWrite (r : Req) (s : State) : Host.Outcome State Fault Refusal :=
  s.lift (fun d => d.write 0x2020 2 ruleSequence r)

/-- 2020h.01. -/
def runSeqControl (d : Device) (_r : Req) (x : Nat) : Answer :=
  let c := x % 2 ^ 12
  if bits c 5 4 ≤ 1 ∧ bits c 11 6 ≤ 39 ∧ seqCovers d.pwr.seqNext c = true then
    done (d.setPwr { d.pwr with ctlPend := some c })
  else refuse d dInvalid

def ruleSeqControl : WriteRule := WriteRule.plain (valued (key 0x2020 1) runSeqControl)

def execSequenceControlWrite (r : Req) (s : State) : Host.Outcome State Fault Refusal :=
  s.lift (fun d => d.write 0x2020 1 ruleSeqControl r)

/-- Asks for an urgent conversion of an entry (R387): up to four wait; a waiting one merges. Answers whether it was taken. -/
def Device.urge (d : Device) (e : Nat) : Bool × Device :=
  if d.pwr.urgent.contains e then (true, d)
  else if d.pwr.urgent.length ≥ 4 then (false, d.bump (key 0x2050 7) 1)
  else (true, d.setPwr { d.pwr with urgent := d.pwr.urgent ++ [e] })

/-- 2020h.05. -/
def runUrgent (d : Device) (_r : Req) (e : Nat) : Answer :=
  let x := d.urge e
  if x.1 then done x.2 else refuse x.2 dBusy

def ruleUrgent : WriteRule := WriteRule.plain (valued (key 0x2020 5) runUrgent)

def execUrgentRequest (r : Req) (s : State) : Host.Outcome State Fault Refusal :=
  s.lift (fun d => d.write 0x2020 5 ruleUrgent r)

/-- 2000h.02: the peak limit lies no lower than the sustained one. -/
def runPeak (d : Device) (r : Req) (v : List Byte) : Answer :=
  let sus : F32 := BitVec.ofNat 32 (d.reg (key 0x2000 1))
  if v.length = 4 ∧ f32Lt (BitVec.ofNat 32 (ofLe v)) sus = true then refuse d dInvalid
  else runScalar (key 0x2000 2) d r v

def rulePeak : WriteRule := WriteRule.plain runPeak

/-- 2020h.04: 14 channel corrections. -/
def runCorrections (d : Device) (_r : Req) (v : List Byte) : Answer :=
  done (d.setPwr { d.pwr with corr := (List.range 14).foldl (fun (t : Tbl Nat) c => Tbl.set 0 t c (wordAt v c)) [] })

def ruleCorrections : WriteRule := WriteRule.plain (sized 56 runCorrections)

/-- The entry in force that holds channels 0 and 1. -/
def PwrS.powerEntry (p : PwrS) : Option Nat :=
  (List.range (ctlLen p.ctl)).find? (fun i => decide (entChan (p.seq.getD i 0xFFFF) 0 = 0 ∧ entChan (p.seq.getD i 0xFFFF) 1 = 1))

/-- A pass of the sequence in ns: one entry per switching period, or per 100 ns in free run. -/
def PwrS.passNs (p : PwrS) : Nat := ctlLen p.ctl * (if bits p.ctl 5 4 = 1 then 100 else p.period)

/-- After the last entry comes entry 0: a written sequence takes effect, the urgent requests waiting are discarded, the
registers of unused entries read 0 (R385). -/
def PwrS.wrap (p : PwrS) : PwrS :=
  let p := { p with position := 0, pass := (p.pass + 1) % 65536 }
  if p.seqPend.isNone ∧ p.ctlPend.isNone then p
  else
    let c := p.ctlNext
    { p with seq := p.seqNext, ctl := c, seqPend := none, ctlPend := none, urgent := [],
             results := p.results.filter (fun e => decide (e.1 < ctlLen c)) }

/-! ### Results (R388, R389) -/

/-- A corrected code and whether it is saturated. -/
def correct (corr x : Nat) : Nat × Bool :=
  let o := (BitVec.ofNat 16 corr).toInt
  let g := (BitVec.ofNat 16 (corr / 65536)).toInt
  let y := divRoundEven ((16 * (x : Int) + o) * (65536 + g)) (2 ^ 20)
  let z := clampInt 0 4095 y
  (z.toNat, decide (z ≠ y ∨ x = 0 ∨ x = 4095))

/-- A result half-word: code, Valid, Saturated. -/
def halfWord (code : Nat) (sat : Bool) : Nat := code + 4096 + (if sat then 8192 else 0)

/-- The four raw codes of a delivery. -/
def adcRaw (c : AdcCodes) (a : Nat) : Nat :=
  (if a = 0 then c.adc0 else if a = 1 then c.adc1 else if a = 2 then c.adc2 else c.adc3).toNat

/-- Half-words of a delivered entry, and the latest codes with them. -/
def PwrS.deliver (p : PwrS) (c : AdcCodes) : PwrS :=
  let e := p.seq.getD c.entry.val 0xFFFF
  let one := fun (a : Nat) =>
    let ch := entChan e a
    if ch > 13 then 0
    else
      let x := correct (Tbl.get 0 p.corr ch) (adcRaw c a)
      halfWord x.1 x.2
  let latest := (List.range 4).foldl (fun (t : Tbl Nat) a =>
    if entChan e a ≤ 13 then Tbl.set 0 t (entChan e a) (one a % 4096) else t) p.latest
  let w3 := p.pass + (if c.urgent then 2 ^ 16 else 0) + (if c.late then 2 ^ 17 else 0)
  { p with latest := latest,
           results := Tbl.put p.results c.entry.val
             [one 0 + one 1 * 65536, one 2 + one 3 * 65536, c.sampled.toNat % 2 ^ 32, w3] }

/-! ### The trip (R398) -/

/-- A trip: rails off, THERM_TRIP_N latched, error 20h, notification 21h. -/
def Device.thermTrip (d : Device) (detail who : Nat) : Device :=
  if d.pwr.trip then d
  else
    let d := d.railsOff 5
    let d := d.setPwr { d.pwr with trip := true }
    ((d.err { cls := 0 } 0x20 detail).notify 0x21 0 0x2001 6 who).bump (key 0x2050 4) 1

/-- The hottest check of the four diodes: one of an entry at 125 °C or more. -/
def Device.tripDiodes (d : Device) (e : Nat) : Device :=
  match (List.range 4).find? (fun f => decide (entChan e f = 10 + f) && f32Le 0x42FA0000#32 (d.diode f)) with
  | some f => d.thermTrip 1 (64 + f)
  | none => d

/-- Read values at 125 °C or more. -/
def Device.tripNodes (d : Device) : Device :=
  match (List.range 64).find? (fun n => f32Le 0x42FA0000#32 (d.readTemp n)) with
  | some n => if d.pwr.seed.isSome then d.thermTrip 0 n else d
  | none => d

/-! ### The power check (R395) -/

/-- Cores that are busy: in a step or one of its waits, or an attention core with a descriptor. -/
def Device.busyCores (d : Device) : List Nat :=
  (List.range 208).filter (fun i =>
    if isAttn i then (d.attnUnit (i / 13)).cur.isSome
    else decide ((d.core (cimOf i)).seq.phase ≠ .idle))

/-- Reason of a full pause: 0 power, 1 current, 2 energy. -/
def Device.fullWhy (d : Device) (b bmax : F32) : Option Nat :=
  if f32Lt (BitVec.ofNat 32 (d.reg (key 0x2000 2))) d.pin then some 0
  else if f32Lt (BitVec.ofNat 32 (d.reg (key 0x2000 4))) d.iin then some 1
  else if f32Eq b bmax then some 2
  else none

/-- The check that runs when the entry of channels 0 and 1 delivers. -/
def Device.powerCheck (d : Device) : Device :=
  let p := d.pwr
  let sus : F32 := BitVec.ofNat 32 (d.reg (key 0x2000 1))
  let ms := d.reg (key 0x2000 3)
  let bmax := f32Mul (f32Sub (BitVec.ofNat 32 (d.reg (key 0x2000 2))) sus) (f32Div (f32OfInt ms) (f32OfInt 1000))
  let dt := f32Div (f32OfInt (match p.checkAt with | some t => d.clk.up - t | none => 0)) (f32OfInt 1000000000)
  let b := f32MinOp bmax (f32MaxOp 0#32 (f32Add p.energy (f32Mul (f32Sub d.pin sus) dt)))
  let why := d.fullWhy b bmax
  let leave := p.full && f32Le b (f32Mul bmax 0x3F000000#32) && f32Le d.pin sus
  let full := if why.isSome then true else if leave then false else p.full
  let phi0 := if why.isNone && leave then 128 else p.phiP
  let phi := if full then 256
             else if f32Le (f32Mul 0x3F400000#32 bmax) b then min 240 (phi0 + 8)
             else if f32IsZero b then phi0 - 2
             else phi0
  let d := d.setPwr { p with energy := b, full := full, phiP := phi, checkAt := some d.clk.up }
  let d := if full && !p.full then d.err { cls := 0 } 0x24 (why.getD 0) else d
  if full then
    (d.busyCores.foldl (fun d i => d.pauseAny i (2 * d.pwr.passNs * 13 / 10)) d).bump (key 0x2050 2) 1
  else d

/-! ### ADC_DELIVER -/

/-- Seeds the model from the first readings of the four diodes (R393). -/
def Device.seedModel (d : Device) : Device :=
  if d.pwr.seed.isSome || !(List.range 4).all (fun f => (Tbl.find? d.pwr.latest (10 + f)).isSome) then d
  else
    let ds := (List.range 4).map (fun f => d.diode f)
    let ns := (List.range 64).foldl (fun (t : Tbl F32) n => Tbl.set 0#32 t n (seedOf ds n)) []
    d.setPwr { d.pwr with seed := some ds, nodes := ns, seedAt := d.clk.up, updAt := d.clk.up, anchorAt := d.clk.up }

/-- The delivery is the one that is due: the next entry, or the first urgent request. -/
def PwrS.due (p : PwrS) (c : AdcCodes) : Bool :=
  if c.urgent then decide (p.urgent.head? = some c.entry.val) else decide (c.entry.val = p.position)

/-- ADC_DELIVER: codes delivered 100 ns after their sampling edge. -/
def execAdcDeliver (c : AdcCodes) (s : State) : Host.Outcome State Fault Refusal :=
  s.lift (fun d =>
    if !d.pwr.due c then d
    else
      let d := d.advance (c.sampled.toNat + 100 - d.clk.time.toNat)
      let e := d.pwr.seq.getD c.entry.val 0xFFFF
      let power := decide (d.pwr.powerEntry = some c.entry.val)
      let d := d.setPwr (d.pwr.deliver c)
      let d := if c.urgent then (d.setPwr { d.pwr with urgent := d.pwr.urgent.drop 1 }).bump (key 0x2050 6) 1
               else if c.entry.val + 1 ≥ ctlLen d.pwr.ctl then d.setPwr d.pwr.wrap
               else d.setPwr { d.pwr with position := c.entry.val + 1 }
      let d := d.seedModel.tripDiodes e
      if power then d.powerCheck else d)

/-! ### The thermal model (R390–R392) -/

/-- A port's stop, an optical engine chiplet: powers by the port's state. -/
def Device.portOn (d : Device) (p : Nat) : Bool := decide ((d.port p).st ≠ 0 ∧ (d.port p).st ≠ 5)
def Device.stopPower (d : Device) (p : Nat) : F32 := if d.portOn p then 0x40C00000#32 else 0x3F000000#32
def Device.optPower (d : Device) (x : Nat) : F32 := if d.portOn (6 + x) then 0x41400000#32 else f32One

/-- P′ of a field. -/
def Device.fieldShare (d : Device) (f : Nat) : F32 :=
  let base := f32Sub (d.fieldPower f) 0x40C80000#32
  f32MaxOp 0#32 (((List.range 8).filter (fun p => decide (portField p = f))).foldl (fun x p => f32Sub x (d.stopPower p)) base)

/-- Activity of a node: its five counts times their weights. -/
def activity (act : List (List Nat)) (n : Nat) : F32 :=
  (List.range 5).foldl (fun x k =>
    f32Add x (f32Mul (f32OfInt ((act.getD n []).getD k 0)) (Config.modelWord (1024 + k)))) 0#32

/-- Power of a node. -/
def Device.nodePower (d : Device) (act : List (List Nat)) (n : Nat) : F32 :=
  if n < 48 then
    let f := n / 12
    let af := (List.range 12).foldl (fun x k => f32Add x (activity act (12 * f + k))) 0#32
    let s := d.fieldShare f
    if f32IsZero af then f32Div s (f32OfInt 12)
    else f32Mul s (f32Add (f32Div 0x3E4CCCCD#32 (f32OfInt 12)) (f32Div (f32Mul 0x3F4CCCCD#32 (activity act n)) af))
  else if n = 48 then 0x41C80000#32
  else if n ≤ 56 then d.stopPower (n - 49)
  else if n ≤ 60 then
    let sum := (List.range 4).foldl (fun x f => f32Sub x (d.fieldPower f)) d.pin
    f32MaxOp 0#32 (f32Mul (f32Sub (f32Sub sum (d.optPower 0)) (d.optPower 1)) 0x3E800000#32)
  else if n ≤ 62 then d.optPower (n - 61)
  else 0#32

/-- A node's neighbours and their conductances in ascending order (2030h.08). -/
def neighbours (n : Nat) : List (Nat × F32) :=
  (List.range 64).filterMap (fun j =>
    ((List.range 7).find? (fun k => decide ((Config.modelWord (16 * n + 2 + 2 * k)).toNat = j))).map
      (fun k => (j, Config.modelWord (16 * n + 3 + 2 * k))))

/-- One step of a node from the previous values of all. -/
def Device.stepNode (d : Device) (act : List (List Nat)) (dt : F32) (n : Nat) : F32 :=
  let t := fun i => Tbl.get 0#32 d.pwr.nodes i
  let flow := (neighbours n).foldl (fun x j => f32Add x (f32Mul j.2 (f32Sub (t n) (t j.1)))) 0#32
  let cool := f32Mul (Config.modelWord (16 * n + 1)) (f32Sub (t n) (BitVec.ofNat 32 (d.reg (key 0x2030 7))))
  f32Add (t n) (f32Mul (f32Div dt (Config.modelWord (16 * n)))
    (f32Sub (f32Sub (d.nodePower act n) flow) cool))

/-- Updates per second: 10 kHz or 100 kHz. -/
def PwrS.updateNs (p : PwrS) : Nat := if p.fast then 10000 else 100000

/-- The rate that follows an update (R392). -/
def Device.setRate (d : Device) : Device :=
  let lim : F32 := BitVec.ofNat 32 (d.reg (key 0x2030 1))
  let hot := (List.range 64).any (fun n => f32Le (f32Sub lim (f32OfInt 5)) (d.readTemp n))
  let cool := (List.range 64).all (fun n => f32Lt (d.readTemp n) (f32Sub lim (f32OfInt 6)))
  let p := d.pwr
  if hot then d.setPwr { p with fast := true, coolSince := none }
  else if !p.fast then d
  else if !cool then d.setPwr { p with coolSince := none }
  else
    match p.coolSince with
    | none => d.setPwr { p with coolSince := some d.clk.up }
    | some t => if d.clk.up - t ≥ 10000000 then d.setPwr { p with fast := false, coolSince := none } else d

/-! ### The governor (R396) -/

/-- Highest read value of a cluster's nodes. -/
def Device.clusterTemp (d : Device) (c : Nat) : F32 :=
  f32MaxOp (f32MaxOp (d.readTemp (3 * c)) (d.readTemp (3 * c + 1))) (d.readTemp (3 * c + 2))

/-- Thermal fraction of a cluster after an update. -/
def Device.nextPhiT (d : Device) (c : Nat) : Nat :=
  let e := f32Sub (d.clusterTemp c) (BitVec.ofNat 32 (d.reg (key 0x2030 1)))
  let old := Tbl.get 0 d.pwr.phiT c
  let gain := d.reg (key 0x2040 2)
  if f32Lt 0#32 e then min (d.reg (key 0x2040 4)) (old + (f32Ceil (f32Mul (f32OfInt gain) e)).toNat)
  else if f32Lt e 0xBF800000#32 then old - d.reg (key 0x2040 3)
  else old

/-- Mask of clusters whose fraction is above 0. -/
def phiMask (phi : Tbl Nat) : Nat :=
  (List.range 16).foldl (fun m c => if Tbl.get 0 phi c > 0 then m + 2 ^ c else m) 0

/-- Pauses of one cluster. -/
def Device.pauseCluster (d : Device) (c q : Nat) : Device :=
  if q = 0 then d else ((List.range 13).foldl (fun d j => d.pauseAny (c * 13 + j) q) d).bump (key 0x2050 1) 1

/-- The governor at an update; the model's rate from this update on gives `n` cycles a period (R392). -/
def Device.govern (d : Device) (n : Nat) : Device :=
  let d := match d.pwr.powerEntry with | some e => (d.urge e).2 | none => d
  let old : Tbl Nat := d.pwr.phi
  let pt : Tbl Nat := (List.range 16).foldl (fun (t : Tbl Nat) c => Tbl.set 0 t c (d.nextPhiT c)) []
  let phi : Tbl Nat := (List.range 16).foldl (fun (t : Tbl Nat) c => Tbl.set 0 t c (max (Tbl.get 0 pt c) d.pwr.phiP)) []
  let d := d.setPwr { d.pwr with phiT := pt, phi := phi }
  let d := (List.range 16).foldl (fun d c => d.pauseCluster c (Tbl.get 0 phi c * n / 256)) d
  let begins := (List.range 16).any (fun (c : Nat) => decide (Tbl.get 0 old c = 0 ∧ 0 < Tbl.get 0 phi c))
  let d := if begins then d.notify 0x20 0 0x2040 1 1 (phiMask phi) else d
  if phiMask old ≠ 0 ∧ phiMask phi = 0 then d.notify 0x20 0 0x2040 1 0 0 else d

/-- THERMAL_MODEL_UPDATE: `act` gives each cluster node's five counts since the previous update. -/
def execThermalModelUpdate (act : List (List Nat)) (s : State) : Host.Outcome State Fault Refusal :=
  s.lift (fun d =>
    if d.pwr.seed.isNone then d
    else
      let n := d.pwr.updateNs
      let d := d.reach (d.pwr.updAt + n)
      let dt := f32Div (f32OfInt n) (f32OfInt 1000000000)
      let ns := (List.range 64).foldl (fun (t : Tbl F32) i => Tbl.set 0#32 t i (d.stepNode act dt i)) []
      let d := if d.pwr.fast then d.bump (key 0x2050 9) 1 else d
      let d := (d.setPwr { d.pwr with nodes := ns, updAt := d.clk.up }).setRate
      d.tripNodes.govern (d.pwr.updateNs * 13 / 10))

/-- MODEL_CONVERGED (R393): 2 s after seeding. -/
def execModelConverged (s : State) : Host.Outcome State Fault Refusal :=
  s.lift (fun d =>
    if d.pwr.seed.isNone || d.pwr.converged then d
    else
      let d := d.reach (d.pwr.seedAt + 2000000000)
      (d.setPwr { d.pwr with converged := true }).tripNodes)

/-- Nodes of a field that an anchor corrects (R394). -/
def anchored (f : Nat) : List Nat :=
  (List.range 12).map (fun i => 12 * f + i) ++ ((List.range 8).filter (fun p => decide (portField p = f))).map (· + 49) ++
    [57 + f]

/-- One field's correction. -/
def Device.anchorField (d : Device) (f : Nat) : Device :=
  let x := f32Sub (d.diode f) (Tbl.get 0#32 d.pwr.nodes (12 * f + 2))
  if f32Lt (BitVec.ofNat 32 (d.reg (key 0x2030 5))) (f32Abs x) then
    let ns := (anchored f).foldl (fun (t : Tbl F32) n => Tbl.set 0#32 t n (f32Add (Tbl.get 0#32 t n) x)) d.pwr.nodes
    let d := (d.setPwr { d.pwr with nodes := ns }).err { cls := 0 } 0x21 f
    (d.notify 0x24 0 0x2030 6 f (f32ScaleRound x 4 % 2 ^ 32).toNat).bump (key 0x2050 3) 1
  else d

/-- ANCHOR_CHECK: once per second. -/
def execAnchorCheck (s : State) : Host.Outcome State Fault Refusal :=
  s.lift (fun d =>
    if d.pwr.seed.isNone then d
    else
      let d := d.reach (d.pwr.anchorAt + 1000000000)
      ((List.range 4).foldl (fun d f => d.anchorField f) (d.setPwr { d.pwr with anchorAt := d.clk.up })).tripNodes)

end Sys2Proof.Machine
end

