-- ==== Sys2Proof/Machine/Clocks.lean ====
section
/-!
DEFINITION. Clocks, crossings, resets and bring-up (18): power-on and device resets (R407), the straps (R421), cluster
resets (R408), parking (R404), crossings (R402, R405, R406), the bring-up steps of Tab. 18.5 (R409–R412).
-/
namespace Sys2Proof.Machine

def Device.setClk (d : Device) (x : ClkS) : Device := { d with clk := x }

def Device.unready (d : Device) (b : Nat) : Device :=
  d.setClk { d.clk with ready := d.clk.ready &&& ~~~(1#7 <<< b) }

/-! ### Resets of the whole device (Tab. 18.4) -/

/-- What the power stage and the standby domain's telemetry keep over a device reset. -/
def PwrS.kept (p : PwrS) : PwrS :=
  { PwrS.reset with
    rails := p.rails, pgood := p.pgood, trip := p.trip, input := p.input, locked := p.locked,
    lost := p.lost, period := p.period, latest := p.latest, nodes := p.nodes, seed := p.seed, seedAt := p.seedAt,
    converged := p.converged, updAt := p.updAt, anchorAt := p.anchorAt }

/-- The reset of the management domain with the central block, every cluster and every port: what the identity store holds
stays, and so do the straps as read, the sideband's carrier, the TAP. -/
def Device.resetDomain (d : Device) (p : PwrS) : Device :=
  { Device.reset with
    clk := { ClkS.reset with up := d.clk.up, resetUp := d.clk.up },
    free := d.free, out := d.out, sec := d.sec.reboot d.clk.up, pwr := p,
    fab := { FabS.reset with slot := d.fab.slot, strapped := d.fab.strapped },
    side := { SideS.reset with carrier := d.side.carrier }, tap := d.tap }

/-- Reads the straps (R421): an open land reads as undefined. The coordinate takes the slot unless it has been written. -/
def Device.readStraps (d : Device) (s : Straps) : Device :=
  let f := d.fresh
  let d := if s.openLands = 0#3 then d else f.2
  let slot := if s.openLands = 0#3 then s.level else (s.level &&& ~~~s.openLands) ||| (f.1.setWidth 3 &&& s.openLands)
  let coord := if d.fab.written then d.fab.coord else mkCoord 0 0 0 slot.toNat
  { d with fab := { d.fab with slot := slot, strapped := true, coord := coord } }

/-- The boot ROM reads the identity store and brings up the dictionary (R347, Tab. 18.5 steps 1 and 2). -/
def Device.boot (d : Device) : Device := d.readStore.readyBit 0

/-- Everything but the identity store at its reset value (R419). -/
def Device.unpowered (d : Device) : Device :=
  let e := d.resetDomain PwrS.reset
  { e with fab := FabS.reset, side := SideS.reset, tap := TapS.reset }

/-- POWER_ON: V_in rises through 46.0 V. While the standby domain still runs, only an undervoltage ends. -/
def execPowerOn (s : State) : Host.Outcome State Fault Refusal :=
  s.supplied { s.sup with standby := true } (fun d =>
    if s.sup.standby then { d with pwr := { d.pwr with input := if d.pwr.input = 2 then 0 else d.pwr.input } }
    else d.unpowered)

/-- STANDBY_LOSS: V_in falls below 40 V; nothing but the identity store is left (R419). -/
def execStandbyLoss (s : State) : Host.Outcome State Fault Refusal :=
  s.supplied { s.sup with standby := false } (fun d => d.unpowered)

/-- STRAP_SAMPLE: 100 µs after STRAP_REF is first driven. The boot follows, unless RST_N holds the domain in reset. -/
def execStrapSample (st : Straps) (s : State) : Host.Outcome State Fault Refusal :=
  s.always (fun d =>
    if s.sup.standby = false ∨ d.fab.strapped = true then d
    else
      let d := d.readStraps st
      if s.sup.rstLow then d else d.boot)

/-- RST_N_ASSERT: a low pulse of 10 µs or more; the trip latch clears. -/
def execRstNAssert (s : State) : Host.Outcome State Fault Refusal :=
  s.supplied { s.sup with rstLow := true } (fun d =>
    let i := if d.pwr.input = 4 ∨ d.pwr.input = 5 then 0 else d.pwr.input
    if s.sup.standby then d.resetDomain { d.pwr.kept with trip := false, input := i } else d)

/-- The management domain leaves reset: device time starts at 0 (R303), the straps are read, the boot ROM runs. -/
def Device.leaveReset (d : Device) (st : Straps) : Device :=
  ((d.setClk { d.clk with time := 0#64, resetUp := d.clk.up }).readStraps st).boot

/-- RST_N_RELEASE. -/
def execRstNRelease (st : Straps) (s : State) : Host.Outcome State Fault Refusal :=
  s.supplied { s.sup with rstLow := false } (fun d =>
    if s.sup.rstLow && s.sup.standby then d.leaveReset st else d)

/-- 3001h.01: the write is answered, and then the device resets; the trip latch stays. -/
def runDeviceReset (st : Option Straps) (d : Device) (r : Req) (_x : Nat) : Answer :=
  let d := d.finishWrite (d.answerKey r) r 0x3001 1 true dOk []
  let st := st.getD ⟨d.fab.slot, 0#3⟩
  ⟨dPending, [], (d.resetDomain d.pwr.kept).leaveReset st⟩

def ruleDeviceReset (st : Option Straps) : WriteRule := WriteRule.plain (valued (key 0x3001 1) (runDeviceReset st))

/-- DEVICE_RESET_WRITE (R407), with the straps as they are tied at the write. -/
def execDeviceResetWrite (r : Req) (st : Straps) (s : State) : Host.Outcome State Fault Refusal :=
  s.lift (fun d => d.write 0x3001 1 (ruleDeviceReset (some st)) r)

/-! ### Cluster resets (R408) -/

/-- 3001h.02: every core of the named clusters is disabled under the Mode. -/
def runClusterReset (d : Device) (_r : Req) (x : Nat) : Answer :=
  let mask := BitVec.ofNat 16 x
  if d.clk.resetting &&& mask ≠ 0#16 then refuse d dBusy
  else
    let d := d.setClk { d.clk with resetting := d.clk.resetting ||| mask, draining := d.clk.draining ||| mask }
    let ks := (List.range 16).filter (fun k => mask.getLsbD k)
    done (ks.foldl (fun d k => (List.range 13).foldl (fun d j => d.disableCore (k * 13 + j) (bit x 16)) d) d)

def ruleClusterReset : WriteRule := WriteRule.plain (valued (key 0x3001 2) runClusterReset)

def execClusterResetWrite (r : Req) (s : State) : Host.Outcome State Fault Refusal :=
  s.lift (fun d => d.write 0x3001 2 ruleClusterReset r)

/-- No core of a cluster has work left under the Mode it was disabled with, and none is in a step. -/
def Device.drainedCluster (d : Device) (k : Nat) : Bool :=
  (List.range 13).all (fun j =>
    let i := k * 13 + j
    ((d.health i).drained || d.mayStop i))

/-- CLUSTER_RESET_DRAINED: the named cluster has drained and resets. -/
def execClusterResetDrained (k : ClusterIx) (s : State) : Host.Outcome State Fault Refusal :=
  s.lift (fun d =>
    if d.clk.draining.getLsbD k.val && d.drainedCluster k.val then
      (d.setClk { d.clk with draining := d.clk.draining &&& ~~~(1#16 <<< k.val) }).resetCluster k.val 6
    else d)

/-! ### Parking (R404) -/

/-- 3002h.00: only Park is written. -/
def runClusterRecords (d : Device) (_r : Req) (v : List Byte) : Answer :=
  done (d.mergeRecords 16 16 v (fun d k b => d.setCluster k { d.cluster k with park := bit (wordAt b 0) 3 }))

def ruleClusterRecords : WriteRule := WriteRule.plain (sized 256 runClusterRecords)

def execClusterRecordWrite (r : Req) (s : State) : Host.Outcome State Fault Refusal :=
  s.lift (fun d => d.write 0x3002 0 ruleClusterRecords r)

/-- Every core of the cluster is idle, with no scoreboard entry, descriptor or elastic operation in flight. -/
def Device.clusterIdle (d : Device) (k : Nat) : Bool :=
  (List.range 12).all (fun j =>
    let q := (d.core (k * 12 + j)).seq
    decide (q.phase = .idle) && q.ops.isEmpty &&
      q.board.all (fun e => match e.freed with | some t => decide (t ≤ d.cyc) | none => false)) &&
    (d.attnUnit k).cur.isNone && (d.attnUnit k).queue.isEmpty && !d.clusterTests k

/-- CLUSTER_PARK. -/
def execClusterPark (k : ClusterIx) (s : State) : Host.Outcome State Fault Refusal :=
  s.lift (fun d =>
    let x := d.cluster k.val
    if decide (x.st = 4) && x.park && d.clusterIdle k.val then d.setCluster k.val { x with st := 5 } else d)

/-- WAKE_REQUEST. -/
def execWakeRequest (k : ClusterIx) (s : State) : Host.Outcome State Fault Refusal :=
  s.lift (fun d =>
    let x := d.cluster k.val
    if x.st = 5 then
      (d.setCluster k.val { x with st := 4, wakes := min (2 ^ 32 - 1) (x.wakes + 1) }).bump (key 0x3020 4) 1
    else d)

/-! ### Crossings (R401–R406)

A crossing is numbered: 0–31 the stitch links (0–15 across x = 7/8 at row y, 16–31 across y = 7/8 at column x − 16), 32–35
the management stop's links to F0–F3, 40–47 a port stop's link, 64–71 a port's receive side, 72–79 its transmit side, 80–143
the mesochronous links within a field, sixteen a field. -/

/-- Detail of error 31h (Tab. 18.7), or 3 for a mesochronous crossing; none for no crossing. -/
def crossingKind (x : Nat) : Option Nat :=
  if x < 32 then some 0
  else if x < 36 ∨ (40 ≤ x ∧ x < 48) then some 1
  else if 64 ≤ x ∧ x < 80 then some 2
  else if 80 ≤ x ∧ x < 144 then some 3
  else none

/-- Tile of a port stop (Tab. 1.3). -/
def portTile (p : Nat) : Nat × Nat :=
  [(0, 3), (0, 12), (15, 3), (15, 12), (3, 15), (12, 15), (3, 0), (12, 0)].getD p (0, 0)

/-- The tile of the router at a crossing: of a mesh link, the one with the lower coordinate. -/
def crossingTile (x : Nat) : Nat × Nat :=
  if x < 16 then (7, x)
  else if x < 32 then (x - 16, 7)
  else if x < 36 then [(7, 7), (8, 7), (7, 8), (8, 8)].getD (x - 32) (0, 0)
  else if x < 80 then portTile (x % 8)
  else
    let f := (x - 80) / 16
    let i := (x - 80) % 16
    if i < 8 then (8 * (f % 2) + 3, 8 * (f / 2) + i) else (8 * (f % 2) + i - 8, 8 * (f / 2) + 3)

/-- The cluster of a tile (R10). -/
def tileCluster (x y : Nat) : Nat := 4 * (x / 8 + 2 * (y / 8)) + (x % 8 / 4 + 2 * (y % 8 / 4))

/-- A mesh router in an error record. -/
def routerAt (t : Nat × Nat) : ErrAt := { cls := 5, cluster := tileCluster t.1 t.2, loc := t.1 + 16 * t.2 }

def Device.crossing (d : Device) (x : Nat) : Crossing := Tbl.get Crossing.reset d.clk.crossings x

def Device.setCrossing (d : Device) (x : Nat) (c : Crossing) : Device :=
  d.setClk { d.clk with crossings := Tbl.set Crossing.reset d.clk.crossings x c }

/-- The management stop's link a field's traffic with the central block uses (R13): the field's own, or while that is
unusable the next one clockwise, F0, F1, F3, F2; none while all four are. -/
def Device.mgmtLink (d : Device) (field : Nat) : Option Nat :=
  let ring := [0, 1, 3, 2]
  ((List.range 4).map (fun i => ring.getD ((ring.idxOf field + i) % 4) 0)).find? (fun f =>
    let c := d.crossing (32 + f)
    !c.sink && decide (c.phase = 0))

/-- The words that leave a crossing: a packet cut part way is completed with poisoned words. -/
def completed (q : List (Word × Bool × Nat)) : List (Word × Bool) :=
  q.map (fun e => (e.1, e.2.1)) ++
    (match q.getLast? with | some e => List.replicate e.2.2 (0#32, true) | none => [])

/-- Steps 2 and 3 of R405: the other side discards the queue toward the resetting side, enters sink mode, and reads the
opposite queue out. -/
def Device.flushCrossing (d : Device) (x : Nat) (phase : Nat) : Device :=
  let c := d.crossing x
  let ws := completed c.back
  let d := d.setCrossing x ⟨phase, true, [], []⟩
  if ws.isEmpty then d else d.send (.crossed x ws)

/-- CROSSING_RESET_REQUEST: the other side sees the request and returns its acknowledge. -/
def execCrossingResetRequest (x : Nat) (s : State) : Host.Outcome State Fault Refusal :=
  s.lift (fun d => if (crossingKind x).isSome && decide ((d.crossing x).phase = 0) then d.flushCrossing x 1 else d)

/-- CROSSING_RESET_ACK: the resetting side sets both pointers of both queues to 0. -/
def execCrossingResetAck (x : Nat) (s : State) : Host.Outcome State Fault Refusal :=
  s.lift (fun d =>
    let c := d.crossing x
    if c.phase = 1 then d.setCrossing x { c with phase := 2, toward := [], back := [] } else d)

/-- CROSSING_READY: sink mode ends and traffic resumes. -/
def execCrossingReady (x : Nat) (s : State) : Host.Outcome State Fault Refusal :=
  s.lift (fun d => if (d.crossing x).sink then d.setCrossing x Crossing.reset else d)

/-- The fallback of R406 on one crossing. -/
def Device.crossingFallback (d : Device) (x : Nat) : Device :=
  match crossingKind x with
  | none => d
  | some k => ((d.flushCrossing x 2).err (routerAt (crossingTile x)) 0x31 k).bump (key 0x3020 2) 1

/-- CROSSING_FALLBACK: no acknowledge within 2 µs, or power lost without a request. -/
def execCrossingFallback (x : Nat) (s : State) : Host.Outcome State Fault Refusal :=
  s.lift (fun d => if crossingKind x = some 3 then d else d.crossingFallback x)

/-- MESOCHRONOUS_RECENTRE (R402): the crossing recentres under the handshake of R405. -/
def execMesochronousRecentre (x : Nat) (s : State) : Host.Outcome State Fault Refusal :=
  s.lift (fun d =>
    if crossingKind x = some 3 then
      ((d.flushCrossing x 2).setCrossing x Crossing.reset).err (routerAt (crossingTile x)) 0x32 0
    else d)

/-! ### Routers (R154) -/

/-- The router (fx, fy) lies on the x-first path from one tile to another, between its ends. -/
def onPath (s t f : Nat) : Bool :=
  let sx := s % 16
  let sy := s / 16
  let tx := t % 16
  let ty := t / 16
  let fx := f % 16
  let fy := f / 16
  decide (f ≠ s ∧ f ≠ t) &&
    ((decide (fy = sy) && decide (min sx tx ≤ fx ∧ fx ≤ max sx tx)) ||
      (decide (fx = tx) && decide (min sy ty ≤ fy ∧ fy ≤ max sy ty)))

/-- Source tiles whose x-first path to some tile crosses a failed router: its detour mask. -/
def detourMask (f : Nat) : List Nat :=
  (List.range 256).filter (fun s => (List.range 256).any (fun t => onPath s t f))

/-- Both paths of some pair cross failed routers, one of them this router. -/
def routerBlocks (fs : List Nat) (f : Nat) : Bool :=
  (List.range 256).any (fun s => (List.range 256).any (fun t =>
    (onPath s t f && fs.any (fun g => onPath t s g)) || (onPath t s f && fs.any (fun g => onPath s t g))))

/-- The tiles of a cluster (R10). -/
def clusterTiles (k : Nat) : List Nat := (List.range 256).filter (fun t => decide (tileCluster (t % 16) (t / 16) = k))

/-- Routers that failed the scan of step 5; the bypassed routers of failed clusters stand at 256 and above. -/
def Device.failedRouters (d : Device) : List Nat := (Tbl.keys d.mem.detours).filter (fun t => decide (t < 256))

def Device.setDetours (d : Device) (t : Tbl (List Nat)) : Device := { d with mem := { d.mem with detours := t } }

/-- A cluster that holds a failed router which blocks some pair is not ready. -/
def Device.routerBad (d : Device) (k : Nat) : Bool :=
  let fs := d.failedRouters
  fs.any (fun f => decide (tileCluster (f % 16) (f / 16) = k) && routerBlocks fs f)

/-! ### Readiness and failure of clusters (R409, R411) -/

/-- Bit 4 of 3000h.01: every cluster is ready or failed. -/
def Device.allSettled (d : Device) : Device :=
  if (List.range 16).all (fun k => (d.cluster k).ready || decide ((d.cluster k).st = 7)) then d.readyBit 4 else d

/-- Leaves a cluster failed: notification 32h, its routers bypassed. -/
def Device.failCluster (d : Device) (k cause : Nat) : Device :=
  let d := d.setCluster k { d.cluster k with st := 7, cause := cause, readyUs := 0 }
  let d := d.setDetours ((clusterTiles k).foldl (fun t x => Tbl.put t (256 + x) (detourMask x)) d.mem.detours)
  let d := d.setClk { d.clk with resetting := d.clk.resetting &&& ~~~(1#16 <<< k) }
  (d.notify 0x32 0 0x3002 0 k cause).allSettled

/-! ### The steps of Tab. 18.5 -/

/-- REFCLK_DETECT: step 3. -/
def execRefclkDetect (s : State) : Host.Outcome State Fault Refusal :=
  s.lift (fun d => if d.clk.refOk then d else (d.setClk { d.clk with refOk := true }).readyBit 1)

/-- What step 4 requires: the reference locked, V_in in range, no trip, every diode below 100 °C. -/
def Device.mayRamp (d : Device) : Bool :=
  d.clk.refOk && !d.pwr.trip && decide (d.pwr.input ≤ 1) && (List.range 4).all (fun f => f32Lt (d.diode f) 0x42C80000#32)

/-- RAILS_RAMPED: step 4; PGOOD goes high (R381). -/
def execRailsRamped (s : State) : Host.Outcome State Fault Refusal :=
  s.lift (fun d =>
    if d.mayRamp then (d.setPwr { d.pwr with rails := true, pgood := true, input := 1 }).readyBit 2 else d)

/-- The central block's tables are zeroed with valid codewords, the first time after a reset of the management domain. -/
def Device.zeroTables (d : Device) : Device :=
  if d.clk.ready.getLsbD 3 then d
  else
    { d with
      mem := { d.mem with handles := [], lost := [] },
      serv := { d.serv with reqs := [], aux := [] },
      sync := { d.sync with objs := [], aliases := [] } }

/-- CENTRAL_BLOCK_READY: steps 5 and 6. A router that failed its scan is bypassed. -/
def execCentralBlockReady (sc : ScanResult) (s : State) : Host.Outcome State Fault Refusal :=
  s.lift (fun d =>
    if d.pwr.pgood && d.clk.refOk then
      let d := d.zeroTables
      let d := d.setDetours (sc.routers.foldl (fun t f => Tbl.put t f.val (detourMask f.val))
        (d.mem.detours.filter (fun e => decide (256 ≤ e.1))))
      let d := d.startPatrols 16 tableBanks
      ((List.range 8).foldl (fun d p => d.startTraining p) d).readyBit 3
    else d)

/-- Attempts that a cluster's test made on a physical engine (core · 33 + engine). -/
def testAttempts (t : ClusterTest) (i : Nat) : List Attempt :=
  (t.engines.filter (fun e => decide (e.1 = i))).map (·.2)

/-- A hint marks an engine's column or spare, or the whole engine, retired (R53, Tab. 3.5). -/
def hintRetired (ws : List Nat) (p : Nat) : Bool :=
  decide (bits (ws.getD 0 0) 20 19 = 2) ||
    (if p < 1024 then
      (List.range 16).any (fun j => decide (bits (ws.getD (196 + j) 0) 11 10 = 2 ∧ bits (ws.getD (196 + j) 0) 9 0 = p))
    else decide (bits (ws.getD (196 + (p - 1024)) 0) 11 10 = 3))

/-- The pick that a measurement of the hinted copy and instances alone gives. -/
def hintPick (ws : List Nat) (p : Nat) (m i : SegMeas × SegMeas) : Pick :=
  ⟨hintCopy ws p, hintInst ws (2 * p), hintInst ws (2 * p + 1), offset32 i.1 patternCounts.l1 patternCounts.l2,
    offset32 i.2 patternCounts.u1 patternCounts.u2, copyGain patternCounts m⟩

/-- What the first attempt says of a hinted column (R53): none when it did not measure the hinted copy and instances alone,
else the selection it accepts. -/
def hintTry (ws : List Nat) (lim : F32) (p : Nat) (as_ : List Attempt) : Option (Option Pick) :=
  match as_ with
  | [] => none
  | a :: _ =>
    match a.first.find? (fun m => decide (m.col.val = p)), a.again.find? (fun m => decide (m.col.val = p)) with
    | some ⟨_, [m], [i]⟩, some ⟨_, [n], [j]⟩ =>
      let x := hintPick ws p m i
      let y := hintPick ws p n j
      some (if !(hintRetired ws p) && x.offsetsAgree y lim && x.gainsAgree y &&
        !(a.sweepFail.any (fun c => decide (c.val = p))) then some x else none)
    | _, _ => none

/-- Pattern calibration of one column under a hint (R53): accepted as hinted, or else as R51 has it from the attempts that
follow. -/
def Engine.hintCol (e : Engine) (ws : List Nat) (lim : F32) (as_ : List Attempt) (p : Nat) : Engine :=
  match hintTry ws lim p as_ with
  | none => e.patternCols lim [p] as_
  | some none => e.patternCols lim [p] (as_.drop 1)
  | some (some x) =>
    { (e.zeroCol p).commit p x with retired := List.filter (fun (q : Nat) => decide (q ≠ p)) e.retired }

/-- Power-up calibration of one engine by pattern under a hint. -/
def Engine.hintAll (e : Engine) (ws : List Nat) (lim : F32) (as_ : List Attempt) : Engine :=
  ((List.range 1040).foldl (fun (e : Engine) p => e.hintCol ws lim as_ p) e.powerUp).settleSpares

/-- Power-up calibration of one engine (R51), what a hint accepts first, and the columns that depart from it (R53). -/
def Device.calibrateEngine (d : Device) (t : ClusterTest) (j e : Nat) : Device :=
  let c := t.cluster.val * 12 + j
  let lim : F32 := BitVec.ofNat 32 (d.reg (key 0x9000 4))
  let as_ := testAttempts t (j * 33 + e)
  match Tbl.find? d.cim.hint (c * 33 + e) with
  | none => d.setEngine c e { (d.engine c e).patternAll lim as_ with calAt := d.clk.up }
  | some ws =>
    let g := { (d.engine c e).hintAll ws lim as_ with calAt := d.clk.up }
    (d.setEngine c e g).bump (key 0x9030 9) (g.hintDiffers ws)

/-- Physical engines 0–31 of a core that cannot serve their position. -/
def Device.deadEngines (d : Device) (c : Nat) : List Nat := (List.range 32).filter (fun e => !(d.engine c e).usable)

/-- R51 step 6: the position of the first engine that fails moves to physical engine 32. Answers whether every position of
the core has an engine (R52). -/
def Device.settleCore (d : Device) (c : Nat) : Bool × Device :=
  match d.deadEngines c with
  | [] => (true, d)
  | e :: es =>
    if (d.engine c 32).usable then
      (es.isEmpty, (d.modEngine c 32 (fun g => { g with st := 0, pos := e })).modEngine c e (fun g => { g with st := 2 }))
    else (false, d)

/-- Marks a core of a cluster as failed at power-up. -/
def Device.markFailed (d : Device) (k j : Nat) : Device :=
  d.setCluster k { d.cluster k with coresFailed := (d.cluster k).coresFailed ||| (1#12 <<< j) }

/-- A core that fails its scan or its buffer BIST is retired (R411); which of the two failed is not told, so the trigger bit
of its record is free between them. -/
def Device.testCore (d : Device) (t : ClusterTest) (j : Nat) : Device :=
  let k := t.cluster.val
  let i := k * 13 + j
  if t.coreFail.getLsbD j then
    let f := d.fresh
    (f.2.markFailed k j).retireCore i (1 + f.1.toNat % 2) false
  else
    let d := (List.range 33).foldl (fun d e => d.calibrateEngine t j e) d
    let r := d.settleCore (k * 12 + j)
    if r.1 then r.2
    else
      let d := r.2.markFailed k j
      if d.trigger 3 then d.retireCore i 3 false else d

/-- Step 8 of a cluster that has powered up: scan, BIST, calibration. -/
def Device.testCluster (d : Device) (t : ClusterTest) : Device :=
  let k := t.cluster.val
  let d := d.setCluster k { d.cluster k with attn := !t.attnFail, tiles := ~~~t.tileFail }
  if t.tileFail ≠ 0#3 then d.failCluster k 2
  else if t.attnFail then d.failCluster k 3
  else
    let d := (List.range 12).foldl (fun d j => d.testCore t j) d
    d.setCluster k { d.cluster k with st := 3 }

/-- A cluster of a wave powers up. -/
def Device.waveCluster (d : Device) (rs : List ClusterTest) (k : Nat) : Device :=
  let x := d.cluster k
  if x.st = 0 ∨ x.st = 1 ∨ x.st = 6 then
    let d := d.setDetours (d.mem.detours.filter (fun e => !decide (256 ≤ e.1 ∧ (clusterTiles k).contains (e.1 - 256) = true)))
    let d := d.setCluster k { x with st := 1, cause := 0 }
    if d.routerBad k then d.failCluster k 4
    else
      match rs.find? (fun t => decide (t.cluster.val = k)) with
      | none => d
      | some t => d.testCluster t
  else d

/-- CLUSTER_WAVE: clusters w, 4 + w, 8 + w and 12 + w; a cluster whose test the command gives has passed its PLL lock. -/
def execClusterWave (w : Fin 4) (rs : List ClusterTest) (s : State) : Host.Outcome State Fault Refusal :=
  s.lift (fun d =>
    if d.pwr.pgood && d.clk.ready.getLsbD 3 then
      (List.range 4).foldl (fun d i => d.waveCluster rs (4 * i + w.val)) d
    else d)

/-- PLL_LOCK_TIMEOUT (R411). -/
def execPllLockTimeout (k : ClusterIx) (s : State) : Host.Outcome State Fault Refusal :=
  s.lift (fun d => if (d.cluster k.val).st = 1 then d.failCluster k.val 1 else d)

/-- The reserves of a cluster that becomes ready, in the order of R161; lengths in 64 B units. -/
def Device.makeReserves (d : Device) (k : Nat) : Device :=
  let d := match d.alloc 0 k [12] 64 (1#11 <<< 6) with
    | .ok x => { x.2 with attn := { x.2.attn with windows := Tbl.put x.2.attn.windows k x.1 } }
    | .error _ => d
  let d := match d.allocReserve k 8192 with
    | some x => { x.2 with rel := { x.2.rel with saveAreas := Tbl.put x.2.rel.saveAreas k x.1 } }
    | none => d
  let kib := d.reg (key 0x7040 5)
  let d := if kib = 0 then d
           else match d.allocReserve k ((kib + 3) / 4 * 64) with
             | some x => { x.2 with rel := { x.2.rel with outliers := Tbl.put x.2.rel.outliers k x.1 } }
             | none => d
  let ps := (d.rel.packs.filter (fun p => !p.removed)).foldl (fun l p => insertPack p l) []
  ps.foldl (fun (d : Device) p =>
    match d.placePack k p.bytes with
    | none => d
    | some x =>
      let l := x.2.rel.packs.map (fun (q : Pack) =>
        if q.ident = p.ident ∧ q.version = p.version then { q with handles := Tbl.put q.handles k x.1 } else q)
      { x.2 with rel := { x.2.rel with packs := l } }) d

/-- First passes of a cluster's cores (R361). -/
def Device.schedulePasses (d : Device) (k : Nat) : Device :=
  (List.range 13).foldl (fun d j =>
    let i := k * 13 + j
    d.setHealth i { d.health i with passDue := some (d.clk.up + i * (d.reg (key 0xA000 1) * 1000000000) / 208) }) d

/-- CLUSTER_READY. -/
def execClusterReady (k : ClusterIx) (s : State) : Host.Outcome State Fault Refusal :=
  s.lift (fun d =>
    if (d.cluster k.val).st = 3 then
      let d := d.setCluster k.val { d.cluster k.val with st := 4, readyUs := (d.clk.up - d.clk.resetUp) / 1000 }
      let d := d.setClk { d.clk with resetting := d.clk.resetting &&& ~~~(1#16 <<< k.val) }
      let d := d.startPatrols k.val (clusterBanks k.val)
      let d := if (d.cluster k.val).resets = 0 then d else d.startPatrols (17 + k.val) (sliceBanks k.val)
      (((d.makeReserves k.val).schedulePasses k.val).notify 0x30 0 0x3000 1 (32 + k.val)).allSettled
    else d)

/-! ### The reference (R412) -/

/-- REFCLK_LOSS: no edge for 1 µs. -/
def execRefclkLoss (s : State) : Host.Outcome State Fault Refusal :=
  s.lift (fun d =>
    if d.clk.refOk then
      let d := (d.setClk { d.clk with refOk := false }).unready 1
      let d := (List.range 8).foldl (fun d p => d.portDown p) d.resetAll
      let d := (List.range 8).foldl (fun d p =>
        let x := d.port p
        if x.st = 1 then d.setPort p { x with st := 0 } else d) d
      ((d.err { cls := 0 } 0x30 0).notify 0x31 0 0x3002 0 1).bump (key 0x3020 1) 1
    else d)

/-- REFCLK_RESTORE: valid for 1 ms; bring-up resumes from step 3. -/
def execRefclkRestore (s : State) : Host.Outcome State Fault Refusal :=
  s.lift (fun d =>
    if d.clk.refOk then d else ((d.setClk { d.clk with refOk := true }).notify 0x31 0 0x3002 0 0).readyBit 1)

end Sys2Proof.Machine
end

