-- ==== Sys2Proof/Machine/PortCtl.lean ====
section
/-!
DEFINITION. What tenant 0 and the operators write to the fabric (12): the port records (R301, R306), the expected neighbours
(R287), the coordinate (R288), and their records as read.
-/
namespace Sys2Proof.Machine

/-! ### Port records (Tab. 12.11) -/

/-- Default transmitter settings of a port; the state holds what differs from it. -/
def txDefault (p : Nat) : Nat := if p < 4 then 0x042802 else 0

def Device.txOf (d : Device) (p : Nat) : Nat := txDefault p ^^^ (d.port p).tx

/-- A record as read. -/
def Device.portRecord (d : Device) (p : Nat) : List Byte :=
  let x := d.port p
  let b := fun (c : Bool) (n : Nat) => if c then n else 0
  wordsBytes [b x.enabled 1 + b x.mode 2 + b x.drained 4 + x.st % 8 * 8 + d.role p * 64 + b x.half 256,
    x.nbr.toNat + x.nbrPort % 8 * 2 ^ 18, d.txOf p, x.epoch]

/-- Transmitter codes within Tab. 19.4. -/
def txOk (p : Nat) (b : List Byte) : Bool :=
  let w := wordAt b 2
  !decide (p < 4) || decide (bits w 7 0 ≤ 15 ∧ bits w 15 8 ≤ 63 ∧ bits w 23 16 ≤ 15)

/-- Disables a port under its Mode (R301). -/
def Device.disablePort (d : Device) (p : Nat) : Device :=
  let x := d.port p
  let d := d.setPort p { x with enabled := false }
  if x.st = 0 ∨ x.st = 1 then d.setPort p { x with enabled := false, st := 5, drained := true }
  else if x.st = 3 ∧ x.mode = false then
    d.withRoutes (fun d => d.keepParent (fun d =>
      (d.setPort p { x with enabled := false, draining := true }).routeNotice p false))
  else d.portDown p

/-- Enables a port: it retrains once the central block runs. -/
def Device.enablePort (d : Device) (p : Nat) : Device :=
  let x := d.port p
  let d := d.setPort p { x with enabled := true, drained := false, st := if x.st = 5 then 0 else x.st }
  if x.draining then d.portDown p
  else if d.clk.ready.getLsbD 3 then d.startTraining p
  else d

/-- Takes one record's Enabled, Mode and settings. -/
def Device.writePort (d : Device) (p : Nat) (b : List Byte) : Device :=
  let en := bit (wordAt b 0) 0
  let x := d.port p
  let d := d.setPort p { x with mode := bit (wordAt b 0) 1,
                                tx := if p < 4 then txDefault p ^^^ bits (wordAt b 2) 23 0 else x.tx }
  if en && !x.enabled then d.enablePort p
  else if !en && (x.enabled || (x.draining && bit (wordAt b 0) 1)) then d.disablePort p
  else d

def runPorts (d : Device) (_r : Req) (v : List Byte) : Answer :=
  if recordsOk 8 16 v txOk then done (d.mergeRecords 8 16 v (fun d p b => d.writePort p b)) else refuse d dInvalid

def rulePorts : WriteRule := WriteRule.plain (sized 128 runPorts)

/-- PORT_RECORD_WRITE (R301). -/
def execPortRecordWrite (r : Req) (s : State) : Host.Outcome State Fault Refusal :=
  s.lift (fun d => d.write 0x4010 0 rulePorts r)

/-- PORT_DRAIN_DONE (R301): the retry buffer is empty, and the link goes down. -/
def execPortDrainDone (p : PortIx) (s : State) : Host.Outcome State Fault Refusal :=
  s.lift (fun d =>
    let x := d.port p.val
    if x.draining && x.retry.isEmpty && decide (x.waiting = 0) then d.portDown p.val else d)

/-! ### Expected neighbours (R287) -/

/-- A neighbour in the coding of 4012h.00. -/
def neighbourWord (n : Option (Coord × Nat)) : Nat :=
  match n with
  | some x => x.1.toNat + x.2 % 8 * 2 ^ 18
  | none => 2 ^ 21

def Device.expectedWord (d : Device) (p : Nat) : Nat := neighbourWord (d.expected p)

/-- An entry that is written as the table has it follows the table. -/
def Device.writeExpected (d : Device) (p : Nat) (w : Nat) : Device :=
  let w := w % 2 ^ 22
  d.modPort p (fun x => { x with expect := if w = neighbourWord (wiredTo d.fab.coord p) then none else some w })

def runExpected (d : Device) (_r : Req) (v : List Byte) : Answer :=
  done (d.mergeRecords 8 4 v (fun d p b => d.writeExpected p (wordAt b 0)))

def ruleExpected : WriteRule := WriteRule.plain (sized 32 runExpected)

/-! ### The coordinate (R288) -/

/-- A request is non-terminal, or a remote window, a lent handle or a remote frame exists. -/
def Device.coordBusy (d : Device) : Bool :=
  List.any d.serv.reqs (fun (e : Nat × ReqEnt) => e.2.live) ||
    List.any d.mem.handles (fun (e : Nat × Handle) => e.2.remote || e.2.attrs.getLsbD 8) ||
    List.any d.attn.frames (fun (e : Nat × Frame) => decide (e.2.owner ≠ d.fab.coord)) ||
    List.any d.attn.pages (fun (e : Nat × PageEnt) => e.2.e.getLsbD 0 && e.2.e.getLsbD 7)

/-- An up port repeats its hello exchange. -/
def Device.repeatHello (d : Device) (p : Nat) : Device :=
  let x := d.port p
  if 2 ≤ x.st ∧ x.st ≤ 4 then (d.setPort p { x with st := 2 }).sendHello p else d

def runCoordinate (d : Device) (_r : Req) (x : Nat) : Answer :=
  let c : Coord := BitVec.ofNat 18 x
  if cSlot c ≠ d.fab.slot.toNat ∨ 4 ≤ cSlot c then refuse d dInvalid
  else if d.coordBusy then refuse d dBusy
  else
    done (d.withRoutes (fun d => d.keepParent (fun d =>
      (List.range 8).foldl (fun d p => d.repeatHello p)
        { d with fab := { d.fab with coord := c, written := true, stepped := false } })))

def ruleCoordinate : WriteRule := WriteRule.plain (valued (key 0x4000 1) runCoordinate)

/-- The time root (R303): a device that loses its parent by it loses its lock. -/
def runTimeRoot (d : Device) (r : Req) (v : List Byte) : Answer :=
  let a := runScalar (key 0x4040 1) d r v
  if a.status = dOk then done (d.keepParent (fun _ => a.dev)) else a

def ruleTimeRoot : WriteRule := WriteRule.plain runTimeRoot

/-- COORDINATE_WRITE (R288). -/
def execCoordinateWrite (r : Req) (s : State) : Host.Outcome State Fault Refusal :=
  s.lift (fun d => d.write 0x4000 1 ruleCoordinate r)

end Sys2Proof.Machine
end

