-- ==== Sys2Proof/Machine/Serving.lean ====
section
/-!
DEFINITION. Admission (R215–R217), cancels (R220), duplicates (R222), expiry on an idle lead core (R221), retention (R212),
and the serving control records (R223).
-/
namespace Sys2Proof.Machine

/-! ### Matching entries -/

/-- The entry of a tenant and a client request ID, in any state other than FREE. -/
def Device.reqOf (d : Device) (t client : Nat) : Option (Nat × ReqEnt) :=
  List.find? (fun (e : Nat × ReqEnt) => decide (e.2.state ≠ 0 ∧ e.2.tenant = t ∧ e.2.client = client)) d.serv.reqs

/-- A replay window of the tenant records an admission with a client request ID (R216, R335). -/
def Device.admittedBefore (d : Device) (t client : Nat) : Bool :=
  List.any d.dict.keys (fun (k : Nat × KeySlot) => decide (k.2.tenant = t) &&
    k.2.window.any (fun e => decide (e.obj = key 0x6001 0 ∧ e.client = some client ∧ e.status = dOk)))

/-- The answer to a duplicate (R222): the current record, or 18h once the entry is FREE. -/
def againRecord (client : Nat) (d : Device) (r : Req) (e : WinEnt) : Nat × List Byte :=
  match d.reqOf r.tenant.toNat client with
  | some x => (e.status, d.currentRecord x.1)
  | none => (dRefused, d.bareRecord 0xFFFF 0 0x18 client)

/-- The record of a refusal in steps 3 to 5 of R327: access, or a replay. -/
def refusalRecord (client : Nat) (d : Device) (_r : Req) (st : Nat) : List Byte :=
  if st = dReplay then d.bareRecord 0xFFFF 0 0x17 client
  else if st = dCheck ∨ st = dDenied then d.bareRecord 0xFFFF 0 0x10 client
  else []

/-! ### A submission (Tab. 9.7) -/

/-- A submission record's fields. -/
structure Sub where
  inst : Nat
  kv : Nat
  prio : Nat
  context : Nat
  client : Nat
  deadline : Nat
  maxLen : Nat
  prompt : Nat
  io : Nat
  profile : Nat
  maskMode : Nat
  mask : Nat
  auto : Nat
  adapter : Nat
  seed : Nat
  deriving DecidableEq, Repr

def subOf (v : List Byte) : Sub :=
  let n := ofLe v
  let f := fun hi lo => bits n hi lo
  ⟨f 9 0, f 17 10, f 20 18, f 31 21, f 63 32, f 111 64, f 134 112, f 157 135, f 170 158, f 173 171, f 175 174, f 188 176,
   f 203 189, f 215 204, f 247 216⟩

def Device.tenantCtl (d : Device) (t : Nat) : Ctl := Tbl.get Ctl.reset d.serv.tenants t
def Device.instCtl (d : Device) (i : Nat) : Ctl := Tbl.get Ctl.reset d.serv.insts i

/-- Step 4 of R216. -/
def Device.stepFour (d : Device) (t : Nat) (u : Sub) : Option Nat :=
  if !(d.tenantCtl t).enabled || !(d.instCtl u.inst).enabled ||
      (decide (u.adapter ≠ 0) && !(d.adapter u.adapter).ctl.enabled) then some 0x15
  else
    let x := d.inst u.inst
    match d.serving? u.inst with
    | none => some 0x11
    | some s =>
      if s.home ≠ d.fab.coord ∨ (x.state ≠ 2 ∧ x.state ≠ 3) ∨ d.coreClosed u.inst u.kv = true then some 0x11
      else if (Tbl.find? d.dict.contexts u.context).map (·.1) ≠ some t then some 0x10
      else none

/-- The deadline is one R211 accepts. -/
def Device.deadlineOk (d : Device) (dl : Nat) : Bool :=
  decide (dl = noDeadline) || (!d.passed dl && decide (d.timeLeft dl ≤ 2 ^ 46))

/-- Values of Tab. 9.7 that concern no handle. -/
def Device.fieldsOk (d : Device) (t : Nat) (u : Sub) (m : Maq) (s : ServInfo) : Bool :=
  let top := match m.kv[u.kv]? with | some c => c.maxLen | none => 4194304
  let kvOk := if m.kv.isEmpty && !s.generates then decide (u.kv = 0) else decide (u.kv < m.kv.length)
  let a := d.adapter u.adapter
  kvOk && decide (1 ≤ u.maxLen ∧ u.maxLen ≤ top ∧ 1 ≤ u.prompt ∧ u.prompt ≤ u.maxLen) &&
    (if s.generates then decide (u.prompt < u.maxLen) else decide (u.prompt = u.maxLen)) &&
    decide (u.maskMode ≠ 3 ∧ (u.maskMode ≠ 0 → s.generates = true)) && d.deadlineOk u.deadline &&
    (decide (u.adapter = 0) || decide (a.bound = true ∧ a.tenant = t ∧ a.inst = u.inst ∧ a.cur ≠ 0))

/-- The handles a submission names: access, then size and R226's check. -/
def Device.handlesFault (d : Device) (t : Nat) (u : Sub) (s : ServInfo) : Option Nat × Device :=
  let need := if s.generates then 64 + 4 * u.maxLen else 64
  match d.handle? u.io with
  | none => (some 0x10, d)
  | some h =>
    if h.tenant ≠ t ∨ h.remote = true ∨ h.allows t false = false ∨ h.allows t true = false then (some 0x10, d)
    else if h.bytes < need then (some 0x12, d)
    else if u.maskMode = 0 then (none, d)
    else
      match d.handle? u.mask with
      | none => (some 0x10, d)
      | some k =>
        if k.allows t false = false then (some 0x10, d)
        else if u.maskMode = 1 then
          (if k.reach < ceilDiv s.vocab 8 then some 0x12 else none, d)
        else
          let a := d.autoOk u.mask s.vocab u.auto
          (if a.1 then none else some 0x12, a.2)

/-- The entry an accepted submission leaves. -/
def Sub.entry (u : Sub) (t counter pin : Nat) : ReqEnt :=
  { ReqEnt.free with
    state := rsQueued, prio := u.prio, tenant := t, context := u.context, profile := u.profile, client := u.client,
    counter := counter, deadline := u.deadline, inst := u.inst, kvClass := u.kv, maxLen := u.maxLen, prompt := u.prompt,
    pin := pin, maskMode := u.maskMode, maskHandle := u.mask, autoState := u.auto, io := u.io, seed := u.seed }

/-- Steps 4 to 7 of R216 for a submission that has slot `slot`. -/
def Device.admitFault (d : Device) (t slot : Nat) (u : Sub) : Option Nat × Device :=
  match d.stepFour t u with
  | some c => (some c, d)
  | none =>
    match (d.inst u.inst).maq with
    | none => (some 0x11, d)
    | some m =>
      let s := m.extra.serving
      if !d.fieldsOk t u m s then (some 0x12, d)
      else
        match d.handlesFault t u s with
        | (some c, d) => (some c, d)
        | (none, d) =>
          if (d.limits t).requests ≤ d.reqUse t then (some 0x13, d)
          else if d.boundExceeds slot (u.entry t 0 0) s then (some 0x04, d)
          else (none, d)

/-- A sampled request: one in every 7050h.01 admitted requests of an instance (R85). -/
def Device.sampleAdmit (d : Device) (i : Nat) : Bool × Device :=
  let n := Tbl.get 0 d.cast.sampledSince i + 1
  let every := match d.serving? i with | some s => d.policy s.lead.val (key 0x7050 1) | none => d.reg (key 0x7050 1)
  let hit := decide (every ≠ 0 ∧ every ≤ n)
  (hit, { d with cast := { d.cast with sampledSince := Tbl.set 0 d.cast.sampledSince i (if hit then 0 else n) } })

/-- Step 8 of R216. -/
def Device.takeRequest (d : Device) (r : Req) (slot : Nat) (u : Sub) : Device :=
  let pin := if u.adapter = 0 then 0 else (d.adapter u.adapter).cur
  let d := if pin = 0 then d else d.setVersion pin { d.version pin with pins := (d.version pin).pins + 1 }
  let d := d.setReq slot (u.entry r.tenant.toNat r.counter.toNat pin)
  let h := d.sampleAdmit u.inst
  (h.2.setAux slot { ReqAux.free with car := r.carrier, source := reqSrc r, tag := r.tag, sampled := h.1 }).bump (key 0x6010 1) 1

/-- A refusal of a submission with its record. -/
def refuseSub (d : Device) (slot state code client : Nat) : Answer :=
  ⟨dRefused, d.bareRecord slot state code client, (d.bump (key 0x6010 2) 1).bump (key 0x6010 3) (if code = 4 then 1 else 0)⟩

/-- The refusal 16h names the terminal entry that matches. -/
def refuseInUse (d : Device) (e : Option (Nat × ReqEnt)) (client : Nat) : Answer :=
  match e with
  | some x =>
    if x.2.live then refuseSub d 0xFFFF 0 0x16 client
    else ⟨dRefused, d.recordOf x.1 0x16 d.time32, d.bump (key 0x6010 2) 1⟩
  | none => refuseSub d 0xFFFF 0 0x16 client

/-- The write of 6001h.00 (R216). -/
def runSubmit (d : Device) (r : Req) (v : List Byte) : Answer :=
  let t := r.tenant.toNat
  let u := subOf v
  let e := d.reqOf t u.client
  if e.isSome || d.admittedBefore t u.client then refuseInUse d e u.client
  else
    match lowestFree (Tbl.keys d.serv.reqs) 65536 0 with
    | none => refuseSub d 0xFFFF 0 0x14 u.client
    | some slot =>
      match d.admitFault t slot u with
      | (some c, d) => refuseSub d slot 1 c u.client
      | (none, d) =>
        let d := d.takeRequest r slot u
        ⟨dOk, d.currentRecord slot, d⟩

def ruleSubmit : WriteRule :=
  { auth := fun _ _ => true, run := sized 64 runSubmit,
    refusal := fun d r st => refusalRecord (leAt r.payload 4 4) d r st,
    again := fun d r e => againRecord (leAt r.payload 4 4) d r e }

/-- Every idle lead core looks for a round (R107, R209). -/
def Device.kickAll (d : Device) : Device := (d.cast.insts.map (·.1)).foldl (fun d i => d.kick i) d

/-- SUBMIT (R216). -/
def execSubmit (r : Req) (s : State) : Host.Outcome State Fault Refusal :=
  s.lift (fun d => (d.write 0x6001 0 ruleSubmit r).kickAll)

/-! ### Cancels (R220) -/

def runCancel (d : Device) (r : Req) (client : Nat) : Answer :=
  let t := r.tenant.toNat
  match d.reqOf t client with
  | none => ⟨dRefused, d.bareRecord 0xFFFF 0 (if d.admittedBefore t client then 0x18 else 0x19) client, d⟩
  | some x =>
    if !x.2.live then ⟨dOk, d.currentRecord x.1, d⟩
    else
      let d := if (d.aux x.1).inRound then d.setReq x.1 { x.2 with cancel := true } else d.endReq x.1 rsCancelled 0x02
      ⟨dOk, d.currentRecord x.1, d⟩

def ruleCancel : WriteRule :=
  { auth := fun _ _ => true, run := valued (key 0x6002 0) runCancel,
    refusal := fun d r st => refusalRecord (leAt r.payload 0 4) d r st,
    again := fun d r e => againRecord (leAt r.payload 0 4) d r e }

/-- CANCEL (R220). -/
def execCancel (r : Req) (s : State) : Host.Outcome State Fault Refusal :=
  s.lift (fun d => d.write 0x6002 0 ruleCancel r)

/-! ### Expiry and retention -/

/-- DEADLINE_PASS (R221): rows 4 to 6 on an idle lead core whose instance has no round. -/
def execDeadlinePass (slot : BitVec 16) (s : State) : Host.Outcome State Fault Refusal :=
  s.lift (fun d =>
    let r := d.req slot.toNat
    match d.serving? r.inst with
    | none => d
    | some s =>
      let idle := d.coreUp s.lead.val && decide ((d.core s.lead.val).seq.phase = .idle)
      if !r.live || decide (r.deadline = noDeadline) || (Tbl.find? d.serv.rounds r.inst).isSome || !idle then d
      else
        let d := if d.passed r.deadline then d else d.advance (d.timeLeft r.deadline)
        (d.instReqs r.inst).foldl (fun d e => d.settleIdle s e.1) d)

/-- Some frame of a request is not yet released: one here, or one another device was asked for and has not been told to
release. -/
def Device.framesHeld (d : Device) (slot : Nat) : Bool :=
  d.attn.asked.any (fun a => a.isOf d.fab.coord slot) || d.attn.frames.any (fun f => decide (f.2.owner = d.fab.coord ∧ f.2.slot = slot) && !f.2.releasing)

/-- RETENTION_EXPIRY (R212). -/
def execRetentionExpiry (slot : BitVec 16) (s : State) : Host.Outcome State Fault Refusal :=
  s.lift (fun d =>
    let n := slot.toNat
    let r := d.req n
    if r.state < rsDone ∨ d.framesHeld n = true then d
    else
      let d := d.reach ((d.aux n).sent + d.reg (key 0x6000 2) * 1000000)
      (d.setReq n ReqEnt.free).setAux n ReqAux.free)

/-! ### Control records (R223, R234) -/

/-- Enabled and Mode of a record's first word. -/
def ctlOf (b : List Byte) : Ctl := ⟨bit (wordAt b 0) 0, bit (wordAt b 0) 1⟩

/-- One tenant's record: a tenant writes its own, the limit by tenant 0 alone. -/
def Device.writeTenantCtl (d : Device) (by_ t : Nat) (b : List Byte) : Device :=
  if by_ ≠ 0 ∧ by_ ≠ t then d
  else
    let c := ctlOf b
    let d := { d with serv := { d.serv with tenants := Tbl.set Ctl.reset d.serv.tenants t c } }
    let d := if by_ = 0 then d.setLimits t { d.limits t with requests := bits (wordAt b 0) 31 16 } else d
    if !c.enabled && c.mode then d.fenceAll (fun r => decide (r.tenant = t)) else d

def runTenantServing (d : Device) (r : Req) (v : List Byte) : Answer :=
  done (d.mergeRecords 512 8 v (fun d t b => d.writeTenantCtl r.tenant.toNat t b))

def ruleTenantServing : WriteRule := WriteRule.plain (sized 4096 runTenantServing)

/-- TENANT_SERVING_WRITE (R223). -/
def execTenantServingWrite (r : Req) (s : State) : Host.Outcome State Fault Refusal :=
  s.lift (fun d => d.write 0x6004 0 ruleTenantServing r)

/-- The writer may change an instance's records: tenant 0, or the instance's tenant. -/
def Device.ownsInstance (d : Device) (t i : Nat) : Bool :=
  decide (t = 0) || (decide ((d.inst i).state ≠ 0) && decide ((d.inst i).tenant = t))

/-- Enabled and Mode of an instance, with what a disable does. -/
def Device.writeInstCtl (d : Device) (i : Nat) (c : Ctl) : Device :=
  let d := d.setCtlI i c
  if !c.enabled && c.mode then d.fenceInst i else d

def runInstServing (d : Device) (r : Req) (v : List Byte) : Answer :=
  done (d.mergeRecords 1024 8 v (fun d i b => if d.ownsInstance r.tenant.toNat i then d.writeInstCtl i (ctlOf b) else d))

def ruleInstServing : WriteRule := WriteRule.plain (sized 8192 runInstServing)

/-- INSTANCE_SERVING_WRITE (R223). -/
def execInstanceServingWrite (r : Req) (s : State) : Host.Outcome State Fault Refusal :=
  s.lift (fun d => d.write 0x6006 0 ruleInstServing r)

/-- One expert's byte: FENCE fails the requests whose tokens the running round has routed to it. -/
def Device.writeExpert (d : Device) (k : Nat) (b : Byte) : Device :=
  let d := { d with serv := { d.serv with experts := Tbl.set 1 d.serv.experts k (b.toNat % 4) } }
  if b.getLsbD 0 || !b.getLsbD 1 then d
  else
    match Tbl.find? d.serv.rounds (k / 256) with
    | none => d
    | some r => (r.routed.filter (fun x => decide (x.1 = k % 256))).foldl (fun d x => d.fenceReq x.2) d

def runExperts (d : Device) (r : Req) (v : List Byte) : Answer :=
  done ((v.zipIdx).foldl (fun d b =>
    if decide (Tbl.get 1 d.serv.experts b.2 ≠ b.1.toNat % 4) && d.ownsInstance r.tenant.toNat (b.2 / 256)
    then d.writeExpert b.2 b.1 else d) d)

def ruleExperts : WriteRule := WriteRule.plain (sized 262144 runExperts)

/-- EXPERT_CONTROL_WRITE (R223). -/
def execExpertControlWrite (r : Req) (s : State) : Host.Outcome State Fault Refusal :=
  s.lift (fun d => d.write 0x6030 0 ruleExperts r)

/-! ### A remote allocation is answered (R184) -/

/-- REMOTE_FRAME_ANSWER (R184): the request may be chosen again. -/
def execRemoteFrameAnswer (slot : BitVec 16) (stream : Fin 8) (page : BitVec 11) (far : Option (BitVec 19)) (s : State) :
    Host.Outcome State Fault Refusal :=
  s.lift (fun d => (d.frameAnswered slot.toNat stream page.toNat far).kick (d.req slot.toNat).inst)

end Sys2Proof.Machine
end

