-- ==== Sys2Proof/Machine/Replicas.lean ====
section
/-!
DEFINITION. Replica digests (16): replica sets (R374), scans (R375), what a member does after one (R376).
-/
namespace Sys2Proof.Machine

/-! ### Local digests (R260, R374) -/

/-- An engine's share of a digest, read from its cells in logical form. -/
def Engine.digestBytes (e : Engine) (width : Nat) : List Byte :=
  (List.range 256).flatMap (fun r => leBytes 128 (e.rowLog r)) ++ scaleCodes e.scales (widthOut width)

/-- Core and position of the local engines of a layer, in digest order. -/
def Device.localKeys (d : Device) (m : Maq) (l : LayerEnt) : List (Nat × Nat) := (m.layerKeys l).filterMap (d.localEng m)

/-- The local digest of a layer; none when it has no local placement. -/
def Device.localDigest (d : Device) (m : Maq) (l : LayerEnt) : Option (List Byte) :=
  let ks := d.localKeys m l
  if ks.isEmpty then none
  else some (sha256 (digestHead l ++ ks.flatMap (fun k => (d.engine k.1 (d.physAt k.1 k.2)).digestBytes l.width)))

/-- Local digests by layer. -/
def Device.localDigests (d : Device) (i : Nat) : List (Nat × List Byte) :=
  match (d.inst i).maq with
  | none => []
  | some m => m.layers.filterMap (fun l => (d.localDigest m l).map (fun b => (l.layer, b)))

/-- Every placement of a layer lies on this device. -/
def Device.allLocal (d : Device) (i l : Nat) : Bool :=
  match (d.inst i).maq with
  | none => false
  | some m =>
    match m.layers[l]? with
    | none => false
    | some e => (m.placesOf e).all (fun p => decide (p.dev = d.fab.coord))

/-! ### Replica sets (A040h.00) -/

def ascending : List Nat → Bool
  | a :: b :: r => decide (a < b) && ascending (b :: r)
  | _ => true

def replicaOk (_i : Nat) (b : List Byte) : Bool :=
  let n := bits (wordAt b 0) 3 0
  decide (n ≤ 8) && ascending ((List.range n).map (fun k => bits (wordAt b (1 + k)) 17 0))

/-- An entry as it reads: reserved bits 0 (R2). -/
def replicaRead (b : List Byte) : List Byte :=
  wordsBytes ([wordAt b 0 % 2 ^ 5] ++ (List.range 8).map (fun k => wordAt b (1 + k) % 2 ^ 18) ++ List.replicate 7 0)

def Device.writeReplica (d : Device) (i : Nat) (b : List Byte) : Device :=
  let n := bits (wordAt b 0) 3 0
  let ms : List Coord := (List.range n).map (fun k => BitVec.ofNat 18 (wordAt b (1 + k)))
  let x := d.replica i
  let on := bit (wordAt b 0) 4
  let r := replicaRead b
  d.setReplica i { x with members := ms, enabled := on, raw := if r.all (fun y => decide (y = 0)) then [] else r }

def runReplicaSets (d : Device) (_r : Req) (v : List Byte) : Answer :=
  if recordsOk 1024 64 v replicaOk then done (d.mergeRecords 1024 64 v (fun d i b => d.writeReplica i b))
  else refuse d dInvalid

def ruleReplicaSets : WriteRule := WriteRule.plain (sized 65536 runReplicaSets)

/-! ### Scans (R375) -/

/-- The device is a member of an enabled set of a ready instance. -/
def Device.scans (d : Device) (i : Nat) : Bool :=
  let x := d.replica i
  x.enabled && x.members.contains d.fab.coord && decide ((d.inst i).state = 2)

/-- REPLICA_SCAN_START: A040h.01 rounds have passed since the latest one. -/
def execReplicaScanStart (inst : BitVec 10) (s : State) : Host.Outcome State Fault Refusal :=
  s.lift (fun d =>
    let i := inst.toNat
    let x := d.replica i
    let n := Tbl.get 0 d.serv.roundCount i
    if d.scans i && x.scanning.isNone && decide (x.roundsAt + d.reg (key 0xA040 1) ≤ n) then
      d.setReplica i { x with scanning := some d.clk.up, roundsAt := n }
    else d)

/-- REPLICA_SCAN_TIMEOUT. -/
def execReplicaScanTimeout (inst : BitVec 10) (s : State) : Host.Outcome State Fault Refusal :=
  s.lift (fun d =>
    match (d.replica inst.toNat).scanning with
    | none => d
    | some t => (d.reach (t + d.reg (key 0xA040 3) * 1000000000)).dropScan inst.toNat)

/-- REPLICA_DIGEST_RECEIVE: the latest digests of each other member are kept. -/
def execReplicaDigestReceive (inst : BitVec 10) (m : DigestMsg) (s : State) : Host.Outcome State Fault Refusal :=
  s.lift (fun d =>
    let i := inst.toNat
    let x := d.replica i
    if x.members.contains m.member && decide (m.member ≠ d.fab.coord) then
      d.setReplica i { x with latest := x.latest.filter (fun y => decide (y.member ≠ m.member)) ++ [m] }
    else d)

/-! ### What a member does (R376) -/

/-- A member expels its own instance: Enabled clears under the record's Mode. -/
def Device.expel (d : Device) (i l : Nat) : Device :=
  let c := d.instCtl i
  if !c.enabled then d
  else
    let t := (d.inst i).tenant
    let d := (d.writeInstCtl i { c with enabled := false }).err { cls := 0, tenant := t } 0x1D 1
    (d.notify 0x13 t 0x6006 0 i l).bump (key 0xA041 2) 1

/-- How many of the compared members carry a digest. -/
def votes (vs : List (List Byte)) (b : List Byte) : Nat := (vs.filter (fun v => decide (v = b))).length

/-- The digests of a layer that are compared: those of members of this generation, at most A040h.03 old. -/
def Device.compared (d : Device) (i l : Nat) : List (List Byte) :=
  ((d.replica i).latest.filter (fun m =>
    decide (m.generation.toNat = (d.inst i).gen % 2 ^ 32) && (d.replica i).members.contains m.member &&
      decide (d.clk.time.toNat - m.time.toNat ≤ d.reg (key 0xA040 3) * 1000000000))).filterMap
    (fun m => (m.digests.find? (fun e => decide (e.1 = l))).map (·.2))

/-- One layer of the comparison. -/
def Device.judgeLayer (d : Device) (i l : Nat) (own : List Byte) : Device :=
  let t := (d.inst i).tenant
  let rec_ := Tbl.find? (d.inst i).digests l
  let d := if d.allLocal i l && decide (rec_ ≠ some own) then
      ((d.err { cls := 0, tenant := t } 0x1E 0).notify 0x14 t 0x7020 0 i l).expel i l
    else d
  let vs := own :: d.compared i l
  if vs.all (fun v => decide (v = own)) then d
  else if 2 * votes vs own > vs.length then d.err { cls := 0, tenant := t } 0x1D 0
  else if vs.any (fun v => decide (2 * votes vs v > vs.length)) then d.expel i l
  else (d.err { cls := 0, tenant := t } 0x1D 0).notify 0x12 t 0xA040 0 i l

/-- REPLICA_SCAN_DONE: local digests are sent to the other members and compared. -/
def execReplicaScanDone (inst : BitVec 10) (s : State) : Host.Outcome State Fault Refusal :=
  s.lift (fun d =>
    let i := inst.toNat
    let x := d.replica i
    if x.scanning.isNone then d
    else
      let mine := d.localDigests i
      let m : DigestMsg := ⟨d.fab.coord, BitVec.ofNat 32 (d.inst i).gen, d.clk.time, mine⟩
      let d := d.setReplica i { x with scanning := none, mine := mine, mineAt := d.clk.time.toNat }
      let d := (x.members.filter (fun c => decide (c ≠ d.fab.coord))).foldl (fun d c => d.send (.digests c i m)) d
      mine.foldl (fun d y => d.judgeLayer i y.1 y.2) (d.bump (key 0xA041 1) 1))

end Sys2Proof.Machine
end

