-- ==== Sys2Proof/Machine/SideTap.lean ====
section
/-!
DEFINITION. The sideband's PHY (R422, R429) and the TAP (R423). The order of the lands in the boundary register is the
model's (log 34).
-/
namespace Sys2Proof.Machine

/-! ### Sideband -/

def Device.setSide (d : Device) (x : SideS) : Device := { d with side := x }

/-- PLCA_BEACON: what was written to 4060h.02 and .03 takes effect; the PHY is a follower. -/
def execPlcaBeacon (s : State) : Host.Outcome State Fault Refusal :=
  s.lift (fun d => d.setSide { carrier := true, beacon := true, active := true, burst := d.reg (key 0x4060 2),
                               timer := d.reg (key 0x4060 3) })

/-- SIDEBAND_CARRIER_CHANGE: without carrier there is no beacon and no PLCA. -/
def execSidebandCarrierChange (on : Bool) (s : State) : Host.Outcome State Fault Refusal :=
  s.lift (fun d => d.setSide { d.side with carrier := on, beacon := d.side.beacon && on, active := d.side.active && on })

/-- 4060h.04. -/
def SideS.status (x : SideS) : Nat :=
  (if x.carrier then 1 else 0) + (if x.beacon then 2 else 0) + (if x.active then 4 else 0)

/-! ### TAP -/

/-- IDCODE (R423): stepping, part code 6144h, manufacturer identity, 1. -/
def idcode (stepping : Nat) : Nat := stepping % 16 * 2 ^ 28 + 0x6144 * 2 ^ 12 + 9 * 2 ^ 8 + 0x2D * 2 + 1

/-- The levels of the slow signal lands in the model's order: RST_N, PGOOD, ALERT_N, THERM_TRIP_N, SLOT[2:0], STRAP_REF,
PS_SYNC, whose level of the moment `ps` is no state of the block. -/
def Device.lands (d : Device) (rstLow ps : Bool) : Nat :=
  let b := fun (x : Bool) (n : Nat) => if x then 2 ^ n else 0
  b (!rstLow) 0 + b d.pwr.pgood 1 + b (!d.alertLow) 2 + b (!d.pwr.trip) 3 + d.fab.slot.toNat * 16 + b true 7 + b ps 8

/-- Lands of the boundary register. -/
def landCount : Nat := 9

/-- Captures the lands and takes in a value. -/
def Device.boundary (d : Device) (rstLow : Bool) (ir : Nat) (v : BitVec 16) : Device :=
  let f := d.fresh
  { f.2.send (.tap landCount (f.2.lands rstLow (f.1.getLsbD 0))) with tap := ⟨ir, v⟩ }

/-- The one-bit bypass register. -/
def Device.bypass (d : Device) : Device := { d.send (.tap 1 0) with tap := { d.tap with ir := 0 } }

/-- The TAP acts while the standby domain has power, whatever RST_N. -/
def State.viaTap (s : State) (f : Device → Device) : Host.Outcome State Fault Refusal :=
  s.always (fun d => if s.sup.standby then f d else d)

def execTapBypass (s : State) : Host.Outcome State Fault Refusal := s.viaTap (fun d => d.bypass)

def execTapIdcode (s : State) : Host.Outcome State Fault Refusal :=
  s.viaTap (fun d => { d.send (.tap 32 (idcode Config.stepping.toNat)) with tap := { d.tap with ir := 1 } })

def execTapSamplePreload (v : BitVec 16) (s : State) : Host.Outcome State Fault Refusal := s.viaTap (fun d => d.boundary s.sup.rstLow 2 v)

/-- TAP_EXTEST: the lands are driven from the boundary register. -/
def execTapExtest (v : BitVec 16) (s : State) : Host.Outcome State Fault Refusal := s.viaTap (fun d => d.boundary s.sup.rstLow 3 v)

/-- TAP_PRIVATE: after a diagnostic unlock the spec gives a private instruction no effect (R355, R423). -/
def execTapPrivate (code : BitVec 8) (s : State) : Host.Outcome State Fault Refusal :=
  if s.dev.sec.unlocked && s.sup.standby then .refused (.privateTap code.toNat) else s.viaTap (fun d => d.bypass)

end Sys2Proof.Machine
end

