-- ==== Sys2Proof/Machine/Values.lean ====
section
/-!
DEFINITION. What a READ of each object delivers (20 Tab. 20.2): the record DOMAINs of every chapter, as the reader's tenant
may see them (R434), and the scalars that other state gives.
-/
namespace Sys2Proof.Machine

/-! ### Pieces -/

def bitIf (b : Bool) (n : Nat) : Nat := if b then 2 ^ n else 0

/-- Records 0 to n − 1. -/
def recs (n : Nat) (f : Nat → List Byte) : List Byte := (List.range n).flatMap f

/-- A record as its reader sees it: another tenant's reads as zeros (R434). -/
def seen (t owner w : Nat) (b : List Byte) : List Byte := if t = 0 ∨ t = owner then b else List.replicate w 0#8

def f32Bytes (x : F32) : List Byte := leBytes 4 x.toNat

/-- Number of entries that meet a condition. -/
def countIn {α : Type} (t : Tbl α) (p : α → Bool) : Nat := (t.filter (fun e => p e.2)).length

/-! ### 05, 07, 08 -/

/-- State code of Tab. 5.5. -/
def Device.coreState (d : Device) (c : Nat) : Nat :=
  let k := d.cluster (c / 12)
  let x := d.core c
  if (d.health (anyOfCore c)).retired then 7
  else if !k.ready || k.coresFailed.getLsbD (c % 12) then 6
  else
    match x.seq.phase with
    | .calSlice => 4
    | .testSlice => 4
    | .plinth => 5
    | .markPause => 2
    | .idle => 0
    | .ready => 0
    | .drain => 1
    | .running => if d.pausedAt c d.cyc then 2 else if x.seq.wait.isSome then 3 else 1

/-- A core state record (Tab. 5.5). -/
def Device.coreRecord (d : Device) (c : Nat) : List Byte :=
  let q := (d.core c).seq
  let run := decide (q.phase = .running ∨ q.phase = .drain)
  wordsBytes [c / 12 + c % 12 * 16 + d.coreState c * 256, if run then q.plan.ident.toNat else 0,
    min (2 ^ 32 - 1) (d.core c).aux.committed, if run then min (2 ^ 32 - 1) (d.cyc - q.start) else 0]

/-- A scoreboard entry in use (Tab. 5.3). -/
def SbEntry.bytes (e : SbEntry) : List Byte :=
  wordsBytes [(if e.rng.engineSpace then 2 ^ 13 else e.handle) + bitIf e.rng.reads 14 + bitIf e.rng.writes 15 +
      e.agent % 4 * 2 ^ 16 + 2 ^ 18, e.offset, e.rng.len, e.start % 2 ^ 32]

/-- The 32 entries of a core. -/
def Device.boardRecord (d : Device) (c : Nat) : List Byte :=
  let es := ((d.core c).seq.board.filter (fun e => e.busy d.cyc)).take 32
  es.flatMap SbEntry.bytes ++ List.replicate (16 * (32 - es.length)) 0#8

/-- A quota record (Tab. 7.5). -/
def Device.quotaRecord (d : Device) (t : Nat) : List Byte :=
  let u := d.handleUse t
  let l := d.limits t
  wordsBytes [l.handles + u.1 * 65536, l.bytes, u.2, countIn d.mem.handles (fun h => decide (h.tenant = t) && h.bad)]

def Device.handleRecord (d : Device) (h : Nat) : Nat × List Byte :=
  match Tbl.find? d.mem.handles h with
  | some x => (x.tenant, x.bytesOf)
  | none => (0, List.replicate 16 0#8)

/-- 8011h.00. -/
def Device.badRegions (d : Device) : List Byte :=
  (List.filter (fun (e : Nat × Handle) => e.2.bad) d.mem.handles).flatMap (fun e => leBytes 2 e.1 ++ leBytes 2 e.2.tenant)

/-- Bytes that frames take, and bytes of the KV pools. -/
def Device.frameBytesUsed (d : Device) : Nat := 64 * (d.attn.frames.map (fun e => e.2.rows)).sum
def Device.poolBytes (d : Device) : Nat :=
  64 * ((List.range 48).map (fun i => ((d.pools (i / 3) (i % 3)).map (·.2)).sum)).sum

def Device.pageWord (d : Device) (e : Nat) : List Byte :=
  match Tbl.find? d.attn.pages e with
  | some p => leBytes 8 p.e.toNat
  | none => leBytes 8 0

/-! ### 09 -/

/-- A request entry (Tab. 9.2). -/
def ReqEnt.record (r : ReqEnt) : List Byte :=
  let pages := (r.pages.zipIdx).foldl (fun n p => n + p.1 % 2 ^ 19 * 2 ^ (19 * p.2)) 0
  leBytes 64 (r.state + r.prio * 2 ^ 4 + r.tenant * 2 ^ 7 + r.context * 2 ^ 16 + r.profile * 2 ^ 27 + bitIf r.cancel 30 +
    bitIf r.degraded 31 + r.client * 2 ^ 32 + r.counter * 2 ^ 64 + r.deadline * 2 ^ 128 + r.inst * 2 ^ 176 +
    r.kvClass * 2 ^ 186 + bitIf r.empty 194 + bitIf r.restarted 195 + r.len * 2 ^ 196 + r.maxLen * 2 ^ 219 +
    r.prompt * 2 ^ 242 + r.status * 2 ^ 265 + pages * 2 ^ 273 + r.pin * 2 ^ 425 + r.maskMode * 2 ^ 437 +
    r.maskHandle * 2 ^ 439 + r.autoState * 2 ^ 452 + r.io * 2 ^ 467 + r.seed * 2 ^ 480)

/-- Non-terminal requests that meet a condition. -/
def Device.liveCount (d : Device) (p : ReqEnt → Bool) : Nat := countIn d.serv.reqs (fun r => r.live && p r)

/-- A serving control record (Tab. 9.10). -/
def ctlRecord (c : Ctl) (limit use : Nat) : List Byte :=
  wordsBytes [bitIf c.enabled 0 + bitIf c.mode 1 + bitIf (!c.enabled && decide (use = 0)) 2 + limit * 65536, use]

def Device.tenantServing (d : Device) (t : Nat) : List Byte :=
  ctlRecord (Tbl.get Ctl.reset d.serv.tenants t) (d.limits t).requests (d.liveCount (fun r => decide (r.tenant = t)))

def Device.instServing (d : Device) (i : Nat) : List Byte :=
  ctlRecord (Tbl.get Ctl.reset d.serv.insts i) 0 (d.liveCount (fun r => decide (r.inst = i)))

def Device.profileRecord (d : Device) (k : Nat) : List Byte :=
  let p := Tbl.get Profile.reset d.serv.profiles k
  wordsBytes [p.temp.toNat, p.topP.toNat, p.w2, p.endTok]

/-- A profile's values lie in their ranges (Tab. 9.12). -/
def profileOk (b : List Byte) : Bool :=
  let t : F32 := BitVec.ofNat 32 (wordAt b 0)
  let p : F32 := BitVec.ofNat 32 (wordAt b 1)
  !f32IsNaN t && (f32IsZero t || (f32Le 0x3B800000#32 t && f32Le t 0x43800000#32)) &&
    !f32IsNaN p && f32Lt 0#32 p && f32Le p f32One && decide (bits (wordAt b 2) 10 0 ≤ 1024)

/-- 6020h.00: a tenant writes its own eight profiles (R227, R234). -/
def runProfiles (d : Device) (r : Req) (v : List Byte) : Answer :=
  let w := r.tenant.toNat
  let may := fun (i : Nat) => decide (w = 0 ∨ i / 8 = w)
  if recordsOk 4096 16 v (fun i b => !may i || profileOk b) then
    done (d.mergeRecords 4096 16 v (fun d i b =>
      if may i then
        let p : Profile := ⟨BitVec.ofNat 32 (wordAt b 0), BitVec.ofNat 32 (wordAt b 1), bits (wordAt b 2) 11 0, wordAt b 3⟩
        { d with serv := { d.serv with profiles := Tbl.set Profile.reset d.serv.profiles i p } }
      else d))
  else refuse d dInvalid

def ruleProfiles : WriteRule := WriteRule.plain (sized 65536 runProfiles)

/-- 8026h.00: the KV limits of tenants. -/
def runKvLimits (d : Device) (_r : Req) (v : List Byte) : Answer :=
  done (d.mergeRecords 512 8 v (fun d t b => d.setLimits t { d.limits t with kv := wordAt b 0 }))

def ruleKvLimits : WriteRule := WriteRule.plain (sized 4096 runKvLimits)

/-! ### 04, 11 -/

/-- Cast instances in ascending order. -/
def Device.castInsts (d : Device) : List (Nat × Inst) :=
  List.filter (fun (e : Nat × Inst) => decide (e.2.state ≠ 0) && e.2.maq.isSome) d.cast.insts

def Inst.layerCount (x : Inst) : Nat := match x.maq with | some m => m.layers.length | none => 0

/-- A layer precision record (Tab. 4.7). -/
def Device.precisionRecord (d : Device) (i l : Nat) : List Byte :=
  let r := d.layerRec i l
  let sat := fun (n : Nat) => min (2 ^ 32 - 1) n
  wordsBytes [l + r.cap * 65536 + bitIf (decide (d.reg (key 0x7058 2) ≤ r.samples)) 23, sat r.burst, sat r.ovr, r.mu.toNat,
    r.sigma.toNat, r.last.toNat, min 65535 r.events + min 65535 r.raises * 65536, 0]

def Device.precisionRecords (d : Device) : List Byte :=
  d.castInsts.flatMap (fun e => recs e.2.layerCount (fun l => d.precisionRecord e.1 l))

def Device.comparisonRecords (d : Device) : List Byte :=
  d.cast.comparisons.flatMap (fun e =>
    wordsBytes [e.1 % 4096, e.1 / 4096] ++ f32Bytes e.2.1 ++ f32Bytes e.2.2)

/-- An instance record (Tab. 11.6). -/
def Inst.record (x : Inst) : List Byte :=
  wordsBytes [x.state + x.tenant * 8 + x.cls * 2 ^ 12 + bitIf x.policy 14 + x.status * 65536, x.layers + x.front * 65536, x.gen,
    x.maqH]

def Device.layerDigests (d : Device) : List Byte :=
  d.castInsts.flatMap (fun e => recs e.2.layerCount (fun l => bytesAt (Tbl.get [] e.2.digests l) 0 32))

def Device.regionRecords (d : Device) : List Byte :=
  d.cast.regions.flatMap (fun e =>
    leBytes 2 e.1 ++ leBytes 2 e.2.inst ++ leBytes 1 e.2.kind ++ leBytes 3 0 ++ bytesAt e.2.digest 0 32)

/-- A KV class as it reads (Tab. 8.2, 8.3): reserved bits 0 (R2), and 0 for the streams it has not (log 165). -/
def kvRead (b : List Byte) : List Byte :=
  let w := wordAt b
  wordsBytes ([w 0 % 2 ^ 12, w 1 % 2 ^ 23, w 2 % 2 ^ 18, w 3 % 2 ^ 12] ++ (List.range 8).flatMap (fun s =>
    let w := fun i => wordAt b (4 + 4 * s + i)
    if s ≤ bits (wordAt b 0) 10 8 then [w 0 % 2 ^ 22, w 1 % 2 ^ 23, w 2 % 2 ^ 22, w 3 % 2 ^ 16] else [0, 0, 0, 0]))

def Device.kvRecords (d : Device) : List Byte :=
  d.castInsts.flatMap (fun e => match e.2.maq with | some m => m.kv.flatMap (fun k => kvRead k.raw) | none => [])

/-- An adapter's record and a version slot's (Tab. 11.9). -/
def Device.adapterRecord (d : Device) (n : Nat) : Nat × List Byte :=
  let a := Tbl.get Adapter.reset d.cast.adapters n
  let pins := ((List.filter (fun (e : Nat × Version) => decide (e.2.adapter = n)) d.cast.versions).map (·.2.pins)).sum
  (a.tenant, wordsBytes [bitIf a.ctl.enabled 0 + bitIf a.ctl.mode 1 + bitIf (!a.ctl.enabled && decide (pins = 0)) 2 +
    bitIf a.bound 3 + a.cur * 65536, a.inst + a.tenant * 2 ^ 10, pins, 0])

def Device.versionRecord (d : Device) (n : Nat) : Nat × List Byte :=
  let v := d.version n
  ((Tbl.get Adapter.reset d.cast.adapters v.adapter).tenant,
   wordsBytes [v.adapter + v.st * 2 ^ 12 + v.rank * 2 ^ 14, v.pins, v.alpha.toNat, v.nu.toNat])

/-! ### 12, 13, 14 -/

/-- The links R297 names: B and C ports of the rack, X0 of the pod, X1 of the pod; set where up. -/
def Device.linkBits (d : Device) : List Bool :=
  let o := d.fab.coord
  let up := fun (c : Coord) (p : Nat) => !d.linkDown c p
  (List.range 192).map (fun i => up (rackDev (cPod o) (cRack o) (i / 6)) (i % 6)) ++
    (List.range 512).map (fun j => up (podDev (cPod o) j) 6) ++ (List.range 512).map (fun j => up (podDev (cPod o) j) 7)

/-- A sync object record (Tab. 13.1). -/
def SyncObj.record (o : SyncObj) : List Byte :=
  wordsBytes [o.value.toNat, o.arrivals + o.barrier * 65536, o.gen + 2 ^ 16 + bitIf o.lost 17 + o.tenant * 2 ^ 18,
    o.context + o.vid * 2 ^ 11]

def Device.objectRecord (d : Device) (o : Nat) : Nat × List Byte :=
  match Tbl.find? d.sync.objs o with
  | some x => (x.tenant, x.record)
  | none => (0, List.replicate 16 0#8)

/-- A context's translation table, zeros where none stands. -/
def Device.tableRecord (d : Device) (c : Nat) : Nat × List Byte :=
  match Tbl.find? d.dict.contexts c with
  | some x => (x.1, if x.2 = 0 then List.replicate 16384 0#8 else rwBytes (d.readH x.2 0 4096).1)
  | none => (0, List.replicate 16384 0#8)

def Device.aliasRecord (d : Device) (a : Nat) : List Byte :=
  match Tbl.find? d.sync.aliases a with
  | some x => leBytes 4 (x.1.toNat + x.2 * 2 ^ 18)
  | none => leBytes 4 0

/-- A tenant record (Tab. 14.7). -/
def Device.tenantRecord (d : Device) (t : Nat) : List Byte :=
  wordsBytes [bitIf (d.tenantDefined t) 0, (d.limits t).contexts + d.contextUse t * 65536, d.slotUse t, 0]

def Device.contextRecord (d : Device) (c : Nat) : Nat × List Byte :=
  match Tbl.find? d.dict.contexts c with
  | some x => (x.1, leBytes 4 (1 + x.1 * 2))
  | none => (0, leBytes 4 0)

/-- A key slot record (Tab. 14.8): never the key. -/
def Device.keyRecord (d : Device) (i : Nat) : Nat × List Byte :=
  match Tbl.find? d.dict.keys i with
  | some k => (k.tenant, wordsBytes [1 + k.tenant * 2, k.source.toNat] ++ leBytes 8 k.last)
  | none => (0, List.replicate 16 0#8)

def Device.subRecord (d : Device) (i : Nat) : Nat × List Byte :=
  match Tbl.find? d.dict.subs i with
  | some x => (x.2, wordsBytes [x.1.toNat + 2 ^ 18, x.2])
  | none => (0, List.replicate 8 0#8)

/-- The notification log: another tenant's records read as zeros, tenant 0's do not (R344). -/
def Device.logRecords (d : Device) (t : Nat) : List Byte :=
  d.dict.log.flatMap (fun e =>
    let w := bits (wordAt e.2 3) 16 8
    if t = 0 ∨ w = 0 ∨ w = t then e.2 else List.replicate 32 0#8)

/-! ### 15–18 -/

/-- 1010h.01. -/
def Device.bootState (d : Device) : Nat :=
  (if d.sec.running ≠ [] then 2 else if d.sec.verifying.isSome then 1 else 0) + bitIf vendorOk 2 + bitIf d.sec.attReady 3 +
    bitIf d.sec.attOff 4 + bitIf d.sec.unlocked 5

/-- A core health record (Tab. 16.4). -/
def Device.healthRecord (d : Device) (i : Nat) : List Byte :=
  let h := d.health i
  wordsBytes [bitIf h.enabled 0 + bitIf h.mode 1 + bitIf h.drained 2 + bitIf h.retired 3, h.flags.toNat + h.done * 65536,
    (match h.openAt with | some t => (d.clk.up - t) / 1000000 | none => 0), min 65535 h.completed + h.failing * 65536]

def Device.resultRecord (d : Device) (e : Nat) : List Byte := wordsBytes ((Tbl.get [] d.pwr.results e ++ [0, 0, 0, 0]).take 4)

/-- A cluster record (Tab. 18.6). -/
def Device.clusterRecord (d : Device) (k : Nat) : List Byte :=
  let x := d.cluster k
  let cores := (List.range 12).foldl (fun n j => n + bitIf (d.coreUp (k * 12 + j)) j) 0
  wordsBytes [x.st + bitIf x.park 3 + x.cause * 16 + x.resets * 65536, if x.ready then x.readyUs else 0,
    cores + bitIf (x.ready && x.attn && !(d.health (k * 13 + 12)).drained) 12 + x.tiles.toNat * 2 ^ 13, x.wakes]

def Device.readyMask (d : Device) : Nat := (List.range 16).foldl (fun n k => n + bitIf (d.cluster k).ready k) 0
def Device.trainedMask (d : Device) : Nat :=
  (List.range 8).foldl (fun n p => n + bitIf (decide (2 ≤ (d.port p).st ∧ (d.port p).st ≤ 4)) p) 0

/-! ### The values -/

/-- The counters of what happens below the commands: the FEC codewords of the coding sublayer (R276). Their values are free
from the management reset on (log 41). -/
def hiddenCounts : List Nat := [0x40300C, 0x40300D]

/-- Scalars that other state gives (RO), by key. -/
def Device.liveScalar (d : Device) (k : Nat) : Option Nat :=
  if k = 0x100002 then some Config.deviceId.toNat
  else if k = 0x100003 then some Config.stepping.toNat
  else if k = 0x100006 then some (32768 - d.sec.leafCounter)
  else if k = 0x100007 then some d.sec.floor
  else if k = 0x101001 then some d.bootState
  else if k = 0x101002 then some d.sec.imageVersion
  else if k = 0x101004 then some d.sec.rejected
  else if k = 0x103200 then some (if d.sec.attReady then 1024 - d.sec.leaves else 0)
  else if k = 0x200101 then some d.vin.toNat
  else if k = 0x200102 then some d.iin.toNat
  else if k = 0x200103 then some d.pin.toNat
  else if k = 0x200105 then some d.pwr.energy.toNat
  else if k = 0x200106 then some d.pwr.input
  else if k = 0x201004 then some d.pwr.syncStatus
  else if k = 0x202001 then some d.pwr.ctlNext
  else if k = 0x203004 then some (bitIf d.pwr.converged 0 + bitIf d.pwr.fast 1)
  else if k = 0x300001 then some d.clk.ready.toNat
  else if k = 0x300002 then some d.readyMask
  else if k = 0x300003 then some d.trainedMask
  else if k = 0x400001 then some d.fab.coord.toNat
  else if k = 0x400002 then some d.fab.slot.toNat
  else if k = 0x400003 then some (bitIf d.fab.written 0)
  else if k = 0x404002 then some (bitIf d.fab.locked 0)
  else if k = 0x404003 then some (d.fab.offset % 2 ^ 32).toNat
  else if k = 0x406001 then some (d.fab.slot.toNat + 1)
  else if k = 0x406004 then some d.side.status
  else if k = 0x802001 then some (countIn d.attn.pages (fun p => p.e.getLsbD 0))
  else if k = 0x802002 then some d.frameBytesUsed
  else if k = 0x802003 then some (d.poolBytes - d.frameBytesUsed)
  else none

/-- Objects that are written to command something and hold no value of their own (the dashes of Tab. 20.2). -/
def commandObjects : List Nat :=
  [0x101006, 0x102000, 0x102200, 0x103000, 0x202005, 0x300101, 0x300102, 0x500100, 0x500200, 0x500400, 0x500500, 0x501000,
   0x501100, 0x600100, 0x600200, 0x700001, 0x700002, 0x700003, 0x701001, 0x703200, 0x706100, 0x706400, 0x800100, 0x800200,
   0xA00006, 0xA02000, 0xA02200, 0xB00100, 0xB00200, 0xB01200]

/-- Record DOMAINs, OCTETS and STRINGs of 1000h–5FFFh. -/
def Device.lowDomain (d : Device) (k t : Nat) : Option (List Byte) :=
  let own := fun (x : Nat × List Byte) => seen t x.1 x.2.length x.2
  if k = 0x100001 then some [0x54, 0x5A, 0x44, 0x36, 0x31, 0x34, 0x34]
  else if k = 0x100004 then some (leBytes 56 Config.topKey.toNat)
  else if k = 0x100005 then some (leBytes 3604 Config.endorsement.toNat)
  else if k = 0x100008 then some (leBytes 60 Config.vendorKey.toNat)
  else if k = 0x101003 then some d.sec.imageDigest
  else if k = 0x102100 then some d.sec.running
  else if k = 0x200104 then some (recs 4 (fun f => f32Bytes (d.fieldPower f)))
  else if k = 0x202002 then some (recs 16 (fun e => leBytes 4 (d.pwr.seqNext.getD e 0xFFFF)))
  else if k = 0x202003 then some (recs 16 d.resultRecord)
  else if k = 0x202004 then some (recs 14 (fun c => leBytes 4 (Tbl.get 0 d.pwr.corr c)))
  else if k = 0x203003 then some (recs 64 (fun n => leBytes 2 (d.nodeTemp16 n)))
  else if k = 0x203006 then some (recs 4 (fun f => leBytes 2 ((d.code (10 + f) + 65536 - 1024) % 65536)))
  else if k = 0x203008 then some (recs 1040 (fun i => leBytes 4 (Config.modelWord i).toNat))
  else if k = 0x204001 then some (recs 16 (fun c => leBytes 2 (Tbl.get 0 d.pwr.phi c)))
  else if k = 0x300200 then some (recs 16 d.clusterRecord)
  else if k = 0x401000 then some (recs 8 d.portRecord)
  else if k = 0x401200 then some (recs 8 (fun p => leBytes 4 (d.expectedWord p)))
  else if k = 0x402000 then some (Config.packLinks d.linkBits)
  else if k = 0x405000 then some (d.fab.unreachable.flatMap (fun c => leBytes 4 c.toNat))
  else if k = 0x500000 then some (recs 512 (fun i => seen t i 16 (d.tenantRecord i)))
  else if k = 0x500600 then some (recs 2048 (fun i => own (d.contextRecord i)))
  else if k = 0x501200 then some (recs 1024 (fun i => own (d.keyRecord i)))
  else if k = 0x503000 then some (recs 8 (fun i => own (d.subRecord i)))
  else if k = 0x503100 then some (d.logRecords t)
  else none

/-- Those of 6000h–CFFFh. -/
def Device.highDomain (d : Device) (k t : Nat) : Option (List Byte) :=
  let own := fun (x : Nat × List Byte) => seen t x.1 x.2.length x.2
  if k = 0x600400 then some (recs 512 (fun i => seen t i 8 (d.tenantServing i)))
  else if k = 0x600600 then some (recs 1024 d.instServing)
  else if k = 0x600800 then some (recs 65536 (fun i => seen t (d.req i).tenant 64 (d.req i).record))
  else if k = 0x602000 then some (recs 4096 (fun i => seen t (i / 8) 16 (d.profileRecord i)))
  else if k = 0x603000 then some (recs 262144 (fun i => leBytes 1 (Tbl.get 1 d.serv.experts i)))
  else if k = 0x700800 then some (recs 1024 (fun i => (d.inst i).record))
  else if k = 0x702000 then some d.layerDigests
  else if k = 0x703000 then some d.regionRecords
  else if k = 0x704800 then some d.precisionRecords
  else if k = 0x705003 then some d.comparisonRecords
  else if k = 0x706200 then some (recs 4096 (fun i => own (d.adapterRecord i)))
  else if k = 0x706300 then some (recs 4096 (fun i => own (d.versionRecord i)))
  else if k = 0x800300 then some (recs 8192 (fun i => own (d.handleRecord i)))
  else if k = 0x800400 then some (recs 512 (fun i => seen t i 16 (d.quotaRecord i)))
  else if k = 0x801100 then some d.badRegions
  else if k = 0x802400 then some d.kvRecords
  else if k = 0x802600 then some (recs 512 (fun i => seen t i 8 (wordsBytes [(d.limits i).kv, d.kvUsed i])))
  else if k = 0x802700 then some (recs 16 (fun c => leBytes 2 ((Tbl.find? d.attn.windows c).getD 0)))
  else if k = 0x802800 then some (recs 524288 d.pageWord)
  else if k = 0x901000 then some (recs 6336 (fun i => wordsBytes ((d.engine (i / 33) (i % 33)).mapRecord (i / 33) (i % 33))))
  else if k = 0x901100 then
    some (if d.cim.hint = [] then [] else recs 6336 (fun i => bytesAt (wordsBytes (Tbl.get [] d.cim.hint i)) 0 848))
  else if k = 0xA01000 then some (d.rel.log.flatMap ErrRec.bytes)
  else if k = 0xA02100 then some d.packList
  else if k = 0xA04000 then some (recs 1024 (fun i => bytesAt (d.replica i).raw 0 64))
  else if k = 0xA06000 then some (recs 208 d.healthRecord)
  else if k = 0xB00400 then some (recs 512 (fun i => seen t i 4 (leBytes 2 (d.limits i).sync ++ leBytes 2 (d.objUse i))))
  else if k = 0xB01000 then some (recs 16384 (fun i => own (d.objectRecord i)))
  else if k = 0xB01100 then some (recs 2048 (fun i => own (d.tableRecord i)))
  else if k = 0xB01300 then some (recs 4096 d.aliasRecord)
  else if k = 0xC01000 then some (recs 192 d.coreRecord)
  else if k = 0xC03000 then some (recs 192 d.boardRecord)
  else none

/-- The value of an object as a tenant reads it, without the evidence, which depends on its source too. -/
def Device.value (d : Device) (k t : Nat) : List Byte :=
  if k % 256 = 0 ∧ (objRow? k).isNone then leBytes 1 ((highestSub (k / 256)).getD 0)
  else
    match objRow? k with
    | none => []
    | some o =>
      if commandObjects.contains k then
        if o.type = 11 then Config.noValue k else bytesAt (Config.noValue k) 0 o.size
      else if k ∈ hiddenCounts then
        leBytes 8 (if d.clk.up = d.clk.resetUp then 0 else Config.hiddenCount k d.clk.up)
      else if o.counter then leBytes 8 (d.ctr k)
      else
        match d.liveScalar k with
        | some v => leBytes o.size v
        | none =>
          match (if k < 0x600000 then d.lowDomain k t else d.highDomain k t) with
          | some b => b
          | none => leBytes o.size (d.reg k)

end Sys2Proof.Machine
end

