-- ==== Sys2Proof/Machine/DictCmd.lean ====
section
/-!
DEFINITION. The dictionary as it is commanded (14): the rule of every object's write, the requests of Tab. 14.5, and the PDUs
that packets carry (R326).
-/
namespace Sys2Proof.Machine

/-! ### Opening a cast or a swap by a plain WRITE -/

/-- The sections a maquette's layout leaves to `Config.maqExtra` (log 15) where a plain WRITE opens a cast or a swap. -/
def Device.extraOf (d : Device) (v : List Byte) : Option MaqExtra :=
  match d.maquetteBytes (leAt v 2 2) with
  | none => none
  | some b => Config.maqExtra b

def emptyExtra : MaqExtra := ⟨[], ⟨0#18, 0, [], 0, 0, 0, 0, false, 0, [], [], 0, []⟩, [], [], []⟩

/-- Sections that cannot be read make a maquette that is not one, once its digest agrees (R253). -/
def Device.unreadExtra (d : Device) (v digest : List Byte) : Bool :=
  match d.maquetteBytes (leAt v 2 2) with
  | none => false
  | some b => (Config.maqExtra b).isNone && decide (sha256 b = digest)

def runCastOpenPlain (d : Device) (r : Req) (v : List Byte) : Answer :=
  if leAt v 0 2 ≤ 1023 ∧ d.unreadExtra v (bytesAt v 4 32) = true then
    refuseOwn (d.castFailed (leAt v 0 2) cMaquette) cMaquette
  else runCastOpen ((d.extraOf v).getD emptyExtra) d r v

def runSwapOpenPlain (d : Device) (r : Req) (v : List Byte) : Answer :=
  let i := leAt v 0 2
  let x := d.inst i
  if i ≤ 1023 ∧ leAt v 4 1 ≤ 1 ∧ (x.state = 2 ∨ x.state = 4) ∧ x.job.isNone = true ∧
      d.unreadExtra v (bytesAt v 8 32) = true then
    refuseOwn (d.setInst i { x with status := cMaquette }) cMaquette
  else runSwapOpen ((d.extraOf v).getD emptyExtra) d r v

/-! ### The rule of every object -/

/-- Rules of 1000h–5FFFh. -/
def lowRule (k : Nat) : Option WriteRule :=
  if k = 0x101006 then some ruleRaiseFloor
  else if k = 0x102000 then some ruleImageLoad
  else if k = 0x102200 then some ruleUnlock
  else if k = 0x103000 then some ruleAttestation
  else if k = 0x200002 then some rulePeak
  else if k = 0x202001 then some ruleSeqControl
  else if k = 0x202002 then some ruleSequence
  else if k = 0x202004 then some ruleCorrections
  else if k = 0x202005 then some ruleUrgent
  else if k = 0x300101 then some (ruleDeviceReset none)
  else if k = 0x300102 then some ruleClusterReset
  else if k = 0x300200 then some ruleClusterRecords
  else if k = 0x400001 then some ruleCoordinate
  else if k = 0x404001 then some ruleTimeRoot
  else if k = 0x401000 then some rulePorts
  else if k = 0x401200 then some ruleExpected
  else if k = 0x500000 then some ruleTenantRecords
  else if k = 0x500100 then some ruleDefineTenant
  else if k = 0x500200 then some ruleUndefineTenant
  else if k = 0x500400 then some ruleCreateContext
  else if k = 0x500500 then some ruleReleaseContext
  else if k = 0x501000 then some ruleKeyInstall
  else if k = 0x501100 then some ruleKeyRemove
  else if k = 0x501300 then some ruleKeyClaim
  else if k = 0x503000 then some ruleSubscriptions
  else if k = 0x503200 then some ruleAck
  else none

/-- Rules of 6000h–CFFFh. -/
def highRule (k : Nat) : Option WriteRule :=
  if k = 0x600100 then some ruleSubmit
  else if k = 0x600200 then some ruleCancel
  else if k = 0x600400 then some ruleTenantServing
  else if k = 0x600600 then some ruleInstServing
  else if k = 0x602000 then some ruleProfiles
  else if k = 0x603000 then some ruleExperts
  else if k = 0x700001 then some (WriteRule.plain (sized 36 runCastOpenPlain)).ownCodes
  else if k = 0x700002 then some ruleCastClose
  else if k = 0x700003 then some ruleCastAbort
  else if k = 0x700200 then some ruleChunk
  else if k = 0x701001 then some (WriteRule.plain (sized 40 runSwapOpenPlain)).ownCodes
  else if k = 0x703200 then some ruleRecast
  else if k = 0x706100 then some ruleAdapterInstall
  else if k = 0x706200 then some ruleAdapterRecords
  else if k = 0x706400 then some ruleAdapterRemove
  else if k = 0x800100 then some ruleCreateHandle
  else if k = 0x800200 then some ruleReleaseHandle
  else if k = 0x800300 then some ruleHandleTable
  else if k = 0x800400 then some ruleQuota
  else if k = 0x802600 then some ruleKvLimits
  else if k = 0x900001 then some ruleRevisit
  else if k = 0x901100 then some ruleHint
  else if k = 0xA00006 then some ruleScanTile
  else if k = 0xA02000 then some rulePackInstall
  else if k = 0xA02200 then some rulePackRemove
  else if k = 0xA04000 then some ruleReplicaSets
  else if k = 0xA06000 then some ruleCoreHealth
  else if k = 0xB00100 then some ruleBind
  else if k = 0xB00200 then some ruleUnbind
  else if k = 0xB00400 then some ruleSyncLimits
  else if k = 0xB01200 then some ruleHandSet
  else none

/-- The rule of an object: its chapter's, or that of a scalar that only holds a value. -/
def ruleFor (k : Nat) : WriteRule :=
  match (if k < 0x600000 then lowRule k else highRule k) with
  | some x => x
  | none => scalarRule k

/-- An accepted submission may start a round at once (R206). -/
def Device.afterWrite (d : Device) (k : Nat) : Device := if k = 0x600100 then d.kickAll else d

/-! ### The closed vendor diagnostics (R322, R355) -/

/-- A keyed request of tenant 0 after an unlock is answered by the diagnostics, which the manual closes (log 37); any other
meets no object. -/
def Device.diagnostics (d : Device) (code index sub : Nat) (r : Req) : Option Device :=
  if 0xF000 ≤ index ∧ d.sec.unlocked = true ∧ reqTenantOk r = true ∧ reqFault r = none ∧ r.keyed = true ∧ r.tenant = 0#9 ∧
      d.checkGood r code index sub = true then
    let p := Config.diagPayload code (key index sub) r.payload
    some (d.respond r code index sub (Config.diagStatus code (key index sub) r.payload).toNat false p.length p)
  else none

/-! ### Requests (Tab. 14.5) -/

/-- A READ of B011h reads the contexts' translation tables out of the scratchpad, with all that such a read
does (R167, R175). -/
def Device.touchRead (d : Device) (k : Nat) : Device :=
  if k = 0xB01100 then
    d.dict.contexts.foldl (fun (d : Device) (e : Nat × Nat × Nat) => if e.2.2 = 0 then d else (d.readH e.2.2 0 4096).2) d
  else d

/-- READ: the status of a discarded hint is read at 9011h (R53); evidence is read by the tenant and source that asked for it
(R353). -/
def Device.dictRead (d : Device) (index sub : Nat) (r : Req) : Device :=
  match d.diagnostics 1 index sub r with
  | some e => e
  | none =>
    if index = 0x9011 ∧ sub = 0 ∧ d.cim.hintStatus ≠ 0 then
      d.ask r 1 index sub (fun d _ => d.respond r 1 index sub d.cim.hintStatus false 0 [])
    else
      d.read index sub (fun d k t => if k = 0x103100 then d.evidenceFor t (reqSrc r) else d.value k t) Device.touchRead r

def Device.dictWrite (d : Device) (index sub : Nat) (r : Req) : Device :=
  match d.diagnostics 2 index sub r with
  | some e => e
  | none => (d.write index sub (ruleFor (key index sub)) r).afterWrite (key index sub)

def Device.dictDescribe (d : Device) (index sub : Nat) (r : Req) : Device :=
  match d.diagnostics 4 index sub r with
  | some e => e
  | none => d.describe index sub r

/-- DICT_READ (R331). -/
def execDictRead (index : BitVec 16) (sub : Byte) (r : Req) (s : State) : Host.Outcome State Fault Refusal :=
  s.lift (fun d => d.dictRead index.toNat sub.toNat r)

/-- DICT_WRITE (R327). -/
def execDictWrite (index : BitVec 16) (sub : Byte) (r : Req) (s : State) : Host.Outcome State Fault Refusal :=
  s.lift (fun d => d.dictWrite index.toNat sub.toNat r)

/-- DICT_ABORT (R330). -/
def execDictAbort (index : BitVec 16) (sub : Byte) (r : Req) (s : State) : Host.Outcome State Fault Refusal :=
  s.lift (fun d => d.abort index.toNat sub.toNat r)

/-- DICT_DESCRIBE (R324). -/
def execDictDescribe (index : BitVec 16) (sub : Byte) (r : Req) (s : State) : Host.Outcome State Fault Refusal :=
  s.lift (fun d => d.dictDescribe index.toNat sub.toNat r)

/-- DICT_ECHO (R324). -/
def execDictEcho (index : BitVec 16) (sub : Byte) (r : Req) (s : State) : Host.Outcome State Fault Refusal :=
  s.lift (fun d => d.echo index.toNat sub.toNat r)

/-! ### PDUs in packets (R323, R326) -/

/-- The request a packet's bytes carry on a channel. -/
def reqOfPdu (chan : Nat) (k : Packet) (b : List Byte) : Req :=
  let w := wordAt b
  ⟨if chan = 0 then .mgmt else .cmd, k.src, k.tenant, k.flow, BitVec.ofNat 8 (w 0), BitVec.ofNat 9 (bits (w 0) 24 16), bit (w 0) 25,
   BitVec.ofNat 16 (bits (w 2) 31 16), BitVec.ofNat 64 (leAt b 16 8), BitVec.ofNat 32 (w 6), BitVec.ofNat 32 (w 7),
   BitVec.ofNat 128 (leAt b 32 16), bytesAt b 48 (bits (w 2) 15 0), 0#48⟩

/-- Step 1 of R327 on a PDU's other fields: Repeated and the status of a request are 0, the code is listed and fits the
packet's kind; the length agrees with the packet. Reserved bits are ignored (R2). -/
def pduFault (kind : Nat) (b : List Byte) : Option Nat :=
  let w := wordAt b
  let code := bits (w 0) 15 8
  if bit (w 0) 27 ∨ bits (w 1) 31 24 ≠ 0 ∨ (kind = 2 ∧ code ≠ 6) ∨ (kind ≠ 2 ∧ (code = 0 ∨ 5 ≤ code)) then
    some dInvalid
  else if (48 + bits (w 2) 15 0 + 3) / 4 * 4 ≠ b.length then some dLength
  else none

/-- Serves a request that came in a packet. -/
def Device.servePdu (d : Device) (chan kind : Nat) (k : Packet) (b : List Byte) : Device :=
  let r := reqOfPdu chan k b
  let w := wordAt b
  let code := bits (w 0) 15 8
  let index := bits (w 1) 15 0
  let sub := bits (w 1) 23 16
  if !reqTenantOk r then d.dropMismatch
  else
    match pduFault kind b with
    | some st => d.respond r code index sub st false 0 []
    | none =>
      if code = 1 then d.dictRead index sub r
      else if code = 2 then d.dictWrite index sub r
      else if code = 3 then d.abort index sub r
      else if code = 4 then d.dictDescribe index sub r
      else d.echo index sub r

end Sys2Proof.Machine
end

