-- ==== Sys2Proof/Machine/Fabric.lean ====
section
/-!
DEFINITION. What arrives at the fabric ports (12): flits, acknowledges, credits and retries (R280–R286), hellos (R289), packets
and their order (R293–R296), route notices (R297), probes (R300), fabric time (R302, R303).
-/
namespace Sys2Proof.Machine

/-! ### Link words, credits and retries (R284, R285) -/

/-- Drops what a neighbour has acknowledged from the retry buffer. -/
def Port.acked (x : Port) (a : Nat) : Port :=
  { x with retry := x.retry.filter (fun f => decide (1 ≤ (f.seq + 16384 - a) % 16384 ∧ (f.seq + 16384 - a) % 16384 ≤ 8192)) }

/-- Takes a flit's acknowledge and returned credits; classes 12 to 15 are not listed, and bring none. -/
def Port.linkWord (x : Port) (f : Flit) (now : Nat) : Port :=
  let x := x.acked f.ack
  let k := f.credChan * 16 + f.credCls
  { x with credits := if f.credCls < 12 then Tbl.set 0 x.credits k (Tbl.get 0 x.credits k + f.credCount) else x.credits,
           lastFlit := now }

/-- A packet flit has left the receive buffer: its slot's credit goes back, and one more while the channel's shared rest has a
slot that no sender holds (log 8). -/
def Port.giveBack (x : Port) (p : Nat) (f : Flit) : Nat × Port :=
  if 12 ≤ f.cls then (0, x)
  else
    let n := Tbl.get 0 x.shared f.chan
    if n < rxShared p f.chan then (2, { x with shared := Tbl.set 0 x.shared f.chan (n + 1) }) else (1, x)

/-- Counts a retry at a port, with its time for the limit of R286. -/
def Device.countRetry (d : Device) (p : Nat) : Device :=
  let now := d.clk.up
  (d.modPort p (fun x =>
    { x with retries := x.retries.filter (fun t => decide (now - t < 1000000)) ++ [now] })).bump (key 0x4030 4) 1

/-- Sends a retry request with the port's acknowledge. -/
def Device.askRetry (d : Device) (p : Nat) : Device :=
  (((d.modPort p (fun x => { x with asked := true })).sendBare p 4 0 [])).countRetry p

/-- A flit as it goes out again, with the acknowledge as it now stands. -/
def Port.reseal (x : Port) (f : Flit) : Flit :=
  sealFlit (f.link.toNat - f.ack * 2 ^ 25 + x.ackValue * 2 ^ 25) f.mask.toNat f.payload

/-- A retry request: every packet flit after the acknowledge goes out again, in order. -/
def Device.retryIn (d : Device) (p : Nat) : Device :=
  let x := d.port p
  let fs := x.retry.map x.reseal
  let d := (d.setPort p { x with retry := fs }).countRetry p
  fs.foldl (fun d f => (d.send (.flit p f)).bump (key 0x4030 1) 1) d

/-! ### Packets for this device -/

/-- An echo answer or a route returns (R300). -/
def Device.echoAnswered (d : Device) (dev : Coord) : Device :=
  ({ d with fab := { d.fab with echoes := d.fab.echoes.filter (fun e => !decide (e.1 = dev)) } }).setReachable dev

/-- A response PDU: of an echo (R300), or of the pull under way (R349). -/
def Device.responsePdu (d : Device) (kind : Nat) (k : Packet) (b : List Byte) : Option Device :=
  let w := wordAt b
  if kind = 2 ∧ bits (w 0) 15 8 = 6 then some (d.echoAnswered k.src)
  else
    match d.sec.pullPort with
    | none => none
    | some q =>
      if bits (w 0) 15 8 = 1 ∧ w 1 = 0x1021 ∧ k.src = (d.port q).nbr then
        some (d.pullPart q (w 7) (bytesAt b 48 (bits (w 2) 15 0)))
      else none

/-- Delivers a packet: dictionary PDUs are served (R326), the rest goes to its unit as it is. -/
def Device.deliverNow (d : Device) (chan : Nat) (k : Packet) : Device :=
  let b := rwBytes k.words
  let on := d.send (.delivered chan k.kind k.src k.tenant (k.words.map (fun x => (x.w, x.poison))))
  if ((chan = 0 ∧ (k.kind = 1 ∨ k.kind = 2)) ∨ (chan = 2 ∧ k.kind = 1)) ∧ k.words.any (·.poison) = false then
    if b.length < 48 then d
    else if bit (wordAt b 0) 26 then (d.responsePdu k.kind k b).getD on
    else d.servePdu chan k.kind k b
  else on

/-! ### Order at the destination (R295) -/

/-- How far a sequence lies ahead of the expected one, modulo 2^16. -/
def Reorder.ahead (e : Reorder) (seq : Nat) : Nat := (seq + 65536 - e.next) % 65536

/-- Held packets that follow in order, and the entry past them. -/
def Reorder.drain : Nat → Reorder → List Packet × Reorder
  | 0, e => ([], e)
  | n + 1, e =>
    match e.held.find? (fun h => decide (e.ahead h.pkt.seq = 0)) with
    | none => ([], e)
    | some h =>
      let r := Reorder.drain n { e with next := (e.next + 1) % 65536, held := e.held.filter (fun x => !decide (x.pkt.seq = h.pkt.seq)) }
      (h.pkt :: r.1, r.2)

def Reorder.is (e : Reorder) (src : Coord) (chan : Nat) (flow : BitVec 16) : Bool :=
  decide (e.src = src ∧ e.chan = chan ∧ e.flow = flow)

def Device.reorder? (d : Device) (src : Coord) (chan : Nat) (flow : BitVec 16) : Option Reorder :=
  d.fab.reorder.find? (fun e => e.is src chan flow)

/-- Puts an entry, dropping the least recently used one of a full table. -/
def Device.putReorder (d : Device) (e : Reorder) : Device :=
  let rs := d.fab.reorder.filter (fun x => !x.is e.src e.chan e.flow)
  let lru := rs.foldl (fun (m : Option Reorder) x => match m with | none => some x | some y => if x.used < y.used then some x else some y) none
  let rs := if rs.length < 1024 then rs
            else match lru with | none => rs | some y => rs.filter (fun x => !x.is y.src y.chan y.flow)
  { d with fab := { d.fab with reorder := rs ++ [e] } }

/-- Held packets of the device, and the entry of the oldest. -/
def Device.heldCount (d : Device) : Nat := (d.fab.reorder.map (fun e => e.held.length)).sum

def Device.oldestGap (d : Device) : Option Reorder :=
  (d.fab.reorder.filter (fun e => !e.held.isEmpty)).foldl (fun (m : Option Reorder) e =>
    let t := fun (x : Reorder) => x.held.foldl (fun n h => min n h.at_) (2 ^ 64)
    match m with | none => some e | some y => if t e < t y then some e else some y) none

def Device.deliverAll (d : Device) (chan : Nat) (ks : List Packet) : Device := ks.foldl (fun d k => d.deliverNow chan k) d

/-- An entry's first gap is lost: what is held up to the next gap is delivered. -/
def Device.gapLost (d : Device) (e : Reorder) : Device :=
  if e.held = [] then d
  else
    let step := e.held.foldl (fun n h => min n (e.ahead h.pkt.seq)) 65536
    let r := Reorder.drain e.held.length { e with next := (e.next + step) % 65536 }
    ((d.bump (key 0x4030 0x0A) 1).putReorder { r.2 with used := d.clk.up }).deliverAll e.chan r.1

/-- The order of CMD and SYNC unicast packets. -/
def Device.inSequence (d : Device) (p chan : Nat) (k : Packet) : Device :=
  let now := d.clk.up
  match d.reorder? k.src chan k.flow with
  | none => (d.putReorder ⟨k.src, chan, k.flow, (k.seq + 1) % 65536, [], now⟩).deliverNow chan k
  | some e =>
    let a := e.ahead k.seq
    if a = 0 then
      let r := Reorder.drain e.held.length { e with next := (e.next + 1) % 65536, used := now }
      (d.putReorder r.2).deliverAll chan (k :: r.1)
    else if a < 32768 then
      if e.held.any (fun h => decide (h.pkt.seq = k.seq)) then (d.putReorder { e with used := now }).bump (key 0x4030 0x0B) 1
      else
        let d := d.putReorder { e with held := e.held ++ [⟨k, now, p⟩], used := now }
        if d.heldCount < 64 then d
        else match d.oldestGap with | none => d | some g => d.gapLost g
    else (d.putReorder { e with used := now }).bump (key 0x4030 0x0B) 1

/-! ### Multicast (R296) -/

def ordinal (c : Coord) : Nat := cPod c * 512 + podIx c
def ordinalDev (o : Nat) : Coord := podDev (o / 512) (o % 512)

/-- Blocks of `unit` ordinals over [lo, hi). -/
def blocksOf (unit lo hi : Nat) : List (Nat × Nat) :=
  if hi ≤ lo then []
  else (List.range ((hi - 1) / unit - lo / unit + 1)).map (fun i =>
    let b := lo / unit + i
    (max lo (b * unit), min hi ((b + 1) * unit)))

/-- The ranges a device sends copies for: blocks of the highest tier that differs, its own block cut further. -/
def splitRange (own : Nat) : List Nat → Nat → Nat → List (Nat × Nat)
  | [], _, _ => []
  | u :: us, lo, hi => (blocksOf u lo hi).flatMap (fun b =>
      if b.1 / u = own / u then splitRange own us b.1 b.2 else [b])

/-- Pods, racks, quads, devices. -/
def tierUnits : List Nat := [512, 32, 4, 1]

def Device.multicastIn (d : Device) (chan g h : Nat) (k : Packet) : Device :=
  if chan < 2 ∨ k.words.length > 1024 ∨ 4 ≤ cSlot k.dest then d.bump (key 0x4030 0x0E) 1
  else
    let lo := ordinal k.dest
    let hi := min 131072 (lo + k.count + 1)
    let own := ordinal d.fab.coord
    let d := if lo ≤ own ∧ own < hi then d.deliverNow chan k else d
    let bs := splitRange own tierUnits lo hi
    if k.hops = 0 then (if bs.isEmpty then d else d.bump (key 0x4030 8) 1)
    else bs.foldl (fun d b =>
      d.forward chan g h (ordinalDev b.1) { k with dest := ordinalDev b.1, count := b.2 - b.1 - 1 }) d

/-! ### Packets that arrive (R282, R290–R293, R304) -/

/-- A whole packet: its header's poison, its class (12 to 15 are not listed, R280), its source on the host port, then local delivery, its copies, or its next hop. -/
def Device.packetIn (d : Device) (p : Nat) (fs : List Flit) : Device :=
  let r := packetOf fs
  let k := r.1
  let o := d.fab.coord
  let chan := match fs.head? with | some f => f.chan | none => 0
  let c := match fs.head? with | some f => f.cls | none => 0
  let g := c / 2 + if p ≥ 6 then 1 else 0
  let h := if p ≥ 6 then 0 else c % 2
  if r.2 ∨ packetWhole fs = false ∨ 12 ≤ c ∨ (d.isHostPort p = true ∧ k.src ≠ mkCoord (cPod o) (cRack o) (cQuad o) 4) then
    d.bump (key 0x4030 0x0E) 1
  else if k.mcast then d.multicastIn chan g h k
  else
    let e := d.exitFor chan c (k.flow.toNat % 2) k.dest
    if e = .here then (if chan = 1 ∨ chan = 2 then d.inSequence p chan k else d.deliverNow chan k)
    else if k.hops = 0 then d.bump (key 0x4030 8) 1
    else if d.isHostPort p = true ∧ e = .port 3 then d.noRoute chan k
    else d.forward chan g h k.dest k

/-- A packet flit: the one expected is kept, its buffer's credit returned; any other is a gap (R285). -/
def Device.packetFlit (d : Device) (p : Nat) (f : Flit) : Device :=
  let x := d.port p
  if f.seq ≠ x.rxSeq then (if x.asked then d else d.askRetry p)
  else
    let old := Tbl.get [] x.partialIn f.chan
    let part := if f.isFirst then [f] else if old.isEmpty then [] else old ++ [f]
    let ovr := f.isLast && !part.isEmpty
    let g := x.giveBack p f
    let d := d.setPort p { g.2 with rxSeq := (x.rxSeq + 1) % 16384, asked := false,
                                    partialIn := Tbl.set [] x.partialIn f.chan (if ovr then [] else part) }
    let d := (d.bump (key 0x4030 2) 1).sendBare p 0 (if g.1 = 0 then 0 else f.chan * 2 ^ 39 + f.cls * 2 ^ 41 + g.1 * 2 ^ 45) []
    if ovr then d.packetIn p part else d

/-! ### Hellos (R289) -/

/-- Sets the state of a port that stops or starts carrying traffic, with its notice. -/
def Device.linkState (d : Device) (p st : Nat) : Device :=
  let was := (d.port p).st
  if was = st then d
  else
    d.withRoutes (fun d => d.keepParent (fun d =>
      let d := d.modPort p (fun x => { x with st := st })
      if st = 3 then d.routeNotice p true else if was = 3 then d.routeNotice p false else d))

/-- The neighbour is the expected one; a host endpoint's port has no number. -/
def Device.helloMatches (d : Device) (p : Nat) (c : Coord) (np : Nat) : Bool :=
  match d.expected p with
  | none => false
  | some e => decide (c = e.1) && (d.isHostPort p || decide (np = e.2))

/-- The wrong neighbour. -/
def Device.miswire (d : Device) (p : Nat) : Device :=
  if (d.port p).st = 4 then d
  else ((((d.linkState p 4).err (portAt p) 0x12 0).bump (key 0x4030 6) 1)).notify 2 0 0x4010 0 p 4

def Device.helloIn (d : Device) (p : Nat) (f : Flit) : Device :=
  let w := (f.payload.getD 0 0#32).toNat
  let c : Coord := BitVec.ofNat 18 (bits w 17 0)
  let np := bits w 21 19
  let host := bit w 22
  let d := d.modPort p (fun x => { x with nbr := c, nbrPort := np, host := host })
  if (host || (bit w 18 && d.fab.written)) = false then d.linkState p 2
  else if d.helloMatches p c np then
    (if (d.port p).st = 3 then d else ((d.linkState p 3).notify 2 0 0x4010 0 p 3).pumpAll p)
  else d.miswire p

/-! ### Flits -/

/-- A flit on a port with a link (R281, R285): what is not intact is discarded and asked for again; what a retry request resends
goes before any new packet flit. A miswired port and one in
hello take no packets. -/
def Device.flitIn (d : Device) (p : Nat) (f : Flit) : Device :=
  let x := d.port p
  if x.st < 2 ∨ 4 < x.st then d
  else if f.intact = false then (if f.crc = f.sum then d else d.bump (key 0x4030 3) 1).askRetry p
  else
    let d := d.modPort p (fun x => x.linkWord f d.clk.up)
    let d := (if f.type = 4 then d.retryIn p else d).pumpAll p
    if f.type = 1 then (if x.st = 3 then d.packetFlit p f else d)
    else if f.type = 2 then d.helloIn p f
    else d

def Device.flitsIn (d : Device) (p : Nat) (fs : List Flit) : Device := fs.foldl (fun d f => d.flitIn p f) d

/-- PACKET_RECEIVE (R290): the flits of a packet arrive. -/
def execPacketReceive (p : PortIx) (fs : List Flit) (s : State) : Host.Outcome State Fault Refusal :=
  s.lift (fun d => d.flitsIn p.val fs)

/-- MULTICAST_RECEIVE (R296): the header says that the packet is multicast. -/
def execMulticastReceive (p : PortIx) (fs : List Flit) (s : State) : Host.Outcome State Fault Refusal :=
  s.lift (fun d => d.flitsIn p.val fs)

/-- RETRY_REQUEST (R285). -/
def execRetryRequest (p : PortIx) (f : Flit) (s : State) : Host.Outcome State Fault Refusal :=
  s.lift (fun d => d.flitIn p.val f)

/-- HELLO_RECEIVE (R289). -/
def execHelloReceive (p : PortIx) (f : Flit) (s : State) : Host.Outcome State Fault Refusal :=
  s.lift (fun d => d.flitIn p.val f)

/-- IDLE_FLIT_RECEIVE (R284). -/
def execIdleFlitReceive (p : PortIx) (f : Flit) (s : State) : Host.Outcome State Fault Refusal :=
  s.lift (fun d => d.flitIn p.val f)

/-! ### Training and the loss of a link -/

/-- HELLO_SEND (R289): a trained port sends a hello. -/
def execHelloSend (p : PortIx) (s : State) : Host.Outcome State Fault Refusal :=
  s.lift (fun d =>
    let x := d.port p.val
    if 2 ≤ x.st ∧ x.st ≤ 4 then d.sendHello p.val else d)

/-- PORT_TRAINED (R276). -/
def execPortTrained (p : PortIx) (half : Bool) (s : State) : Host.Outcome State Fault Refusal :=
  s.lift (fun d =>
    let x := d.port p.val
    if x.enabled = true ∧ x.st ≤ 1 ∧ d.fabricSlot = true ∧ d.clk.refOk = true then d.trained p.val half else d)

/-- PORT_TRAIN_TIMEOUT (R409): the port reports down. -/
def execPortTrainTimeout (p : PortIx) (s : State) : Host.Outcome State Fault Refusal :=
  s.lift (fun d => if (d.port p.val).st = 1 then d.modPort p.val (fun x => { x with st := 0 }) else d)

/-- LANE_ALIGNMENT_LOSS (R286): the port's receive clock is lost too, and its crossing falls back (R406). -/
def execLaneAlignmentLoss (p : PortIx) (s : State) : Host.Outcome State Fault Refusal :=
  s.lift (fun d =>
    let x := d.port p.val
    if 2 ≤ x.st ∧ x.st ≤ 4 then (d.portDown p.val).crossingFallback (64 + p.val) else d)

/-- RETRY_LIMIT_EXCEEDED (R286): more retries in the last millisecond than 4001h.01. -/
def execRetryLimitExceeded (p : PortIx) (s : State) : Host.Outcome State Fault Refusal :=
  s.lift (fun d =>
    let n := ((d.port p.val).retries.filter (fun t => decide (d.clk.up - t < 1000000))).length
    if d.reg (key 0x4001 1) < n then d.portDown p.val else d)

/-- SILENCE_TIMEOUT (R286): no intact flit for 4001h.02 µs. -/
def execSilenceTimeout (p : PortIx) (s : State) : Host.Outcome State Fault Refusal :=
  s.lift (fun d =>
    let x := d.port p.val
    if 2 ≤ x.st ∧ x.st ≤ 4 then (d.reach (x.lastFlit + d.reg (key 0x4001 2) * 1000)).portDown p.val else d)

/-! ### Route notices, the reorder table, probes -/

/-- A notice concerns a link of this device's scope: its rack's B and C ports, its pod's X ports (R297). -/
def Device.inScope (d : Device) (dev : Coord) (port : Nat) : Bool :=
  let o := d.fab.coord
  decide (dev ≠ o ∧ cSlot dev < 4 ∧ cPod dev = cPod o) && (decide (port ≥ 6) || decide (cRack dev = cRack o))

/-- ROUTE_NOTICE (R297). -/
def execRouteNotice (dev : Coord) (port : PortIx) (up : Bool) (s : State) : Host.Outcome State Fault Refusal :=
  s.lift (fun d =>
    if d.inScope dev port.val then
      d.withRoutes (fun d => d.keepParent (fun d =>
        let ls := d.fab.down.filter (fun l => !decide (l = (dev, port.val)))
        { d with fab := { d.fab with down := if up then ls else ls ++ [(dev, port.val)] } }))
    else d)

/-- REORDER_HOLD_EXPIRY (R295). -/
def execReorderHoldExpiry (src : Coord) (chan : BitVec 2) (flow : BitVec 16) (s : State) : Host.Outcome State Fault Refusal :=
  s.lift (fun d =>
    match d.reorder? src chan.toNat flow with
    | none => d
    | some e =>
      if e.held = [] then d
      else
        let t := e.held.foldl (fun n h => min n h.at_) (2 ^ 64)
        (d.reach (t + d.reg (key 0x4001 3) * 1000)).gapLost e)

/-- REORDER_ENTRY_IDLE (R295). -/
def execReorderEntryIdle (src : Coord) (chan : BitVec 2) (flow : BitVec 16) (s : State) : Host.Outcome State Fault Refusal :=
  s.lift (fun d =>
    match d.reorder? src chan.toNat flow with
    | none => d
    | some e =>
      if e.held ≠ [] then d
      else
        let d := d.reach (e.used + 1000000)
        { d with fab := { d.fab with reorder := d.fab.reorder.filter (fun x => !x.is src chan.toNat flow) } })

/-- PROBE_WAIT_EXPIRY (R300): without a route the device is unreachable at once, else an echo goes to it. -/
def execProbeWaitExpiry (dev : Coord) (s : State) : Host.Outcome State Fault Refusal :=
  s.lift (fun d =>
    if dev = d.fab.coord then d
    else if d.routed dev = false then d.setUnreachable dev
    else if d.fab.echoes.any (fun e => decide (e.1 = dev)) then d
    else
      let d := ({ d with fab := { d.fab with echoes := d.fab.echoes ++ [(dev, d.clk.up)] } }).send (.echo dev)
      d.sendPdu 0 2 dev 0#9 0#16 (pduBytes (pduHeader 6 0 false false false 0 0 0 0 0 0 0 0) [] []))

/-- PROBE_TIMEOUT (R300). -/
def execProbeTimeout (dev : Coord) (s : State) : Host.Outcome State Fault Refusal :=
  s.lift (fun d =>
    match d.fab.echoes.find? (fun e => decide (e.1 = dev)) with
    | none => d
    | some e =>
      let d := d.reach (e.2 + d.reg (key 0x4001 5) * 1000)
      ({ d with fab := { d.fab with echoes := d.fab.echoes.filter (fun x => !decide (x.1 = dev)) } }).setUnreachable dev)

/-- ECHO_ANSWER (R300). -/
def execEchoAnswer (dev : Coord) (s : State) : Host.Outcome State Fault Refusal :=
  s.lift (fun d => d.echoAnswered dev)

/-! ### Fabric time (R302, R303) -/

/-- TIME_EXCHANGE_SEND (R302): an up link's time flit, once in 4040h.04 µs; t1 stands in its first two words (log 38). -/
def execTimeExchangeSend (p : PortIx) (s : State) : Host.Outcome State Fault Refusal :=
  s.lift (fun d =>
    let x := d.port p.val
    if x.st ≠ 3 then d
    else
      let d := d.reach (x.lastTime + d.reg (key 0x4040 4) * 1000)
      let t := d.clk.time.toNat
      (d.modPort p.val (fun x => { x with lastTime := d.clk.up })).sendBare p.val 3 0 [t % 2 ^ 32, t / 2 ^ 32, 0, 0, 0, 0, 0, 0])

/-- The child's offset, from the four times of an exchange. -/
def timeOffset (t1 t2 t3 t4 : BitVec 64) : Int :=
  (((t2.toNat : Int) - t1.toNat) - ((t4.toNat : Int) - t3.toNat)) / 2

/-- A request is non-terminal. -/
def Device.anyLive (d : Device) : Bool := List.any d.serv.reqs (fun (e : Nat × ReqEnt) => e.2.live)

/-- An exchange with the parent: its offset, the one step after the coordinate write, then slews, and the lock. -/
def Device.exchanged (d : Device) (x : Int) : Device :=
  let good := if -50 ≤ x ∧ x ≤ 50 then min 16 (d.fab.good + 1) else 0
  let first := d.fab.written && !d.fab.stepped
  let d := { d with fab := { d.fab with offset := x, good := good, locked := d.fab.locked || decide (16 ≤ good),
                                        stepped := d.fab.stepped || first } }
  if first && !d.anyLive then
    { d with clk := { d.clk with time := d.clk.time + BitVec.ofInt 64 x }, fab := { d.fab with slew := 0, slewTime := 0 } }
  else { d with fab := { d.fab with slew := x } }

/-- TIME_FLIT_RECEIVE (R302): an exchange completes; the device follows the one with its parent. -/
def execTimeFlitReceive (p : PortIx) (t1 t2 t3 t4 : BitVec 64) (s : State) : Host.Outcome State Fault Refusal :=
  s.lift (fun d =>
    let x := d.port p.val
    if x.st ≠ 3 then d
    else
      let d := d.modPort p.val (fun x => { x with lastFlit := d.clk.up })
      if d.parentPort = some p.val then d.exchanged (timeOffset t1 t2 t3 t4) else d)

end Sys2Proof.Machine
end

