-- ==== Sys2Proof/Machine/Dispatch.lean ====
section
/-!
DEFINITION. One arm per command: each calls its own meaning.
-/
namespace Sys2Proof.Machine

def exec (i : Instr) (s : State) : Host.Outcome State Fault Refusal :=
  match i with
  | .nop c w => Sys2Proof.Machine.execNop c w s
  | .step c w => Sys2Proof.Machine.execStep c w s
  | .commit c w => Sys2Proof.Machine.execCommit c w s
  | .commitMark c => Sys2Proof.Machine.execCommitMark c s
  | .plinthRelease c => Sys2Proof.Machine.execPlinthRelease c s
  | .grid c w => Sys2Proof.Machine.execGrid c w s
  | .loop c w => Sys2Proof.Machine.execLoop c w s
  | .endloop c w => Sys2Proof.Machine.execEndloop c w s
  | .eval c w rd => Sys2Proof.Machine.execEval c w rd s
  | .evalt c w rd => Sys2Proof.Machine.execEvalt c w rd s
  | .evalx c w rd => Sys2Proof.Machine.execEvalx c w rd s
  | .rdrow c w => Sys2Proof.Machine.execRdrow c w s
  | .wrrow c w => Sys2Proof.Machine.execWrrow c w s
  | .enable c w => Sys2Proof.Machine.execEnable c w s
  | .read c w => Sys2Proof.Machine.execRead c w s
  | .pack c w => Sys2Proof.Machine.execPack c w s
  | .load c w => Sys2Proof.Machine.execLoad c w s
  | .vadd c w => Sys2Proof.Machine.execVadd c w s
  | .vsub c w => Sys2Proof.Machine.execVsub c w s
  | .vmul c w => Sys2Proof.Machine.execVmul c w s
  | .vfma c w => Sys2Proof.Machine.execVfma c w s
  | .vmax c w => Sys2Proof.Machine.execVmax c w s
  | .vmin c w => Sys2Proof.Machine.execVmin c w s
  | .vmov c w => Sys2Proof.Machine.execVmov c w s
  | .vexp c w => Sys2Proof.Machine.execVexp c w s
  | .vrsqrt c w => Sys2Proof.Machine.execVrsqrt c w s
  | .vrecip c w => Sys2Proof.Machine.execVrecip c w s
  | .vrsum c w => Sys2Proof.Machine.execVrsum c w s
  | .vrmax c w => Sys2Proof.Machine.execVrmax c w s
  | .vrssq c w => Sys2Proof.Machine.execVrssq c w s
  | .qset c w => Sys2Proof.Machine.execQset c w s
  | .pata c w => Sys2Proof.Machine.execPata c w s
  | .patb c w => Sys2Proof.Machine.execPatb c w s
  | .outl c w => Sys2Proof.Machine.execOutl c w s
  | .copy c w => Sys2Proof.Machine.execCopy c w s
  | .copyDone c id x => Sys2Proof.Machine.execCopyDone c id x s
  | .gather c w => Sys2Proof.Machine.execGather c w s
  | .gatherDone c id x => Sys2Proof.Machine.execGatherDone c id x s
  | .scatter c w => Sys2Proof.Machine.execScatter c w s
  | .scatterDone c id x => Sys2Proof.Machine.execScatterDone c id x s
  | .signal c w => Sys2Proof.Machine.execSignal c w s
  | .wait c w => Sys2Proof.Machine.execWait c w s
  | .arrive c w => Sys2Proof.Machine.execArrive c w s
  | .topk c w => Sys2Proof.Machine.execTopk c w s
  | .topkout c w => Sys2Proof.Machine.execTopkout c w s
  | .topkmrg c w => Sys2Proof.Machine.execTopkmrg c w s
  | .sample c w => Sys2Proof.Machine.execSample c w s
  | .holdTimeout c => Sys2Proof.Machine.execHoldTimeout c s
  | .elasticStart c id cycle => Sys2Proof.Machine.execElasticStart c id cycle s
  | .pauseRequest c q => Sys2Proof.Machine.execPauseRequest c q s
  | .countRecomputeDone c e word => Sys2Proof.Machine.execCountRecomputeDone c e word s
  | .calFreeSlotUse c e seg use => Sys2Proof.Machine.execCalFreeSlotUse c e seg use s
  | .rotationBatchStart c e => Sys2Proof.Machine.execRotationBatchStart c e s
  | .rotationCheck c e => Sys2Proof.Machine.execRotationCheck c e s
  | .selectionAttemptDone c e a => Sys2Proof.Machine.execSelectionAttemptDone c e a s
  | .patternRecal c e target a => Sys2Proof.Machine.execPatternRecal c e target a s
  | .engineReplaceSwitch c e => Sys2Proof.Machine.execEngineReplaceSwitch c e s
  | .batchStale c e group => Sys2Proof.Machine.execBatchStale c e group s
  | .calSliceReserve c => Sys2Proof.Machine.execCalSliceReserve c s
  | .calibrationSliceEnd c => Sys2Proof.Machine.execCalibrationSliceEnd c s
  | .calProbe c e seg rd => Sys2Proof.Machine.execCalProbe c e seg rd s
  | .monitorWindowClose c e col seg => Sys2Proof.Machine.execMonitorWindowClose c e col seg s
  | .redundancyHintWrite r => Sys2Proof.Machine.execRedundancyHintWrite r s
  | .revisitPeriodWrite r => Sys2Proof.Machine.execRevisitPeriodWrite r s
  | .overflowWindowClose inst layer => Sys2Proof.Machine.execOverflowWindowClose inst layer s
  | .referenceStep k x => Sys2Proof.Machine.execReferenceStep k x s
  | .createHandle r => Sys2Proof.Machine.execCreateHandle r s
  | .releaseHandle r => Sys2Proof.Machine.execReleaseHandle r s
  | .handleZeroDone h => Sys2Proof.Machine.execHandleZeroDone h s
  | .handleRecreate r => Sys2Proof.Machine.execHandleRecreate r s
  | .combineWindowClose k tile row => Sys2Proof.Machine.execCombineWindowClose k tile row s
  | .patrolRead u bank soft stuck => Sys2Proof.Machine.execPatrolRead u bank soft stuck s
  | .scrubWriteback k unit => Sys2Proof.Machine.execScrubWriteback k unit s
  | .attentionDescriptor k => Sys2Proof.Machine.execAttentionDescriptor k s
  | .attentionDescriptorDone k => Sys2Proof.Machine.execAttentionDescriptorDone k s
  | .pageRequest k q => Sys2Proof.Machine.execPageRequest k q s
  | .pagePartialReceive k m => Sys2Proof.Machine.execPagePartialReceive k m s
  | .spanNeutralAnswer k q => Sys2Proof.Machine.execSpanNeutralAnswer k q s
  | .remoteFrameRequest q => Sys2Proof.Machine.execRemoteFrameRequest q s
  | .remoteFrameAnswer slot stream page far => Sys2Proof.Machine.execRemoteFrameAnswer slot stream page far s
  | .frameRelease owner slot => Sys2Proof.Machine.execFrameRelease owner slot s
  | .frameZeroDone k tile row => Sys2Proof.Machine.execFrameZeroDone k tile row s
  | .submit r => Sys2Proof.Machine.execSubmit r s
  | .cancel r => Sys2Proof.Machine.execCancel r s
  | .deadlinePass slot => Sys2Proof.Machine.execDeadlinePass slot s
  | .retentionExpiry slot => Sys2Proof.Machine.execRetentionExpiry slot s
  | .tenantServingWrite r => Sys2Proof.Machine.execTenantServingWrite r s
  | .instanceServingWrite r => Sys2Proof.Machine.execInstanceServingWrite r s
  | .expertControlWrite r => Sys2Proof.Machine.execExpertControlWrite r s
  | .castOpen r x => Sys2Proof.Machine.execCastOpen r x s
  | .chunk r => Sys2Proof.Machine.execChunk r s
  | .castClose r => Sys2Proof.Machine.execCastClose r s
  | .castAbort r => Sys2Proof.Machine.execCastAbort r s
  | .swapOpen r x => Sys2Proof.Machine.execSwapOpen r x s
  | .layerRewriteStart inst => Sys2Proof.Machine.execLayerRewriteStart inst s
  | .layerRewriteDone inst => Sys2Proof.Machine.execLayerRewriteDone inst s
  | .regionRecast r => Sys2Proof.Machine.execRegionRecast r s
  | .regionRecastDone h => Sys2Proof.Machine.execRegionRecastDone h s
  | .adapterInstall r => Sys2Proof.Machine.execAdapterInstall r s
  | .adapterVersionCurrent slot => Sys2Proof.Machine.execAdapterVersionCurrent slot s
  | .adapterRecordWrite r => Sys2Proof.Machine.execAdapterRecordWrite r s
  | .adapterRemove r => Sys2Proof.Machine.execAdapterRemove r s
  | .packetReceive p fs => Sys2Proof.Machine.execPacketReceive p fs s
  | .multicastReceive p fs => Sys2Proof.Machine.execMulticastReceive p fs s
  | .retryRequest p f => Sys2Proof.Machine.execRetryRequest p f s
  | .helloSend p => Sys2Proof.Machine.execHelloSend p s
  | .helloReceive p f => Sys2Proof.Machine.execHelloReceive p f s
  | .portTrained p half => Sys2Proof.Machine.execPortTrained p half s
  | .portTrainTimeout p => Sys2Proof.Machine.execPortTrainTimeout p s
  | .laneAlignmentLoss p => Sys2Proof.Machine.execLaneAlignmentLoss p s
  | .retryLimitExceeded p => Sys2Proof.Machine.execRetryLimitExceeded p s
  | .silenceTimeout p => Sys2Proof.Machine.execSilenceTimeout p s
  | .routeNotice dev port up => Sys2Proof.Machine.execRouteNotice dev port up s
  | .reorderHoldExpiry src chan flow => Sys2Proof.Machine.execReorderHoldExpiry src chan flow s
  | .reorderEntryIdle src chan flow => Sys2Proof.Machine.execReorderEntryIdle src chan flow s
  | .probeWaitExpiry dev => Sys2Proof.Machine.execProbeWaitExpiry dev s
  | .probeTimeout dev => Sys2Proof.Machine.execProbeTimeout dev s
  | .echoAnswer dev => Sys2Proof.Machine.execEchoAnswer dev s
  | .portRecordWrite r => Sys2Proof.Machine.execPortRecordWrite r s
  | .portDrainDone p => Sys2Proof.Machine.execPortDrainDone p s
  | .coordinateWrite r => Sys2Proof.Machine.execCoordinateWrite r s
  | .timeExchangeSend p => Sys2Proof.Machine.execTimeExchangeSend p s
  | .timeFlitReceive p t1 t2 t3 t4 => Sys2Proof.Machine.execTimeFlitReceive p t1 t2 t3 t4 s
  | .syncPacketReceive m => Sys2Proof.Machine.execSyncPacketReceive m s
  | .remoteWaiterRetry id => Sys2Proof.Machine.execRemoteWaiterRetry id s
  | .bind r => Sys2Proof.Machine.execBind r s
  | .unbind r => Sys2Proof.Machine.execUnbind r s
  | .handSet r => Sys2Proof.Machine.execHandSet r s
  | .dictRead index sub r => Sys2Proof.Machine.execDictRead index sub r s
  | .dictWrite index sub r => Sys2Proof.Machine.execDictWrite index sub r s
  | .dictAbort index sub r => Sys2Proof.Machine.execDictAbort index sub r s
  | .dictDescribe index sub r => Sys2Proof.Machine.execDictDescribe index sub r s
  | .dictEcho index sub r => Sys2Proof.Machine.execDictEcho index sub r s
  | .transferTimeout tenant source tag => Sys2Proof.Machine.execTransferTimeout tenant source tag s
  | .latchTimeout source tag => Sys2Proof.Machine.execLatchTimeout source tag s
  | .defineTenant r => Sys2Proof.Machine.execDefineTenant r s
  | .undefineTenant r => Sys2Proof.Machine.execUndefineTenant r s
  | .createContext r => Sys2Proof.Machine.execCreateContext r s
  | .releaseContext r => Sys2Proof.Machine.execReleaseContext r s
  | .keyInstall r => Sys2Proof.Machine.execKeyInstall r s
  | .keyRemove r => Sys2Proof.Machine.execKeyRemove r s
  | .keyClaim r => Sys2Proof.Machine.execKeyClaim r s
  | .acknowledgedSequenceWrite r => Sys2Proof.Machine.execAcknowledgedSequenceWrite r s
  | .imageLoad r => Sys2Proof.Machine.execImageLoad r s
  | .imagePull => Sys2Proof.Machine.execImagePull s
  | .imagePullResponse p env => Sys2Proof.Machine.execImagePullResponse p env s
  | .imageStart => Sys2Proof.Machine.execImageStart s
  | .raiseFloor r => Sys2Proof.Machine.execRaiseFloor r s
  | .attestationReady pufOk readBack => Sys2Proof.Machine.execAttestationReady pufOk readBack s
  | .attestationRequest r => Sys2Proof.Machine.execAttestationRequest r s
  | .diagnosticUnlock r => Sys2Proof.Machine.execDiagnosticUnlock r s
  | .testPassOpen c => Sys2Proof.Machine.execTestPassOpen c s
  | .passOverdue c => Sys2Proof.Machine.execPassOverdue c s
  | .forcedSpacingExpiry c => Sys2Proof.Machine.execForcedSpacingExpiry c s
  | .fieldTestSliceEnd c x => Sys2Proof.Machine.execFieldTestSliceEnd c x s
  | .logicScanSliceEnd c pass => Sys2Proof.Machine.execLogicScanSliceEnd c pass s
  | .sporePackInstall r => Sys2Proof.Machine.execSporePackInstall r s
  | .sporePackRemove r => Sys2Proof.Machine.execSporePackRemove r s
  | .scanSecurityTile r => Sys2Proof.Machine.execScanSecurityTile r s
  | .healthFlagAction c => Sys2Proof.Machine.execHealthFlagAction c s
  | .coreHealthWrite r => Sys2Proof.Machine.execCoreHealthWrite r s
  | .coreDrained c => Sys2Proof.Machine.execCoreDrained c s
  | .replicaScanStart inst => Sys2Proof.Machine.execReplicaScanStart inst s
  | .replicaScanDone inst => Sys2Proof.Machine.execReplicaScanDone inst s
  | .replicaDigestReceive inst m => Sys2Proof.Machine.execReplicaDigestReceive inst m s
  | .replicaScanTimeout inst => Sys2Proof.Machine.execReplicaScanTimeout inst s
  | .powerOn => Sys2Proof.Machine.execPowerOn s
  | .undervoltage => Sys2Proof.Machine.execUndervoltage s
  | .overvoltage => Sys2Proof.Machine.execOvervoltage s
  | .overvoltageClear => Sys2Proof.Machine.execOvervoltageClear s
  | .overcurrent => Sys2Proof.Machine.execOvercurrent s
  | .standbyLoss => Sys2Proof.Machine.execStandbyLoss s
  | .psSyncLock period => Sys2Proof.Machine.execPsSyncLock period s
  | .psSyncLoss outOfRange => Sys2Proof.Machine.execPsSyncLoss outOfRange s
  | .adcDeliver codes => Sys2Proof.Machine.execAdcDeliver codes s
  | .urgentRequest r => Sys2Proof.Machine.execUrgentRequest r s
  | .sequenceWrite r => Sys2Proof.Machine.execSequenceWrite r s
  | .sequenceControlWrite r => Sys2Proof.Machine.execSequenceControlWrite r s
  | .thermalModelUpdate act => Sys2Proof.Machine.execThermalModelUpdate act s
  | .modelConverged => Sys2Proof.Machine.execModelConverged s
  | .anchorCheck => Sys2Proof.Machine.execAnchorCheck s
  | .enginePause k e => Sys2Proof.Machine.execEnginePause k e s
  | .rstNAssert => Sys2Proof.Machine.execRstNAssert s
  | .rstNRelease straps => Sys2Proof.Machine.execRstNRelease straps s
  | .strapSample straps => Sys2Proof.Machine.execStrapSample straps s
  | .deviceResetWrite r straps => Sys2Proof.Machine.execDeviceResetWrite r straps s
  | .clusterResetWrite r => Sys2Proof.Machine.execClusterResetWrite r s
  | .clusterResetDrained k => Sys2Proof.Machine.execClusterResetDrained k s
  | .clusterRecordWrite r => Sys2Proof.Machine.execClusterRecordWrite r s
  | .clusterPark k => Sys2Proof.Machine.execClusterPark k s
  | .wakeRequest k => Sys2Proof.Machine.execWakeRequest k s
  | .crossingResetRequest x => Sys2Proof.Machine.execCrossingResetRequest x s
  | .crossingResetAck x => Sys2Proof.Machine.execCrossingResetAck x s
  | .crossingReady x => Sys2Proof.Machine.execCrossingReady x s
  | .crossingFallback x => Sys2Proof.Machine.execCrossingFallback x s
  | .mesochronousRecentre x => Sys2Proof.Machine.execMesochronousRecentre x s
  | .refclkDetect => Sys2Proof.Machine.execRefclkDetect s
  | .railsRamped => Sys2Proof.Machine.execRailsRamped s
  | .centralBlockReady scan => Sys2Proof.Machine.execCentralBlockReady scan s
  | .clusterWave w rs => Sys2Proof.Machine.execClusterWave w rs s
  | .clusterReady k => Sys2Proof.Machine.execClusterReady k s
  | .pllLockTimeout k => Sys2Proof.Machine.execPllLockTimeout k s
  | .refclkLoss => Sys2Proof.Machine.execRefclkLoss s
  | .refclkRestore => Sys2Proof.Machine.execRefclkRestore s
  | .tapBypass => Sys2Proof.Machine.execTapBypass s
  | .tapIdcode => Sys2Proof.Machine.execTapIdcode s
  | .tapSamplePreload v => Sys2Proof.Machine.execTapSamplePreload v s
  | .tapExtest v => Sys2Proof.Machine.execTapExtest v s
  | .tapPrivate code => Sys2Proof.Machine.execTapPrivate code s
  | .pauseEnd c => Sys2Proof.Machine.execPauseEnd c s
  | .idleFlitReceive p f => Sys2Proof.Machine.execIdleFlitReceive p f s
  | .plcaBeacon => Sys2Proof.Machine.execPlcaBeacon s
  | .sidebandCarrierChange on => Sys2Proof.Machine.execSidebandCarrierChange on s

end Sys2Proof.Machine
end

