-- ==== Sys2Proof/Safety.lean ====
section
/-!
DEFINITION. What the claims speak of: a command that goes on, what a block that does not act holds (R407, R419), and the
invariant that every step keeps.
-/
namespace Sys2Proof.Machine

/-- The outcome of a command that goes on. -/
def goesOn (o : Host.Outcome State Fault Refusal) : Prop := ∃ t, o = .next t

/-- What is left of a block that is unpowered or held in reset (Tab. 18.4, R419): every table, register, counter, key, request,
program, engine and port stands at its reset value. The identity store, the clocks, the power stage, the straps and the TAP
are not named. -/
def Device.dark (d : Device) : Prop :=
  d.regs = [] ∧ d.ctrs = [] ∧ d.cim = Cim.reset ∧ d.mem = MemS.reset ∧ d.attn = AttnS.reset ∧ d.serv = ServS.reset ∧
    d.cast = CastS.reset ∧ d.sync = SyncS.reset ∧ d.dict = DictS.reset ∧ d.rel = RelS.reset ∧
    d.fab.ports = [] ∧ d.fab.reorder = [] ∧ d.fab.down = [] ∧ d.fab.unreachable = [] ∧ d.fab.written = false ∧
    d.sec.running = [] ∧ d.sec.verifying = none ∧ d.sec.unlocked = false ∧ d.sec.evidence = []

/-- The commands of the pins, the power stage and the TAP, which act whether or not the management domain runs. -/
def ofPins : Instr → Bool
  | .powerOn | .undervoltage | .overvoltage | .overvoltageClear | .overcurrent | .standbyLoss | .psSyncLock _
  | .psSyncLoss _ | .rstNAssert | .rstNRelease _ | .strapSample _ | .tapBypass | .tapIdcode | .tapSamplePreload _
  | .tapExtest _ | .tapPrivate _ => true
  | _ => false

/-- A block that does not act keeps nothing that a reset clears. -/
def State.inv (s : State) : Prop := s.alive = false → s.dev.dark

/-- The command goes on with the block in a state of its own; the queue and the supply stay. -/
def State.goes (s : State) (d : Device) : Host.Outcome State Fault Refusal := .next { s with dev := d }

/-! ### Step words -/

/-- The word `w`, whose needs `plan` tells, issues on core `c` of a running block at cycle `t`; `d` is the block as R95 leaves
it at that cycle, before the word's own effect. -/
def State.issues (s : State) (c : CoreIx) (w : StepWord) (plan : Device → OpPlan) (t : Nat) (d : Device) : Prop :=
  s.alive = true ∧ s.dev.issue c.val w plan = (some t, d)

/-- The word `w` comes up on core `c` of a running block with nothing to wait for (R95): the core runs a step, the word is
fetched and no earlier hold stands, no pause is asked for, every tag of its wait mask has signalled, its encoding is listed,
its operands pass their checks, no scoreboard entry conflicts with its ranges and no earlier word holds a unit it needs. -/
def State.ready (s : State) (c : CoreIx) (w : StepWord) (plan : Device → OpPlan) : Prop :=
  let d := s.dev
  let q := (d.core c.val).seq
  let t := q.prev + max 1 (wDelay w)
  let f := d.fetchWord c.val q.word
  let p := plan (f.2.landUpTo c.val t)
  s.alive = true ∧ d.canIssue c.val = true ∧ f.1 = .word ∧ q.wait = none ∧ (wPause w = false ∨ q.pause = none) ∧
    (∀ g ∈ waitTags (wWait w), ∃ u, (q.tagSt g).signal = some u ∧ u ≤ t) ∧
    p.listed = true ∧ p.fault = none ∧ (p.dma = false ∨ q.descriptors < 16) ∧
    boardHits q.board (p.ranges.map (·.1)) t = [] ∧
    ∀ r ∈ p.units.map (Resv.shift t), ∀ o ∈ q.resv, o.overlaps r = false

/-- A result is in flight on a core and becomes visible at cycle `t` (R96, R102). -/
def Device.awaits (d : Device) (c t : Nat) (l : Land) : Prop := (t, l) ∈ (d.core c).seq.landing

/-- Nothing of a core but what its sequencer keeps differs: the registers a word reads stay until its result lands. -/
def sameRegs (d e : Device) (c : Nat) : Prop := (e.core c).regs = (d.core c).regs

/-- Every core but `c` is the same, and every byte of the scratchpad with its poison. -/
def sameOthers (d e : Device) (c : Nat) : Prop :=
  (∀ c', c' ≠ c → e.core c' = d.core c') ∧ e.mem.m = d.mem.m

/-! ### Writes of dictionary objects (R327) -/

/-- The row a WRITE is judged by: 8003h.00, which is else read, is re-created under a key (Tab. 20.2). -/
def writeRow? (index sub : Nat) : Option ObjRow :=
  (objAt? index sub).map (fun o => if o.key = 0x800300 then { o with right := 4 } else o)

/-- A keyed WRITE passes steps 1 to 4 of R327. -/
def Device.cleared (d : Device) (index sub : Nat) (rule : WriteRule) (r : Req) (o : ObjRow) : Prop :=
  reqTenantOk r = true ∧ reqFault r = none ∧ writeRow? index sub = some o ∧ r.keyed = true ∧
    d.checkGood r 2 index sub = true ∧ d.writeFault r o = none ∧ rule.auth d (d.soFar r) = true

/-- A keyed WRITE of a whole value passes steps 1 to 4 and the checks of a segment in step 5. -/
def Device.passes (d : Device) (index sub : Nat) (rule : WriteRule) (r : Req) (o : ObjRow) : Prop :=
  d.cleared index sub rule r o ∧ d.transfer? r = none ∧ r.offset = 0#32 ∧ r.total.toNat = r.payload.length

/-- Such a WRITE to a running block is executed: its object needs no counter, or the counter is accepted (R334). -/
def State.writes (s : State) (index sub : Nat) (rule : WriteRule) (r : Req) (o : ObjRow) : Prop :=
  s.alive = true ∧ s.dev.passes index sub rule r o ∧
    (o.right = 4 → ∃ k, s.dev.slotOf r = some k ∧ k.2.judge r.counter.toNat r.check = .accept)

/-- The block as step 5 leaves it: the counter of a critical command is taken. -/
def Device.counted (d : Device) (index : Nat) (o : ObjRow) (r : Req) : Device :=
  match (if o.right = 4 then d.slotOf r else none) with
  | none => d
  | some k => d.putSlot k.1 (k.2.accept ⟨r.counter.toNat, o.key, r.check, dProgress, [], clientOf index r.payload⟩)

/-- The command goes on with an executed WRITE answered: `d` is the block with the write's effect. -/
def State.wrote (s : State) (index sub : Nat) (o : ObjRow) (r : Req) (status : Nat) (payload : List Byte) (d : Device) :
    Host.Outcome State Fault Refusal :=
  s.goes (d.finishWrite ((s.dev.counted index o r).answerKey r) r index sub (decide (o.right = 4)) status payload)

/-- The WRITE is the last segment of a transfer (R330): `v` is the value it makes whole, and `e` the block with the transfer
closed. -/
def State.lasts (s : State) (index sub : Nat) (rule : WriteRule) (r : Req) (o : ObjRow) (v : List Byte) (e : Device) : Prop :=
  s.alive = true ∧ s.dev.cleared index sub rule r o ∧ ∃ t, s.dev.transfer? r = some t ∧ t.obj = o.key ∧
    t.counter = r.counter.toNat ∧ t.dup = false ∧ t.segs.find? (fun x => decide (x.1 = r.offset.toNat)) = none ∧
    r.offset.toNat = t.got ∧ t.got + r.payload.length = t.total ∧ v = t.value ++ r.payload ∧
    e = s.dev.closeTransfer r index t v

/-- The WRITE is executed with the whole value `v` on the block `e`: at once, or as the last segment of a transfer. -/
def State.takes (s : State) (index sub : Nat) (rule : WriteRule) (r : Req) (o : ObjRow) (v : List Byte) (e : Device) : Prop :=
  (s.writes index sub rule r o ∧ v = r.payload ∧ e = s.dev.counted index o r) ∨ s.lasts index sub rule r o v e

/-- The command goes on with such a WRITE answered: `d` is the block with the write's effect on `e`. -/
def State.told (s : State) (e : Device) (index sub : Nat) (o : ObjRow) (r : Req) (status : Nat) (payload : List Byte)
    (d : Device) : Host.Outcome State Fault Refusal :=
  s.goes (d.finishWrite (e.answerKey r) r index sub (decide (o.right = 4)) status payload)

/-- The commands that are keyed WRITEs of one object, but SUBMIT, which may start a round besides: each with its index, its
sub-index and its chapter's rule. `x` stands for sections of a maquette, `st` for the straps at a device reset. -/
def keyedWrites (x : MaqExtra) (st : Straps) : List ((Req → Instr) × Nat × Nat × WriteRule) :=
  [(.raiseFloor, 0x1010, 6, ruleRaiseFloor), (.imageLoad, 0x1020, 0, ruleImageLoad), (.diagnosticUnlock, 0x1022, 0, ruleUnlock),
   (.attestationRequest, 0x1030, 0, ruleAttestation), (.sequenceControlWrite, 0x2020, 1, ruleSeqControl),
   (.sequenceWrite, 0x2020, 2, ruleSequence), (.urgentRequest, 0x2020, 5, ruleUrgent),
   ((.deviceResetWrite · st), 0x3001, 1, ruleDeviceReset (some st)), (.clusterResetWrite, 0x3001, 2, ruleClusterReset),
   (.clusterRecordWrite, 0x3002, 0, ruleClusterRecords), (.coordinateWrite, 0x4000, 1, ruleCoordinate),
   (.portRecordWrite, 0x4010, 0, rulePorts), (.defineTenant, 0x5001, 0, ruleDefineTenant),
   (.undefineTenant, 0x5002, 0, ruleUndefineTenant), (.createContext, 0x5004, 0, ruleCreateContext),
   (.releaseContext, 0x5005, 0, ruleReleaseContext), (.keyInstall, 0x5010, 0, ruleKeyInstall),
   (.keyRemove, 0x5011, 0, ruleKeyRemove), (.acknowledgedSequenceWrite, 0x5032, 0, ruleAck), (.cancel, 0x6002, 0, ruleCancel)] ++
  [(.tenantServingWrite, 0x6004, 0, ruleTenantServing), (.instanceServingWrite, 0x6006, 0, ruleInstServing),
   (.expertControlWrite, 0x6030, 0, ruleExperts), ((.castOpen · x), 0x7000, 1, ruleCastOpen x),
   (.castClose, 0x7000, 2, ruleCastClose), (.castAbort, 0x7000, 3, ruleCastAbort), (.chunk, 0x7002, 0, ruleChunk),
   ((.swapOpen · x), 0x7010, 1, ruleSwapOpen x), (.regionRecast, 0x7032, 0, ruleRecast),
   (.adapterInstall, 0x7061, 0, ruleAdapterInstall), (.adapterRecordWrite, 0x7062, 0, ruleAdapterRecords),
   (.adapterRemove, 0x7064, 0, ruleAdapterRemove), (.createHandle, 0x8001, 0, ruleCreateHandle),
   (.releaseHandle, 0x8002, 0, ruleReleaseHandle), (.handleRecreate, 0x8003, 0, ruleHandleTable),
   (.revisitPeriodWrite, 0x9000, 1, ruleRevisit), (.redundancyHintWrite, 0x9011, 0, ruleHint),
   (.scanSecurityTile, 0xA000, 6, ruleScanTile), (.sporePackInstall, 0xA020, 0, rulePackInstall),
   (.sporePackRemove, 0xA022, 0, rulePackRemove), (.coreHealthWrite, 0xA060, 0, ruleCoreHealth), (.bind, 0xB001, 0, ruleBind),
   (.unbind, 0xB002, 0, ruleUnbind), (.handSet, 0xB012, 0, ruleHandSet)]

/-! ### Other requests of the dictionary -/

/-- A READ, DESCRIBE, ABORT or ECHO of code `code` passes steps 1 to 4 of R327 and reaches the object `o`. -/
def Device.asked (d : Device) (code index sub : Nat) (r : Req) (o : ObjRow) : Prop :=
  reqTenantOk r = true ∧ reqFault r = none ∧ objAt? index sub = some o ∧
    (r.keyed = false → unkeyedRange index = true ∧ code ≠ 3) ∧ (r.keyed = true → d.checkGood r code index sub = true) ∧
    d.tenantDefined r.tenant.toNat = true

/-- What a READ returns: evidence goes to the tenant and source that asked for it (R353), every other value as R434 says. -/
def Device.shown (d : Device) (r : Req) (o : ObjRow) : List Byte :=
  if o.key = 0x103100 then d.evidenceFor r.tenant.toNat (reqSrc r) else d.value o.key r.tenant.toNat

/-! ### Ports -/

/-- A port without its sending side: its numbers and credits for sending, its retry buffer and what waits. -/
def Port.kept (x : Port) : Port := { x with txSeq := 0, retry := [], credits := [], queue := [], share := 0 }

end Sys2Proof.Machine
end

