-- ==== Sys2Proof/Certificates/Slice0/Obligations.lean ====
section
/-!
DEFINITION. The statements for the provers: what the rules of the spec say of the commands and of the machine.
-/
open Sys2Proof Sys2Proof.Machine

/-! ### The machine as a whole -/

/-- A step takes the command at the front of the queue and runs it on the state with the rest of the queue. -/
def Obligations.StepRunsFrontCommand : Prop :=
  ∀ (i : Instr) (rest : List Instr) (s : State), s.pending = i :: rest → step s = exec i { s with pending := rest }

/-- With no command waiting, one 10 ns period of REFCLK passes while the standby domain runs, and nothing else happens. The
period as the unit of an idle step is the model's choice (log 13). -/
def Obligations.IdleStepPassesTime : Prop :=
  ∀ s : State, s.pending = [] →
    (s.sup.standby = false → step s = .next s) ∧
    (s.sup.standby = true → step s = .next { s with dev := s.dev.advance 10 } ∧
      (s.dev.advance 10).clk.up = s.dev.clk.up + 10 ∧
      (s.dev.fab.slew = 0 → s.dev.advance 10 =
        { s.dev with clk := { s.dev.clk with up := s.dev.clk.up + 10, time := s.dev.clk.time + 10#64 } }))

/-- The state after reset meets the invariant, acts, and has no command waiting. -/
def Obligations.ResetMeetsInvariant : Prop :=
  State.reset.inv ∧ State.reset.alive = true ∧ State.reset.pending = [] ∧ State.reset.dev.dark ∧
    State.reset.dev.mem.m.wf = true

/-- Every step keeps the invariant: a block that is unpowered or held in reset holds nothing that Tab. 18.4 resets. -/
def Obligations.StepKeepsInvariant : Prop :=
  ∀ s t : State, s.inv → step s = .next t → t.inv

/-- No command changes the queue of the commands that wait behind it. -/
def Obligations.CommandsKeepQueue : Prop :=
  ∀ (i : Instr) (s t : State), exec i s = .next t → t.pending = s.pending

/-- The supply and the reset pin change by the commands that stand for them alone (R407, R419). -/
def Obligations.OnlyPinsMoveSupply : Prop :=
  ∀ (i : Instr) (s t : State), exec i s = .next t →
    (i = .powerOn → t.sup = { s.sup with standby := true }) ∧
    (i = .standbyLoss → t.sup = { s.sup with standby := false }) ∧
    (i = .rstNAssert → t.sup = { s.sup with rstLow := true }) ∧
    (∀ st, i = .rstNRelease st → t.sup = { s.sup with rstLow := false }) ∧
    ((i ≠ .powerOn ∧ i ≠ .standbyLoss ∧ i ≠ .rstNAssert ∧ ∀ st, i ≠ .rstNRelease st) → t.sup = s.sup)

/-- Every command goes on, in every state, but for one: a private TAP instruction of a powered block after a diagnostic
unlock stops, under its own name (R423 gives it no effect). -/
def Obligations.OnlyPrivateTapStops : Prop :=
  ∀ (i : Instr) (s : State),
    goesOn (exec i s) ∨
      ∃ code : BitVec 8, i = .tapPrivate code ∧ s.dev.sec.unlocked = true ∧ s.sup.standby = true ∧
        exec i s = .refused (.privateTap code.toNat)

/-- While the standby domain is off or RST_N is low, every command but those of the pins, the power stage and the TAP finds
nothing that acts and changes nothing. -/
def Obligations.DarkBlockKeepsState : Prop :=
  ∀ (i : Instr) (s : State), s.alive = false → ofPins i = false → exec i s = .next s

/-! ### Issue (R95, R96) -/

/-- R95 on every word that issues: it issues no earlier than the delay allows, after every tag of its wait mask, on a cycle on
which no scoreboard entry conflicts with its ranges and no earlier word holds a unit it needs; and the next word counts from
that cycle. -/
def Obligations.IssueCycle : Prop :=
  ∀ (d d' : Device) (c : Nat) (w : StepWord) (plan : Device → OpPlan) (t : Nat), d.issue c w plan = (some t, d') →
    let q := (d.core c).seq
    d.canIssue c = true ∧ q.prev + max 1 (wDelay w) ≤ t ∧
      (∀ g ∈ waitTags (wWait w), ∃ u, (q.tagSt g).signal = some u ∧ u ≤ t) ∧
      (d'.core c).seq.prev = t ∧ (d'.core c).seq.word = q.word + 1 ∧ (d'.core c).seq.wait = none ∧
      (plan ((d.fetchWord c q.word).2.landUpTo c (q.prev + max 1 (wDelay w)))).listed = true ∧
      ∃ e : Device, (plan e).fault = none ∧ boardHits q.board ((plan e).ranges.map (·.1)) t = [] ∧
        ∀ r ∈ (plan e).units.map (Resv.shift t), ∀ o ∈ q.resv, o.overlaps r = false

/-- R95 with nothing to wait for: tags that have signalled, no pause asked for, no conflict and free units. The word issues
exactly max(1, delay) cycles after the word before it. -/
def Obligations.PlainWordIssues : Prop :=
  ∀ (d : Device) (c : Nat) (w : StepWord) (plan : Device → OpPlan),
    let q := (d.core c).seq
    let t := q.prev + max 1 (wDelay w)
    let f := d.fetchWord c q.word
    let p := plan (f.2.landUpTo c t)
    d.canIssue c = true → f.1 = .word → q.wait = none → (wPause w = false ∨ q.pause = none) →
    (∀ g ∈ waitTags (wWait w), ∃ u, (q.tagSt g).signal = some u ∧ u ≤ t) →
    p.listed = true → p.fault = none → (p.dma = false ∨ q.descriptors < 16) →
    boardHits q.board (p.ranges.map (·.1)) t = [] →
    (∀ r ∈ p.units.map (Resv.shift t), ∀ o ∈ q.resv, o.overlaps r = false) →
    ∃ d', d.issue c w plan = (some t, d')

/-- R96 on a word whose encoding is not listed: it does not issue; the step takes no further word, ends with the
schedule-fault status, and C020h.01 counts it. -/
def Obligations.UnlistedWordEndsStep : Prop :=
  ∀ (d : Device) (c : Nat) (w : StepWord) (plan : Device → OpPlan),
    let q := (d.core c).seq
    let t := q.prev + max 1 (wDelay w)
    let f := d.fetchWord c q.word
    d.canIssue c = true → f.1 = .word → q.status = 0 → (plan (f.2.landUpTo c t)).listed = false →
    ∃ d', d.issue c w plan = (none, d') ∧ d'.canIssue c = false ∧ (d'.core c).seq.status = 0x07 ∧
      (d'.core c).seq.ended = true ∧ (d'.core c).seq.prev = t ∧
      d'.ctr (key 0xC020 1) = min (2 ^ 64 - 1) ((f.2.landUpTo c t).ctr (key 0xC020 1) + 1)

/-! ### Control words (R118–R120, R105, R117) -/

/-- NOP only advances the sequencer; COMMIT closes the step for issue; GRID sets the grid two cycles later and clears the
held vector; LOOP and ENDLOOP move the loop counter and choose the next word. -/
def Obligations.ControlWords : Prop :=
  ∀ (c : CoreIx) (w : StepWord) (s : State) (t : Nat) (d : Device),
    (s.issues c w (fun _ => { listed := listedWord w 0 0 }) t d → exec (.nop c w) s = s.goes d) ∧
    (s.issues c w (fun _ => { listed := listedWord w 0 2 }) t d →
      exec (.commit c w) s = s.goes (d.modCore c.val (fun x => { x with seq := { x.seq with phase := .drain } }))) ∧
    (s.issues c w (fun _ =>
        { listed := listedWord w 0 3 && decide (fld w 42 40 + fld w 45 43 ≤ 5),
          units := ⟨.broadcast, 0, 2⟩ :: allEngines 0 2, latency := 2 }) t d →
      exec (.grid c w) s = s.goes (d.fly c.val (t + 2) (.grid (fld w 42 40) (fld w 45 43)))) ∧
    (∀ n, (if w.getLsbD 42 then tableWord (s.dev.core c.val).seq.rows (fld w 58 43) else some (fld w 58 43)) = some n →
      s.issues c w (fun _ =>
        { listed := listedWord w 0 4,
          units := ⟨.sequencer, 0, 1⟩ :: (if w.getLsbD 42 then [⟨.loader, 0, 1⟩] else []), latency := 1 }) t d →
      ∃ u, exec (.loop c w) s = s.goes u ∧
        Tbl.get ⟨0, 0, 0, false⟩ (u.core c.val).regs.loops (fld w 41 40) = ⟨0, n, (d.core c.val).seq.word, decide (n ≠ 0)⟩ ∧
        (n ≠ 0 → (u.core c.val).seq = (d.core c.val).seq) ∧
        (∀ x, n = 0 → afterEndloop ((d.progWords c.val).drop (d.core c.val).seq.word) (d.core c.val).seq.word 0 = some x →
          (u.core c.val).seq.word = x) ∧ sameOthers d u c.val) ∧
    (s.issues c w (fun _ => { listed := listedWord w 0 5, units := [⟨.sequencer, 0, 1⟩], latency := 1 }) t d →
      let l := Tbl.get (⟨0, 0, 0, false⟩ : LoopCtr) (d.core c.val).regs.loops (fld w 41 40)
      ∃ u, exec (.endloop c w) s = s.goes u ∧
        (Tbl.get ⟨0, 0, 0, false⟩ (u.core c.val).regs.loops (fld w 41 40)).value = l.value + 1 ∧
        (l.active = true → l.value + 1 < l.count → (u.core c.val).seq.word = l.body) ∧
        (¬ (l.active = true ∧ l.value + 1 < l.count) → (u.core c.val).seq.word = (d.core c.val).seq.word) ∧
        sameOthers d u c.val)

/-- STEP on an idle or ready core whose lists pass the checks of R115 and R190, with no reference rerun of its instance to
wait for: the core runs the step from its first cycle, its registers stand at the values of R110, the step queue begins anew,
the length table is loaded, and the next word counts from the step's start. Until such a rerun is made the step waits. -/
def Obligations.StepWordStarts : Prop :=
  ∀ (c : CoreIx) (w : StepWord) (s : State), s.alive = true → s.dev.coreUp c.val = true →
    ((s.dev.core c.val).seq.phase = .idle ∨ (s.dev.core c.val).seq.phase = .ready) → listedWord w 0 1 = true →
    (s.dev.rerunWaits c.val = true → exec (.step c w) s = s.goes s.dev) ∧
    (s.dev.rerunWaits c.val = false →
    let x := s.dev.core c.val
    let p := x.aux.plans.head?.getD Plan.zero
    let t := max s.dev.cyc x.seq.prev
    let n := fld w 103 96 + 1
    let q : Seq := { Seq.reset with
      phase := .running, plan := p, rows := s.dev.roundRows p.inst, start := t, prev := t, done := t,
      pause := x.seq.pause, board := x.seq.board, ops := x.seq.ops, nextOp := x.seq.nextOp }
    let f := ((s.dev.reachCyc t).setCore c.val ⟨Core.atStep, q, { x.aux with plans := x.aux.plans.drop 1 }⟩).setQueue c.val [] |>.fetchWord c.val 0
    let lh := fld w 52 40
    let lo := 64 * fld w 67 53
    let th := fld w 80 68
    let dst := 64 * fld w 95 81
    f.1 = .word → f.2.checkFixed c.val lh lo (2 * n) false = none →
    f.2.checkFixed c.val th dst (4 * (4 + 4 * n)) false = none →
    let r1 := f.2.readH lh lo ((n + 1) / 2)
    let r2 := r1.2.readH th dst (4 + 4 * n)
    let table := r2.1.map (fun y => y.w.toNat)
    let rows := lenRows ((List.range n).map (fun i => leAt (rwBytes r1.1) (2 * i) 2)) table
    (r1.1 ++ r2.1).any (·.poison) = false → r2.2.lenOk (r2.2.ownsInst p.inst) n rows table = true →
    ∃ u, exec (.step c w) s = s.goes u ∧
      (u.core c.val).seq.rows = rows ∧ (u.core c.val).seq.word = 1 ∧ (u.core c.val).seq.done = t + (n + 15) / 16 + 2 ∧
      (u.core c.val).seq.resv = [⟨.loader, t, t + ((n + 15) / 16 + 2)⟩] ∧ sameOthers r2.2 u c.val ∧
      (u.core c.val).regs = Core.reset)

/-! ### Engine words (R121–R126, R39) -/

/-- EVAL: each plane reaches each engine of the grid in its slot, one slot a plane, or in compact mode the planes that need
no conversion at once and the others one slot each (R40, R42); in compact mode an engine all of whose columns are disabled
adds nothing. With Accumulate 0 the accumulators clear by the first of the sums. Until then the accumulators, the outlier
sums, staging and the Q registers stay as they are, and the new vector is held. A plane in its slot sends its sums on their way for 3 cycles when it needs no conversion and 5 when it does,
and they add to the accumulators they name. An EVAL that can issue at once does, and completes. -/
def Obligations.EvalCompletes : Prop :=
  ∀ (c : CoreIx) (w : StepWord) (rd : List Reading) (s : State),
    (∀ (t : Nat) (d : Device), s.issues c w (fun d => d.evalPlan c.val w) t d →
      let r := (d.core c.val).regs
      let b := fld w 86 79
      let ne := d.gridOut c.val r
      let tag := ((d.core c.val).seq.tokenTag (tForm w 111 r)).1
      let ev := if w.getLsbD 98 then ([], d) else d.readH (aForm w 40).handle ((aForm w 40).byteOff r) (16 * b)
      ∀ h, (ev.2.evalVector c.val w ev.1).2 = some h →
      let t1 := t + (if w.getLsbD 98 then 0 else (b + 7) / 8 - 1)
      let planes := fun (p : Nat) => planeTimes (wCompact w) ((evalPlanes w).map (h.planeOf (p / 2 ^ r.go)))
      ∃ u : Device, exec (.eval c w rd) s = s.goes u ∧
        (r.gi + r.go ≤ 5 → ∀ p, p < 2 ^ (r.gi + r.go) →
          let dirty := h.poisoned (p / 2 ^ r.go) 0 || h.poisoned (p / 2 ^ r.go) 1
          let off := wCompact w && decide ((d.engine c.val (d.physAt c.val p)).disabled = BitVec.allOnes 1024)
          (off = false → ∀ x ∈ planes p, ∃ y : PlaneRun, u.awaits c.val (t1 + x.1) (.plane y) ∧ y.pos = p ∧
            y.plane = x.2 ∧ y.base = p % 2 ^ r.go * ne ∧ y.outs = ne ∧ y.tag = tag ∧ y.poison = dirty ∧
            y.rd = (readingsAt rd p).filter (fun z => decide (z.pass = x.2.ix))) ∧
          (off = true → u.awaits c.val (t1 + 3) (.acc (p % 2 ^ r.go * ne) ne []
            (if dirty then (List.range ne).map (· + p % 2 ^ r.go * ne) else []) tag))) ∧
        (w.getLsbD 97 = false → ∃ k, k ≤ 5 ∧ u.awaits c.val (t1 + k) (.accClear (2 ^ r.go * ne) tag) ∧
          ∀ p, p < 2 ^ (r.gi + r.go) → ∀ x ∈ planes p, k ≤ x.1 + x.2.lat) ∧
        (u.core c.val).regs.held = some h ∧
        (u.core c.val).regs.acc = r.acc ∧ (u.core c.val).regs.osum = r.osum ∧ (u.core c.val).regs.stage = r.stage ∧
        (u.core c.val).regs.q = r.q ∧ (u.core c.val).regs.loops = r.loops ∧ sameOthers d u c.val) ∧
    (∀ (e : Device) (t : Nat) (y : PlaneRun),
      (e.applyLand c.val t (.plane y)).awaits c.val (t + y.plane.lat)
        (.acc y.base y.outs (e.evalPlane c.val y).2.1 (e.evalPlane c.val y).2.2 y.tag)) ∧
    (∀ (e : Device) (t lo n : Nat) (ds : Tbl Int) (bad : List Nat) (tag : Tag),
      let old := (e.core c.val).regs.acc
      ((e.applyLand c.val t (.acc lo n ds bad tag)).core c.val).regs.acc =
        Tbl.setRange Acc.zero old lo ((numbered lo (Tbl.slice Acc.zero old lo n)).map (fun v =>
          ⟨v.2.v + BitVec.ofInt 48 (Tbl.get 0 ds v.1), v.2.poison || bad.contains v.1, tag⟩))) ∧
    (s.ready c w (fun d => d.evalPlan c.val w) →
      ∃ t d u, s.issues c w (fun d => d.evalPlan c.val w) t d ∧ exec (.eval c w rd) s = .next { s with dev := u })

/-- EVALT and EVALX: for every position of the grid a record is on its way into the buffer, 256 B of EVALT and 272 B of
EVALX, visible 5 and 7 cycles after issue plus a cycle an engine; no register and no byte changes before. A word of either
kind that can issue at once does, and completes. -/
def Obligations.MaskWordsComplete : Prop :=
  ∀ (c : CoreIx) (w : StepWord) (rd : List Reading) (s : State),
    let evaltPlan := fun (d : Device) =>
      d.maskPlan c.val w 1 256 1 2 5 (decide (fld w 89 82 ≤ 128 ∧ fld w 97 90 ≤ 128))
    let evalxPlan := fun (d : Device) => d.maskPlan c.val w 2 272 2 4 7 true
    (∀ (t : Nat) (d : Device) (h : HeldVec),
      let r := (d.core c.val).regs
      let a := aForm w 40
      let ng := 2 ^ (r.gi + r.go)
      r.held = some h →
      (s.issues c w evaltPlan t d →
        ∃ u, exec (.evalt c w rd) s = s.goes u ∧
          (∀ p, p < ng → ∃ ws, ws.length = 64 ∧ u.awaits c.val (t + 5 + ng) (.buf a.handle (a.byteOff r + 256 * p) ws)) ∧
          sameRegs d u c.val ∧ sameOthers d u c.val) ∧
      (s.issues c w evalxPlan t d →
        ∃ u, exec (.evalx c w rd) s = s.goes u ∧
          (∀ p, p < ng → ∃ ws, ws.length = 68 ∧ u.awaits c.val (t + 7 + ng) (.buf a.handle (a.byteOff r + 272 * p) ws)) ∧
          sameRegs d u c.val ∧ sameOthers d u c.val)) ∧
    (s.ready c w evaltPlan →
      ∃ t d u, s.issues c w evaltPlan t d ∧ exec (.evalt c w rd) s = .next { s with dev := u }) ∧
    (s.ready c w evalxPlan →
      ∃ t d u, s.issues c w evalxPlan t d ∧ exec (.evalx c w rd) s = .next { s with dev := u })

/-- RDROW sends a row of the engine at the named position to the buffer, in logical or physical form; WRROW writes the row
three cycles later under its mask, unless a word of the data or the mask is poisoned; both take the engine's slot, from which
an access of the calibration unit moves on (R45). ENABLE brings each engine's record to it, which replaces the enables, keeps
those it names or adds them by its mode, unless a word is poisoned. -/
def Obligations.RowWordsComplete : Prop :=
  ∀ (c : CoreIx) (w : StepWord) (s : State) (t : Nat) (d : Device),
    let r := (d.core c.val).regs
    let a := aForm w 40
    let phys := d.physAt c.val (fld w 83 79)
    (s.issues c w (fun d => d.rdrowPlan c.val w) t d →
      let e := d.takeSlots c.val phys t [⟨t, 2, true, true, none⟩]
      exec (.rdrow c w) s = s.goes (e.fly c.val (t + 4) (.buf a.handle (a.byteOff r)
        (if w.getLsbD 92 then maskWords 33 ((e.engine c.val phys).rowPhys (fld w 91 84)) false
         else maskWords 32 ((e.engine c.val phys).rowLog (fld w 91 84)) false)))) ∧
    (s.issues c w (fun d => d.wrrowPlan c.val w) t d →
      let x := (d.takeSlots c.val phys t [⟨t + 1, 2, true, true, none⟩]).readH a.handle (a.byteOff r) 66
      let lim := if w.getLsbD 92 then 1040 else 1024
      (x.1.any (·.poison) = false → exec (.wrrow c w) s = s.goes (x.2.fly c.val (t + 3) (.row (x.2.physAt c.val (fld w 83 79)) (fld w 91 84) (wordsNat (x.1.take 33) % 2 ^ lim)
          (wordsNat (x.1.drop 33) % 2 ^ lim) (w.getLsbD 92)))) ∧
      (x.1.any (·.poison) = true → ∃ u, exec (.wrrow c w) s = s.goes u ∧
        (u.core c.val).seq.landing = (x.2.core c.val).seq.landing ∧ (u.core c.val).seq.poisonAll = true ∧
        sameRegs d u c.val ∧ sameOthers d u c.val)) ∧
    (s.issues c w (fun d => d.enablePlan c.val w) t d →
      let ng := 2 ^ (r.gi + r.go)
      let sz := if w.getLsbD 100 then 256 else 128
      let x := d.readH a.handle (a.byteOff r) (sz * ng / 4)
      (x.1.any (·.poison) = false → ∃ u, exec (.enable c w) s = s.goes u ∧
        (∀ p, p < ng → u.awaits c.val (t + enableCycles ng (w.getLsbD 100) + 1) (.enable (x.2.physAt c.val p) (fld w 99 98)
          (enableBits ((x.1.drop (sz / 4 * p)).take (sz / 4)) (w.getLsbD 100)) (w.getLsbD 100))) ∧
        sameRegs x.2 u c.val ∧ sameOthers x.2 u c.val)) ∧
    (∀ (e : Device) (p m : Nat) (en : BitVec 1024) (fm : Bool),
      let old := (e.engine c.val p).disabled
      ((e.applyLand c.val t (.enable p m en fm)).engine c.val p).disabled =
        if m = 0 then ~~~en else if m = 1 then old ||| ~~~en else old &&& ~~~en)


/-! ### Vector, staging and path words (R128–R135) -/

/-- The ten elementwise operations: element by element over staging (or an immediate, or a Q register), each rounding taken
through R69, poison and owner tag of every input joined, on the way to staging at the latency of Tab. 6.12. -/
def Obligations.VectorElementwise : Prop :=
  ∀ (c : CoreIx) (w : StepWord) (s : State) (t : Nat) (d : Device),
    let r := (d.core c.val).regs
    let n := fld w 66 53
    let as := Tbl.slice VWord.zero r.stage (fld w 79 67) n
    let bs := if fld w 94 93 = 0 then Tbl.slice VWord.zero r.stage (fld w 92 80) n
      else if fld w 94 93 = 1 then List.replicate n ⟨BitVec.ofNat 32 (fld w 126 95), false, .none⟩
      else List.replicate n (Tbl.get VWord.zero r.q (fld w 83 80))
    let ds := Tbl.slice VWord.zero r.stage (fld w 52 40) n
    (∀ op f i, (op, f, i) ∈ [(0, f32Add, Instr.vadd c w), (1, f32Sub, Instr.vsub c w), (2, f32Mul, Instr.vmul c w),
        (4, f32MaxOp, Instr.vmax c w), (5, f32MinOp, Instr.vmin c w)] →
      s.issues c w (fun _ => vecPlan op .binary w) t d →
      ∃ u, exec i s = s.goes u ∧
        u.awaits c.val (t + ceilDiv n 64 + 4) (.stage (fld w 52 40) (List.zipWith (fun (a b : VWord) =>
          ⟨(r69 (f a.v b.v)).v, a.poison || b.poison || (r69 (f a.v b.v)).poison, a.tag.join b.tag⟩) as bs)) ∧
        sameRegs d u c.val ∧ sameOthers d u c.val) ∧
    (s.issues c w (fun _ => vecPlan 3 .fma w) t d →
      ∃ u, exec (.vfma c w) s = s.goes u ∧
        u.awaits c.val (t + ceilDiv n 64 + 4) (.stage (fld w 52 40) (List.zipWith (fun (p : VWord × VWord) (x : VWord) =>
          let y := r69 (f32Fma p.1.v p.2.v x.v)
          ⟨y.v, p.1.poison || p.2.poison || x.poison || y.poison, (p.1.tag.join p.2.tag).join x.tag⟩)
          (List.zip as bs) ds)) ∧
        sameRegs d u c.val ∧ sameOthers d u c.val) ∧
    (∀ op f k i, (op, f, k, i) ∈ [(6, id, 4, Instr.vmov c w), (7, f32ExpFn, 8, Instr.vexp c w),
        (8, f32Rsqrt, 8, Instr.vrsqrt c w), (9, f32Recip, 8, Instr.vrecip c w)] →
      s.issues c w (fun _ => vecPlan op .unary w) t d →
      ∃ u, exec i s = s.goes u ∧
        u.awaits c.val (t + ceilDiv n 64 + k) (.stage (fld w 52 40) (as.map (fun (a : VWord) =>
          ⟨(r69 (f a.v)).v, a.poison || (r69 (f a.v)).poison, a.tag⟩))) ∧
        sameRegs d u c.val ∧ sameOthers d u c.val)

/-- The reductions fold n entries of staging in the fixed order of R132 into a Q register; QSET puts its immediate there one
cycle later. -/
def Obligations.VectorReductions : Prop :=
  ∀ (c : CoreIx) (w : StepWord) (s : State) (t : Nat) (d : Device),
    let n := fld w 66 53
    let xs := (Tbl.slice VWord.zero (d.core c.val).regs.stage (fld w 79 67) n).map VWord.val
    let sum := reduceLanes (Val.op2 f32Add) (Val.imm 0#32)
    (∀ op y i, (op, y, i) ∈ [(10, sum xs, Instr.vrsum c w), (11, reduceMax xs, Instr.vrmax c w),
        (12, sum (xs.map (Val.op1 (fun x => f32Mul x x))), Instr.vrssq c w)] →
      s.issues c w (fun _ => vecPlan op .reduce w) t d →
      ∃ u, exec i s = s.goes u ∧ u.awaits c.val (t + ceilDiv n 64 + 6) (.q (fld w 43 40) ⟨y.v, y.poison, y.tag⟩) ∧
        sameRegs d u c.val ∧ sameOthers d u c.val) ∧
    (s.issues c w (fun _ =>
        { listed := listedWord w 3 13 && decide (fld w 94 93 ≠ 3), units := [⟨.vector, 0, 1⟩], latency := 1 }) t d →
      ∃ u, exec (.qset c w) s = s.goes u ∧
        u.awaits c.val (t + 1) (.q (fld w 43 40) ⟨BitVec.ofNat 32 (fld w 126 95), false, .none⟩) ∧
        sameRegs d u c.val ∧ sameOthers d u c.val)

/-- READ: the accumulator is saturated to 32 bits, converted, multiplied by the block exponent, given its outlier sum where
the word asks for it, and scaled by sT, with a rounding and R69 after each operation; saturations are counted; the word's
clear bit clears the entries read. -/
def Obligations.ReadCompletes : Prop :=
  ∀ (c : CoreIx) (w : StepWord) (s : State) (t : Nat) (d : Device), s.issues c w (fun _ => readPlan w) t d →
    let r := (d.core c.val).regs
    let lo := fld w 52 40
    let n := fld w 66 53
    let sat := fun (a : Acc) => clampInt (-(2 ^ 31)) (2 ^ 31 - 1) a.v.toInt
    let as := Tbl.slice Acc.zero r.acc lo n
    let satd := (List.filter (fun (a : Acc) => decide (sat a ≠ a.v.toInt))
      ((List.zip as (Tbl.slice VWord.zero r.osum lo n)).map (·.1))).length
    ∃ u ws, exec (.read c w) s = s.goes u ∧ u.awaits c.val (t + ceilDiv n 64 + 4) (.stage lo ws) ∧
      ws.map (fun (x : VWord) => (x.v, x.tag)) = List.zipWith (fun (a : Acc) (o : VWord) =>
        let x1 := (r69 (f32Scale (f32OfInt (sat a)) ((r.ea.getD 127 : Nat) - 127))).v
        let x2 := if w.getLsbD 99 then (r69 (f32Add x1 o.v)).v else x1
        ((r69 (f32Mul x2 (BitVec.ofNat 32 (fld w 98 67)))).v, a.tag)) as (Tbl.slice VWord.zero r.osum lo n) ∧
      (∀ k, k ≠ key 0x9020 6 → u.ctr k = d.ctr k) ∧
      (satd ≠ 0 → u.ctr (key 0x9020 6) = min (2 ^ 64 - 1) (d.ctr (key 0x9020 6) + satd)) ∧
      (w.getLsbD 100 = false → sameRegs d u c.val) ∧
      (w.getLsbD 100 = true →
        (u.core c.val).regs = { r with acc := Tbl.setRange Acc.zero r.acc lo (List.replicate n Acc.zero),
                                       osum := Tbl.setRange VWord.zero r.osum lo (List.replicate n VWord.zero) }) ∧
      sameOthers d u c.val

/-- PACK sends the entries in the word's format to the buffer, LOAD brings words of the buffer to staging. -/
def Obligations.PackAndLoad : Prop :=
  ∀ (c : CoreIx) (w : StepWord) (s : State) (t : Nat) (d : Device),
    let r := (d.core c.val).regs
    let n := fld w 66 53
    let fmt := fld w 108 106
    let p := if fmt ≤ 1 then ceilDiv n 64 else if fmt ≤ 3 then 3 * ceilDiv n 96 else 2 * ceilDiv n 62
    let a := aForm w 67
    (s.issues c w (fun d => d.packPlan c.val w) t d →
      ∃ u, exec (.pack c w) s = s.goes u ∧
        u.awaits c.val (t + p + 4) (.buf a.handle (a.byteOff r)
          ((packWords fmt (d.clipOf c.val (fld w 124 109)) (Tbl.slice VWord.zero r.stage (fld w 52 40) n)).ws.map (·.1))) ∧
        sameRegs d u c.val ∧ sameOthers d u c.val) ∧
    (s.issues c w (fun d => d.loadPlan c.val w) t d →
      let x := d.readH a.handle (a.byteOff r) (fmtBytes fmt n / 4)
      ∃ u, exec (.load c w) s = s.goes u ∧
        u.awaits c.val (t + p + 4) (.stage (fld w 52 40) (loadWords fmt n x.1)) ∧
        sameRegs x.2 u c.val ∧ sameOthers x.2 u c.val)

/-- PATA forms u := bf16(A x) from a matrix of the buffer or from the factor of the token's pinned adapter; with no adapter
pinned it does nothing. OUTL forms the outlier sums of its range from the outlier list. -/
def Obligations.PatinaAndOutlier : Prop :=
  ∀ (c : CoreIx) (w : StepWord) (s : State) (t : Nat) (d : Device),
    let r := (d.core c.val).regs
    let n := fld w 113 100
    let k := fld w 85 79 + 1
    let a := aForm w 40
    (∀ h, r.held = some h → s.issues c w (fun d => d.patPlan c.val w 0 n 0 (checkIdx 0 n)) t d →
      (w.getLsbD 86 = true → d.pinOf h = 0 → exec (.pata c w) s = s.goes d) ∧
      (w.getLsbD 86 = false →
        let f := d.readH a.handle (a.byteOff r) (ceilDiv (k * n) 2)
        ∃ u, exec (.pata c w) s = s.goes u ∧
          u.awaits c.val (t + ceilDiv (n * k) 1024 + 6)
            (.u false h.layer ((patinaU (h.xs n) (bf16Elems f.1) k n .none).map Val.word)) ∧
          sameRegs f.2 u c.val ∧ sameOthers f.2 u c.val) ∧
      (w.getLsbD 86 = true → d.pinOf h ≠ 0 →
        let f := d.readFactor c.val (d.pinOf h) h.layer (ceilDiv (k * n) 2) false
        ∃ u, exec (.pata c w) s = s.goes u ∧
          u.awaits c.val (t + ceilDiv (n * k) 1024 + 6)
            (.u true h.layer ((patinaU (h.xs n) (bf16Elems f.1) k n h.tag).map Val.word)) ∧
          sameRegs f.2 u c.val ∧ sameOthers f.2 u c.val)) ∧
    (s.issues c w (fun d => d.outlPlan c.val w) t d →
      let m := fld w 66 53
      ∃ u, exec (.outl c w) s = s.goes u ∧
        u.awaits c.val (t + r.outlCount * max 2 (ceilDiv m 64) + 6) (.osum (fld w 52 40) m
          (r.olist.map (fun (o : Outlier) => (⟨o.tag, (List.range m).map (fun i =>
            d.outlProd c.val (d.gridOut c.val r) r o (fld w 52 40 + i))⟩ : OutlRow)))) ∧
        sameRegs d u c.val ∧ sameOthers d u c.val)

/-- PATB adds its term to staging: B u of the common path as it is; of the pinned adapter's path after α; +0.0 where no PATA
has left a u; with no adapter pinned it does nothing. -/
def Obligations.PatbCompletes : Prop :=
  ∀ (c : CoreIx) (w : StepWord) (s : State) (t : Nat) (d : Device),
    let r := (d.core c.val).regs
    let n := fld w 113 100
    let k := fld w 85 79 + 1
    let lo := fld w 99 87
    let a := aForm w 40
    let land := t + ceilDiv (n * k) 1024 + 6
    let old := (Tbl.slice VWord.zero r.stage lo n).map VWord.val
    s.issues c w (fun d => d.patPlan c.val w 1 n 4 (checkIdx lo n)) t d →
    (w.getLsbD 86 = false →
      let f := d.readH a.handle (a.byteOff r) (ceilDiv (k * n) 2)
      ∃ u, exec (.patb c w) s = s.goes u ∧
        u.awaits c.val land (.stage lo ((List.zipWith (Val.op2 f32Add) old
          (patinaTerm (uVals r.uc k) (bf16Elems f.1) k n)).map Val.word)) ∧
        sameRegs f.2 u c.val ∧ sameOthers f.2 u c.val) ∧
    (∀ h, w.getLsbD 86 = true → r.held = some h → d.pinOf h = 0 → exec (.patb c w) s = s.goes d) ∧
    (∀ h, w.getLsbD 86 = true → r.held = some h → d.pinOf h ≠ 0 → r.ua = [] →
      ∃ u, exec (.patb c w) s = s.goes u ∧
        u.awaits c.val land (.stage lo ((List.zipWith (Val.op2 f32Add) old
          (List.replicate n { Val.imm 0#32 with tag := h.tag })).map Val.word)) ∧
        sameRegs d u c.val ∧ sameOthers d u c.val) ∧
    (∀ h, w.getLsbD 86 = true → r.held = some h → d.pinOf h ≠ 0 → r.ua ≠ [] →
      let f := d.readFactor c.val (d.pinOf h) r.uaLayer (ceilDiv (k * n) 2 + 1) true
      ∀ al fs, f.1 = al :: fs →
      let us := uVals r.ua k
      ∃ u, exec (.patb c w) s = s.goes u ∧
        u.awaits c.val land (.stage lo ((List.zipWith (Val.op2 f32Add) old
          ((patinaTerm us (bf16Elems fs) k n).map (fun (v : Val) =>
            { v.op2 f32Mul ⟨al.w, al.poison, .none, false⟩ with tag := joinTags (h.tag :: us.map (·.tag)) }))).map
              Val.word)) ∧
        sameRegs f.2 u c.val ∧ sameOthers f.2 u c.val)

/-! ### Elastic, sync, top-k and sampling words (R136–R142) -/

/-- COPY, GATHER and SCATTER wait in the core's queue from their issue on; they take the next number of the core, and no byte
moves yet. -/
def Obligations.MoveWordsQueue : Prop :=
  ∀ (c : CoreIx) (w : StepWord) (s : State) (t : Nat) (d : Device),
    let r := (d.core c.val).regs
    let q := (d.core c.val).seq
    let a := aForm w 40
    let waits := fun (o : ElOp) =>
      d.modCore c.val (fun x => { x with seq := { q with ops := q.ops ++ [o], nextOp := q.nextOp + 1 } })
    let side := fun (off idx ctr : Nat) =>
      64 * (fld w (off + 18) off + if w.getLsbD idx then r.loopValue (fld w (ctr + 1) ctr) * fld w 125 110 else 0)
    (s.issues c w (fun d => d.copyPlan c.val w) t d →
      exec (.copy c w) s = s.goes (waits ⟨q.nextOp, .copy, wTag w, t, false, true, fld w 52 40, side 53 72 73, fld w 87 75,
        side 88 107 108, 64 * fld w 125 110, none, []⟩)) ∧
    (s.issues c w (fun d => d.gatherPlan c.val w 1) t d →
      exec (.gather c w) s = s.goes (waits ⟨q.nextOp, .gather, wTag w, t, false, true, a.handle, a.byteOff r, 0, 0, 32,
        none, []⟩)) ∧
    (s.issues c w (fun d => d.gatherPlan c.val w 2) t d →
      exec (.scatter c w) s = s.goes (waits ⟨q.nextOp, .scatter, wTag w, t, false, true, a.handle, a.byteOff r, 0, 0, 32,
        none, []⟩))

/-- SIGNAL, WAIT and ARRIVE on an object of this device, on the device that owns the step's requests: SIGNAL adds modulo
2³²; WAIT is satisfied when the value has reached its operand in the modular order, else it waits; the last ARRIVE of a
generation opens the next one, an earlier one waits. -/
def Obligations.SyncWords : Prop :=
  ∀ (c : CoreIx) (w : StepWord) (s : State) (t : Nat) (d : Device) (op obj : Nat) (ob : SyncObj),
    let vid := fld w 51 40
    let a := fld w 83 52
    let id := (d.core c.val).seq.nextOp
    let e := d.queueOp c.val ⟨0, .sync, wTag w, t, false, true, op, a, (d.stepContext c.val).1, vid,
      (d.stepContext c.val).2, none, []⟩
    s.issues c w (fun d => { listed := listedWord w 7 op, fault := d.syncFault c.val vid op a, units := [⟨.sequencer, 0, 1⟩],
                             latency := 1, elastic := some 0 }) t d →
    d.ownsStep c.val = true → (e.translate (d.stepContext c.val).1 vid).1 = some (.here obj) →
    Tbl.find? d.sync.objs obj = some ob → ob.lost = false →
    (op = 0 → ∃ u, exec (.signal c w) s = s.goes u ∧
      Tbl.find? u.sync.objs obj = some { ob with value := ob.value + BitVec.ofNat 32 a } ∧
      (∀ o, o ≠ obj → Tbl.find? u.sync.objs o = Tbl.find? d.sync.objs o) ∧
      u.sync.waiters = d.sync.waiters.filter (fun x => !(decide (x.obj = obj) && !x.arrive &&
        decide ((ob.value + BitVec.ofNat 32 a - x.value).toNat < 2 ^ 31)))) ∧
    (op = 1 → (ob.value - BitVec.ofNat 32 a).toNat < 2 ^ 31 →
      ∃ u, exec (.wait c w) s = s.goes u ∧ u.sync = d.sync ∧
        (wTag w ≠ 0 → (∀ x ∈ (d.core c.val).seq.ops, x.ident ≠ id) →
          ((u.core c.val).seq.tagSt (wTag w)).signal = some (t + 1))) ∧
    (op = 1 → ¬ (ob.value - BitVec.ofNat 32 a).toNat < 2 ^ 31 → d.sync.waiters.length < 4096 →
      ∃ u, exec (.wait c w) s = s.goes u ∧ u.sync = { d.sync with waiters :=
        d.sync.waiters ++ [⟨obj, false, BitVec.ofNat 32 a, 0, some (c.val, id), d.fab.coord, 0⟩] }) ∧
    (op = 2 → 0 < a → a ≤ 65535 → (ob.barrier = 0 ∨ ob.barrier = a) → ob.arrivals + 1 = a →
      ∃ u, exec (.arrive c w) s = s.goes u ∧
        Tbl.find? u.sync.objs obj = some { ob with gen := (ob.gen + 1) % 65536, arrivals := 0, barrier := 0 } ∧
        u.sync.waiters = d.sync.waiters.filter (fun x => !(decide (x.obj = obj) && x.arrive))) ∧
    (op = 2 → 0 < a → a ≤ 65535 → (ob.barrier = 0 ∨ ob.barrier = a) → ob.arrivals + 1 ≠ a → d.sync.waiters.length < 4096 →
      ∃ u, exec (.arrive c w) s = s.goes u ∧
        Tbl.find? u.sync.objs obj = some { ob with arrivals := ob.arrivals + 1, barrier := a } ∧
        u.sync.waiters = d.sync.waiters ++
          [⟨obj, true, BitVec.ofNat 32 a, ob.gen, some (c.val, id), d.fab.coord, 0⟩])

/-- TOPK and TOPKMRG offer their scores to the top-k list, poisoned and NaN ones left out; TOPKOUT writes k entries and
sentinels into the buffer and clears the list where the word says so. -/
def Obligations.TopKWords : Prop :=
  ∀ (c : CoreIx) (w : StepWord) (s : State) (t : Nat) (d : Device),
    let r := (d.core c.val).regs
    let n := fld w 66 53
    let a := aForm w 40
    let entries := fun (es : List (VWord × Nat)) => (es.filter (fun e => !(e.1.poison || f32IsNaN e.1.v))).map
      (fun e => (⟨e.1.v, BitVec.ofNat 32 e.2⟩ : TopEntry))
    let bad := fun (es : List (VWord × Nat)) => es.any (fun e => e.1.poison || f32IsNaN e.1.v)
    (s.issues c w (fun _ => topkPlan w) t d →
      let es := (numbered (fld w 109 78) (Tbl.slice VWord.zero r.stage (fld w 52 40) n)).map (fun e => (e.2, e.1))
      ∃ u, exec (.topk c w) s = s.goes u ∧
        u.awaits c.val (t + ceilDiv n 128 + 8)
          (.topk (w.getLsbD 77) (fld w 76 67 + 1) (entries es) (bad es) (joinTags (es.map (fun e => e.1.tag)))) ∧
        u.ctr (key 0x6040 2) = min (2 ^ 64 - 1) (d.ctr (key 0x6040 2) + n) ∧
        sameRegs d u c.val ∧ sameOthers d u c.val) ∧
    (s.issues c w (fun d => d.topkmrgPlan c.val w) t d →
      let m := fld w 89 79
      let x := d.readH a.handle (a.byteOff r) (2 * m)
      let es := topEntries x.1
      ∃ u, exec (.topkmrg c w) s = s.goes u ∧
        u.awaits c.val (t + ceilDiv m 128 + 8)
          (.topk (w.getLsbD 100) (fld w 99 90 + 1) (entries es) (bad es) (joinTags (es.map (fun e => e.1.tag)))) ∧
        u.ctr (key 0x6040 3) = min (2 ^ 64 - 1) (x.2.ctr (key 0x6040 3) + m) ∧
        sameRegs x.2 u c.val ∧ sameOthers x.2 u c.val) ∧
    (∀ k, r.topk.k = some k → s.issues c w (fun d => d.topkoutPlan c.val w) t d →
      ∃ u ws, exec (.topkout c w) s = s.goes u ∧
        u.awaits c.val (t + ceilDiv k 64 + 2) (.buf a.handle (a.byteOff r) ws) ∧
        ws.map (·.w) = (List.range k).flatMap (fun i => match r.topk.list[i]? with
          | some e => [e.score, e.ident]
          | none => [f32NegInf, 0xFFFFFFFF#32]) ∧
        (w.getLsbD 79 = true → u.awaits c.val (t + ceilDiv k 64 + 2) .topkClear) ∧
        sameRegs d u c.val ∧ sameOthers d u c.val)

/-- SAMPLE takes a chunk of logits under the request's mask and temperature; with its last-chunk bit the token drawn becomes
the request's, on the device that owns it or by a report to it, and is on its way to a Q register. -/
def Obligations.SampleCompletes : Prop :=
  ∀ (c : CoreIx) (w : StepWord) (s : State) (t : Nat) (d : Device) (row : LenRow) (x : Nat),
    let r := (d.core c.val).regs
    let n := fld w 66 53
    let base := fld w 84 67
    let rq := d.req row.slot
    let p := d.profile row.slot
    let g := if f32IsZero p.temp then f32One else (r69 (f32Recip p.temp)).v
    let m := d.sampleMask c.val x rq.maskMode base n
    let ch := (if w.getLsbD 100 then Sampler.start else r.samp).chunk g base
      (List.zip (Tbl.slice VWord.zero r.stage (fld w 52 40) n) m.1)
    let samp := { ch.1 with tag := .pos x }
    let tok := samp.draw p (drawU rq.seed (row.p + row.q))
    s.issues c w (fun d => d.samplePlan c.val w) t d →
    (d.core c.val).seq.rowOf (tForm w 85 r) = some (row, x) →
    ∃ u, exec (.sample c w) s = s.goes u ∧ (u.core c.val).regs = { r with samp := samp } ∧ sameOthers m.2 u c.val ∧
      (w.getLsbD 101 = true →
        u.awaits c.val (t + ceilDiv n 64 + 1044) (.q (fld w 105 102) ⟨BitVec.ofNat 32 tok, samp.poison, .pos x⟩) ∧
        (d.ownsInst (d.core c.val).seq.plan.inst = true → (u.aux row.slot).token = some tok) ∧
        (∀ i, (d.inst (d.core c.val).seq.plan.inst).maq = some i → i.extra.serving.home ≠ d.fab.coord →
          .stepStatus i.extra.serving.home row.slot 0 false (some tok) ∈ u.out))

/-! ### Elastic operations and commit marks (R97, R99, R100, R104–R107, R136–R138) -/

/-- ELASTIC_START of a waiting copy takes its scoreboard entries when entries are free and nothing conflicts, and leaves it
waiting otherwise. COPY_DONE, GATHER_DONE and SCATTER_DONE move the bytes of the operation, free its entries from the next
cycle on, and signal its tag. -/
def Obligations.ElasticStartsAndEnds : Prop :=
  ∀ (c : CoreIx) (id t : Nat) (x : ElasticEnd) (s : State) (o : ElOp), s.alive = true →
    let e := (s.dev.reachCyc t).landUpTo c.val t
    let q := (e.core c.val).seq
    let z := ((s.dev.reachCyc x.cycle).landUpTo c.val x.cycle).closeOf c.val id
    let qz := (z.core c.val).seq
    let ended := fun (u : Device) =>
      (u.core c.val).seq.ops = qz.ops.filter (fun y => decide (y.ident ≠ id)) ∧
      (o.tag ≠ 0 → o.ofStep = true → ((u.core c.val).seq.tagSt o.tag).signal = some x.cycle) ∧
      (u.core c.val).seq.board =
        qz.board.map (fun b => if b.ident = id ∧ b.freed = none then { b with freed := some (x.cycle + 1) } else b)
    (List.find? (fun (o : ElOp) => decide (o.ident = id) && !o.started) (s.dev.core c.val).seq.ops = some o →
      o.kind = .copy →
      (q.mayStart (e.opEntries c.val o t) t = true → ∃ u, exec (.elasticStart c id t) s = s.goes u ∧
        (u.core c.val).seq.ops = q.ops.map (fun y => if y.ident = o.ident then { o with started := true } else y) ∧
        (u.core c.val).seq.board = q.board.filter (fun b => b.busy t) ++ holdEntries o t (e.opEntries c.val o t) ∧
        sameRegs e u c.val ∧ sameOthers e u c.val) ∧
      (q.mayStart (e.opEntries c.val o t) t = false → (∀ y ∈ q.ops, y.ident = id → y.started = false) →
        exec (.elasticStart c id t) s = s.goes e)) ∧
    (List.find? (fun (o : ElOp) => decide (o.ident = id)) qz.ops = some o →
      ((s.dev.core c.val).seq.startedOp .copy id = some o → z.windowOf o.dstH = none →
        let r := z.opRead c.val id o.srcH o.srcOff (o.len / 4)
        let a := r.2.arrive x.mesh 0 r.1
        ∃ u, exec (.copyDone c id x) s = s.goes u ∧
          u.mem.m = ((a.2.giveWay o.dstH o.dstOff x.writes).elWrite o.dstH o.dstOff a.1).mem.m ∧ ended u) ∧
      (∀ g, (s.dev.core c.val).seq.startedOp .gather id = some o → o.desc = some g →
        let ix := z.opRead c.val id g.index g.indexOff (g.listBytes / 4)
        ∃ u, exec (.gatherDone c id x) s = s.goes u ∧
          u.mem.m = ((ix.2.giveWay g.dest g.destOff x.writes).gatherRows c.val id g x.mesh ix.1 g.count 0).mem.m ∧
          ended u) ∧
      (∀ g, (s.dev.core c.val).seq.startedOp .scatter id = some o → o.desc = some g →
        let ix := z.opRead c.val id g.index g.indexOff (g.listBytes / 4)
        ∃ u, exec (.scatterDone c id x) s = s.goes u ∧
          u.mem.m = ((ix.2.giveWay g.table 0 x.writes).scatterRows c.val id g x.mesh ix.1 g.count 0).mem.m ∧
          ended u))

/-- COMMIT_MARK of a core whose step is drained: everything lands, the mark ends 16 cycles after the last completion with
tags, reservations and in-flight list clear, the step is counted, a step with a status fails its requests, on the device that
owns them or by a report to it, and actions 1 to 8 follow, a pending pause first. A core that is not drained keeps its state. -/
def Obligations.CommitMark : Prop :=
  ∀ (c : CoreIx) (s : State), s.alive = true →
    let e := s.dev.landAll c.val
    let q := (e.core c.val).seq
    let last := max q.prev q.done
    let m := (((e.bump (key 0xC020 4) (last - q.prev)).reachCyc (last + 16)).judgeStep q).modCore c.val
      (fun x => x.committedAt (last + 16))
    ((s.dev.coreUp c.val && (s.dev.core c.val).drained) = false → exec (.commitMark c) s = s.goes s.dev) ∧
    ((s.dev.coreUp c.val && (s.dev.core c.val).drained) = true →
      exec (.commitMark c) s = s.goes ((((m.normWatch c.val q).takeCaps c.val).actTwo c.val q.plan).pauseOr c.val 4)) ∧
    (m.core c.val).seq.phase = .markPause ∧ (m.core c.val).seq.prev = last + 16 ∧ (m.core c.val).seq.tags = [] ∧
    (m.core c.val).seq.resv = [] ∧ (m.core c.val).seq.flight = [] ∧ (m.core c.val).seq.landing = [] ∧
    (m.core c.val).aux.committed = min (2 ^ 32 - 1) ((e.core c.val).aux.committed + 1) ∧
    (∀ r ∈ q.rows, q.status ≠ 0 →
      (e.ownsInst q.plan.inst = true → (m.aux r.slot).failure = some ((e.aux r.slot).failure.getD q.status)) ∧
      (∀ i, (e.inst q.plan.inst).maq = some i → i.extra.serving.home ≠ e.fab.coord →
        .stepStatus i.extra.serving.home r.slot q.status false none ∈ m.out))

/-- What stands between steps: a pause asked of a core that runs is kept, the longest one; its end resumes the actions; a
held word that waits past the hold limit ends its step; a plinth is left when nothing holds its plan. -/
def Obligations.PausesAndHolds : Prop :=
  ∀ (c : CoreIx) (i : AnyCore) (k : ClusterIx) (g : Fin 6) (n : Nat) (s : State), s.alive = true →
    let d := s.dev
    let x := d.core c.val
    let j := i.val / 13 * 12 + i.val % 13
    let y := d.core j
    (i.val % 13 ≠ 12 → y.seq.phase = .idle → exec (.pauseRequest i n) s = s.goes d) ∧
    (i.val % 13 ≠ 12 → y.seq.phase ≠ .idle →
      exec (.pauseRequest i n) s = s.goes (d.setCore j { y with seq := { y.seq with pause := some (max n (y.seq.pause.getD 0)) } })) ∧
    (i.val % 13 = 12 → (d.attnUnit (i.val / 13)).cur = none → ∃ u, exec (.pauseRequest i n) s = s.goes u ∧
      ∀ v : Fin 6, (v.val, d.cyc + n) ∈ (u.attnUnit (i.val / 13)).pausing) ∧
    (∀ p, (d.attnUnit k.val).pauseQ.find? (fun x => decide (x.1 = g.val)) = some p → ∃ u, exec (.enginePause k g) s = s.goes u ∧
      (g.val, d.cyc + p.2) ∈ (u.attnUnit k.val).pausing ∧ ∀ x ∈ (u.attnUnit k.val).pauseQ, x.1 ≠ g.val) ∧
    (i.val % 13 ≠ 12 → y.seq.phase = .markPause →
      exec (.pauseEnd i) s = s.goes ((d.reachCyc y.aux.pauseEnd).actFrom j y.aux.next)) ∧
    (i.val % 13 = 12 → ∀ p ps, (d.attnUnit (i.val / 13)).pausing = p :: ps → ∃ u e, exec (.pauseEnd i) s = s.goes u ∧
      e ∈ p :: ps ∧ (∀ x ∈ p :: ps, e.2 ≤ x.2) ∧ (u.attnUnit (i.val / 13)).pausing = (p :: ps).filter (fun x => decide (x ≠ e)) ∧
      u.clk.up = max d.clk.up (cycToNs e.2)) ∧
    (∀ h, x.seq.wait = some h → x.seq.status = 0 → ∃ u, exec (.holdTimeout c) s = s.goes u ∧
      (u.core c.val).seq.ended = true ∧ (u.core c.val).seq.status = 0x0B ∧ (u.core c.val).seq.wait = none ∧
      (u.core c.val).seq.prev = h.since + d.reg (key 0xC000 2) + 1) ∧
    (∀ p ps, x.seq.phase = .plinth → x.aux.plans = p :: ps →
      (d.plinthHolds p = true → exec (.plinthRelease c) s = s.goes d) ∧
      (d.plinthHolds p = false → p.batch = [] → exec (.plinthRelease c) s =
        s.goes ((d.bump (key 0x7070 7) (d.cyc - x.aux.plinthAt)).modCore c.val (fun x => { x with seq := { x.seq with phase := .ready } }))))


/-! ### Counting and calibration of engines (R31, R37, R38, R43, R54–R65, R80, R84) -/

/-- The result of a column-segment for every kind of plane (R31): the exact count of the rows that the plane and the stored bits
share, or, for a converter's answer, the answer within its bounds, or a fault and 0. The threshold bit of an exact converter (R37)
and the probe bit of a plane of 64 rows (R38) agree with that count. -/
def Obligations.SegmentCounts : Prop :=
  let both := fun (x y : Nat) => (List.range 128).countP (fun i => x.testBit i && y.testBit i)
  let all := 2 ^ 128 - 1
  ∀ plane b : Nat, plane < 2 ^ 128 → b < 2 ^ 128 →
    let p := both plane all
    let w := both b all
    let n := min p (128 - p)
    -- R31: without a departing answer every kind of plane gives the exact count, and no fault
    (segResult plane b false none).v = both plane b ∧ (segResult plane b false none).fault = none ∧
    -- without rows or with all rows nothing is converted, whatever a converter answers
    (∀ x a, (p = 0 → segResult plane b x a = ⟨0, none, 0⟩) ∧ (p = 128 → segResult plane b false a = ⟨w, none, 0⟩)) ∧
    -- a converting segment: 65 and more is an over-range, a count outside the bounds is out of range; both give 0
    (∀ k, p ≠ 0 → p ≠ 128 →
      (65 ≤ k → (segResult plane b false (some k)).fault = some 1 ∧ (segResult plane b false (some k)).v = 0) ∧
      (k < 65 → (k + 128 < n + w ∨ min n w < k) →
        (segResult plane b false (some k)).fault = some 2 ∧ (segResult plane b false (some k)).v = 0) ∧
      (k < 65 → n + w ≤ k + 128 → k ≤ min n w →
        (segResult plane b false (some k)).fault = none ∧
        (segResult plane b false (some k)).v = if p ≤ 64 then k else w - k)) ∧
    -- an invalid weight count leaves only the all-zero segment without a fault
    (∀ a, p ≠ 0 → (segResult plane b true a).fault = some 3 ∧ (segResult plane b true a).v = 0) ∧
    -- R37: a threshold comparison without a departing answer is exact
    (∀ T, T ≤ 128 → (evaltBit plane b T false none).1 = some (decide (T ≤ both plane b))) ∧
    -- R38: the probe of a plane with 64 rows passes when the counts are exact
    (p = 64 → probeSeg plane b false none none = some true)

/-- Rotation of a batch: it starts on free spares of an active engine whose calibration unit is free, when no work of an
earlier level waits, and phase A begins with nothing copied yet; an engine that has lost every spare is replaced. Once the
copy is made the check moves the columns onto their spares when the counts agree, with the limits in force for the attempt,
and leaves them with the differing spares faulted when they do not. -/
def Obligations.RotationEvents : Prop :=
  ∀ (c : CoreIx) (e : PhysIx) (s : State), s.alive = true →
    let d := s.dev
    let g := d.engine c.val e.val
    let w := g.nextWork d.clk.up (d.reg (key 0x9000 1))
    let cols := w.1.filter (fun l => (Tbl.find? g.steer l).isNone)
    let now := cols.take g.freeSpares.length
    let prs := now.zip g.freeSpares
    (d.unitFree c.val e.val = false ∨ g.st ≠ 0 → exec (.rotationBatchStart c e) s = s.goes d) ∧
    (d.unitFree c.val e.val = true → g.st = 0 →
      (g.sparesGone = true → exec (.rotationBatchStart c e) s = s.goes (d.replaceEngine c.val e.val)) ∧
      (g.sparesGone = false →
        (g.before w.2.1 = true ∨ g.freeSpares = [] → exec (.rotationBatchStart c e) s = s.goes d) ∧
        (g.before w.2.1 = false → g.freeSpares ≠ [] →
          (now = [] → exec (.rotationBatchStart c e) s = s.goes (d.setEngine c.val e.val w.2.2)) ∧
          (now ≠ [] → ∃ u, exec (.rotationBatchStart c e) s = s.goes u ∧
            (u.engine c.val e.val).rot = some ⟨now.headD 0 / 16, prs, 0, g.cls, 0#32, 0#32, 0#32, 0⟩ ∧
            (u.engine c.val e.val).work = [] ∧ (u.engine c.val e.val).cells = g.cells ∧
            (∀ x ∈ prs, (u.engine c.val e.val).spare x.2 = ⟨x.1, 1⟩) ∧
            ∀ e', e' ≠ e.val → u.engine c.val e' = d.engine c.val e')))) ∧
    -- the accesses whose slots have passed are made before the check looks
    (let d' := d.settleSlots c.val e.val d.cyc
     let g := d'.engine c.val e.val
     ∀ r, g.rot = some r → r.phase = 0 →
      (g.madeBoth .copyRow 256 = false → exec (.rotationCheck c e) s = s.goes d') ∧
      (g.madeBoth .copyRow 256 = true →
        (r.cols.all (fun x => g.sameCounts x.1 (1024 + x.2)) = true → ∃ u, exec (.rotationCheck c e) s = s.goes u ∧
          (u.engine c.val e.val).rot = some ⟨r.group, r.cols, 2, g.cls, BitVec.ofNat 32 (d.reg (key 0x9000 2)),
            BitVec.ofNat 32 (d.reg (key 0x9000 3)), BitVec.ofNat 32 (d.reg (key 0x9000 4)), d.reg (key 0x9000 5)⟩ ∧
          (u.engine c.val e.val).steer = r.cols.foldl (fun (t : Tbl Nat) x => Tbl.put t x.1 (1024 + x.2)) g.steer ∧
          (u.engine c.val e.val).cells = g.cells) ∧
        (r.cols.all (fun x => g.sameCounts x.1 (1024 + x.2)) = false → ∃ u, exec (.rotationCheck c e) s = s.goes u ∧
          (u.engine c.val e.val).rot = none ∧ (u.engine c.val e.val).steer = g.steer ∧
          (u.engine c.val e.val).cells = g.cells ∧
          ((r.cols.map (·.2)).Nodup → ∀ x ∈ r.cols, (u.engine c.val e.val).spare x.2 =
            ⟨0, if g.sameCounts x.1 (1024 + x.2) then 0 else 3⟩))))

/-- The end of a batch's attempt, once its measurement and its probe have taken their slots: the batch is over, the attempt
is counted, and a refused one under its class; while the engine keeps enough columns, nothing replaces it. A replacement
whose rows are read and whose copy agrees moves the logical position to physical engine 32, once no operation of the step is
in progress on the old engine, and retires the old engine; a copy that differs is made again. -/
def Obligations.AttemptsAndReplacement : Prop :=
  ∀ (c : CoreIx) (e : PhysIx) (a : Attempt) (s : State), s.alive = true →
    let d := s.dev.settleSlots c.val e.val s.dev.cyc
    let g := d.engine c.val e.val
    (∀ r, g.rot = some r → r.phase = 2 →
      (g.madeBoth .measure (if r.cls = 1 then 14 else 28) = false ∨ g.madeBoth .probe 2 = false →
        exec (.selectionAttemptDone c e a) s = s.goes d) ∧
      (g.madeBoth .measure (if r.cls = 1 then 14 else 28) = true → g.madeBoth .probe 2 = true →
        let h := (d.readCounts c.val e.val a.probe).drawHalf c.val e.val
        let x := h.2.engine c.val e.val
        let bad := r.cols.any (fun y => !(r.judgeCol x h.1 y.1 a).2)
        ∃ v, exec (.selectionAttemptDone c e a) s =
            s.goes (if d.reg (key 0x9000 8) ≤ (v.engine c.val e.val).lost then v.replaceEngine c.val e.val else v) ∧
          (v.engine c.val e.val).rot = none ∧
          v.ctr (key 0x9030 1) = min (2 ^ 64 - 1) (d.ctr (key 0x9030 1) + 1) ∧
          v.ctr (key 0x9030 2) = (if bad = true ∧ r.cls = 1 then min (2 ^ 64 - 1) (d.ctr (key 0x9030 2) + 1) else d.ctr (key 0x9030 2)) ∧
          v.ctr (key 0x9030 3) = (if bad = true ∧ r.cls ≠ 1 then min (2 ^ 64 - 1) (d.ctr (key 0x9030 3) + 1) else d.ctr (key 0x9030 3)))) ∧
    (g.replacing = true → g.rot = none → e.val ≠ 32 →
      (g.madeBoth .copyRow 128 = false → exec (.engineReplaceSwitch c e) s = s.goes d) ∧
      (g.madeBoth .copyRow 128 = true →
        (sameLogical g (d.engine c.val 32) = true → 
          let t := g.opsEnd d.cyc
          let z := (d.reachCyc t).landUpTo c.val t
          let o := z.engine c.val e.val
          ∃ u, exec (.engineReplaceSwitch c e) s = s.goes u ∧
          u.engine c.val 32 = { z.engine c.val 32 with
            st := 0, pos := o.pos, cls := o.cls, width := o.width, scales := o.scales,
            disabled := o.disabled, use := o.use, calAt := z.clk.up } ∧
          u.engine c.val e.val = { o with st := 2, replacing := false, usable := false, queue := [], stale := [] } ∧
          u.ctr (key 0x9030 5) = min (2 ^ 64 - 1) (z.ctr (key 0x9030 5) + 1)) ∧
        (sameLogical g (d.engine c.val 32) = false →
          exec (.engineReplaceSwitch c e) s = s.goes (d.putCells c.val 32 (copyLogical g (d.engine c.val 32))))))

/-- Calibration in its time: a spare or an empty engine is calibrated by pattern when no earlier work waits; a group becomes
stale at 0.8 of the period; a slice is reserved when the first stale batch is due, and its end is counted; a free segment slot
serves one access of the calibration unit; a count word is valid again once the cells of both segments are read. -/
def Obligations.CalibrationTimes : Prop :=
  ∀ (c : CoreIx) (e : PhysIx) (a : Attempt) (j : Fin 16) (q : Fin 64) (word : Fin 520) (seg : Bool) (us : SlotAsk)
    (s : State), s.alive = true →
    let d := s.dev
    let g := d.engine c.val e.val
    let lim : F32 := BitVec.ofNat 32 (d.reg (key 0x9000 4))
    let at_ := max d.clk.up (g.groupAt q.val + d.reg (key 0x9000 1) * 800000000)
    let old := g.copyOf (1024 + j.val)
    (d.unitFree c.val e.val = true → g.spareOpen j.val = true → g.before (g.spareLevel j.val) = false →
      ∃ u, exec (.patternRecal c e (.spare j) a) s = s.goes u ∧
      let z := u.engine c.val e.val
      let n := Tbl.get 0 g.fails (1024 + j.val) + 1
      z.cells = Tbl.del (Tbl.del g.cells (2 * (1024 + j.val))) (2 * (1024 + j.val) + 1) ∧
      (∀ x, tryCol lim old (1024 + j.val) a = some (some x) →
        z.spare j.val = ⟨0, 0⟩ ∧ z.copyOf (1024 + j.val) = x.copy % 4 ∧ Tbl.get 0 z.fails (1024 + j.val) = 0) ∧
      (tryCol lim old (1024 + j.val) a = some none →
        z.spare j.val = ⟨0, 3⟩ ∧ z.ladders = g.ladders ∧ z.comps = g.comps ∧
        Tbl.get 0 z.fails (1024 + j.val) = n ∧ z.retired = if 3 ≤ n then g.retired ++ [1024 + j.val] else g.retired)) ∧
    (d.unitFree c.val e.val = false ∨ g.spareOpen j.val = false ∨ g.before (g.spareLevel j.val) = true →
      exec (.patternRecal c e (.spare j) a) s = s.goes d) ∧
    (d.unitFree c.val e.val = true → (g.st = 1 ∨ g.st = 0 ∧ g.cls = 0) → g.before 5 = false →
      ∃ u, exec (.patternRecal c e .engine a) s = s.goes u ∧
        u.engine c.val e.val = { g.patternEngine lim a with calAt := d.clk.up } ∧
        ∀ e', e' ≠ e.val → u.engine c.val e' = d.engine c.val e') ∧
    (∃ u, exec (.batchStale c e q) s = s.goes u ∧ u.clk.up = at_ ∧ q.val ∈ (u.engine c.val e.val).stale ∧
      ∀ x ∈ g.stale, x ∈ (u.engine c.val e.val).stale) ∧
    (∀ t, d.sliceDue c.val = some t →
      ((d.coreUp c.val = true ∧ (d.core c.val).seq.phase = .idle) → ∃ u, exec (.calSliceReserve c) s = s.goes u ∧
        (u.core c.val).seq.phase = .calSlice ∧ (u.core c.val).aux.pauseEnd = u.cyc + 650) ∧
      (¬ (d.coreUp c.val = true ∧ (d.core c.val).seq.phase = .idle) → ∃ u, exec (.calSliceReserve c) s = s.goes u ∧
        (u.core c.val).aux.calReserved = true ∧ u.clk.up = max d.clk.up t)) ∧
    ((d.core c.val).seq.phase = .calSlice →
      exec (.calibrationSliceEnd c) s =
        s.goes (((d.reachCyc (d.core c.val).aux.pauseEnd).bump (key 0x9030 6) 1).pauseOr c.val 5)) ∧
    -- R43, R45: the access takes the slot of its cycle where it is free; a row of the copy moves on to one that is
    (let z := ((d.reachCyc us.cycle).landUpTo c.val us.cycle).settleSlots c.val e.val us.cycle
     let y := z.engine c.val e.val
     let b : EngSlot := ⟨us.cycle, 2, !seg, seg, some us.use⟩
     (z.underTest c.val y.pos = true ∨ us.use ≠ .copyRow ∧ (∃ x ∈ y.slots, b.meets x = true) →
       exec (.calFreeSlotUse c e seg us) s = s.goes z) ∧
     (z.underTest c.val y.pos = false → (∀ x ∈ y.slots, b.meets x = false) →
       let v := (z.setEngine c.val e.val { y with slots := y.slots ++ [b] }).reachCyc (us.cycle + 2)
       let n := ((y.slots ++ [b]).filter (fun x => x.work.isSome && decide (x.lo + x.len ≤ us.cycle + 2))).length
       ∃ u, exec (.calFreeSlotUse c e seg us) s = s.goes u ∧ 1 ≤ n ∧
         u.ctr (key 0x9020 4) = min (2 ^ 64 - 1) (v.ctr (key 0x9020 4) + n))) ∧
    (let z := d.settleSlots c.val e.val d.cyc
     let y := z.engine c.val e.val
     (y.madeBoth .recompute 128 = false → exec (.countRecomputeDone c e word) s = s.goes z) ∧
     (y.madeBoth .recompute 128 = true → ∃ u, exec (.countRecomputeDone c e word) s = s.goes u ∧
       (u.engine c.val e.val).badCounts = y.badCounts.filter (fun x => decide (x ≠ word.val)) ∧
       (u.engine c.val e.val).cells = y.cells))

/-- A calibration probe whose conversions have taken free slots, over an engine with valid counts, records a fault for every
column-segment that fails; a closed monitor window restarts its sums and flags the column of a biased one; an overflow window
closes after its tokens, restarts its counts and raises the layer's capacity at most to the limit. -/
def Obligations.ProbesAndWindows : Prop :=
  ∀ (c : CoreIx) (e : PhysIx) (seg : Bool) (rd : List Reading) (col : Fin 1040) (inst : BitVec 10) (layer : BitVec 12)
    (s : State), s.alive = true →
    let d := s.dev
    let g := d.engine c.val e.val
    let sg := if seg then 1 else 0
    let cs := 2 * col.val + sg
    let win := (d.core c.val).aux.window g.pos cs
    let z : F32 := BitVec.ofNat 32 (d.reg (key 0x9000 6))
    (let b := d.settleSlots c.val e.val d.cyc
     let y := b.engine c.val e.val
     let level := if y.queue.contains (probeJob sg) then 3 else 7
     (b.unitFree c.val e.val = false ∨ y.before level = true ∨ y.made .probe seg < 2 →
       exec (.calProbe c e seg rd) s = s.goes b) ∧
     (b.unitFree c.val e.val = true → y.before level = false → 2 ≤ y.made .probe seg →
       let h := (b.readCounts c.val e.val rd).drawHalf c.val e.val
       let v := h.2.modEngine c.val e.val (fun g => g.setMade .probe seg 0)
       let x := v.engine c.val e.val
       (x.badCounts ≠ [] → exec (.calProbe c e seg rd) s = s.goes v) ∧
       (x.badCounts = [] → exec (.calProbe c e seg rd) s = s.goes
         ((v.modEngine c.val e.val (fun g => { g with queue := g.queue.filter (fun b => decide (b ≠ ⟨3, [2048 + sg]⟩)) })).probeFaults
           c.val x.pos e.val 1 0xFFFF ((x.probe h.1 h.1 rd).filter (fun f => decide (f.1 % 2 = sg))))))) ∧
    (win.n < d.reg (key 0x9000 7) → exec (.monitorWindowClose c e col seg) s = s.goes d) ∧
    (d.reg (key 0x9000 7) ≤ win.n → g.st = 0 → win.asked = 0 → ∃ u, exec (.monitorWindowClose c e col seg) s = s.goes u ∧
      (u.core c.val).aux.window g.pos cs = MonWin.zero ∧
      (win.biased z = false → u.ctr (key 0x9030 7) = d.ctr (key 0x9030 7) ∧ u.engine c.val e.val = g) ∧
      (win.biased z = true → u.ctr (key 0x9030 7) = min (2 ^ 64 - 1) (d.ctr (key 0x9030 7) + 1) ∧
        ∀ l, g.logicalOf col.val = some l → (⟨4, [l]⟩ : CalJob) ∈ (u.engine c.val e.val).queue)) ∧
    (∀ m en, (d.inst inst.toNat).maq = some m → d.layerEnt? inst.toNat layer.toNat = some en →
      let x := d.layerRec inst.toNat layer.toNat
      let pol := fun i => d.layerPolicy m en (key 0x7040 i)
      let cap := min (x.cap + pol 3) (pol 4)
      (x.winTok < pol 2 → exec (.overflowWindowClose inst layer) s = s.goes d) ∧
      (pol 2 ≤ x.winTok → ∃ u, exec (.overflowWindowClose inst layer) s = s.goes u ∧
        (u.layerRec inst.toNat layer.toNat).winOver = 0 ∧ (u.layerRec inst.toNat layer.toNat).winTok = 0 ∧
        (x.winOver ≤ pol 1 ∨ cap ≤ x.cap → (u.layerRec inst.toNat layer.toNat).cap = x.cap) ∧
        (pol 1 < x.winOver → x.cap < cap →
          (u.layerRec inst.toNat layer.toNat).cap = cap ∧ u.ctr (key 0x7041 3) = min (2 ^ 64 - 1) (d.ctr (key 0x7041 3) + 1) ∨
          (u.layerRec inst.toNat layer.toNat).cap = x.cap ∧ u.ctr (key 0x7041 4) = min (2 ^ 64 - 1) (d.ctr (key 0x7041 4) + 1))))

/-- REFERENCE_STEP of a layer with a reference copy, on an attention core of the layer's clusters, at the cost of the
maquette's table: for a rerun or a reference instance every token's outputs are formed from the copy and delivered in FP32 one
after the other at the destination, and the rerun is no longer asked for; for sampled requests the outputs are compared with
the narrow ones and no byte is delivered. Without a copy, on another cluster, or where nothing asks for it, nothing happens. -/
def Obligations.ReferenceStep : Prop :=
  ∀ (k : ClusterIx) (x : RefStep) (s : State) (m : Maq) (en : LayerEnt), s.alive = true →
    let d := s.dev
    let i := x.inst.toNat
    let l := x.layer.toNat
    let z := d.reachCyc (d.cyc + refCost m l x.toks.length)
    let r := z.refCopy i en
    (d.inst i).maq = some m → d.layerEnt? i l = some en →
    (en.refFmt = 0 ∨ d.refWanted m x = false ∨ (d.layerClusters m en).contains k.val = false ∨ d.attnUp k.val = false →
      exec (.referenceStep k x) s = s.goes d) ∧
    (en.refFmt ≠ 0 → d.refWanted m x = true → (d.layerClusters m en).contains k.val = true → d.attnUp k.val = true →
      (x.scope ≠ .sampled →
        let f := r.2.refAll m en r.1 x.toks
        let v := (((x.toks.zip f.1)).zipIdx).foldl (fun d t =>
          d.refDeliver i x.dest.toNat (x.off + 4 * en.outputs * t.2) t.1.1.slot.toNat t.1.2) f.2
        ∃ u, exec (.referenceStep k x) s = s.goes u ∧ u.mem = v.mem ∧ u.serv = v.serv ∧
          u.cast.reruns = v.cast.reruns.filter (fun y => decide (y ≠ (i, l)))) ∧
      (x.scope = .sampled →
        ∃ u, exec (.referenceStep k x) s = s.goes u ∧ u.mem.m = d.mem.m ∧
          (∃ y, Tbl.find? u.cast.comparisons (i * 4096 + l) = some y) ∧
          u.ctr (key 0x7050 2) ≠ 0))

/-! ### Requests of the dictionary (14) -/

/-- The order of a keyed WRITE (R327): the tenant of the packet, the header, the object, the check, the rights, the counter of
a critical command, then its execution, at once or with the last segment of a transfer; the first failure answers and nothing else of the block changes. -/
def Obligations.WriteProtocol : Prop :=
  ∀ (x : MaqExtra) (st : Straps), ∀ w ∈ keyedWrites x st, ∀ (r : Req) (s : State), s.alive = true →
    let d := s.dev
    let index := w.2.1
    let sub := w.2.2.1
    let rule := w.2.2.2
    let no := fun (e : Device) (code : Nat) =>
      s.goes (e.respond r 2 index sub code false (rule.refusal e r code).length (rule.refusal e r code))
    (reqTenantOk r = false → exec (w.1 r) s = s.goes (d.bump (key 0x5020 4) 1)) ∧
    (reqTenantOk r = true →
      (r.version ≠ 1#8 → exec (w.1 r) s = no d 0x06) ∧
      (r.version = 1#8 → carrierLimit r.carrier < r.payload.length → exec (w.1 r) s = no d 0x07) ∧
      (reqFault r = none →
        (r.keyed = false → exec (w.1 r) s = no (d.bump (key 0x5020 4) 1) 0x03) ∧
        (r.keyed = true → d.checkGood r 2 index sub = false → exec (w.1 r) s = no (d.checkFailed r) 0x04) ∧
        (r.keyed = true → d.checkGood r 2 index sub = true → ∀ o, writeRow? index sub = some o →
          (∀ f, d.writeFault r o = some f → exec (w.1 r) s = no d f) ∧
          (d.writeFault r o = none → rule.auth d (d.soFar r) = false → exec (w.1 r) s = no d 0x03)))) ∧
    (∀ o, d.passes index sub rule r o → o.right = 4 → ∀ k, d.slotOf r = some k →
      (k.2.judge r.counter.toNat r.check = .replay →
        let e := d.bump (key 0x5020 2) 1
        exec (w.1 r) s = no (if index = 0x6002 then e.bump (key 0x6010 0x0B) 1 else e) 0x05) ∧
      (∀ g, k.2.judge r.counter.toNat r.check = .duplicate g → exec (w.1 r) s = s.goes (d.answerAgain r index sub rule g))) ∧
    (∀ o v e, s.takes index sub rule r o v e →
      let a := rule.run e r v
      (a.status = 0x100 → exec (w.1 r) s = s.goes a.dev) ∧
      (a.status ≠ 0x100 → exec (w.1 r) s = s.told e index sub o r a.status a.payload a.dev))

/-- The judgement of a critical command's counter (R334), what an accepted one leaves in the replay window (R335), and that a
response is the first thing sent and leaves registers, memory, requests, instances, keys, log and every other unit named here. -/
def Obligations.ReplayWindow : Prop :=
  ∀ (k : KeySlot) (c : Nat) (g : BitVec 128),
    (k.judge c g = .accept ↔ k.last < c) ∧
    (∀ e, k.judge c g = .duplicate e ↔
      c ≤ k.last ∧ k.last < c + 64 ∧ k.window.find? (fun x => decide (x.counter = c)) = some e ∧ e.digest = g) ∧
    (∀ e : WinEnt, (k.accept e).last = e.counter ∧ (k.accept e).key = k.key ∧
      (k.accept e).window.length ≤ 64 ∧ e ∈ (k.accept e).window ∧
      ∀ x ∈ (k.accept e).window, x = e ∨ x ∈ k.window) ∧
    ∀ (d : Device) (r : Req) (code index sub status : Nat) (again : Bool) (total : Nat) (p : List Byte),
      let u := d.respond r code index sub status again total p
      (∃ keyed chk rest, u.out = d.out ++ .response r.carrier (reqSrc r) r.flow r.tenant r.tag code index sub status again keyed
        r.counter.toNat r.offset.toNat total p chk :: rest) ∧
      u.regs = d.regs ∧ u.cim = d.cim ∧ u.attn = d.attn ∧ u.serv = d.serv ∧ u.cast = d.cast ∧ u.sync = d.sync ∧ u.sec = d.sec ∧
      u.rel = d.rel ∧ u.pwr = d.pwr ∧ u.mem = d.mem ∧ u.dict = d.dict

/-- READ, DESCRIBE, ABORT and ECHO of an object outside the vendor range that pass steps 1 to 4 of R327 (R324, R330, R331). A READ also
has the effects of reading where the value stands: the translation tables of B011h are read out of the scratchpad. -/
def Obligations.DictRequests : Prop :=
  ∀ (index : BitVec 16) (sub : Byte) (r : Req) (s : State), s.alive = true → index.toNat < 0xF000 → ∀ o : ObjRow,
    let d := s.dev
    let i := index.toNat
    let j := sub.toNat
    (d.asked 1 i j r o → o.right ≠ 3 → (o.key = 0x802800 → r.tenant = 0#9) → (i = 0x9011 → j = 0 → d.cim.hintStatus = 0) →
      let v := d.shown r o
      let w := d.touchRead o.key
      (o.right ≠ 5 →
        exec (.dictRead index sub r) s = s.goes ((w.bump (key 0x5020 8) 1).respond r 1 i j 0x00 false v.length (reqPart r v))) ∧
      (o.right = 5 → r.offset = 0#32 →
        let e := w.dropLatch (reqSrc r) r.tag
        (e.dict.latches.length < 4 → (reqPart r v).length < v.length → exec (.dictRead index sub r) s = s.goes
          ((e.putLatch ⟨reqSrc r, r.tag, o.key, v, e.clk.up⟩).answerRead r i j v)) ∧
        (4 ≤ e.dict.latches.length → exec (.dictRead index sub r) s = s.goes (e.respond r 1 i j 0x08 false 0 []))) ∧
      (o.right = 5 → r.offset ≠ 0#32 →
        (w.latch? (reqSrc r) r.tag = none → exec (.dictRead index sub r) s = s.goes (w.respond r 1 i j 0x0C false 0 [])) ∧
        (∀ l, w.latch? (reqSrc r) r.tag = some l → l.obj = o.key → l.value.length ≤ r.offset.toNat + (reqPart r l.value).length →
          exec (.dictRead index sub r) s = s.goes ((w.dropLatch (reqSrc r) r.tag).answerRead r i j l.value)))) ∧
    (d.asked 1 i j r o → o.right = 3 → (i = 0x9011 → j = 0 → d.cim.hintStatus = 0) →
      exec (.dictRead index sub r) s = s.goes (d.respond r 1 i j 0x03 false 0 [])) ∧
    (d.asked 4 i j r o → exec (.dictDescribe index sub r) s = s.goes ((d.bump (key 0x5020 8) 1).respond r 4 i j 0x00 false 8
      (leBytes 1 o.type ++ leBytes 1 o.right ++ [0, 0] ++ leBytes 4 o.size))) ∧
    (d.asked 3 i j r o → exec (.dictAbort index sub r) s = match d.transfer? r with
      | none => s.goes (d.respond r 3 i j 0x0C false 0 [])
      | some t => s.goes ((d.abortTransfer t).respond r 3 i j 0x0C false 0 [])) ∧
    (d.asked 6 i j r o → r.carrier = .mgmt → r.keyed = false → r.payload.length ≤ 64 → exec (.dictEcho index sub r) s =
      s.goes ((d.bump (key 0x5020 8) 1).respond r 6 i j 0x00 false r.payload.length r.payload))

/-- A WRITE of a scalar object that only holds a value stores it when its size and range agree, and refuses it else (R320); a
longer value is a transfer, answered 01h segment by segment and stored whole by the last; time ends transfers and latches. -/
def Obligations.WritesAndTransfers : Prop :=
  ∀ (index : BitVec 16) (sub : Byte) (r : Req) (s : State), index.toNat < 0xF000 → ∀ o : ObjRow,
    let d := s.dev
    let i := index.toNat
    let j := sub.toNat
    let k := key i j
    let rule := scalarRule k
    let ms := d.reg (key 0x5040 1) * 1000000
    ((if k < 0x600000 then lowRule k else highRule k) = none → objRow? k = some o →
      (s.writes i j rule r o →
        let e := d.counted i o r
        (scalarFault o r.payload = none →
          exec (.dictWrite index sub r) s = s.wrote i j o r 0x00 []
            (if policyKeys.contains k then e.setPolicy k (ofLe r.payload) else e.setReg k (ofLe r.payload))) ∧
        (∀ f, scalarFault o r.payload = some f → exec (.dictWrite index sub r) s =
          s.wrote i j o r f (if k / 2 ^ 20 = 7 then castCode f else []) e)) ∧
      (s.alive = true → d.cleared i j rule r o →
        (d.transfer? r = none → (o.right = 4 → ∃ k, d.slotOf r = some k ∧ k.2.judge r.counter.toNat r.check = .accept) →
          r.offset = 0#32 → r.payload.length < r.total.toNat → r.payload.length % 4 = 0 → d.transferRoom (reqSrc r) = true →
            exec (.dictWrite index sub r) s = s.goes
              (((d.counted i o r).putTransfer ⟨r.tenant.toNat, reqSrc r, r.tag, o.key, r.counter.toNat, r.total.toNat, r.check,
                [(0, r.check, r.payload)], d.clk.up, false⟩).respond r 2 i j 0x01 false 0 [])) ∧
        (∀ t, d.transfer? r = some t → t.obj = o.key → t.counter = r.counter.toNat → t.dup = false →
          t.segs.find? (fun x => decide (x.1 = r.offset.toNat)) = none →
          (r.offset.toNat ≠ t.got → exec (.dictWrite index sub r) s =
            s.goes ((d.abortTransfer t).respond r 2 i j 0x0C false 0 [])) ∧
          (r.offset.toNat = t.got → t.got + r.payload.length = t.total → exec (.dictWrite index sub r) s = s.goes
            ((d.closeTransfer r i t (t.value ++ r.payload)).execute r i j (decide (o.right = 4)) rule (t.value ++ r.payload)))))) ∧
    (∀ (t : Transfer), s.alive = true → d.dict.transfers.find? (fun (x : Transfer) => decide (x.tenant = r.tenant.toNat ∧
        x.source = r.source ∧ x.tag = r.tag)) = some t →
      exec (.transferTimeout r.tenant r.source r.tag) s = s.goes ((d.reach (t.last + ms)).abortTransfer t) ∧
      ∀ y ∈ ((d.reach (t.last + ms)).abortTransfer t).dict.transfers,
        ¬ (y.tenant = t.tenant ∧ y.source = t.source ∧ y.tag = t.tag)) ∧
    (∀ l, s.alive = true → d.latch? r.source r.tag = some l →
      exec (.latchTimeout r.source r.tag) s = s.goes ((d.reach (l.last + ms)).dropLatch r.source r.tag) ∧
      ((d.reach (l.last + ms)).dropLatch r.source r.tag).latch? r.source r.tag = none)

/-- Handles (R155, R157, R159, R162): a creation takes the lowest free handle and the lowest base at which no extent of the
unit is overlapped; a release turns the handle Releasing, and its end leaves zeros without poison and no entry. -/
def Obligations.HandleCommands : Prop :=
  ∀ (r : Req) (s : State) (o : ObjRow),
    (s.writes 0x8001 0 ruleCreateHandle r o → r.payload.length = 16 →
      let e := s.dev.counted 0x8001 o r
      let w := wordAt r.payload
      let t := bits (w 0) 8 0
      let k := bits (w 0) 12 9
      let a := BitVec.ofNat 11 (w 2)
      let lent := if reqLent e r then a ||| (1#11 <<< 8) else a &&& ~~~(1#11 <<< 8)
      let units := if bit (w 0) 17 then [13, 14, 15] else [bits (w 0) 16 13]
      let say := s.wrote 0x8001 0 o r
      let n := (w 1 + 63) / 64
      e.tenantDefined t = true → a.getLsbD 9 = false → a.getLsbD 10 = false →
      (a.getLsbD 7 = false → 1 ≤ w 1 → w 1 ≤ 524288 →
        ((e.cluster k).ready = false → exec (.createHandle r) s = say 0x0B [] e) ∧
        ((e.cluster k).ready = true →
          ((e.limits t).handles < (e.handleUse t).1 + 1 ∨ (e.limits t).bytes < (e.handleUse t).2 + n →
            exec (.createHandle r) s = say 0x09 [] e) ∧
          ((e.handleUse t).1 + 1 ≤ (e.limits t).handles → (e.handleUse t).2 + n ≤ (e.limits t).bytes →
            (∀ h, e.freeHandle = some h → ∀ x, e.findIn k (w 1) units = some x →
              exec (.createHandle r) s = say 0x00 (leBytes 2 h) (e.putHandle h ⟨t, k, x.1, x.2, w 1, lent⟩)) ∧
            (e.freeHandle = none ∨ e.findIn k (w 1) units = none → exec (.createHandle r) s = say 0x0A [] e)))) ∧
      (a.getLsbD 7 = true → (e.handleUse t).1 + 1 ≤ (e.limits t).handles → ∀ h, e.freeHandle = some h →
        exec (.createHandle r) s =
          say 0x00 (leBytes 2 h) (e.putHandle h ⟨t, 0, 0, bits (w 3) 17 0, bits (w 3) 30 18, lent⟩))) ∧
    (s.writes 0x8002 0 ruleReleaseHandle r o → scalarFault o r.payload = none →
      let e := s.dev.counted 0x8002 o r
      let h := ofLe r.payload
      (e.handle? h = none → exec (.releaseHandle r) s = s.wrote 0x8002 0 o r 0x06 [] e) ∧
      (∀ x, e.handle? h = some x → x.reserve = false →
        (e.handleInUse h = true → exec (.releaseHandle r) s = s.wrote 0x8002 0 o r 0x08 [] e) ∧
        (e.handleInUse h = false → exec (.releaseHandle r) s = s.wrote 0x8002 0 o r 0x00 []
          (e.putHandle h { x with attrs := x.attrs ||| (1#11 <<< 10) })))) ∧
    (∀ v e, s.takes 0x8003 0 ruleHandleTable r o v e → v.length = 131072 →
      let bad := e.mem.lost.any (fun h => match handleOf (bytesAt v (16 * h) 16) with | some x => !x.ranged | none => false)
      (bad = true → exec (.handleRecreate r) s = s.told e 0x8003 0 o r 0x06 [] e) ∧
      (bad = false → ∃ u, exec (.handleRecreate r) s = s.told e 0x8003 0 o r 0x00 [] u ∧
        ∀ h, e.mem.lost.contains h = false → Tbl.find? u.mem.handles h = Tbl.find? e.mem.handles h)) ∧
    (∀ (h : HandleId), s.alive = true → s.dev.mem.lost.contains h.toNat = true → exec (.handleZeroDone h) s = s.goes s.dev) ∧
    (∀ (h : HandleId) (x : Handle), s.alive = true → s.dev.handle? h.toNat = some x → x.releasing = true →
      x.remote = false → ∃ u, exec (.handleZeroDone h) s = s.goes u ∧ Tbl.find? u.mem.handles h.toNat = none ∧
        (∀ b, x.addr 0 ≤ b → b < x.addr 0 + x.units * 4096 →
          u.mem.m.byte b = 0#8 ∧ Tbl.get 0#2 u.mem.m.poison (b / 4) = 0#2) ∧
        ∀ b, (b < x.addr 0 ∨ x.addr 0 + x.units * 4096 ≤ b) → u.mem.m.byte b = s.dev.mem.m.byte b) ∧
    (∀ (d : Device) (k unit len b : Nat), d.findBase k unit len = some b →
      let rows := (len + 63) / 64 * 64
      b + rows ≤ unitBytes unit / 64 ∧
      (∀ h x, Tbl.find? d.mem.handles h = some x → x.cluster = k → x.unit = unit → x.remote = false →
        b + rows ≤ x.base ∨ x.base + x.units * 64 ≤ b) ∧
      (∀ b', b' < b → ∃ h x, (h, x) ∈ d.mem.handles ∧ x.cluster = k ∧ x.unit = unit ∧ x.remote = false ∧
        x.base < b' + rows ∧ b' < x.base + x.units * 64))

/-! ### Serving (09) -/

/-- A submission whose keyed check and counter pass (R216): a known client ID, no free slot and a failed check are refused
with a result record and leave no entry; an admitted one takes the lowest free slot, pins its adapter's version and is
QUEUED. Every lead core then looks for a round. -/
def Obligations.Submissions : Prop :=
  ∀ (r : Req) (s : State) (o : ObjRow), s.writes 0x6001 0 ruleSubmit r o → r.payload.length = 64 →
    let e := s.dev.counted 0x6001 o r
    let t := r.tenant.toNat
    let u := subOf r.payload
    let known := (e.reqOf t u.client).isSome || e.admittedBefore t u.client
    let reply := fun (status : Nat) (p : List Byte) (v : Device) =>
      exec (.submit r) s = s.goes ((v.finishWrite (e.answerKey r) r 0x6001 0 (decide (o.right = 4)) status p).kickAll)
    (known = true →
      let v := e.bump (key 0x6010 2) 1
      (∀ x, e.reqOf t u.client = some x → x.2.live = false → reply 0x0D (e.recordOf x.1 0x16 e.time32) v) ∧
      ((∀ x, e.reqOf t u.client = some x → x.2.live = true) →
        reply 0x0D (e.bareRecord 0xFFFF 0 0x16 u.client) (v.bump (key 0x6010 3) 0))) ∧
    (known = false →
      (lowestFree (Tbl.keys e.serv.reqs) 65536 0 = none →
        reply 0x0D (e.bareRecord 0xFFFF 0 0x14 u.client) ((e.bump (key 0x6010 2) 1).bump (key 0x6010 3) 0)) ∧
      (∀ slot, lowestFree (Tbl.keys e.serv.reqs) 65536 0 = some slot →
        Tbl.find? e.serv.reqs slot = none ∧ (∀ j < slot, ∃ x, Tbl.find? e.serv.reqs j = some x) ∧
        (∀ c v, e.admitFault t slot u = (some c, v) → reply 0x0D (v.bareRecord slot 1 c u.client)
          ((v.bump (key 0x6010 2) 1).bump (key 0x6010 3) (if c = 0x04 then 1 else 0))) ∧
        (∀ v, e.admitFault t slot u = (none, v) →
          let pin := if u.adapter = 0 then 0 else (v.adapter u.adapter).cur
          ∃ g, reply 0x00 (g.currentRecord slot) g ∧ g.req slot = u.entry t r.counter.toNat pin ∧ (g.req slot).state = 2 ∧
            (∀ j, j ≠ slot → g.req j = v.req j) ∧ (pin ≠ 0 → (g.version pin).pins = (v.version pin).pins + 1) ∧
            g.ctr (key 0x6010 1) = min (2 ^ 64 - 1) (v.ctr (key 0x6010 1) + 1) ∧ g.mem = v.mem)))

/-- A cancel (R220), a deadline's passing on an idle lead core (R221) and the end of retention (R212). An ended request's entry
keeps its state, its status and no pin; no other entry changes. -/
def Obligations.EndsOfRequests : Prop :=
  (∀ (r : Req) (s : State) (o : ObjRow), s.writes 0x6002 0 ruleCancel r o → scalarFault o r.payload = none →
    let e := s.dev.counted 0x6002 o r
    let t := r.tenant.toNat
    let c := ofLe r.payload
    let reply := fun (status : Nat) (p : List Byte) (v : Device) => exec (.cancel r) s = s.wrote 0x6002 0 o r status p v
    (e.reqOf t c = none → reply 0x0D (e.bareRecord 0xFFFF 0 (if e.admittedBefore t c then 0x18 else 0x19) c) e) ∧
    (∀ x, e.reqOf t c = some x →
      (x.2.live = false → reply 0x00 (e.currentRecord x.1) e) ∧
      (x.2.live = true → (e.aux x.1).inRound = true →
        let v := e.setReq x.1 { x.2 with cancel := true }
        reply 0x00 (v.currentRecord x.1) v) ∧
      (x.2.live = true → (e.aux x.1).inRound = false →
        let v := e.endReq x.1 6 0x02
        reply 0x00 (v.currentRecord x.1) v))) ∧
  (∀ (d : Device) (slot state status : Nat), (d.req slot).live = true →
    let v := d.endReq slot state status
    v.req slot = { d.req slot with state := state, status := status, pin := 0 } ∧ (∀ j, j ≠ slot → v.req j = d.req j) ∧
    (v.aux slot).inRound = false ∧ (v.aux slot).sent = d.clk.up ∧ v.clk = d.clk ∧ v.cim = d.cim ∧
    ∃ l p, v.out = d.out ++ l ++ [.result (d.aux slot).car (d.aux slot).source (BitVec.ofNat 9 (d.req slot).tenant) p]) ∧
  (∀ (slot : BitVec 16) (s : State) (v : ServInfo), s.alive = true →
    let d := s.dev
    let x := d.req slot.toNat
    d.serving? x.inst = some v → x.live = true → x.deadline ≠ 2 ^ 48 - 1 → Tbl.find? d.serv.rounds x.inst = none →
    d.coreUp v.lead.val = true → (d.core v.lead.val).seq.phase = .idle →
      let e := if d.passed x.deadline then d else d.advance (d.timeLeft x.deadline)
      exec (.deadlinePass slot) s = s.goes ((e.instReqs x.inst).foldl (fun d q => d.settleIdle v q.1) e)) ∧
  (∀ (d : Device) (v : ServInfo) (slot : Nat), (d.aux slot).failure = none →
    ((d.aux slot).fenced = true → d.settleIdle v slot = d.endReq slot 8 0x05) ∧
    ((d.aux slot).fenced = false → d.passed (d.req slot).deadline = true → d.settleIdle v slot = d.endReq slot 7 0x03) ∧
    ((d.aux slot).fenced = false → d.passed (d.req slot).deadline = false → d.reg (key 0x6000 3) = 1 →
      d.boundExceeds slot (d.req slot) v = true → d.settleIdle v slot = d.endReq slot 7 0x04)) ∧
  (∀ (slot : BitVec 16) (s : State), s.alive = true → 5 ≤ (s.dev.req slot.toNat).state → s.dev.framesHeld slot.toNat = false →
    ∃ v, exec (.retentionExpiry slot) s = s.goes v ∧ v.req slot.toNat = ReqEnt.free ∧
      (∀ j, j ≠ slot.toNat → v.req j = s.dev.req j) ∧
      v.clk.up = max s.dev.clk.up ((s.dev.aux slot.toNat).sent + s.dev.reg (key 0x6000 2) * 1000000))

/-- The control records (R223): a tenant writes its own record and tenant 0 every one and the limits; a cleared Enabled with
FENCE fails the requests it names, at once or at the closing mark of their round. -/
def Obligations.ServingControls : Prop :=
  ∀ (r : Req) (s : State) (o : ObjRow),
    (s.writes 0x6004 0 ruleTenantServing r o → r.payload.length = 4096 → exec (.tenantServingWrite r) s =
      s.wrote 0x6004 0 o r 0x00 [] ((List.range 512).foldl
        (fun d t => d.writeTenantCtl r.tenant.toNat t (bytesAt r.payload (8 * t) 8)) (s.dev.counted 0x6004 o r))) ∧
    (s.writes 0x6006 0 ruleInstServing r o → r.payload.length = 8192 → exec (.instanceServingWrite r) s =
      s.wrote 0x6006 0 o r 0x00 [] ((List.range 1024).foldl
        (fun d i => if d.ownsInstance r.tenant.toNat i then d.writeInstCtl i (ctlOf (bytesAt r.payload (8 * i) 8)) else d)
        (s.dev.counted 0x6006 o r))) ∧
    (∀ v e, s.takes 0x6030 0 ruleExperts r o v e → v.length = 262144 → exec (.expertControlWrite r) s =
      s.told e 0x6030 0 o r 0x00 [] (v.zipIdx.foldl (fun d b =>
        if decide (Tbl.get 1 d.serv.experts b.2 ≠ b.1.toNat % 4) && d.ownsInstance r.tenant.toNat (b.2 / 256)
        then d.writeExpert b.2 b.1 else d) e)) ∧
    (∀ (d : Device) (by_ t : Nat) (b : List Byte),
      let v := d.writeTenantCtl by_ t b
      (by_ ≠ 0 → by_ ≠ t → v = d) ∧
      ((by_ = 0 ∨ by_ = t) → v.tenantCtl t = ctlOf b ∧ (∀ j, j ≠ t → v.tenantCtl j = d.tenantCtl j)) ∧
      ((by_ = 0 ∨ by_ = t) → bit (wordAt b 0) 0 = true ∨ bit (wordAt b 0) 1 = false → ∀ k, v.req k = d.req k)) ∧
    (∀ (d : Device) (i : Nat) (c : Ctl),
      (d.writeInstCtl i c).instCtl i = c ∧ (∀ j, j ≠ i → (d.writeInstCtl i c).instCtl j = d.instCtl j) ∧
      (c.enabled = true ∨ c.mode = false → ∀ k, (d.writeInstCtl i c).req k = d.req k)) ∧
    (∀ (d : Device) (slot : Nat), (d.req slot).live = true →
      ((d.aux slot).inRound = true → d.fenceReq slot = d.setAux slot { d.aux slot with fenced := true }) ∧
      ((d.aux slot).inRound = false → d.fenceReq slot = d.endReq slot 8 0x05))

/-! ### Casting, swapping and adapters (11) -/

/-- Casts and re-casts (R253, R255, R258, R259, R261): an opening that a check refuses leaves the instance absent with that
status and counts; one that passes leaves it casting; a chunk goes to the open job; a close with all in place makes the instance
ready; an abort leaves it absent; a region's re-cast ends with its digest compared. -/
def Obligations.Casts : Prop :=
  ∀ (r : Req) (x : MaqExtra) (s : State) (o : ObjRow),
    (s.writes 0x7000 1 (ruleCastOpen x) r o → r.payload.length = 36 → leAt r.payload 0 2 ≤ 1023 → leAt r.payload 2 2 ≤ 8191 →
      let e := s.dev.counted 0x7000 o r
      let i := leAt r.payload 0 2
      let h := leAt r.payload 2 2
      let b := (e.readMaquette h).1
      let d := (e.readMaquette h).2
      let m := maqOf (b.getD []) x
      let reply := fun (status : Nat) (p : List Byte) (v : Device) => exec (.castOpen r x) s = s.wrote 0x7000 1 o r status p v
      (∀ c, d.castFault i b (bytesAt r.payload 4 32) m = some c → ∃ v, reply 0x0D [BitVec.ofNat 8 c] v ∧
        v.ctr (key 0x7070 4) = min (2 ^ 64 - 1) (d.ctr (key 0x7070 4) + 1) ∧ v.cim = d.cim ∧ v.mem = d.mem ∧
        ((d.inst i).state = 0 → v.inst i = { Inst.absent with status := c }) ∧
        ((d.inst i).state ≠ 0 → v.inst i = d.inst i) ∧ ∀ j, j ≠ i → v.inst j = d.inst j) ∧
      (d.castFault i b (bytesAt r.payload 4 32) m = none →
        (d.startCast i h m = .error .quota → reply 0x0D [0x09] (d.castFailed i 0x09)) ∧
        (d.startCast i h m = .error .space → reply 0x0D [0x0A] (d.castFailed i 0x0A)) ∧
        (∀ v, d.startCast i h m = .ok v → reply 0x00 [] v ∧ (v.inst i).state = 1 ∧ (v.inst i).tenant = m.tenant ∧
          (v.inst i).status = 0x01 ∧ (v.inst i).maqH = h ∧ (v.inst i).maq = none ∧ (v.inst i).job.isSome = true))) ∧
    (s.writes 0x7000 2 ruleCastClose r o → scalarFault o r.payload = none →
      let d := s.dev.counted 0x7000 o r
      let i := ofLe r.payload
      let reply := fun (status : Nat) (p : List Byte) (v : Device) => exec (.castClose r) s = s.wrote 0x7000 2 o r status p v
      (r.tenant ≠ 0#9 → reply 0x0D [0x0E] d) ∧
      (r.tenant = 0#9 →
        let u := d.castHeld
        ((u.inst i).job = none ∨ (u.inst i).state ≠ 1 → reply 0x0D [0x13] u) ∧
        (∀ j, (u.inst i).job = some j → (u.inst i).state = 1 →
          let n := j.maq.extra.regions.length
          let whole := j.maq.layers.all (fun l => j.staged.contains l.layer) && (List.range n).all j.regionWhole && j.settled
          let good := (List.range n).all j.regionGood &&
            (j.maq.expected.isEmpty || decide (j.maq.layers.map (fun l => j.digest l) = j.maq.expected))
          (whole = false → reply 0x0D [0x01] u) ∧
          (whole = true → good = false → ∃ v, reply 0x0D [0x0B] v ∧ v.inst i = { Inst.absent with status := 0x0B }) ∧
          (whole = true → good = true → ∃ v, reply 0x00 [] v ∧ (v.inst i).state = 2 ∧ (v.inst i).status = 0 ∧
            (v.inst i).job = none ∧ (v.inst i).maq = some j.maq ∧
            (v.inst i).digests = numbered 0 (j.maq.layers.map (fun l => j.digest l)))))) ∧
    (s.writes 0x7000 3 ruleCastAbort r o → scalarFault o r.payload = none → r.tenant = 0#9 →
      let d := s.dev.counted 0x7000 o r
      let i := ofLe r.payload
      ∀ j, (d.inst i).job = some j → (d.inst i).state = 1 → ∃ v, exec (.castAbort r) s = s.wrote 0x7000 3 o r 0x00 [] v ∧
        v.inst i = { Inst.absent with status := 0x0D } ∧ ∀ k, k ≠ i → v.inst k = d.inst k) ∧
    (∀ c d, s.takes 0x7002 0 ruleChunk r o c d → 32 ≤ c.length →
      let h := chunkHdr c
      let reply := fun (status : Nat) (p : List Byte) (v : Device) => exec (.chunk r) s = s.told d 0x7002 0 o r status p v
      (h.target ≤ 1 → h.adapter = 0 → ∀ j, (d.inst h.inst).job = some j → j.swap = h.swap →
        (∀ v, d.jobChunk h.inst j h c = .ok v → reply 0x00 [] (v.settleSwap h.inst)) ∧
        (∀ f, d.jobChunk h.inst j h c = .error f → j.swap = false →
          reply 0x0D [BitVec.ofNat 8 f] ((d.undoCast h.inst j f).bump (key 0x7070 4) 1)) ∧
        (∀ f, d.jobChunk h.inst j h c = .error f → j.swap = true →
          reply 0x0D [BitVec.ofNat 8 f] (d.swapFail h.inst f))) ∧
      (h.target = 0 → h.adapter = 0 → (d.inst h.inst).job = none → reply 0x00 [] (d.bump (key 0x7070 4) 1)) ∧
      (h.target = 2 → ∀ v, d.loading? h.adapter = some v → (d.adapter h.adapter).inst = h.inst →
        (∀ u, d.adapterChunk v.1 v.2 h c = some u → reply 0x00 [] u) ∧
        (d.adapterChunk v.1 v.2 h c = none → reply 0x0D [0x03] ((d.freeVersion v.1).bump (key 0x7070 4) 1)))) ∧
    (s.writes 0x7032 0 ruleRecast r o → scalarFault o r.payload = none →
      let d := s.dev.counted 0x7032 o r
      let h := ofLe r.payload
      (d.region? h = none → exec (.regionRecast r) s = s.wrote 0x7032 0 o r 0x0D [0x13] d) ∧
      (∀ g, d.region? h = some g → ∃ v, exec (.regionRecast r) s = s.wrote 0x7032 0 o r 0x00 [] v ∧
        v.region? h = some { g with recast := some ([], []) } ∧ (v.inst g.inst).status = 0x01 ∧ v.mem = d.mem)) ∧
    (∀ (h : HandleId) (g : Region) (y : Handle) (c : List (Nat × Nat) × Tbl Byte), s.alive = true →
      let d := s.dev
      let n := h.toNat
      d.region? n = some g → d.handle? n = some y → g.recast = some c →
        (gotBytes c.1 ≠ y.bytes → exec (.regionRecastDone h) s = s.goes d) ∧
        (gotBytes c.1 = y.bytes →
          let b := Tbl.sliceFrom 0#8 y.bytes 0 c.2
          ∃ v, exec (.regionRecastDone h) s = s.goes v ∧ v.region? n = some { g with recast := none } ∧
            (v.inst g.inst).status = (if sha256 b = g.digest then 0 else 0x0B) ∧
            (sha256 b = g.digest → Tbl.find? v.mem.handles n = some { y with attrs := y.attrs &&& ~~~(1#11 <<< 9) }) ∧
            v.mem.m = (d.writeH n 0 (cleanWords b)).mem.m))

/-- Swaps (R262, R263, R265, R267): an opening keeps the old weights and starts at layer 0; a layer's rewrite starts when its
image, its regions and the old round let it; its end moves the front; a failure past the first rewrite disables the instance. -/
def Obligations.Swaps : Prop :=
  ∀ (r : Req) (x : MaqExtra) (s : State) (o : ObjRow) (inst : BitVec 10),
    (s.writes 0x7010 1 (ruleSwapOpen x) r o → r.payload.length = 40 → leAt r.payload 0 2 ≤ 1023 → leAt r.payload 2 2 ≤ 8191 →
      leAt r.payload 4 1 ≤ 1 →
      let e := s.dev.counted 0x7010 o r
      let i := leAt r.payload 0 2
      let h := leAt r.payload 2 2
      let b := (e.readMaquette h).1
      let d := (e.readMaquette h).2
      let m := maqOf (b.getD []) x
      let reply := fun (status : Nat) (p : List Byte) (v : Device) => exec (.swapOpen r x) s = s.wrote 0x7010 1 o r status p v
      (((e.inst i).state ≠ 2 ∧ (e.inst i).state ≠ 4) ∨ (e.inst i).job.isSome = true → reply 0x0D [0x0F] e) ∧
      (((e.inst i).state = 2 ∨ (e.inst i).state = 4) → (e.inst i).job = none →
        (∀ c, swapFault (e.inst i) i b (bytesAt r.payload 8 32) m = some c →
          reply 0x0D [BitVec.ofNat 8 c] (d.setInst i { e.inst i with status := c })) ∧
        (swapFault (e.inst i) i b (bytesAt r.payload 8 32) m = none → ∀ y, d.allocMany (d.stagingWants m) = .ok y →
          reply 0x00 [] (y.2.startSwap i h m (decide (leAt r.payload 4 1 = 1)) y.1)))) ∧
    (∀ (d : Device) (i h : Nat) (m : Maq) (policy : Bool) (hs : List Nat) (g : Round), Tbl.find? d.serv.rounds i = some g →
      let v := d.startSwap i h m policy hs
      v.inst i = { d.inst i with state := 3, status := 0x01, policy := policy, front := 0,
                                 job := some (CastJob.start m h true policy (d.inst i).state hs) } ∧
      Tbl.find? v.serv.rounds i = some { g with old := true, restart := policy } ∧
      (∀ c, ∀ p ∈ (v.core c).aux.plans, p.inst = i → p.newRound = false) ∧
      v.cim.engines = d.cim.engines ∧ v.serv.reqs = d.serv.reqs) ∧
    (s.alive = true →
      let d := s.dev
      let i := inst.toNat
      let y := d.inst i
      ∀ j old, y.job = some j → y.maq = some old → j.swap = true → ∀ l, j.maq.layers[y.front]? = some l →
        let rs := j.maq.regionsOf l
        let wrong := rs.any j.regionWrong ||
          (!j.maq.expected.isEmpty && decide (some (j.digest l) ≠ j.maq.expected[l.layer]?))
        (j.rewriting = false → j.staged.contains l.layer = true → d.layerTested j.maq l = false →
          (wrong = true → exec (.layerRewriteStart inst) s = s.goes (d.swapFail i 0x0B)) ∧
          (wrong = false → rs.all (j.regionSet old) = true → d.oldPast i l.layer old = true →
            exec (.layerRewriteStart inst) s = s.goes (d.setInst i { y with job := some { j with rewriting := true } }))) ∧
        (j.rewriting = true → (j.maq.layerKeys l).all (fun k => d.keyFree j.maq k) = true →
          y.front + 1 < j.maq.layers.length → ∃ v, exec (.layerRewriteDone inst) s = s.goes v ∧
          v.inst i = { y with digests := Tbl.put y.digests l.layer (j.digest l), front := y.front + 1,
                              job := some { j with rewriting := false } }) ∧
        (j.rewriting = true → (j.maq.layerKeys l).all (fun k => d.keyFree j.maq k) = false →
          exec (.layerRewriteDone inst) s = s.goes d)) ∧
    (∀ (d : Device) (i code : Nat) (j : CastJob), (d.inst i).job = some j →
      let v := d.swapFail i code
      ((d.inst i).front = 0 → j.rewriting = false →
        v.inst i = { d.inst i with state := j.prior, status := code, job := none, front := (d.inst i).layers }) ∧
      ((d.inst i).front ≠ 0 ∨ j.rewriting = true → v.instCtl i = ⟨false, true⟩ ∧
        v.inst i = { d.inst i with state := 4, status := 0x10, job := none, front := (d.inst i).layers }))

/-- Adapters (R268–R270): an installation binds the name and takes the lowest version slot; the last byte makes the version
current and retires the one before; a removal frees all versions and unbinds the name. -/
def Obligations.Adapters : Prop :=
  ∀ (r : Req) (s : State) (o : ObjRow),
    (s.writes 0x7061 0 ruleAdapterInstall r o → r.payload.length = 16 →
      let d := s.dev.counted 0x7061 o r
      let w := wordAt r.payload
      let n := bits (w 0) 11 0
      let i := bits (w 0) 21 12
      let rank := bits (w 0) 28 22
      let t := r.tenant.toNat
      let a := d.adapter n
      let reply := fun (status : Nat) (p : List Byte) (v : Device) => exec (.adapterInstall r) s = s.wrote 0x7061 0 o r status p v
      n ≠ 0 → 1 ≤ rank → rank ≤ 64 →
      (a.bound = true → (a.tenant ≠ t ∨ a.inst ≠ i) → reply 0x0D [0x0E] d) ∧
      (a.bound = false ∨ (a.tenant = t ∧ a.inst = i) → ∀ m, (d.inst i).maq = some m → m.extra.serving.home = d.fab.coord →
        (∀ l ∈ adapterLayers m, l.ra < rank → reply 0x0D [0x11] d) ∧
        ((∀ l ∈ adapterLayers m, rank ≤ l.ra) →
          (lowestFree (Tbl.keys d.cast.versions) 4095 1 = none → reply 0x0D [0x12] d) ∧
          (∀ k, lowestFree (Tbl.keys d.cast.versions) 4095 1 = some k →
            (d.allocFactors t m = .error .quota → reply 0x0D [0x09] d) ∧ (d.allocFactors t m = .error .space → reply 0x0D [0x0A] d) ∧
            (∀ y, d.allocFactors t m = .ok y → ∃ v, reply 0x00 [] v ∧
              v.adapter n = { y.2.adapter n with ctl := a.ctl, cur := a.cur, bound := true, inst := i, tenant := t } ∧
              v.version k = { Version.free with adapter := n, st := 1, rank := rank, alpha := BitVec.ofNat 32 (w 1),
                                                hA := y.1.1, hB := y.1.2 }))))) ∧
    (∀ (slot : BitVec 12) (m : Maq), s.alive = true →
      let d := s.dev
      let v := slot.toNat
      let x := d.version v
      let a := d.adapter x.adapter
      (d.inst a.inst).maq = some m → x.st = 1 →
      (∀ l ∈ adapterLayers m, gotBytes (Tbl.get [] x.got l.layer) = l.adapterBytes x.rank) → a.cur ≠ v →
      ∃ u, exec (.adapterVersionCurrent slot) s = s.goes u ∧ (u.adapter x.adapter).cur = v ∧ (u.version v).st = 2 ∧
        (u.version v).got = [] ∧ (a.cur ≠ 0 → (d.version a.cur).pins ≠ 0 → u.version a.cur = { d.version a.cur with st := 3 }) ∧
        (a.cur ≠ 0 → (d.version a.cur).pins = 0 → u.version a.cur = Version.free)) ∧
    (∀ v e, s.takes 0x7062 0 ruleAdapterRecords r o v e → v.length = 65536 →
      exec (.adapterRecordWrite r) s = s.told e 0x7062 0 o r 0x00 [] ((List.range 4096).foldl (fun d n =>
        let a := d.adapter n
        let c : Ctl := ctlOf (bytesAt v (16 * n) 16)
        if n = 0 ∨ (r.tenant.toNat ≠ 0 ∧ (a.bound = false ∨ a.tenant ≠ r.tenant.toNat)) ∨ (c = a.ctl ∧ a.bound = false) then d
        else d.setAdapterCtl n c) e)) ∧
    (∀ (d : Device) (n : Nat) (c : Ctl), (d.setAdapterCtl n c).adapter n = { d.adapter n with ctl := c } ∧
      ∀ k, k ≠ n → (d.setAdapterCtl n c).adapter k = d.adapter k) ∧
    (s.writes 0x7064 0 ruleAdapterRemove r o → scalarFault o r.payload = none →
      let d := s.dev.counted 0x7064 o r
      let n := ofLe r.payload
      let vs := d.cast.versions.filter (fun (e : Nat × Version) => decide (e.2.adapter = n ∧ e.2.st ≠ 0))
      ((d.adapter n).bound = false → exec (.adapterRemove r) s = s.wrote 0x7064 0 o r 0x0D [0x13] d) ∧
      ((d.adapter n).bound = true →
        ((∃ e ∈ vs, e.2.pins ≠ 0) → exec (.adapterRemove r) s = s.wrote 0x7064 0 o r 0x0D [0x0F] d) ∧
        ((∀ e ∈ vs, e.2.pins = 0) → ∃ v, exec (.adapterRemove r) s = s.wrote 0x7064 0 o r 0x00 [] v ∧
          v.adapter n = Adapter.reset ∧ ∀ e ∈ vs, v.version e.1 = Version.free)))

/-! ### The scratchpad (07) -/

/-- Words, their codewords and the patrol (R150, R163, R166–R171). A written word reads back with its poison and leaves every
other word; one flipped bit of a stored codeword still reads the word, two poison it; a combining window's one read goes to all
who joined, as one packet under their tile mask; a scrub write-back closes the row's windows and stores a valid codeword; a patrol read takes its bank's
next row 8000h.01 cycles after the one before. -/
def Obligations.Scratchpad : Prop :=
  (∀ (d : Device) (wa : Nat) (x : RWord),
    let v := d.writeWords wa [x]
    v.peek wa = x ∧ (∀ wb, wb ≠ wa → v.peek wb = d.peek wb) ∧ (∀ u, ∀ e ∈ Tbl.get [] v.mem.scrub u, u = unitOf (4 * wa) → e.1 ≠ wa)) ∧
  (∀ (d : Device) (wa : Nat), Tbl.get 0#2 d.mem.m.poison wa = 0#2 →
    (∀ i, i < 39 → Tbl.get 0#39 d.mem.m.flips wa = 1#39 <<< i →
      d.peek wa = ⟨d.mem.m.raw wa, false⟩ ∧ (d.readWord wa 0).2.ctr (key 0x8010 1) = min (2 ^ 64 - 1) (d.ctr (key 0x8010 1) + 1)) ∧
    (∀ i j, i < 39 → j < i → Tbl.get 0#39 d.mem.m.flips wa = 1#39 <<< i ^^^ 1#39 <<< j → (d.peek wa).poison = true ∧
      (d.readWord wa 0).1.poison = true)) ∧
  (∀ (k : ClusterIx) (tile : Fin 3) (row : Nat) (s : State) (w : Window), s.alive = true →
    s.dev.window? k.val tile.val row = some w →
    let d := s.dev
    let at_ := fun i => d.peek (rowAddr w.cluster (13 + w.tile) w.row / 4 + i)
    ∃ v l ws, exec (.combineWindowClose k tile row) s = s.goes v ∧ v.window? k.val tile.val row = none ∧ v.mem.m = d.mem.m ∧
      v.out = d.out ++ l ++ [.combined (tileMask (w.asks.map Prod.fst)) (ws.map (fun x => x.w)) (ws.map (fun x => x.poison))] ∧
      v.mem.combined = d.mem.combined ++ w.asks.map (fun a => ⟨a.1, a.2, rowAddr w.cluster (13 + w.tile) w.row / 64, ws⟩) ∧
      (d.handleOfRow w.cluster (13 + w.tile) w.row = none → ws = (List.range 16).map at_) ∧
      (∀ h y, d.handleOfRow w.cluster (13 + w.tile) w.row = some (h, y) → d.handle? h = some y →
        ws = (List.range 16).map (fun i => ⟨(at_ i).w, (at_ i).poison || y.bad⟩))) ∧
  (∀ (k : ClusterIx) (unit : Fin 16) (s : State) (wa : Nat) (bad : Bool) (q : List (Nat × Bool)), s.alive = true →
    Tbl.get [] s.dev.mem.scrub (k.val * 16 + unit.val) = (wa, bad) :: q →
    let d := s.dev
    let e := d.closeRows (4 * wa) 4
    let u := k.val * 16 + unit.val
    ∃ v, exec (.scrubWriteback k unit) s = s.goes v ∧ v.mem.windows = e.mem.windows ∧
      Tbl.get [] v.mem.scrub u = (Tbl.get [] e.mem.scrub u).filter (fun x => decide (x.1 ≠ wa)) ∧
      v.peek wa = ⟨(d.peek wa).w, bad || (d.peek wa).poison⟩ ∧ Tbl.get 0#39 v.mem.m.flips wa = 0#39 ∧
      (∀ wb, wb ≠ wa → v.peek wb = d.peek wb) ∧ v.ctr (key 0x8010 3) = min (2 ^ 64 - 1) (e.ctr (key 0x8010 3) + 1)) ∧
  (∀ (u : PatrolUnit) (bank : Fin 64) (soft : List (Nat × BitVec 39)) (s : State), s.alive = true → s.dev.patrolOn u = true →
    ((∃ k n, u = .scratch k n) ∨ soft = []) →
    let d := s.dev
    let n := d.patrolRow u bank.val + 1
    ∃ v, exec (.patrolRead u bank soft []) s = s.goes v ∧
      Tbl.find? v.mem.asked (patrolKey u bank.val) = some (d.patrolDue u bank.val) ∧
      v.patrolRow u bank.val = (if n < patrolRows u then n else 0) ∧
      v.patrolPasses u bank.val = d.patrolPasses u bank.val + (if n < patrolRows u then 0 else 1) ∧
      ∀ wa, v.mem.m.raw wa = d.mem.m.raw wa)

/-! ### Attention cores and KV frames (08) -/

/-- The layout of growing pages (R180): a position lies in the page that `pageOf` names, at an offset inside it; pages follow
each other without a gap; page 0 begins at position 0, and later pages never shrink. -/
def Obligations.PageLayout : Prop :=
  ∀ c : KvClass, c.s0 ≤ c.cap →
    (∀ t, let p := c.pageOf t
      c.pageStart p.1 + p.2 = t ∧ p.2 < c.pageTokens p.1 ∧
      (t < 2 ^ c.cap - 2 ^ c.s0 → p.1 = Nat.log2 (t / 2 ^ c.s0 + 1)) ∧
      (2 ^ c.cap - 2 ^ c.s0 ≤ t → p.1 = c.cap - c.s0 + (t - (2 ^ c.cap - 2 ^ c.s0)) / 2 ^ c.cap)) ∧
    c.pageStart 0 = 0 ∧ (∀ k, c.pageStart (k + 1) = c.pageStart k + c.pageTokens k) ∧
    (∀ k, c.pageTokens k = min (2 ^ (c.s0 + k)) (2 ^ c.cap))

/-- Attention cores (R192, R196, R202–R204): an idle core takes its oldest descriptor that its owner check passes and discards one
it does not; a descriptor whose parts are whole writes its outputs, signals and ends; a page is attended where it is held. -/
def Obligations.AttentionCores : Prop :=
  ∀ (k : ClusterIx) (q : PageReq) (m : PartialMsg) (s : State), s.alive = true →
    let d := s.dev
    let u := d.attnUnit k.val
    (∀ ws rest, u.cur = none → u.queue = ws :: rest → d.attnUp k.val = true → u.pausing = [] → u.pauseQ = [] →
      let e := d.setAttn k.val { u with queue := rest }
      let words := ws.map (fun w => w.1.toNat)
      let x := descOf words
      ((∃ w ∈ ws, w.2 = true) ∨ e.descOwner x = none →
        exec (.attentionDescriptor k) s = s.goes (e.dropDesc x ws) ∧
        (e.dropDesc x ws).ctr (key 0x8022 6) = min (2 ^ 64 - 1) (d.ctr (key 0x8022 6) + 1) ∧
        (e.dropDesc x ws).attnUnit k.val = { u with queue := rest }) ∧
      ((∀ w ∈ ws, w.2 = false) → ∀ o c st, e.descOwner x = some o → e.kvClass? o.1 o.2.1 = some c → c.streams[x.stream]? = some st →
        let r := e.startDesc k.val words x c st o.1 o.2.2
        exec (.attentionDescriptor k) s = s.goes (r.2.setAttn k.val { r.2.attnUnit k.val with cur := some r.1 }) ∧
        r.1.words = words ∧ (x.outside st (e.tokensHeld c x.owner x.slot x.stream) = true → r.1.range = true ∧
          r.2.mem = d.mem ∧ r.2.attn.pages = d.attn.pages))) ∧
    (∀ j, u.cur = some j →
      let x := descOf j.words
      (d.descOwner x = none → exec (.attentionDescriptorDone k) s = s.goes ((d.setAttn k.val { u with cur := none }).attnBetween k.val)) ∧
      (∀ o st, d.descOwner x = some o → (d.kvClass? o.1 o.2.1).bind (fun c => c.streams[x.stream]?) = some st →
        let ends := fun (e : Device) => exec (.attentionDescriptorDone k) s = s.goes
          (((e.setAttn k.val { e.attnUnit k.val with cur := none }).signalDesc x o.2.2).attnBetween k.val)
        (j.handle = true ∨ x.write = true → ends d) ∧
        (j.handle = false → x.write = false → j.range = true →
          d.areaFault k.val o.2.2 x.oH x.oOff (4 * (st.outBytes x.q / 4)) true = none →
          ends (d.writeH x.oH x.oOff (List.replicate (st.outBytes x.q / 4) ⟨0#32, true⟩))) ∧
        -- R204: after a lost page every output word is poisoned, and no query counts as empty
        (j.handle = false → x.write = false → j.range = false → j.failed = true → ends (d.writePoisoned x st)) ∧
        (j.handle = false → x.write = false → j.range = false → j.failed = false →
          ∀ hs, (∀ h < st.heads, j.merged x st h = some (hs h)) →
          ends (d.writeOutputs x st j.badQ ((List.range st.heads).map hs)))) ∧
      ((descOf j.words).slot = m.slot.toNat → m.neutral = false →
        (m.lost = false → exec (.pagePartialReceive k m) s = s.goes (d.setAttn k.val
          { u with cur := some { j with parts := Tbl.put j.parts (partKey m.kvHead m.level m.index) m.parts } })) ∧
        (m.lost = true →
          let e := d.setAttn k.val { u with cur := some { j with failed := true } }
          (e.holderOf x m.index = none → exec (.pagePartialReceive k m) s = s.goes (e.pageLost x.owner x.slot x.client)) ∧
          (∀ h, e.holderOf x m.index = some h →
            exec (.pagePartialReceive k m) s = s.goes ((e.pageLost x.owner x.slot x.client).loseFrames h)))) ∧
      ((descOf j.words).slot ≠ m.slot.toNat ∨ m.neutral = true → exec (.pagePartialReceive k m) s = s.goes d)) ∧
    (let p := d.pageEnt q.entry.toNat
     let held := decide (p.slot = q.slot.toNat ∧ p.stream = q.stream.val ∧ p.page = q.page.toNat ∧ p.remote = false ∧
       p.cluster = k.val ∧ p ≠ noPage) && !d.attn.deadPages.contains q.entry.toNat && !(d.health (k.val * 13 + 12)).drained
     let r := d.pageParts ⟨p.addr, p.tokens, p.format, q.layers, q.heads, q.headSize⟩ q.layer q.kvHead q.queries q.scale q.excluded
     (held = true → exec (.pageRequest k q) s = s.goes
       (r.2.send (.partialTo q.home q.homeCluster.val ⟨q.slot, q.kvHead, 0, q.page.toNat, false, false, r.1⟩))) ∧
     (held = false → exec (.pageRequest k q) s = s.goes
       (d.send (.partialTo q.home q.homeCluster.val ⟨q.slot, q.kvHead, 0, q.page.toNat, false, true, []⟩)))) ∧
    ((∀ f ∈ d.attn.frames, f.2.owner = q.owner → f.2.slot = q.slot.toNat → f.2.stream = q.stream.val → f.2.page ≤ q.page.toNat →
        f.2.releasing = true) →
      exec (.spanNeutralAnswer k q) s = s.goes (d.send (.partialTo q.home q.homeCluster.val ⟨q.slot, q.kvHead, 0, 0, true, false,
        List.replicate q.queries.length (Partial.neutral q.headSize)⟩)))

/-- KV frames (R183–R185): the stream's home seeks a frame in the order of the class, and a span device takes one of its own; each
answers with its entry, the home at once or when the device it asks has answered; the answer joins the chain at the home, and a
refusal asks the next device; a terminal request's frames are released through their owner records, and a released frame holds
zeros before its pool has it back. -/
def Obligations.KvFrames : Prop :=
  ∀ (q : FrameReq) (slot : BitVec 16) (stream : Fin 8) (page : BitVec 11) (far : BitVec 19) (owner : Coord) (k : ClusterIx)
    (tile : Fin 3) (row : Nat) (s : State), s.alive = true →
    let d := s.dev
    (let f := pageForOf q
     let no := s.goes (d.send (.frameAnswer q.owner f.slot f.stream f.page none))
     (q.authenticated = false ∨ d.reg (key 0x8020 4) = 0 → exec (.remoteFrameRequest q) s = no) ∧
     (q.authenticated = true → d.reg (key 0x8020 4) ≠ 0 → ∀ c st, d.kvClass? f.inst f.kv = some c → c.streams[f.stream]? = some st →
       let n := st.frameBytes (c.pageTokens f.page) / 4096
       let fits := f.owner = d.fab.coord ∨ d.lentUnits + n ≤ d.reg (key 0x8020 5)
       (st.home ≠ d.fab.coord →
         (∀ x, fits → d.takeFrame f c st (List.range 16) none = some x →
           exec (.remoteFrameRequest q) s = s.goes (x.2.send (.frameAnswer st.home f.slot f.stream f.page (some x.1)))) ∧
         (¬ fits ∨ d.takeFrame f c st (List.range 16) none = none →
           exec (.remoteFrameRequest q) s = s.goes (d.send (.frameAnswer st.home f.slot f.stream f.page none)))) ∧
       (st.home = d.fab.coord →
         (∀ devs x, c.askOrder st f.page = d.fab.coord :: devs → fits →
           d.takeFrame f c st (homeFirst st.homeCluster) (some st.homeCluster) = some x →
           exec (.remoteFrameRequest q) s =
             s.goes ((x.2.chainPage f x.1).send (.frameAnswer q.owner f.slot f.stream f.page (some x.1)))) ∧
         (∀ dev devs, c.askOrder st f.page = dev :: devs → dev ≠ d.fab.coord →
           exec (.remoteFrameRequest q) s = s.goes
             (({ d with attn := { d.attn with asked := d.attn.asked ++ [(⟨q, dev, .waiting⟩ : FarPage)] } } : Device).send (.frameReq dev q)))))) ∧
    (∀ (f : PageFor) (c : KvClass) (st : Stream) (order : List Nat) (slice : Option Nat) (e : Nat) (v : Device),
      d.takeFrame f c st order slice = some (e, v) → ∃ at_ fr, d.fitFrame (st.frameBytes (c.pageTokens f.page) / 64) order = some at_ ∧
        d.freePage (slice.getD at_.1) = some e ∧ Tbl.find? v.attn.frames (frameKey at_.1 at_.2.1 at_.2.2) = some fr ∧
        fr.owner = f.owner ∧ fr.slot = f.slot ∧ fr.client = f.client ∧ fr.stream = f.stream ∧ fr.page = f.page ∧ fr.entry = e ∧
        fr.releasing = false ∧ (v.pageEnt e).owner = ownerWord f.slot f.stream f.page (decide (f.owner ≠ d.fab.coord)) ∧
        v.kvUsed f.tenant = d.kvUsed f.tenant + st.frameBytes (c.pageTokens f.page) / 64 / 64 ∧
        v.kvUsed f.tenant ≤ (d.limits f.tenant).kv ∧ v.mem = d.mem) ∧
    (∀ x, exec (.remoteFrameAnswer slot stream page x) s =
      s.goes ((d.frameAnswered slot.toNat stream page.toNat x).kick (d.req slot.toNat).inst)) ∧
    (∀ a c st, d.askedFor slot.toNat stream.val page.toNat = some a → d.kvClass? a.q.inst.toNat a.q.kvClass.toNat = some c →
      c.streams[stream.val]? = some st →
      let rest := d.attn.asked.filter (fun x => decide (x ≠ a))
      -- a page of this device's own request whose stream has its home elsewhere: the home keeps the chain
      (st.home ≠ d.fab.coord →
        let v := d.frameAnswered slot.toNat stream page.toNat (some far)
        v.attn.asked = rest ++ [{ a with st := .away }] ∧ (page = 0#11 → (v.req slot.toNat).pages[stream.val]? = some far.toNat)) ∧
      (∀ e, st.home = d.fab.coord → d.freePage st.homeCluster = some e →
        let v := d.frameAnswered slot.toNat stream page.toNat (some far)
        v.attn.asked = rest ++ [{ a with st := .placed e }] ∧
        (v.pageEnt e).owner = ownerWord slot.toNat stream.val page.toNat (decide (a.q.owner ≠ d.fab.coord)) ∧
        (v.pageEnt e).e.toNat % 2 ^ 45 =
          (remoteEntry (min (c.s0 + page.toNat) c.cap - 4) st.format a.dev far.toNat e).toNat % 2 ^ 45 ∧
        (a.q.owner ≠ d.fab.coord → v.out = d.out ++ [.frameAnswer a.q.owner a.q.slot.toNat stream.val page.toNat (some e)])) ∧
      -- a refusal of the last device of the order: no frame can be had
      (((d.askOrder c st page.toNat).dropWhile (fun x => decide (x ≠ a.dev))).drop 1 = [] → a.q.owner ≠ d.fab.coord →
        d.frameAnswered slot.toNat stream page.toNat none = ({ d with attn := { d.attn with asked := rest } } : Device).send
          (.frameAnswer a.q.owner a.q.slot.toNat a.q.stream.val a.q.page.toNat none))) ∧
    ((d.descLive owner slot.toNat = false ∧ (owner = d.fab.coord → (d.req slot.toNat).live = false)) →
      ∃ v l, exec (.frameRelease owner slot) s = s.goes v ∧
        (∀ f ∈ v.attn.frames, f.2.owner = owner → f.2.slot = slot.toNat → f.2.releasing = true) ∧
        v.attn.frames.length = d.attn.frames.length ∧
        (owner = d.fab.coord → ∀ p ∈ v.attn.pages, p.2.slot = slot.toNat → p.2.isFar = true) ∧
        (∀ i, ∀ y ∈ (v.attnUnit i).look, ¬ (y.1 = owner ∧ y.2.1 = slot.toNat)) ∧ v.mem = d.mem ∧
        -- every device that was asked for a frame of it is told
        v.out = d.out ++ l ∧ (∀ a ∈ d.attn.asked, a.q.owner = owner → a.q.slot = slot →
          OutMsg.frameRelease a.dev owner slot.toNat ∈ l ∧ a ∉ v.attn.asked)) ∧
    (∀ fr, Tbl.find? d.attn.frames (frameKey k.val tile.val row) = some fr →
      (fr.releasing = false → exec (.frameZeroDone k tile row) s = s.goes d) ∧
      (fr.releasing = true → ∃ v, exec (.frameZeroDone k tile row) s = s.goes v ∧
        Tbl.find? v.attn.frames (frameKey k.val tile.val row) = none ∧ v.kvUsed fr.tenant = d.kvUsed fr.tenant - fr.rows / 64 ∧
        (let a := rowAddr k.val (13 + tile.val) row
         v.ctr (key 0x8022 8) =
           min (2 ^ 64 - 1) ((d.zeroExtent k.val (13 + tile.val) a (64 * fr.rows)).ctr (key 0x8022 8) + 1) ∧
         (∀ b, a ≤ b → b < a + 64 * fr.rows → v.mem.m.byte b = 0#8 ∧ Tbl.get 0#2 v.mem.m.poison (b / 4) = 0#2) ∧
         ∀ b, (b < a ∨ a + 64 * fr.rows ≤ b) → v.mem.m.byte b = d.mem.m.byte b)))

/-! ### Ports, links and packets (12) -/

/-- Flits at a port (R280–R285, R289, R290): what is not intact is discarded and asked for again; an intact flit's link word is
taken; the expected packet flit is kept, acknowledged and its credit returned (with one of the shared rest while it lasts, log
8), and a whole packet goes where its header says, one of a class that is not listed nowhere; a retry request resends what is
not acknowledged before any packet flit that its credits let go; hellos make a port up, miswired or wait. -/
def Obligations.PortFlits : Prop :=
  ∀ (p : PortIx) (f : Flit) (s : State), s.alive = true →
    let d := s.dev
    let x := d.port p.val
    let e := (d.modPort p.val (fun x => x.linkWord f d.clk.up)).pumpAll p.val
    let y := e.port p.val
    let bare := fun (type link : Nat) (ws : List Nat) => OutMsg.flit p.val (sealFlit (type + x.ackValue * 2 ^ 25 + link) 0
      (flitWords (ws.map (fun w => ⟨BitVec.ofNat 32 w, false⟩))))
    (2 ≤ x.st → x.st ≤ 4 → f.intact = false →
      let u := (if f.crc = f.sum then d else d.bump (key 0x4030 3) 1).askRetry p.val
      exec (.packetReceive p [f]) s = s.goes u ∧ u.out = d.out ++ [bare 4 0 []] ∧ (u.port p.val).rxSeq = x.rxSeq ∧
      (u.port p.val).asked = true ∧ (u.port p.val).partialIn = x.partialIn ∧ u.ctr (key 0x4030 4) = min (2 ^ 64 - 1) (d.ctr (key 0x4030 4) + 1)) ∧
    (y.kept = { x with lastFlit := d.clk.up }.kept ∧ ∀ q, q ≠ p.val → e.port q = d.port q) ∧
    (x.st = 3 → f.intact = true → f.type = 1 →
      (f.seq = x.rxSeq → f.isFirst = true →
        let n := if 12 ≤ f.cls then 0 else if Tbl.get 0 y.shared f.chan < rxShared p.val f.chan then 2 else 1
        let k := fun part => ((e.setPort p.val { y with
          shared := if n = 2 then Tbl.set 0 y.shared f.chan (Tbl.get 0 y.shared f.chan + 1) else y.shared,
          rxSeq := (x.rxSeq + 1) % 16384, asked := false, partialIn := Tbl.set [] x.partialIn f.chan part }).bump (key 0x4030 2) 1).sendBare p.val 0
          (if n = 0 then 0 else f.chan * 2 ^ 39 + f.cls * 2 ^ 41 + n * 2 ^ 45) []
        (f.isLast = false → exec (.packetReceive p [f]) s = s.goes (k [f])) ∧
        (f.isLast = true → exec (.packetReceive p [f]) s = s.goes ((k []).packetIn p.val [f]) ∧
          exec (.multicastReceive p [f]) s = s.goes ((k []).packetIn p.val [f]))) ∧
      (f.seq ≠ x.rxSeq → (x.asked = true → exec (.packetReceive p [f]) s = s.goes e) ∧
        (x.asked = false → exec (.packetReceive p [f]) s = s.goes (e.askRetry p.val)))) ∧
    (∀ u : Device, let k := (packetOf [f]).1
      ((packetOf [f]).2 = true ∨ packetWhole [f] = false ∨ 12 ≤ f.cls → u.packetIn p.val [f] = u.bump (key 0x4030 0x0E) 1) ∧
      ((packetOf [f]).2 = false → packetWhole [f] = true → f.cls < 12 → u.isHostPort p.val = false →
        let g := f.cls / 2 + if p.val ≥ 6 then 1 else 0
        let h := if p.val ≥ 6 then 0 else f.cls % 2
        let out := u.exitFor f.chan f.cls (k.flow.toNat % 2) k.dest
        (k.mcast = true → f.chan < 2 → u.packetIn p.val [f] = u.bump (key 0x4030 0x0E) 1) ∧
        (k.mcast = true → 2 ≤ f.chan → k.words.length ≤ 1024 → cSlot k.dest < 4 →
          let lo := ordinal k.dest
          let hi := min 131072 (lo + k.count + 1)
          let own := ordinal u.fab.coord
          let v := if lo ≤ own ∧ own < hi then u.deliverNow f.chan k else u
          let bs := splitRange own tierUnits lo hi
          (k.hops = 0 → u.packetIn p.val [f] = if bs = [] then v else v.bump (key 0x4030 8) 1) ∧
          (k.hops ≠ 0 → u.packetIn p.val [f] = bs.foldl (fun u b =>
            u.forward f.chan g h (ordinalDev b.1) { k with dest := ordinalDev b.1, count := b.2 - b.1 - 1 }) v)) ∧
        (k.mcast = false → out = .here → (f.chan = 1 ∨ f.chan = 2 → u.packetIn p.val [f] = u.inSequence p.val f.chan k) ∧
          (f.chan ≠ 1 → f.chan ≠ 2 → u.packetIn p.val [f] = u.deliverNow f.chan k)) ∧
        (k.mcast = false → out ≠ .here → (k.hops = 0 → u.packetIn p.val [f] = u.bump (key 0x4030 8) 1) ∧
          (k.hops ≠ 0 → u.packetIn p.val [f] = u.forward f.chan g h k.dest k)))) ∧
    (2 ≤ x.st → x.st ≤ 4 → exec (.helloSend p) s = s.goes (d.send (bare 2 0 (d.helloWords p.val)))) ∧
    (2 ≤ x.st → x.st ≤ 4 → f.intact = true →
      (f.type = 4 → let y := x.linkWord f d.clk.up
        ∃ u m, exec (.retryRequest p f) s = s.goes u ∧ u.out = d.out ++ (y.retry.map y.reseal ++ m).map (fun g => .flit p.val g) ∧
          (u.port p.val).retry = y.retry.map y.reseal ++ m ∧ (u.port p.val).rxSeq = x.rxSeq) ∧
      (x.waiting = 0 →
        let z : Port := { x with
          retry := x.retry.filter (fun g => decide (1 ≤ (g.seq + 16384 - f.ack) % 16384 ∧ (g.seq + 16384 - f.ack) % 16384 ≤ 8192)),
          credits := if f.credCls < 12 then Tbl.set 0 x.credits (f.credChan * 16 + f.credCls)
            (Tbl.get 0 x.credits (f.credChan * 16 + f.credCls) + f.credCount) else x.credits, lastFlit := d.clk.up }
        (f.type = 0 → exec (.idleFlitReceive p f) s = s.goes (d.setPort p.val z)) ∧
        (f.type = 2 →
          let w := (f.payload.getD 0 0#32).toNat
          let c : Coord := BitVec.ofNat 18 (bits w 17 0)
          let u := (d.setPort p.val z).setPort p.val { z with nbr := c, nbrPort := bits w 21 19, host := bit w 22 }
          (bit w 22 = false → (bit w 18 = false ∨ d.fab.written = false) →
            exec (.helloReceive p f) s = s.goes (u.linkState p.val 2) ∧ ((u.linkState p.val 2).port p.val).st = 2) ∧
          ((bit w 22 = true ∨ (bit w 18 = true ∧ d.fab.written = true)) →
            (u.helloMatches p.val c (bits w 21 19) = true → (x.st = 3 → exec (.helloReceive p f) s = s.goes u) ∧
              (x.st ≠ 3 → let v := ((u.linkState p.val 3).notify 2 0 0x4010 0 p.val 3).pumpAll p.val
                exec (.helloReceive p f) s = s.goes v ∧ (v.port p.val).st = 3)) ∧
            (u.helloMatches p.val c (bits w 21 19) = false → exec (.helloReceive p f) s = s.goes (u.miswire p.val) ∧
              ((u.miswire p.val).port p.val).st = 4)))))

/-- What ports do of themselves (R276, R286, R287–R289, R297, R298, R301, R409): training, the loss of a link for each of its
reasons, a drain that has ended, and the writes of port records and of the coordinate. -/
def Obligations.PortEvents : Prop :=
  ∀ (p : PortIx) (half : Bool) (r : Req) (o : ObjRow) (s : State), s.alive = true →
    let d := s.dev
    let x := d.port p.val
    (x.enabled = true → x.st ≤ 1 → d.fabricSlot = true → d.clk.refOk = true →
      let v := d.trained p.val half
      exec (.portTrained p half) s = s.goes v ∧ (v.port p.val).st = 2 ∧ (v.port p.val).epoch = (x.epoch + 1) % 2 ^ 32 ∧
      (v.port p.val).txSeq = 0 ∧ (v.port p.val).rxSeq = 0 ∧ (v.port p.val).retry = [] ∧ (v.port p.val).credits = startCredits) ∧
    (x.st = 1 → exec (.portTrainTimeout p) s = s.goes (d.setPort p.val { x with st := 0 })) ∧
    (2 ≤ x.st → x.st ≤ 4 →
      exec (.laneAlignmentLoss p) s = s.goes ((d.portDown p.val).crossingFallback (64 + p.val)) ∧
      exec (.silenceTimeout p) s = s.goes ((d.reach (x.lastFlit + d.reg (key 0x4001 2) * 1000)).portDown p.val) ∧
      ((d.portDown p.val).port p.val).st = d.downState p.val ∧ ((d.portDown p.val).port p.val).rxSeq = 0 ∧
      ∀ q, q ≠ p.val → ((d.portDown p.val).port q).kept = (d.port q).kept) ∧
    (let n := (x.retries.filter (fun t => decide (d.clk.up - t < 1000000))).length
     exec (.retryLimitExceeded p) s = if d.reg (key 0x4001 1) < n then s.goes (d.portDown p.val) else s.goes d) ∧
    (x.draining = true → x.retry = [] → x.waiting = 0 → exec (.portDrainDone p) s = s.goes (d.portDown p.val)) ∧
    (s.writes 0x4010 0 rulePorts r o → r.payload.length = 128 →
      let e := s.dev.counted 0x4010 o r
      (recordsOk 8 16 r.payload txOk = true → exec (.portRecordWrite r) s =
        s.wrote 0x4010 0 o r 0x00 [] (e.mergeRecords 8 16 r.payload (fun d p b => d.writePort p b))) ∧
      (recordsOk 8 16 r.payload txOk = false → exec (.portRecordWrite r) s = s.wrote 0x4010 0 o r 0x06 [] e)) ∧
    (s.writes 0x4000 1 ruleCoordinate r o → scalarFault o r.payload = none →
      let e := s.dev.counted 0x4000 o r
      let c : Coord := BitVec.ofNat 18 (ofLe r.payload)
      (cSlot c ≠ e.fab.slot.toNat ∨ 4 ≤ cSlot c → exec (.coordinateWrite r) s = s.wrote 0x4000 1 o r 0x06 [] e) ∧
      (cSlot c = e.fab.slot.toNat → cSlot c < 4 →
        (e.coordBusy = true → exec (.coordinateWrite r) s = s.wrote 0x4000 1 o r 0x08 [] e) ∧
        (e.coordBusy = false → ∃ v, exec (.coordinateWrite r) s = s.wrote 0x4000 1 o r 0x00 [] v ∧ v.fab.coord = c ∧
          v.fab.written = true ∧ ∀ q < 8, 2 ≤ (e.port q).st → (e.port q).st ≤ 4 → (v.port q).st = 2)))

/-- Order, reachability, time and sync packets (R295, R297, R300, R302, R303, R309, R313, R315): the reorder table delivers in
sequence and declares gaps lost; notices, probes and answers move what is known of links and devices; exchanges with the parent
set the offset; operations that arrive act on their object and answer their sender. -/
def Obligations.FabricServices : Prop :=
  ∀ (p : PortIx) (up : Bool) (dev src : Coord) (chan : BitVec 2) (flow : BitVec 16) (t1 t2 t3 t4 : BitVec 64) (s : State),
    s.alive = true →
    let d := s.dev
    let x := d.port p.val
    let now := d.clk.up
    (∀ (u : Device) (q c : Nat) (k : Packet),
      (u.reorder? k.src c k.flow = none → u.inSequence q c k =
        (u.putReorder ⟨k.src, c, k.flow, (k.seq + 1) % 65536, [], u.clk.up⟩).deliverNow c k) ∧
      (∀ e, u.reorder? k.src c k.flow = some e →
        (e.ahead k.seq = 0 → e.held = [] → u.inSequence q c k =
          (u.putReorder { e with next := (e.next + 1) % 65536, used := u.clk.up }).deliverNow c k) ∧
        (32768 ≤ e.ahead k.seq → u.inSequence q c k = (u.putReorder { e with used := u.clk.up }).bump (key 0x4030 0x0B) 1) ∧
        (e.ahead k.seq ≠ 0 → e.ahead k.seq < 32768 → (∀ h ∈ e.held, h.pkt.seq ≠ k.seq) →
          let v := u.putReorder { e with held := e.held ++ [⟨k, u.clk.up, q⟩], used := u.clk.up }
          (v.heldCount < 64 → u.inSequence q c k = v) ∧
          (64 ≤ v.heldCount → ∀ g, v.oldestGap = some g → u.inSequence q c k = v.gapLost g)))) ∧
    (∀ e, d.reorder? src chan.toNat flow = some e →
      (e.held ≠ [] → exec (.reorderHoldExpiry src chan flow) s = s.goes
        ((d.reach (e.held.foldl (fun n h => min n h.at_) (2 ^ 64) + d.reg (key 0x4001 3) * 1000)).gapLost e)) ∧
      (e.held = [] → ∃ v, exec (.reorderEntryIdle src chan flow) s = s.goes v ∧ v.reorder? src chan.toNat flow = none ∧
        v.clk = (d.reach (e.used + 1000000)).clk)) ∧
    (d.inScope dev p.val = true → ∃ v, exec (.routeNotice dev p up) s = s.goes v ∧
      ((dev, p.val) ∈ v.fab.down ↔ up = false) ∧ (∀ l, l ≠ (dev, p.val) → (l ∈ v.fab.down ↔ l ∈ d.fab.down)) ∧
      ∀ q, (v.port q).kept = (d.port q).kept) ∧
    (dev ≠ d.fab.coord →
      (d.routed dev = false → exec (.probeWaitExpiry dev) s = s.goes (d.setUnreachable dev)) ∧
      (d.routed dev = true → (∀ e ∈ d.fab.echoes, e.1 ≠ dev) → ∃ v, exec (.probeWaitExpiry dev) s = s.goes v ∧
        v.fab.echoes = d.fab.echoes ++ [(dev, now)] ∧ v.fab.unreachable = d.fab.unreachable ∧
        ∃ rest, v.out = d.out ++ .echo dev :: rest)) ∧
    (∀ e, d.fab.echoes.find? (fun (e : Coord × Nat) => decide (e.1 = dev)) = some e →
      ∃ v, exec (.probeTimeout dev) s = s.goes v ∧ (∀ y, y ∈ v.fab.unreachable ↔ y = dev ∨ y ∈ d.fab.unreachable) ∧
        ∀ e ∈ v.fab.echoes, e.1 ≠ dev) ∧
    (∃ v, exec (.echoAnswer dev) s = s.goes v ∧ (∀ y, y ∈ v.fab.unreachable ↔ y ≠ dev ∧ y ∈ d.fab.unreachable) ∧
      ∀ q, (v.port q).kept = (d.port q).kept) ∧
    (x.st = 3 →
      (let u := d.reach (x.lastTime + d.reg (key 0x4040 4) * 1000)
       let t := u.clk.time.toNat
       exec (.timeExchangeSend p) s = s.goes ((u.modPort p.val (fun x => { x with lastTime := u.clk.up })).sendBare p.val 3 0
         [t % 2 ^ 32, t / 2 ^ 32, 0, 0, 0, 0, 0, 0])) ∧
      (let u := d.modPort p.val (fun x => { x with lastFlit := d.clk.up })
       let v := u.exchanged (timeOffset t1 t2 t3 t4)
       (u.parentPort ≠ some p.val → exec (.timeFlitReceive p t1 t2 t3 t4) s = s.goes u) ∧
       (u.parentPort = some p.val → exec (.timeFlitReceive p t1 t2 t3 t4) s = s.goes v ∧
         v.fab.offset = ((t2.toNat : Int) - t1.toNat - (t4.toNat - t3.toNat)) / 2 ∧
         (d.fab.written = true → d.fab.stepped = false → d.anyLive = false →
           v.clk.time = d.clk.time + BitVec.ofInt 64 v.fab.offset ∧ v.fab.stepped = true) ∧
         (d.fab.written = false ∨ d.fab.stepped = true ∨ d.anyLive = true → v.clk = d.clk ∧ v.fab.slew = v.fab.offset) ∧
         (d.fab.locked = false → (v.fab.locked = true ↔
           15 ≤ d.fab.good ∧ -50 ≤ v.fab.offset ∧ v.fab.offset ≤ 50))))) ∧
    (∀ (obj : BitVec 14) (ten : Tenant) (op : Fin 3) (a : Word) (ref : Nat) (y : SyncObj),
      Tbl.find? d.sync.objs obj.toNat = some y →
      let w : Waiter := ⟨obj.toNat, false, a, 0, none, src, ref⟩
      let v := d.syncApply obj.toNat op.val a w
      (y.tenant ≠ ten.toNat → exec (.syncPacketReceive (.physicalOp src ten obj op a ref)) s = s.goes (d.send (.sync src (.fault ref)))) ∧
      (y.tenant = ten.toNat →
        (v.1 = .done → exec (.syncPacketReceive (.physicalOp src ten obj op a ref)) s =
          s.goes (v.2.send (.sync src (.satisfied ref)))) ∧
        (v.1 = .waiting → exec (.syncPacketReceive (.physicalOp src ten obj op a ref)) s = s.goes v.2) ∧
        (v.1 = .full → exec (.syncPacketReceive (.physicalOp src ten obj op a ref)) s = s.goes (v.2.send (.sync src (.retry ref)))) ∧
        (v.1 = .fault → exec (.syncPacketReceive (.physicalOp src ten obj op a ref)) s = s.goes (v.2.send (.sync src (.fault ref))))) ∧
      (y.lost = false → op = 1 → (v.1 = .done ↔ (y.value - a).toNat < 2 ^ 31)) ∧
      (op = 2 → y.lost = true ∨ a = 0#32 ∨ 65535 < a.toNat ∨ (y.barrier ≠ 0 ∧ y.barrier ≠ a.toNat) → v.1 = .fault ∧ v.2 = d) ∧
      (op = 2 → v.1 = .waiting → Tbl.find? v.2.sync.objs obj.toNat = some { y with barrier := a.toNat, arrivals := y.arrivals + 1 }) ∧
      (y.tenant = ten.toNat → ∃ v, exec (.syncPacketReceive (.physicalLeave src ten obj ref)) s = s.goes v ∧
        v.sync.waiters = d.sync.waiters.filter (fun w => !decide (w.core = none ∧ w.dev = src ∧ w.ref = ref ∧ w.obj = obj.toNat)))) ∧
    (∀ (ref : Nat) (y : RemoteOp), d.remoteOp? ref = some y →
      exec (.syncPacketReceive (.satisfied ref)) s = s.goes ((d.dropRemote ref).elasticDone y.core y.op d.cyc) ∧
      exec (.syncPacketReceive (.fault ref)) s = s.goes ((d.dropRemote ref).syncFaultStep y.core) ∧
      (∀ u, y.retryAt = some u → ∃ v, exec (.remoteWaiterRetry ref) s = s.goes v ∧ v.out = d.out ++ [.sync y.dest y.msg] ∧
        v.ctr (key 0xB030 5) = min (2 ^ 64 - 1) (d.ctr (key 0xB030 5) + 1) ∧ v.remoteOp? ref = some { y with retryAt := none }))

/-! ### Tenants, contexts, keys and bindings (13, 14) -/

/-- Tenants, contexts, keys, bindings and hand-sets (R312, R314, R317, R336–R339, R343): what each write refuses, and what it
leaves when it is executed. -/
def Obligations.Tenancy : Prop :=
  ∀ (r : Req) (s : State) (o : ObjRow),
    let v := r.payload
    let w := wordAt v
    let x := ofLe v
    (s.writes 0x5001 0 ruleDefineTenant r o → scalarFault o v = none →
      let e := s.dev.counted 0x5001 o r
      ∃ u, exec (.defineTenant r) s = s.wrote 0x5001 0 o r 0x00 [] u ∧ ∀ t, u.tenantDefined t = (decide (t = x) || e.tenantDefined t)) ∧
    (s.writes 0x5002 0 ruleUndefineTenant r o → scalarFault o v = none →
      let e := s.dev.counted 0x5002 o r
      (e.tenantDefined x = false → exec (.undefineTenant r) s = s.wrote 0x5002 0 o r 0x06 [] e) ∧
      (e.tenantDefined x = true → e.tenantBusy x = true → exec (.undefineTenant r) s = s.wrote 0x5002 0 o r 0x08 [] e) ∧
      (e.tenantDefined x = true → e.tenantBusy x = false → ∃ u, exec (.undefineTenant r) s = s.wrote 0x5002 0 o r 0x00 [] u ∧
        (∀ t, u.tenantDefined t = (decide (t = 0 ∨ t ≠ x) && e.tenantDefined t)) ∧ (∀ k ∈ u.dict.keys, k.2.tenant ≠ x) ∧
        (∀ k ∈ u.dict.subs, k.2.2 ≠ x) ∧ u.mem.m = e.mem.m)) ∧
    (s.writes 0x5004 0 ruleCreateContext r o → scalarFault o v = none →
      let e := s.dev.counted 0x5004 o r
      let say := s.wrote 0x5004 0 o r
      (e.tenantDefined x = false → exec (.createContext r) s = say 0x06 [] e) ∧
      (e.tenantDefined x = true → (e.limits x).contexts ≤ e.contextUse x → exec (.createContext r) s = say 0x09 [] e) ∧
      (e.tenantDefined x = true → e.contextUse x < (e.limits x).contexts →
        (∀ c, lowestFree (Tbl.keys e.dict.contexts) 2048 0 = some c →
          (e.allocTable c = none → exec (.createContext r) s = say 0x0A [] e) ∧
          (∀ h, e.allocTable c = some h → ∃ u, exec (.createContext r) s = say 0x00 (leBytes 2 c) u ∧
            Tbl.find? u.dict.contexts c = some (x, h.1) ∧ (∀ c', c' ≠ c → Tbl.find? u.dict.contexts c' = Tbl.find? e.dict.contexts c') ∧
            Tbl.find? e.dict.contexts c = none ∧ ∀ c', c' < c → Tbl.find? e.dict.contexts c' ≠ none)) ∧
        (lowestFree (Tbl.keys e.dict.contexts) 2048 0 = none → exec (.createContext r) s = say 0x0A [] e))) ∧
    (s.writes 0x5005 0 ruleReleaseContext r o → scalarFault o v = none →
      let e := s.dev.counted 0x5005 o r
      (Tbl.find? e.dict.contexts x = none → exec (.releaseContext r) s = s.wrote 0x5005 0 o r 0x06 [] e) ∧
      (∀ c, Tbl.find? e.dict.contexts x = some c →
        let busy := List.any e.serv.reqs (fun (q : Nat × ReqEnt) => q.2.live && decide (q.2.context = x)) || e.contextBound c.2
        (busy = true → exec (.releaseContext r) s = s.wrote 0x5005 0 o r 0x08 [] e) ∧
        (busy = false → ∃ u, exec (.releaseContext r) s = s.wrote 0x5005 0 o r 0x00 [] u ∧
          Tbl.find? u.dict.contexts x = none ∧ u.mem = (e.startRelease c.2).mem))) ∧
    (s.writes 0x5010 0 ruleKeyInstall r o → v.length = 48 →
      let e := s.dev.counted 0x5010 o r
      let say := s.wrote 0x5010 0 o r
      let t := bits (w 0) 8 0
      let src : Coord := BitVec.ofNat 18 (w 1)
      let put := fun i => say 0x00 [] (e.setKey i t src (bytesAt v 16 32) (leAt v 8 8))
      (e.tenantDefined t = false → exec (.keyInstall r) s = say 0x06 [] e) ∧
      (e.tenantDefined t = true →
        (∀ k, e.keySlot? t src = some k → exec (.keyInstall r) s = put k.1) ∧
        (e.keySlot? t src = none → 16 ≤ e.slotUse t → exec (.keyInstall r) s = say 0x09 [] e) ∧
        (e.keySlot? t src = none → e.slotUse t < 16 →
          (∀ i, lowestFree (Tbl.keys e.dict.keys) 1024 0 = some i → exec (.keyInstall r) s = put i) ∧
          (lowestFree (Tbl.keys e.dict.keys) 1024 0 = none → exec (.keyInstall r) s = say 0x0A [] e)))) ∧
    (∀ (e : Device) (i t c : Nat) (src : Coord) (k : List Byte), e.dict.transfers = [] →
      Tbl.find? (e.setKey i t src k c).dict.keys i = some ⟨t, src, k, c, []⟩) ∧
    (s.writes 0x5011 0 ruleKeyRemove r o → v.length = 8 →
      let e := s.dev.counted 0x5011 o r
      let t := bits (w 0) 8 0
      let src : Coord := BitVec.ofNat 18 (w 1)
      (t = 0 → src = 0x3FFFF#18 → exec (.keyRemove r) s = s.wrote 0x5011 0 o r 0x03 [] e) ∧
      (¬ (t = 0 ∧ src = 0x3FFFF#18) →
        (e.keySlot? t src = none → exec (.keyRemove r) s = s.wrote 0x5011 0 o r 0x06 [] e) ∧
        (∀ k, e.keySlot? t src = some k → ∃ u, exec (.keyRemove r) s = s.wrote 0x5011 0 o r 0x00 [] u ∧
          Tbl.find? u.dict.keys k.1 = none))) ∧
    (s.alive = true → r.carrier = .sideband → r.keyed = false → reqFault r = none → s.dev.transfer? r = none → r.offset = 0#32 →
      r.total = 32#32 → v.length = 32 →
      let d := s.dev
      let known := d.tenantDefined r.tenant.toNat
      (known = false → exec (.keyClaim r) s = s.goes (d.respond r 2 0x5013 0 0x06 false 0 [])) ∧
      (known = true → ∀ k, d.keySlot? 0 0x3FFFF#18 = some k →
        exec (.keyClaim r) s = s.goes (d.finishWrite none r 0x5013 0 false 0x08 [])) ∧
      (known = true → d.keySlot? 0 0x3FFFF#18 = none → ∀ i, lowestFree (Tbl.keys d.dict.keys) 1024 0 = some i →
        exec (.keyClaim r) s = s.goes ((d.setKey i 0 0x3FFFF#18 v 0).finishWrite none r 0x5013 0 false 0x00 []))) ∧
    (s.writes 0x5032 0 ruleAck r o → scalarFault o v = none →
      let e := s.dev.counted 0x5032 o r
      ∃ u, exec (.acknowledgedSequenceWrite r) s = s.wrote 0x5032 0 o r 0x00 [] u ∧ u.dict.ack = some x ∧
        (u.alertLow = true ↔ ∃ l ∈ e.dict.log, 1 ≤ (l.1 + 2 ^ 32 - x) % 2 ^ 32 ∧ (l.1 + 2 ^ 32 - x) % 2 ^ 32 < 2 ^ 31)) ∧
    (s.writes 0xB001 0 ruleBind r o → v.length = 16 →
      let e := s.dev.counted 0xB001 o r
      let say := s.wrote 0xB001 0 o r
      let ctx := bits (w 0) 10 0
      let vid := bits (w 0) 22 11
      (bit (w 0) 23 = true → bit (w 0) 24 = true → exec (.bind r) s = say 0x06 [] e) ∧
      (¬ (bit (w 0) 23 = true ∧ bit (w 0) 24 = true) →
        (Tbl.find? e.dict.contexts ctx = none → exec (.bind r) s = say 0x06 [] e) ∧
        (∀ c, Tbl.find? e.dict.contexts ctx = some c →
          let f := (e.translate ctx vid).2
          ((e.translate ctx vid).1 ≠ none → exec (.bind r) s = say 0x08 [] f) ∧
          ((e.translate ctx vid).1 = none →
            (bit (w 0) 24 = true → (f.limits c.1).sync ≤ f.objUse c.1 → exec (.bind r) s = say 0x09 [] f) ∧
            (bit (w 0) 24 = true → f.objUse c.1 < (f.limits c.1).sync → ∀ n, lowestFree (Tbl.keys f.sync.objs) 16384 0 = some n →
              exec (.bind r) s = say 0x00 (leBytes 2 n) ((f.putObj n { SyncObj.zero with
                value := BitVec.ofNat 32 (w 3), tenant := c.1, context := ctx, vid := vid }).setEntry ctx vid (transWord false n))) ∧
            (bit (w 0) 23 = true → ∀ a, lowestFree (Tbl.keys f.sync.aliases) 4096 0 = some a →
              exec (.bind r) s = say 0x00 (leBytes 2 a) ((f.setSync { f.sync with
                aliases := Tbl.put f.sync.aliases a ((BitVec.ofNat 18 (w 1) : Coord), bits (w 2) 13 0) }).setEntry ctx vid
                  (transWord true a))) ∧
            (bit (w 0) 23 = false → bit (w 0) 24 = false →
              let n := bits (w 2) 13 0
              (∀ y, Tbl.find? f.sync.objs n = some y → y.tenant = c.1 →
                exec (.bind r) s = say 0x00 (leBytes 2 n) (f.setEntry ctx vid (transWord false n))) ∧
              ((∀ y, Tbl.find? f.sync.objs n = some y → y.tenant ≠ c.1) → exec (.bind r) s = say 0x03 [] f)))))) ∧
    (s.writes 0xB002 0 ruleUnbind r o → scalarFault o v = none →
      let e := s.dev.counted 0xB002 o r
      let say := s.wrote 0xB002 0 o r
      let vid := bits x 11 0
      let ctx := bits x 22 12
      (Tbl.find? e.dict.contexts ctx = none → exec (.unbind r) s = say 0x06 [] e) ∧
      (∀ c, Tbl.find? e.dict.contexts ctx = some c →
        let t := e.readH c.2 (4 * vid) 1
        let f := t.2
        let word := t.1.headD ⟨0#32, true⟩
        (f.targetOf word = none → exec (.unbind r) s = say 0x06 [] f) ∧
        (∀ dev n, f.targetOf word = some (.there dev n) → exec (.unbind r) s = say 0x00 [] ((f.setSync { f.sync with
          aliases := Tbl.del f.sync.aliases (word.w.toNat % 16384) }).setEntry ctx vid 0#32)) ∧
        (∀ n, f.targetOf word = some (.here n) →
          ((∃ y ∈ f.sync.waiters, y.obj = n) → exec (.unbind r) s = say 0x08 [] f) ∧
          ((∀ y ∈ f.sync.waiters, y.obj ≠ n) → ∀ y, Tbl.find? f.sync.objs n = some y →
            ((y.context = ctx ∧ y.vid = vid) → exec (.unbind r) s = say 0x00 [] ((f.setSync { f.sync with
              objs := Tbl.del f.sync.objs n }).setEntry ctx vid 0#32)) ∧
            (¬ (y.context = ctx ∧ y.vid = vid) → exec (.unbind r) s = say 0x00 [] (f.setEntry ctx vid 0#32)))))) ∧
    (s.writes 0xB012 0 ruleHandSet r o → v.length = 16 →
      let e := s.dev.counted 0xB012 o r
      let n := bits (w 0) 13 0
      (Tbl.find? e.sync.objs n = none ∨ (∃ y, Tbl.find? e.sync.objs n = some y ∧ y.lost = true) →
        exec (.handSet r) s = s.wrote 0xB012 0 o r 0x06 [] e) ∧
      (∀ y, Tbl.find? e.sync.objs n = some y → y.lost = false →
        let u := e.handSet n (bit (w 0) 16) (bit (w 0) 17) (BitVec.ofNat 32 (w 1))
        exec (.handSet r) s = s.wrote 0xB012 0 o r 0x00 [] ((u.err { cls := 7, tenant := y.tenant, loc := n } 0x10
          (if bit (w 0) 16 then 0 else 1)).bump (key 0xB030 4) 1) ∧
        (bit (w 0) 16 = false → bit (w 0) 17 = false → u = e) ∧
        (bit (w 0) 16 = false → bit (w 0) 17 = true → y.barrier ≠ 0 → u = e.releaseGen n y)))

/-! ### Images, attestation, diagnostics and spore packs (15, 16) -/

/-- The security tile (R347–R353, R355, R356, R366, R367, R370): images are verified before one starts, the floor only follows
the running image, attestation takes a new leaf at each boot, evidence uses a bottom leaf, an unlock needs its envelope, a scan of
the tile clears the secrets, and a pack is checked before it is placed. -/
def Obligations.SecurityTile : Prop :=
  ∀ (p : PortIx) (env : List Byte) (pufOk readBack : Bool) (r : Req) (o : ObjRow) (s : State), s.alive = true →
    let d := s.dev
    let v := r.payload
    (∀ v e, s.takes 0x1020 0 ruleImageLoad r o v e →
      (4197924 < v.length → exec (.imageLoad r) s = s.told e 0x1020 0 o r 0x07 [] e) ∧
      (v.length ≤ 4197924 → e.sec.verifying ≠ none → exec (.imageLoad r) s = s.told e 0x1020 0 o r 0x08 [] e) ∧
      (v.length ≤ 4197924 → e.sec.verifying = none →
        exec (.imageLoad r) s = s.goes (e.setSec { e.sec with verifying := some (v, some r) }))) ∧
    (d.sec.running = [] →
      let e := d.reach (d.sec.pullAt + d.reg (key 0x1010 5) * 1000000)
      exec .imagePull s = s.goes ((e.setSec { e.sec with pullAt := e.clk.up }).askImage 0) ∧
      (d.sec.pullPort = some p.val →
        (env = [] → exec (.imagePullResponse p env) s = s.goes (d.askImage (p.val + 1))) ∧
        (env ≠ [] → d.sec.verifying = none → exec (.imagePullResponse p env) s = s.goes (d.setSec { d.sec with
          pullPort := none, pullGot := [], verifying := some (env, none) })))) ∧
    (∀ (e : Device) (n : Nat), (e.nextPull n = none → (e.askImage n).sec.pullPort = none) ∧
      (∀ q, e.nextPull n = some q → n ≤ q ∧ e.portUp q = true ∧ (e.askImage n).sec.pullPort = some q ∧
        ∃ rest, (e.askImage n).out = e.out ++ .imagePull q :: rest)) ∧
    (∀ img q, d.sec.verifying = some (img, q) →
      (∀ f, d.envFault 1 img = some f → ∃ u, exec .imageStart s = s.goes u ∧ u.sec.running = d.sec.running ∧
        u.sec.verifying = none ∧ u.sec.rejected = min (2 ^ 32 - 1) (d.sec.rejected + 1)) ∧
      (d.envFault 1 img = none → ∃ u, exec .imageStart s = s.goes u ∧ u.sec.verifying = none ∧ u.sec.rejected = d.sec.rejected ∧
        u.sec.running = (if d.sec.running = [] then img else d.sec.running) ∧
        (d.sec.running = [] → u.clk.ready.getLsbD 6 = true))) ∧
    (∀ img f, d.envFault 1 img = some f ↔ (f = 1 ∧ envForm 1 img = false) ∨ (f = 2 ∧ envForm 1 img = true ∧ envSigned img = false) ∨
      (f = 3 ∧ envForm 1 img = true ∧ envSigned img = true ∧ envVersion img < d.sec.floor)) ∧
    (s.writes 0x1010 6 ruleRaiseFloor r o → scalarFault o v = none →
      let e := s.dev.counted 0x1010 o r
      (e.sec.running = [] → exec (.raiseFloor r) s = s.wrote 0x1010 6 o r 0x0B [] e) ∧
      (e.sec.running ≠ [] → e.sec.imageVersion < e.sec.floor → exec (.raiseFloor r) s = s.wrote 0x1010 6 o r 0x06 [] e) ∧
      (e.sec.running ≠ [] → e.sec.floor ≤ e.sec.imageVersion → exec (.raiseFloor r) s = s.wrote 0x1010 6 o r 0x00 []
        (e.setSec { e.sec with floor := e.sec.imageVersion }))) ∧
    (d.sec.attReady = false → d.sec.attOff = false →
      (32768 ≤ d.sec.leafCounter ∨ Config.itemOk 7 = false →
        exec (.attestationReady pufOk readBack) s = s.goes (d.setSec { d.sec with attOff := true })) ∧
      (d.sec.leafCounter < 32768 → Config.itemOk 7 = true →
        (pufOk = false ∨ Config.itemOk 3 = false ∨ Config.itemOk 4 = false ∨ Config.itemOk 5 = false → exec (.attestationReady pufOk readBack) s =
          s.goes ((d.setSec { d.sec with attOff := true }).err { cls := 8 } 0x14 0)) ∧
        (pufOk = true → Config.itemOk 3 = true → Config.itemOk 4 = true → Config.itemOk 5 = true → readBack = false → ∃ u, exec (.attestationReady pufOk readBack) s = s.goes u ∧ u.sec.attOff = true ∧
          u.sec.attReady = false) ∧
        (pufOk = true → Config.itemOk 3 = true → Config.itemOk 4 = true → Config.itemOk 5 = true → readBack = true → ∃ u, exec (.attestationReady pufOk readBack) s = s.goes u ∧ u.sec.attReady = true ∧
          u.sec.leafCounter = d.sec.leafCounter + 1 ∧ u.sec.topLeaf = d.sec.leafCounter ∧ u.sec.leaves = 0 ∧
          u.clk.ready.getLsbD 5 = true))) ∧
    (s.writes 0x1030 0 ruleAttestation r o → v.length = 32 →
      let e := s.dev.counted 0x1030 o r
      (e.sec.attReady = false → exec (.attestationRequest r) s = s.wrote 0x1030 0 o r 0x0B [] e) ∧
      (e.sec.attReady = true → 1024 ≤ e.sec.leaves → exec (.attestationRequest r) s = s.wrote 0x1030 0 o r 0x0A [] e) ∧
      (e.sec.attReady = true → e.sec.leaves < 1024 → ∃ u, exec (.attestationRequest r) s = s.wrote 0x1030 0 o r 0x00 [] u ∧
        u.sec.leaves = e.sec.leaves + 1 ∧
        (u.evidenceFor r.tenant.toNat (reqSrc r)).take (e.statement v r.tenant.toNat (reqSrc r)).length =
          e.statement v r.tenant.toNat (reqSrc r))) ∧
    (s.writes 0x1022 0 ruleUnlock r o →
      let e := s.dev.counted 0x1022 o r
      (∀ f, e.envFault 3 v = some f → exec (.diagnosticUnlock r) s = s.wrote 0x1022 0 o r 0x0D [BitVec.ofNat 8 f] e.rejected) ∧
      (e.envFault 3 v = none →
        let want := leBytes 8 Config.deviceId.toNat ++ sha256 (leBytes 56 e.sec.bottomKey.toNat)
        (e.sec.bottom ≠ none → envPayload v = want → exec (.diagnosticUnlock r) s = s.wrote 0x1022 0 o r 0x00 []
          (e.setSec { e.sec with unlocked := true })) ∧
        (e.sec.bottom = none ∨ envPayload v ≠ want → exec (.diagnosticUnlock r) s = s.wrote 0x1022 0 o r 0x0D [4] e))) ∧
    (s.writes 0xA000 6 ruleScanTile r o → scalarFault o v = none →
      ∃ u, exec (.scanSecurityTile r) s = s.wrote 0xA000 6 o r 0x00 [] u ∧ u.dict.keys = [] ∧ u.sec.bottom = none ∧
        u.sec.attReady = false ∧ u.sec.leaves = 0) ∧
    (∀ v e, s.takes 0xA020 0 rulePackInstall r o v e →
      let b := envPayload v
      (∀ f, e.envFault 2 v = some f → exec (.sporePackInstall r) s = s.told e 0xA020 0 o r 0x0D [BitVec.ofNat 8 f] e.rejected) ∧
      (e.envFault 2 v = none →
        (∀ f, e.packFault b = some f → exec (.sporePackInstall r) s = s.told e 0xA020 0 o r 0x0D [BitVec.ofNat 8 f] e) ∧
        (e.packFault b = none →
          (e.placePacks b e.readyClusters = none → exec (.sporePackInstall r) s = s.told e 0xA020 0 o r 0x0A [] e) ∧
          (∀ x, e.placePacks b e.readyClusters = some x →
            let n := bits (wordAt b 0) 15 0
            let new : Pack := ⟨n, wordAt b 1, bits (wordAt b 2) 7 0, b, false, x.1⟩
            let old := x.2.rel.packs.map (fun (q : Pack) => if q.ident = n then { q with removed := true } else q)
            exec (.sporePackInstall r) s = s.told e 0xA020 0 o r 0x00 []
              (((({ x.2 with rel := { x.2.rel with packs := old ++ [new] } }).dropPacks).bump (key 0xA030 8) 1).notify 0x15 0 0xA021
                0 n (wordAt b 1)))))) ∧
    (s.writes 0xA022 0 rulePackRemove r o → scalarFault o v = none →
      let e := s.dev.counted 0xA022 o r
      let ps := e.rel.packs.map (fun (q : Pack) => if q.ident = ofLe v then { q with removed := true } else q)
      exec (.sporePackRemove r) s = s.wrote 0xA022 0 o r 0x00 [] (({ e with rel := { e.rel with packs := ps } }).dropPacks)) ∧
    (∀ e : Device, (∀ q ∈ e.dropPacks.rel.packs, q ∈ e.rel.packs ∧ (q.removed = false ∨ e.packUsed q = true)) ∧
      ∀ q ∈ e.rel.packs, (q.removed = false ∨ e.packUsed q = true) → q ∈ e.dropPacks.rel.packs)

/-- Passes, health and replica digests (R361–R365, R368, R371–R376): a pass opens when it is due with the slices of R361; an overdue
pass reserves its core once the spacing has passed; a slice's end counts and clears or sets flags; a failure is retested before it
retires its core; digests of a layer are compared and a minority member expels its instance. -/
def Obligations.HealthAndReplicas : Prop :=
  ∀ (c : AnyCore) (inst : BitVec 10) (m : DigestMsg) (x : SliceResult) (pass : Bool) (r : Req) (o : ObjRow) (s : State),
    s.alive = true →
    let d := s.dev
    let i := c.val
    let h := d.health i
    (∀ t, h.passDue = some t → d.testable i = true →
      let e := d.reach t
      let f := if (e.health i).openAt.isSome then e.bump (key 0xA030 7) 1 else e
      let l := match Tbl.find? f.rel.runs i with | some q => q.slice :: f.passSlices i | none => f.passSlices i
      exec (.testPassOpen c) s = s.goes (((((f.setHealth i { (f.health i).closePass with
        passDue := some (t + f.reg (key 0xA000 1) * 1000000000) }).openPass i l).dropPacks).idleSlice i))) ∧
    (∀ (f : Device) (l : List SliceId), let u := (f.openPass i l).health i
      u.openAt = some f.clk.up ∧ u.slices = l ∧ u.done = 0 ∧ u.overdue = false ∧ u.reserved = false ∧ u.flags = (f.health i).flags) ∧
    (∀ t, h.openAt = some t → h.overdue = false →
      let e := d.reach (t + d.reg (key 0xA000 2) * 1000000000)
      exec (.passOverdue c) s = s.goes ((e.setHealth i ({ e.health i with overdue := true }.reserve e.clk.up)).idleSlice i)) ∧
    (h.openAt ≠ none → h.overdue = true → h.reserved = false →
      let e := d.reach h.spacing
      exec (.forcedSpacingExpiry c) s = s.goes ((e.setHealth i ((e.health i).reserve e.clk.up)).idleSlice i)) ∧
    (∀ (g : Health) (now : Nat), (g.reserve now).reserved = (g.reserved || (g.openAt.isSome && g.overdue && decide (g.spacing ≤ now))) ∧
      (g.reserve now).flags = g.flags ∧ (g.reserve now).slices = g.slices) ∧
    (let e := d.takeEntries i
     ∀ q id v ix y, Tbl.find? e.rel.runs i = some q → q.slice = .pack id v ix → e.sliceRec? q.slice = some y →
      (q.started = false → exec (.fieldTestSliceEnd c x) s = s.goes e) ∧
      (q.started = true → ∀ pk, e.pack? id v = some pk →
        exec (.fieldTestSliceEnd c x) s = s.goes ((e.runSlice i q pk.bytes y x).afterSlice i))) ∧
    (∀ q seg, Tbl.find? d.rel.runs i = some q → q.slice = .scan seg →
      (pass = true → exec (.logicScanSliceEnd c pass) s =
        s.goes (((d.setHealth i (h.passed q.slice)).closeSlice i q).afterSlice i)) ∧
      (pass = false → exec (.logicScanSliceEnd c pass) s = s.goes (((d.sliceFailed i q.slice).closeSlice i q).afterSlice i))) ∧
    (∀ (g : Health) (y : SliceId), (y ∉ g.retest → g.passed y = g) ∧ (y ∈ g.retest → y ∉ (g.passed y).retest ∧
      ((∀ z ∈ g.retest, z = y) → (g.passed y).flags.getLsbD y.kind = false ∧ (g.passed y).flags.getLsbD 4 = false))) ∧
    (∀ (e : Device) (y : SliceId), let u := e.sliceFailed i y
      (u.health i).flags.getLsbD y.kind = true ∧ y ∈ (u.health i).news ∧ (u.health i).enabled = (e.health i).enabled) ∧
    (h.news = [] → h.noEngine = false → h.badWords.length < 2 → exec (.healthFlagAction c) s =
      s.goes ((d.setHealth i { h with news := [], noEngine := false }).idleSlice i)) ∧
    (∀ y, h.news = [y] → h.noEngine = false → h.badWords.length < 2 → exec (.healthFlagAction c) s =
      s.goes (((d.setHealth i { h with news := [], noEngine := false }).readFailure i y).idleSlice i)) ∧
    (∀ (e : Device) (y : SliceId), let g := e.health i
      (e.trigger y.kind = false ∨ g.retired = true → e.readFailure i y = e) ∧
      (e.trigger y.kind = true → g.retired = false → e.reg (key 0xA050 2) ≠ 0 → y ∉ g.retest →
        let u := (e.readFailure i y).health i
        u.flags.getLsbD 4 = true ∧ u.overdue = true ∧ y ∈ u.retest ∧ y ∈ u.slices ∧ u.enabled = g.enabled) ∧
      (e.trigger y.kind = true → g.retired = false → (e.reg (key 0xA050 2) = 0 ∨ y ∈ g.retest) →
        e.readFailure i y = e.retireCore i y.kind g.mode)) ∧
    (s.writes 0xA060 0 ruleCoreHealth r o → r.payload.length = 3328 →
      exec (.coreHealthWrite r) s = s.wrote 0xA060 0 o r 0x00 [] ((s.dev.counted 0xA060 o r).mergeRecords 208 16 r.payload
        (fun d i b => d.writeHealth i (bit (wordAt b 0) 0) (bit (wordAt b 0) 1)))) ∧
    (d.mayStop i = true →
      let e := d.setHealth i { h with drained := true }
      exec (.coreDrained c) s = s.goes (if i % 13 = 12 then e else e.dropPlans (cimOf i)) ∧ h.enabled = false ∧ h.drained = false) ∧
    (let k := inst.toNat
     let y := d.replica k
     (d.scans k = true → y.scanning = none → y.roundsAt + d.reg (key 0xA040 1) ≤ Tbl.get 0 d.serv.roundCount k →
       exec (.replicaScanStart inst) s = s.goes (d.setReplica k { y with
         scanning := some d.clk.up, roundsAt := Tbl.get 0 d.serv.roundCount k })) ∧
     (∀ t, y.scanning = some t → ∃ u, exec (.replicaScanTimeout inst) s = s.goes u ∧ (u.replica k).scanning = none ∧
       u.ctr (key 0xA041 3) = min (2 ^ 64 - 1) (d.ctr (key 0xA041 3) + 1)) ∧
     (m.member ∈ y.members → m.member ≠ d.fab.coord → ∃ u, exec (.replicaDigestReceive inst m) s = s.goes u ∧
       m ∈ (u.replica k).latest ∧ (∀ z ∈ (u.replica k).latest, z = m ∨ z.member ≠ m.member) ∧ (u.replica k).members = y.members) ∧
     (y.scanning ≠ none →
       let mine := d.localDigests k
       let msg : DigestMsg := ⟨d.fab.coord, BitVec.ofNat 32 (d.inst k).gen, d.clk.time, mine⟩
       let e := (y.members.filter (fun z => decide (z ≠ d.fab.coord))).foldl (fun d z => d.send (.digests z k msg))
         (d.setReplica k { y with scanning := none, mine := mine, mineAt := d.clk.time.toNat })
       exec (.replicaScanDone inst) s = s.goes (mine.foldl (fun d z => d.judgeLayer k z.1 z.2) (e.bump (key 0xA041 1) 1)) ∧
       e.out = d.out ++ (y.members.filter (fun z => decide (z ≠ d.fab.coord))).map (fun z => .digests z k msg)) ∧
     (∀ (e : Device) (l : Nat) (own : List Byte), (e.allLocal k l = false ∨ Tbl.find? (e.inst k).digests l = some own) →
       ((∀ v ∈ e.compared k l, v = own) → e.judgeLayer k l own = e) ∧
       (2 * votes (own :: e.compared k l) own ≤ (e.compared k l).length + 1 →
         (∃ v ∈ e.compared k l, (e.compared k l).length + 1 < 2 * votes (own :: e.compared k l) v) →
         e.judgeLayer k l own = e.expel k l)))

/-- Telemetry, governor and calibration period (R384–R396, R398): a delivery that is due lands in its entry's register corrected as R388
says, moves the sequence on or clears its urgent request, and drives the check of R395; the model steps, converges and is anchored;
the sequence, its control word, an urgent request, the revisit period and a hint are written. -/
def Obligations.PowerManagement : Prop :=
  ∀ (c : AdcCodes) (act : List (List Nat)) (r : Req) (o : ObjRow) (s : State), s.alive = true →
    let d := s.dev
    (d.pwr.due c = false → exec (.adcDeliver c) s = s.goes d) ∧
    (d.pwr.due c = true →
      let e := d.advance (c.sampled.toNat + 100 - d.clk.time.toNat)
      let w := e.pwr.seq.getD c.entry.val 0xFFFF
      let f := e.setPwr (e.pwr.deliver c)
      let g := if c.urgent then (f.setPwr { f.pwr with urgent := f.pwr.urgent.drop 1 }).bump (key 0x2050 6) 1
               else if c.entry.val + 1 ≥ ctlLen f.pwr.ctl then f.setPwr f.pwr.wrap
               else f.setPwr { f.pwr with position := c.entry.val + 1 }
      let u := g.seedModel.tripDiodes w
      exec (.adcDeliver c) s = s.goes (if e.pwr.powerEntry = some c.entry.val then u.powerCheck else u)) ∧
    (∀ p : PwrS, let q := p.deliver c
      let w := p.seq.getD c.entry.val 0xFFFF
      (Tbl.find? q.results c.entry.val).map (fun l => (l.getD 2 0, l.getD 3 0)) =
        some (c.sampled.toNat % 2 ^ 32, p.pass + (if c.urgent then 2 ^ 16 else 0) + (if c.late then 2 ^ 17 else 0)) ∧
      (∀ n, n ≠ c.entry.val → Tbl.find? q.results n = Tbl.find? p.results n) ∧ q.urgent = p.urgent ∧ q.position = p.position ∧
      (entOk w = true → ∀ a < 4, entChan w a ≤ 13 →
        Tbl.get 0 q.latest (entChan w a) = (correct (Tbl.get 0 p.corr (entChan w a)) (adcRaw c a)).1) ∧
      (∀ ch, (∀ a < 4, entChan w a ≠ ch) → Tbl.get 0 q.latest ch = Tbl.get 0 p.latest ch)) ∧
    (∀ corr x : Nat,
      let o := (BitVec.ofNat 16 corr).toInt
      let g := (BitVec.ofNat 16 (corr / 65536)).toInt
      (∃ y : Int, let rest := (16 * (x : Int) + o) * (65536 + g) - y * 2 ^ 20
        rest ≤ 2 ^ 19 ∧ -(2 ^ 19) ≤ rest ∧ (rest = 2 ^ 19 ∨ rest = -(2 ^ 19) → y % 2 = 0) ∧
        correct corr x = ((max 0 (min y 4095)).toNat, decide (y < 0 ∨ 4095 < y ∨ x = 0 ∨ x = 4095))) ∧
      (x ≤ 4095 → correct 0 x = (x, decide (x = 0 ∨ x = 4095)))) ∧
    (∀ p : PwrS, p.wrap.position = 0 ∧ p.wrap.pass = (p.pass + 1) % 65536 ∧ p.wrap.seq = p.seqNext ∧ p.wrap.ctl = p.ctlNext ∧
      p.wrap.seqPend = none ∧ p.wrap.ctlPend = none ∧
      (p.seqPend = none → p.ctlPend = none → p.wrap.urgent = p.urgent ∧ p.wrap.results = p.results) ∧
      (p.seqPend ≠ none ∨ p.ctlPend ≠ none → p.wrap.urgent = [] ∧
        ∀ n, Tbl.find? p.wrap.results n = if n < ctlLen p.ctlNext then Tbl.find? p.results n else none)) ∧
    (∀ e : Device,
      (e.pwr.seed ≠ none ∨ (∃ f < 4, Tbl.find? e.pwr.latest (10 + f) = none) → e.seedModel = e) ∧
      (e.pwr.seed = none → (∀ f < 4, Tbl.find? e.pwr.latest (10 + f) ≠ none) → let p := e.seedModel.pwr
        p.seed = some [e.diode 0, e.diode 1, e.diode 2, e.diode 3] ∧ p.seedAt = e.clk.up ∧ p.converged = e.pwr.converged ∧
        ∀ n < 64, Tbl.get 0#32 p.nodes n = seedOf [e.diode 0, e.diode 1, e.diode 2, e.diode 3] n)) ∧
    (∀ (e : Device) (w : Nat),
      ((∀ f < 4, entChan w f = 10 + f → f32Le 0x42FA0000#32 (e.diode f) = false) → e.tripDiodes w = e) ∧
      (e.pwr.trip = true → e.tripDiodes w = e) ∧
      (∀ f < 4, entChan w f = 10 + f → f32Le 0x42FA0000#32 (e.diode f) = true → e.pwr.trip = false →
        let u := e.tripDiodes w
        u.pwr.trip = true ∧ u.pwr.rails = false ∧ u.pwr.pgood = false)) ∧
    (∀ e : Device,
      let sus : F32 := BitVec.ofNat 32 (e.reg (key 0x2000 1))
      let peak : F32 := BitVec.ofNat 32 (e.reg (key 0x2000 2))
      let bmax := f32Mul (f32Sub peak sus) (f32Div (f32OfInt (e.reg (key 0x2000 3))) (f32OfInt 1000))
      let dt := f32Div (f32OfInt (match e.pwr.checkAt with | some t => e.clk.up - t | none => 0)) (f32OfInt 1000000000)
      let b := f32MinOp bmax (f32MaxOp 0#32 (f32Add e.pwr.energy (f32Mul (f32Sub e.pin sus) dt)))
      let beyond := f32Lt peak e.pin || f32Lt (BitVec.ofNat 32 (e.reg (key 0x2000 4))) e.iin || f32Eq b bmax
      let leave := e.pwr.full && f32Le b (f32Mul bmax 0x3F000000#32) && f32Le e.pin sus
      let p := e.powerCheck.pwr
      p.energy = b ∧ p.checkAt = some e.clk.up ∧ p.full = (beyond || (e.pwr.full && !leave)) ∧
      (p.full = true → p.phiP = 256) ∧
      (p.full = false → f32Le (f32Mul 0x3F400000#32 bmax) b = true → leave = false → p.phiP = min 240 (e.pwr.phiP + 8)) ∧
      (p.full = false → f32Le (f32Mul 0x3F400000#32 bmax) b = false → f32IsZero b = true → leave = false →
        p.phiP = e.pwr.phiP - 2) ∧
      (p.full = false → e.powerCheck = e.setPwr p)) ∧
    (d.pwr.seed = none → exec (.thermalModelUpdate act) s = s.goes d) ∧
    (d.pwr.seed ≠ none →
      let n := d.pwr.updateNs
      let e := d.reach (d.pwr.updAt + n)
      let dt := f32Div (f32OfInt n) (f32OfInt 1000000000)
      ∃ ns : Tbl F32, (∀ i < 64, Tbl.get 0#32 ns i = e.stepNode act dt i) ∧
        exec (.thermalModelUpdate act) s =
          let f := if e.pwr.fast then e.bump (key 0x2050 9) 1 else e
          let g := (f.setPwr { f.pwr with nodes := ns, updAt := f.clk.up }).setRate
          s.goes (g.tripNodes.govern (g.pwr.updateNs * 13 / 10))) ∧
    (∀ (e : Device) (k : Nat),
      let x := f32Sub (e.clusterTemp k) (BitVec.ofNat 32 (e.reg (key 0x2030 1)))
      (f32Lt 0#32 x = true → e.nextPhiT k = min (e.reg (key 0x2040 4))
        (Tbl.get 0 e.pwr.phiT k + (f32Ceil (f32Mul (f32OfInt (e.reg (key 0x2040 2))) x)).toNat)) ∧
      (f32Lt 0#32 x = false → f32Lt x 0xBF800000#32 = true →
        e.nextPhiT k = Tbl.get 0 e.pwr.phiT k - e.reg (key 0x2040 3)) ∧
      (f32Lt 0#32 x = false → f32Lt x 0xBF800000#32 = false → e.nextPhiT k = Tbl.get 0 e.pwr.phiT k)) ∧
    (∀ (e : Device) (n : Nat), (e.urge n).2.pwr.urgent =
        (if n ∈ e.pwr.urgent ∨ 4 ≤ e.pwr.urgent.length then e.pwr.urgent else e.pwr.urgent ++ [n]) ∧
      (n ∉ e.pwr.urgent → 4 ≤ e.pwr.urgent.length → (e.urge n).1 = false ∧ (e.urge n).2 = e.bump (key 0x2050 7) 1) ∧
      ((e.urge n).1 = false → 4 ≤ e.pwr.urgent.length)) ∧
    (d.pwr.seed = none ∨ d.pwr.converged = true → exec .modelConverged s = s.goes d) ∧
    (d.pwr.seed ≠ none → d.pwr.converged = false →
      let e := d.reach (d.pwr.seedAt + 2000000000)
      exec .modelConverged s = s.goes ((e.setPwr { e.pwr with converged := true }).tripNodes)) ∧
    (d.pwr.seed = none → exec .anchorCheck s = s.goes d) ∧
    (d.pwr.seed ≠ none →
      let e := d.reach (d.pwr.anchorAt + 1000000000)
      exec .anchorCheck s = s.goes (((((e.setPwr { e.pwr with anchorAt := e.clk.up }).anchorField 0).anchorField 1).anchorField
        2).anchorField 3).tripNodes) ∧
    (∀ (e : Device) (k : Nat), let x := f32Sub (e.diode k) (Tbl.get 0#32 e.pwr.nodes (12 * k + 2))
      (f32Lt (BitVec.ofNat 32 (e.reg (key 0x2030 5))) (f32Abs x) = false → e.anchorField k = e) ∧
      (k < 4 → f32Lt (BitVec.ofNat 32 (e.reg (key 0x2030 5))) (f32Abs x) = true → ∃ (ns : Tbl F32) (m : Nat),
        (∀ n, Tbl.get 0#32 ns n = if n ∈ anchored k then f32Add (Tbl.get 0#32 e.pwr.nodes n) x
                                  else Tbl.get 0#32 e.pwr.nodes n) ∧
        e.anchorField k = (((e.setPwr { e.pwr with nodes := ns }).err { cls := 0 } 0x21 k).notify 0x24 0 0x2030 6 k m).bump
          (key 0x2050 3) 1)) ∧
    (s.writes 0x2020 2 ruleSequence r o → r.payload.length = 64 →
      let e := s.dev.counted 0x2020 o r
      let es := (List.range 16).map (fun i => bits (wordAt r.payload i) 15 0)
      (es.all entOk = true → seqCovers es e.pwr.ctlNext = true →
        exec (.sequenceWrite r) s = s.wrote 0x2020 2 o r 0x00 [] (e.setPwr { e.pwr with seqPend := some es })) ∧
      (es.all entOk = false ∨ seqCovers es e.pwr.ctlNext = false →
        exec (.sequenceWrite r) s = s.wrote 0x2020 2 o r 0x06 [] e)) ∧
    (∀ x, s.writes 0x2020 1 ruleSeqControl r o → scalarFault o r.payload = none → ofLe r.payload = x →
      let e := s.dev.counted 0x2020 o r
      let k := x % 2 ^ 12
      (bits k 5 4 ≤ 1 → bits k 11 6 ≤ 39 → seqCovers e.pwr.seqNext k = true →
        exec (.sequenceControlWrite r) s = s.wrote 0x2020 1 o r 0x00 [] (e.setPwr { e.pwr with ctlPend := some k })) ∧
      (1 < bits k 5 4 ∨ 39 < bits k 11 6 ∨ seqCovers e.pwr.seqNext k = false →
        exec (.sequenceControlWrite r) s = s.wrote 0x2020 1 o r 0x06 [] e)) ∧
    (s.writes 0x2020 5 ruleUrgent r o → scalarFault o r.payload = none →
      let e := s.dev.counted 0x2020 o r
      let u := e.urge (ofLe r.payload)
      exec (.urgentRequest r) s = s.wrote 0x2020 5 o r (if u.1 then 0x00 else 0x08) [] u.2) ∧
    (s.writes 0x9000 1 ruleRevisit r o → scalarFault o r.payload = none → ∃ u,
      exec (.revisitPeriodWrite r) s = s.wrote 0x9000 1 o r 0x00 [] u ∧ u.reg (key 0x9000 1) = ofLe r.payload ∧
      (∀ n g, Tbl.find? (s.dev.counted 0x9000 o r).cim.engines n = some g → ∃ h, Tbl.find? u.cim.engines n = some h ∧
        { h with stale := g.stale } = g ∧ ∀ q, q ∈ h.stale ↔
          g.aged q (s.dev.counted 0x9000 o r).clk.up (ofLe r.payload) 8 = true ∧ (q ∈ g.stale ∨ (q < 64 ∧ g.st = 0)))) ∧
    (∀ v e, s.takes 0x9011 0 ruleHint r o v e →
      (v = [] → exec (.redundancyHintWrite r) s = s.told e 0x9011 0 o r 0x00 [] { e with cim := { e.cim with
        hint := [], hintStatus := 0 } }) ∧
      (v.length ≠ 0 → v.length ≠ hintSize → exec (.redundancyHintWrite r) s =
        s.told e 0x9011 0 o r 0x06 [] { e with cim := { e.cim with hint := [], hintStatus := 0x06 } }) ∧
      (v.length = hintSize →
        let rs := (chunksOf (4 * hintWords) 6336 v).zipIdx
        (rs.all (fun x => hintRecOk x.2 ((List.range hintWords).map (fun i => wordAt x.1 i))) = false → exec (.redundancyHintWrite r) s =
          s.told e 0x9011 0 o r 0x06 [] { e with cim := { e.cim with hint := [], hintStatus := 0x06 } }) ∧
        (rs.all (fun x => hintRecOk x.2 ((List.range hintWords).map (fun i => wordAt x.1 i))) = true → exec (.redundancyHintWrite r) s =
          s.told e 0x9011 0 o r 0x00 [] { e with cim := { e.cim with
            hint := (rs.filter (fun x => !(e.cluster (x.2 / 396)).calibrated)).map
              (fun x => (x.2, hintRec ((List.range hintWords).map (fun i => wordAt x.1 i)))), hintStatus := 0 } })))

/-- The supply and resets (R380–R382, R404, R407, R408, R419, R421): the input's thresholds remove the rails or end, PS_SYNC locks and is
lost, power-on, standby loss, RST_N and 3001h.01 reset the block, the straps are read, and clusters are reset, parked and woken. -/
def Obligations.SupplyAndResets : Prop :=
  ∀ (k : ClusterIx) (st : Straps) (n : Nat) (b : Bool) (r : Req) (o : ObjRow) (s : State),
    let d := s.dev
    let i := k.val
    (let e := if s.sup.standby then d.setPwr { d.pwr with input := if d.pwr.input = 2 then 0 else d.pwr.input } else d.unpowered
     exec .powerOn s = .next { s with sup := { s.sup with standby := true }, dev := e }) ∧
    (exec .standbyLoss s = .next { s with sup := { s.sup with standby := false }, dev := d.unpowered }) ∧
    d.unpowered.dark ∧ d.unpowered.pwr = PwrS.reset ∧
    (exec (.strapSample st) s = s.goes (if s.sup.standby = false ∨ d.fab.strapped = true then d
      else if s.sup.rstLow then d.readStraps st else (d.readStraps st).boot)) ∧
    (st.openLands = 0#3 → let f := (d.readStraps st).fab
      f.slot = st.level ∧ f.strapped = true ∧ f.coord = (if d.fab.written then d.fab.coord else mkCoord 0 0 0 st.level.toNat)) ∧
    (let a := if d.pwr.input = 4 ∨ d.pwr.input = 5 then 0 else d.pwr.input
     let e := if s.sup.standby then d.resetDomain { d.pwr.kept with trip := false, input := a } else d
     exec .rstNAssert s = .next { s with sup := { s.sup with rstLow := true }, dev := e }) ∧
    (∀ p : PwrS, (d.resetDomain p).dark ∧ (d.resetDomain p).pwr = p ∧ (d.resetDomain p).clk.ready = 0#7 ∧
      (d.resetDomain p).clk.time = 0#64) ∧
    (d.pwr.kept.latest = d.pwr.latest ∧ d.pwr.kept.trip = d.pwr.trip ∧ d.pwr.kept.seq = PwrS.reset.seq) ∧
    (let e := if s.sup.rstLow = true ∧ s.sup.standby = true then d.leaveReset st else d
     exec (.rstNRelease st) s = .next { s with sup := { s.sup with rstLow := false }, dev := e }) ∧
    (s.alive = true →
      (exec .undervoltage s = s.goes (d.inputFault 2 1)) ∧ (exec .overvoltage s = s.goes (d.inputFault 3 2)) ∧
      (exec .overcurrent s = s.goes (d.inputFault 4 3)) ∧
      (exec .overvoltageClear s = s.goes (if d.pwr.input = 3 then d.setPwr { d.pwr with input := 0 } else d)) ∧
      (∀ a x, let u := d.inputFault a x
        u.pwr = { d.pwr with rails := false, pgood := false, input := a } ∧ u.clk.ready.getLsbD 2 = false ∧
        (∀ j < 16, (u.cluster j).st = 0 ∧ (u.cluster j).park = (d.cluster j).park)) ∧
      (∀ p, p = (if d.reg (key 0x2010 1) = 1 then 1000000 / d.reg (key 0x2010 2) else n) →
        (833 ≤ p → p ≤ 1250 → d.pwr.locked = false → ∃ u, exec (.psSyncLock n) s = s.goes u ∧
          u.pwr = { d.pwr with locked := true, lost := false, period := p }) ∧
        (p < 833 ∨ 1250 < p ∨ d.pwr.locked = true → exec (.psSyncLock n) s = s.goes d)) ∧
      (d.pwr.lost = true → exec (.psSyncLoss b) s = s.goes d) ∧
      (d.pwr.lost = false → ∃ u, exec (.psSyncLoss b) s = s.goes u ∧
        u.pwr = { d.pwr with locked := false, lost := true, period := 1000 } ∧
        u.ctr (key 0x2050 5) = min (2 ^ 64 - 1) (d.ctr (key 0x2050 5) + 1)) ∧
      (s.writes 0x3001 1 (ruleDeviceReset (some st)) r o → scalarFault o r.payload = none →
        let e := s.dev.counted 0x3001 o r
        let a := e.finishWrite (e.answerKey r) r 0x3001 1 true 0x00 []
        exec (.deviceResetWrite r st) s = s.goes ((a.resetDomain a.pwr.kept).leaveReset st)) ∧
      (∀ m, s.writes 0x3001 2 ruleClusterReset r o → scalarFault o r.payload = none → m = BitVec.ofNat 16 (ofLe r.payload) →
        let e := s.dev.counted 0x3001 o r
        (e.clk.resetting &&& m ≠ 0#16 → exec (.clusterResetWrite r) s = s.wrote 0x3001 2 o r 0x08 [] e) ∧
        (e.clk.resetting &&& m = 0#16 →
          let f := e.setClk { e.clk with resetting := e.clk.resetting ||| m, draining := e.clk.draining ||| m }
          let ks := (List.range 16).filter (fun k => m.getLsbD k)
          exec (.clusterResetWrite r) s = s.wrote 0x3001 2 o r 0x00 []
            (ks.foldl (fun d k => (List.range 13).foldl (fun d j => d.disableCore (k * 13 + j) (bit (ofLe r.payload) 16)) d) f))) ∧
      (∀ (e : Device) (j : Nat) (m : Bool), ((e.disableCore j m).health j).enabled = false) ∧
      (d.clk.draining.getLsbD i = true → d.drainedCluster i = true →
        let e := d.setClk { d.clk with draining := d.clk.draining &&& ~~~(1#16 <<< i) }
        exec (.clusterResetDrained k) s = s.goes (e.resetCluster i 6)) ∧
      (d.clk.draining.getLsbD i = false ∨ d.drainedCluster i = false → exec (.clusterResetDrained k) s = s.goes d) ∧
      (∀ (e : Device) (j x : Nat), j < 16 → let u := e.resetCluster j x
        let c := e.cluster j
        let n := if c.st = 0 then c.resets else min 65535 (c.resets + 1)
        u.cluster j = { Cluster.reset with st := x, park := c.park, wakes := c.wakes, resets := n } ∧
        (∀ q, q ≠ j → u.cluster q = e.cluster q) ∧ (∀ q, q / 12 = j → u.core q = CimCore.reset) ∧
        u.pwr = e.pwr) ∧
      (s.writes 0x3002 0 ruleClusterRecords r o → r.payload.length = 256 →
        exec (.clusterRecordWrite r) s = s.wrote 0x3002 0 o r 0x00 [] ((s.dev.counted 0x3002 o r).mergeRecords 16 16 r.payload
          (fun d k b => d.setCluster k { d.cluster k with park := bit (wordAt b 0) 3 }))) ∧
      ((d.cluster i).st = 4 → (d.cluster i).park = true → d.clusterIdle i = true →
        exec (.clusterPark k) s = s.goes (d.setCluster i { d.cluster i with st := 5 })) ∧
      ((d.cluster i).st ≠ 4 ∨ (d.cluster i).park = false ∨ d.clusterIdle i = false → exec (.clusterPark k) s = s.goes d) ∧
      ((d.cluster i).st = 5 → exec (.wakeRequest k) s = s.goes ((d.setCluster i { d.cluster i with
        st := 4, wakes := min (2 ^ 32 - 1) ((d.cluster i).wakes + 1) }).bump (key 0x3020 4) 1)) ∧
      ((d.cluster i).st ≠ 5 → exec (.wakeRequest k) s = s.goes d))

/-- Crossings and bring-up (R402, R405, R406, R409, R411, R412; the numbers of crossings are the model's, log 43): the handshake of a
crossing's reset and its fallback; the reference, the rails, the central block, the cluster waves and their readiness or failure. -/
def Obligations.CrossingsAndBringUp : Prop :=
  ∀ (x : Nat) (k : ClusterIx) (w : Fin 4) (sc : ScanResult) (ts : List ClusterTest) (s : State), s.alive = true →
    let d := s.dev
    let i := k.val
    let y := d.cluster i
    (crossingKind x ≠ none → (d.crossing x).phase = 0 → exec (.crossingResetRequest x) s = s.goes (d.flushCrossing x 1)) ∧
    (crossingKind x = none ∨ (d.crossing x).phase ≠ 0 → exec (.crossingResetRequest x) s = s.goes d) ∧
    ((d.crossing x).phase = 1 → exec (.crossingResetAck x) s = s.goes (d.setCrossing x ⟨2, (d.crossing x).sink, [], []⟩)) ∧
    ((d.crossing x).phase ≠ 1 → exec (.crossingResetAck x) s = s.goes d) ∧
    ((d.crossing x).sink = true → exec (.crossingReady x) s = s.goes (d.setCrossing x Crossing.reset)) ∧
    ((d.crossing x).sink = false → exec (.crossingReady x) s = s.goes d) ∧
    (crossingKind x = none ∨ crossingKind x = some 3 → exec (.crossingFallback x) s = s.goes d) ∧
    (∀ n, crossingKind x = some n → n ≠ 3 → ∃ u, exec (.crossingFallback x) s = s.goes u ∧
      u.crossing x = ⟨2, true, [], []⟩ ∧ u.ctr (key 0x3020 2) = min (2 ^ 64 - 1) (d.ctr (key 0x3020 2) + 1) ∧
      u.cim = d.cim ∧ u.pwr = d.pwr) ∧
    (crossingKind x = some 3 → ∃ u, exec (.mesochronousRecentre x) s = s.goes u ∧ u.crossing x = Crossing.reset ∧
      (∀ z, z ≠ x → u.crossing z = d.crossing z) ∧ u.cim = d.cim) ∧
    (crossingKind x ≠ some 3 → exec (.mesochronousRecentre x) s = s.goes d) ∧
    (∀ (e : Device) (p : Nat), let u := e.flushCrossing x p
      u.crossing x = ⟨p, true, [], []⟩ ∧ (∀ z, z ≠ x → u.crossing z = e.crossing z) ∧
      ((e.crossing x).back = [] → u.out = e.out) ∧
      (∀ q a b n, (e.crossing x).back = q ++ [(a, b, n)] →
        u.out = e.out ++ [.crossed x (q.map (fun z => (z.1, z.2.1)) ++ (a, b) :: List.replicate n (0#32, true))])) ∧
    (d.clk.refOk = true → exec .refclkDetect s = s.goes d ∧ exec .refclkRestore s = s.goes d) ∧
    (d.clk.refOk = false → exec .refclkLoss s = s.goes d ∧
      exec .refclkDetect s = s.goes ((d.setClk { d.clk with refOk := true }).readyBit 1) ∧
      exec .refclkRestore s = s.goes (((d.setClk { d.clk with refOk := true }).notify 0x31 0 0x3002 0 0).readyBit 1)) ∧
    (d.clk.refOk = true → ∃ u : Device, exec .refclkLoss s =
        s.goes (((u.err { cls := 0 } 0x30 0).notify 0x31 0 0x3002 0 1).bump (key 0x3020 1) 1) ∧
      u.clk.refOk = false ∧ u.clk.ready.getLsbD 1 = false ∧ (∀ j < 16, (u.cluster j).st = 0) ∧
      (∀ p < 8, (u.port p).st = 0 ∨ (u.port p).st = 5)) ∧
    (∀ (e : Device) (n : Nat), n < 7 → (e.readyBit n).clk = { e.clk with ready := e.clk.ready ||| (1#7 <<< n) }) ∧
    (d.mayRamp = true → exec .railsRamped s =
      s.goes ((d.setPwr { d.pwr with rails := true, pgood := true, input := 1 }).readyBit 2)) ∧
    (d.mayRamp = false → exec .railsRamped s = s.goes d) ∧
    (d.mayRamp = true ↔ d.clk.refOk = true ∧ d.pwr.trip = false ∧ d.pwr.input ≤ 1 ∧
      ∀ f < 4, f32Lt (d.diode f) 0x42C80000#32 = true) ∧
    (d.pwr.pgood = true → d.clk.refOk = true → exec (.centralBlockReady sc) s =
      let e := d.zeroTables
      let f := (e.setDetours (sc.routers.foldl (fun t f => Tbl.put t f.val (detourMask f.val))
        (e.mem.detours.filter (fun e => decide (256 ≤ e.1))))).startPatrols 16 tableBanks
      s.goes (((List.range 8).foldl (fun d p => d.startTraining p) f).readyBit 3)) ∧
    (d.pwr.pgood = false ∨ d.clk.refOk = false → exec (.centralBlockReady sc) s = s.goes d) ∧
    (d.pwr.pgood = true → d.clk.ready.getLsbD 3 = true → exec (.clusterWave w ts) s =
      s.goes ((((d.waveCluster ts w.val).waveCluster ts (4 + w.val)).waveCluster ts (8 + w.val)).waveCluster ts (12 + w.val))) ∧
    (d.pwr.pgood = false ∨ d.clk.ready.getLsbD 3 = false → exec (.clusterWave w ts) s = s.goes d) ∧
    (∀ (e : Device) (j : Nat), let c := e.cluster j
      let u := e.waveCluster ts j
      (c.st ≠ 0 → c.st ≠ 1 → c.st ≠ 6 → u = e) ∧
      (j < 16 → c.st = 0 ∨ c.st = 1 ∨ c.st = 6 →
        (e.setDetours (e.mem.detours.filter (fun z => !decide (256 ≤ z.1 ∧ (clusterTiles j).contains (z.1 - 256) = true)))).routerBad
          j = false →
        ((∀ t ∈ ts, t.cluster.val ≠ j) → (u.cluster j).st = 1) ∧
        (∀ t, ts.find? (fun t => decide (t.cluster.val = j)) = some t →
          (t.tileFail ≠ 0#3 → (u.cluster j).st = 7 ∧ (u.cluster j).cause = 2) ∧
          (t.tileFail = 0#3 → t.attnFail = true → (u.cluster j).st = 7 ∧ (u.cluster j).cause = 3) ∧
          (t.tileFail = 0#3 → t.attnFail = false → (u.cluster j).st = 3)))) ∧
    (y.st = 3 → ∃ u, exec (.clusterReady k) s = s.goes u ∧
      u.cluster i = { y with st := 4, readyUs := (d.clk.up - d.clk.resetUp) / 1000 } ∧
      (∀ j, j ≠ i → u.cluster j = d.cluster j) ∧ u.clk.resetting = d.clk.resetting &&& ~~~(1#16 <<< i)) ∧
    (y.st ≠ 3 → exec (.clusterReady k) s = s.goes d) ∧
    (y.st = 1 → ∃ u, exec (.pllLockTimeout k) s = s.goes u ∧ u.cluster i = { y with st := 7, cause := 1, readyUs := 0 } ∧
      (∀ j, j ≠ i → u.cluster j = d.cluster j) ∧ u.cim = d.cim) ∧
    (y.st ≠ 1 → exec (.pllLockTimeout k) s = s.goes d)

/-- The sideband's PHY and the TAP (R422, R423; the order of the lands is the model's, log 34): BYPASS, IDCODE, SAMPLE/PRELOAD and EXTEST
act whenever the standby domain has power, whatever RST_N does; a private instruction acts as BYPASS unless the block is unlocked. -/
def Obligations.SidebandAndTap : Prop :=
  ∀ (v : BitVec 16) (code : BitVec 8) (on : Bool) (s : State),
    let d := s.dev
    (s.sup.standby = true →
      (∃ u, exec .tapBypass s = s.goes u ∧ u.out = d.out ++ [.tap 1 0] ∧ u.tap = { d.tap with ir := 0 } ∧
        (d.sec.unlocked = false → exec (.tapPrivate code) s = s.goes u) ∧
        u.fab = d.fab ∧ u.pwr = d.pwr ∧ u.clk = d.clk ∧ u.sec = d.sec) ∧
      (d.sec.unlocked = true → exec (.tapPrivate code) s = .refused (.privateTap code.toNat)) ∧
      (∃ u x, exec .tapIdcode s = s.goes u ∧ u.out = d.out ++ [.tap 32 x] ∧ u.tap = { d.tap with ir := 1 } ∧
        x % 2 = 1 ∧ x / 2 % 2 ^ 11 = 0x4AD ∧ x / 2 ^ 12 % 2 ^ 16 = 0x6144 ∧ x / 2 ^ 28 = Config.stepping.toNat % 16) ∧
      (∃ u x, exec (.tapSamplePreload v) s = s.goes u ∧ u.out = d.out ++ [.tap 9 x] ∧ u.tap = ⟨2, v⟩ ∧
        u.pwr = d.pwr ∧ u.fab = d.fab ∧
        x.testBit 0 = !s.sup.rstLow ∧ x.testBit 1 = d.pwr.pgood ∧ x.testBit 2 = !d.alertLow ∧ x.testBit 3 = !d.pwr.trip ∧
        x / 16 % 8 = d.fab.slot.toNat ∧ x < 2 ^ 9) ∧
      (∃ u x, exec (.tapExtest v) s = s.goes u ∧ u.out = d.out ++ [.tap 9 x] ∧ u.tap = ⟨3, v⟩ ∧ u.pwr = d.pwr ∧
        u.fab = d.fab)) ∧
    (s.sup.standby = false → exec .tapBypass s = s.goes d ∧ exec .tapIdcode s = s.goes d ∧
      exec (.tapSamplePreload v) s = s.goes d ∧ exec (.tapExtest v) s = s.goes d ∧ exec (.tapPrivate code) s = s.goes d) ∧
    (s.alive = true →
      (∃ u, exec .plcaBeacon s = s.goes u ∧ u.side.status = 7 ∧ u.side.burst = d.reg (key 0x4060 2) ∧
        u.side.timer = d.reg (key 0x4060 3)) ∧
      (∃ u, exec (.sidebandCarrierChange on) s = s.goes u ∧ u.side.carrier = on ∧ u.side.burst = d.side.burst ∧
        (on = false → u.side.status = 0) ∧ (on = true → u.side.beacon = d.side.beacon ∧ u.side.active = d.side.active)))
end

