-- ==== Sys2Proof/Laws/Tbl.lean ====
section
/-!
SUPPORT. Sparse tables: what a key reads after a write, and the canonical form that every operation keeps.
-/
namespace Sys2Proof.Machine

variable {α : Type}

/-- Reading the key just written. -/
@[simp] theorem Tbl.get_put_same (d v : α) (m : Tbl α) (k : Nat) : Tbl.get d (Tbl.put m k v) k = v := by
  induction m with
  | nil => simp [Tbl.put, Tbl.get]
  | cons e m ih =>
    obtain ⟨k', v'⟩ := e
    by_cases h1 : k < k'
    · simp [Tbl.put, Tbl.get, h1]
    · by_cases h2 : k' = k
      · subst h2; simp [Tbl.put, Tbl.get]
      · simp [Tbl.put, Tbl.get, h1, h2, ih]

/-- A write leaves every other key alone. -/
theorem Tbl.get_put_other (d v : α) (m : Tbl α) {k j : Nat} (h : j ≠ k) :
    Tbl.get d (Tbl.put m k v) j = Tbl.get d m j := by
  induction m with
  | nil => simp [Tbl.put, Tbl.get, h.symm]
  | cons e m ih =>
    obtain ⟨k', v'⟩ := e
    by_cases h1 : k < k'
    · simp [Tbl.put, Tbl.get, h1, h.symm]
    · by_cases h2 : k' = k
      · subst h2; simp [Tbl.put, Tbl.get, h.symm]
      · by_cases h3 : k' = j
        · subst h3; simp [Tbl.put, Tbl.get, h2, h1]
        · simp [Tbl.put, Tbl.get, h1, h2, h3, ih]

/-- Unlisting a key leaves every other key alone. -/
theorem Tbl.get_del_other (d : α) (m : Tbl α) {k j : Nat} (h : j ≠ k) :
    Tbl.get d (Tbl.del m k) j = Tbl.get d m j := by
  induction m with
  | nil => simp [Tbl.del]
  | cons e m ih =>
    obtain ⟨k', v'⟩ := e
    by_cases h2 : k' = k
    · subst h2; simp [Tbl.del, Tbl.get, h.symm, ih]
    · by_cases h3 : k' = j
      · subst h3; simp [Tbl.del, Tbl.get, h2]
      · simp [Tbl.del, Tbl.get, h2, h3, ih]

/-- `set` leaves every other key alone. -/
theorem Tbl.get_set_other [DecidableEq α] (d v : α) (m : Tbl α) {k j : Nat} (h : j ≠ k) :
    Tbl.get d (Tbl.set d m k v) j = Tbl.get d m j := by
  unfold Tbl.set
  split
  · exact Tbl.get_del_other d m h
  · exact Tbl.get_put_other d v m h

/-! ### The canonical form -/

theorem Tbl.sortedFrom_mono {b b' : Nat} (hb : b' ≤ b) {m : Tbl α} (h : Tbl.sortedFrom b m = true) :
    Tbl.sortedFrom b' m = true := by
  cases m with
  | nil => rfl
  | cons e m => obtain ⟨k, v⟩ := e; simp [Tbl.sortedFrom] at h ⊢; exact ⟨by omega, h.2⟩

/-- Below its bound a sorted table lists nothing. -/
theorem Tbl.get_below (d : α) {b k : Nat} {m : Tbl α} (h : Tbl.sortedFrom b m = true) (hk : k < b) :
    Tbl.get d m k = d := by
  induction m generalizing b with
  | nil => rfl
  | cons e m ih =>
    obtain ⟨k', v⟩ := e
    simp [Tbl.sortedFrom] at h
    simp only [Tbl.get, show ¬ k' = k by omega, if_false]
    exact ih h.2 (by omega)

theorem Tbl.sortedFrom_put {b k : Nat} (hk : b ≤ k) (v : α) {m : Tbl α} (h : Tbl.sortedFrom b m = true) :
    Tbl.sortedFrom b (Tbl.put m k v) = true := by
  induction m generalizing b with
  | nil => simp [Tbl.put, Tbl.sortedFrom, hk]
  | cons e m ih =>
    obtain ⟨k', v'⟩ := e
    simp [Tbl.sortedFrom] at h
    by_cases h1 : k < k'
    · simp only [Tbl.put, h1, if_true, Tbl.sortedFrom, Bool.and_eq_true, decide_eq_true_eq]
      exact ⟨hk, by omega, h.2⟩
    · by_cases h2 : k' = k
      · subst h2; simp [Tbl.put, Tbl.sortedFrom, h.2, hk]
      · simp [Tbl.put, h1, h2, Tbl.sortedFrom, h.1]
        exact ih (by omega) h.2

theorem Tbl.sortedFrom_del {b k : Nat} {m : Tbl α} (h : Tbl.sortedFrom b m = true) :
    Tbl.sortedFrom b (Tbl.del m k) = true := by
  induction m generalizing b with
  | nil => rfl
  | cons e m ih =>
    obtain ⟨k', v'⟩ := e
    simp [Tbl.sortedFrom] at h
    by_cases h2 : k' = k
    · simp [Tbl.del, h2]; exact Tbl.sortedFrom_mono (by omega) (ih h.2)
    · simp [Tbl.del, h2, Tbl.sortedFrom, h.1]; exact ih h.2

theorem Tbl.sortedFrom_filter {b : Nat} (p : Nat × α → Bool) {m : Tbl α} (h : Tbl.sortedFrom b m = true) :
    Tbl.sortedFrom b (m.filter p) = true := by
  induction m generalizing b with
  | nil => rfl
  | cons e m ih =>
    obtain ⟨k', v'⟩ := e
    simp [Tbl.sortedFrom] at h
    by_cases hp : p (k', v')
    · simp [List.filter, hp, Tbl.sortedFrom, h.1]; exact ih h.2
    · simp [List.filter, hp]; exact Tbl.sortedFrom_mono (by omega) (ih h.2)

theorem Tbl.all_put [DecidableEq α] {d v : α} (hv : v ≠ d) {k : Nat} {m : Tbl α}
    (h : ∀ e ∈ m, e.2 ≠ d) : ∀ e ∈ Tbl.put m k v, e.2 ≠ d := by
  induction m with
  | nil => simp [Tbl.put, hv]
  | cons e m ih =>
    obtain ⟨k', v'⟩ := e
    simp at h
    by_cases h1 : k < k'
    · intro e he; simp [Tbl.put, h1] at he
      rcases he with rfl | rfl | he
      · exact hv
      · exact h.1
      · exact h.2 _ _ he
    · by_cases h2 : k' = k
      · intro e he; simp [Tbl.put, h2] at he
        rcases he with rfl | he
        · exact hv
        · exact h.2 _ _ he
      · intro e he; simp [Tbl.put, h1, h2] at he
        rcases he with rfl | he
        · exact h.1
        · exact ih (fun e he => h.2 _ _ he) e he

theorem Tbl.del_subset {k : Nat} {m : Tbl α} : ∀ e ∈ Tbl.del m k, e ∈ m := by
  induction m with
  | nil => simp [Tbl.del]
  | cons e m ih =>
    obtain ⟨k', v'⟩ := e
    by_cases h2 : k' = k
    · intro e he; simp [Tbl.del, h2] at he; exact List.mem_cons_of_mem _ (ih e he)
    · intro e he; simp [Tbl.del, h2] at he
      rcases he with rfl | he
      · exact List.mem_cons_self
      · exact List.mem_cons_of_mem _ (ih e he)

/-- `set` keeps the canonical form. -/
theorem Tbl.wf_set [DecidableEq α] {d : α} {m : Tbl α} (k : Nat) (v : α) (h : Tbl.wf d m = true) :
    Tbl.wf d (Tbl.set d m k v) = true := by
  simp only [Tbl.wf, Tbl.sorted, Bool.and_eq_true, List.all_eq_true, decide_eq_true_eq] at h ⊢
  unfold Tbl.set
  split
  · exact ⟨Tbl.sortedFrom_del h.1, fun e he => h.2 e (Tbl.del_subset e he)⟩
  · rename_i hv
    exact ⟨Tbl.sortedFrom_put (Nat.zero_le k) v h.1, Tbl.all_put hv h.2⟩

/-- Leaving entries out keeps the canonical form. -/
theorem Tbl.wf_filter [DecidableEq α] {d : α} {m : Tbl α} (p : Nat × α → Bool) (h : Tbl.wf d m = true) :
    Tbl.wf d (m.filter p) = true := by
  simp only [Tbl.wf, Tbl.sorted, Bool.and_eq_true, List.all_eq_true, decide_eq_true_eq] at h ⊢
  exact ⟨Tbl.sortedFrom_filter p h.1, fun e he => h.2 e (List.mem_filter.mp he).1⟩

/-- A deleted key reads as the default. -/
@[simp] theorem Tbl.get_del_same (d : α) (m : Tbl α) (k : Nat) : Tbl.get d (Tbl.del m k) k = d := by
  induction m with
  | nil => rfl
  | cons e m ih =>
    obtain ⟨k', v'⟩ := e
    by_cases h2 : k' = k
    · subst h2; simpa [Tbl.del] using ih
    · simp [Tbl.del, h2, Tbl.get, ih]

/-- Reading the key just set. -/
@[simp] theorem Tbl.get_set_same [DecidableEq α] (d : α) (m : Tbl α) (k : Nat) (v : α) :
    Tbl.get d (Tbl.set d m k v) k = v := by
  unfold Tbl.set
  split
  · rename_i hv; rw [Tbl.get_del_same, hv]
  · simp

/-- Reading a table some of whose keys are dropped. -/
theorem Tbl.get_filter {α : Type} (d : α) (m : Tbl α) (p : Nat → Bool) (k) : Tbl.get d (m.filter (fun e => p e.1)) k = if p k then Tbl.get d m k else d := by
  induction m with
  | nil => simp [Tbl.get]
  | cons a m ih =>
    obtain ⟨k', v⟩ := a
    by_cases hp : p k' = true
    · rw [List.filter_cons_of_pos (by simpa using hp)]
      simp only [Tbl.get]
      by_cases hk : k' = k
      · subst hk; simp [hp]
      · rw [if_neg hk, ih, if_neg hk]
    · rw [List.filter_cons_of_neg (by simpa using hp), ih]
      simp only [Tbl.get]
      by_cases hk : k' = k
      · subst hk; simp [hp]
      · rw [if_neg hk]

/-- What a key holds is listed. -/
theorem Tbl.find?_mem {α : Type} (m : Tbl α) (k v) (h : Tbl.find? m k = some v) : (k, v) ∈ m := by
  induction m with
  | nil => cases h
  | cons a m ih =>
    obtain ⟨k', v'⟩ := a
    unfold Tbl.find? at h
    split at h
    · rename_i hk; subst hk; injection h with h; subst h; simp
    · exact List.mem_cons_of_mem _ (ih h)

/-- A key that is unlisted holds nothing. -/
theorem Tbl.find?_del_same {α : Type} (m : Tbl α) (k : Nat) : Tbl.find? (Tbl.del m k) k = none := by
  induction m with
  | nil => rfl
  | cons a m ih =>
    obtain ⟨k', v⟩ := a
    unfold Tbl.del
    split
    · exact ih
    · rename_i h; unfold Tbl.find?; rw [if_neg h]; exact ih

/-- A key that is not listed holds nothing. -/
theorem Tbl.find?_eq_none {α : Type} (m : Tbl α) (k) : Tbl.find? m k = none ↔ (Tbl.keys m).contains k = false := by
  induction m with
  | nil => simp [Tbl.find?, Tbl.keys]
  | cons a m ih =>
    obtain ⟨k', v⟩ := a
    unfold Tbl.find?
    by_cases h : k' = k
    · subst h; simp [Tbl.keys]
    · have h' : ¬ k = k' := fun e => h e.symm
      rw [if_neg h, ih]; simp [Tbl.keys, h']

/-- The lowest free number is free, and every lower one is used. -/
theorem lowestFree_spec (used : List Nat) (n) : ∀ k s, lowestFree used n k = some s → k ≤ s ∧ used.contains s = false ∧ ∀ j, k ≤ j → j < s → used.contains j = true := by
  induction n with
  | zero => intro k s h; cases h
  | succ n ih =>
    intro k s h
    unfold lowestFree at h
    split at h
    · rename_i hk
      obtain ⟨h1, h2, h3⟩ := ih _ _ h
      refine ⟨by omega, h2, fun j hj hj2 => ?_⟩
      by_cases hjk : j = k
      · subst hjk; exact hk
      · exact h3 j (by omega) hj2
    · rename_i hk
      injection h with h; subst h
      exact ⟨Nat.le_refl _, by simpa using hk, fun j h1 h2 => by omega⟩

end Sys2Proof.Machine
end

