-- ==== Sys2Proof/Laws/State.lean ====
section
/-!
SUPPORT. What each setter of the block leaves alone: one simp lemma per field per setter, so that no proof unfolds a record update.
-/
namespace Sys2Proof.Machine

variable (d : Device)

/-! ### setReg changes `regs` only. -/

@[simp] theorem Device.setReg_clk (k v : Nat) : (d.setReg k v).clk = d.clk := rfl
@[simp] theorem Device.setReg_free (k v : Nat) : (d.setReg k v).free = d.free := rfl
@[simp] theorem Device.setReg_out (k v : Nat) : (d.setReg k v).out = d.out := rfl
@[simp] theorem Device.setReg_ctrs (k v : Nat) : (d.setReg k v).ctrs = d.ctrs := rfl
@[simp] theorem Device.setReg_cim (k v : Nat) : (d.setReg k v).cim = d.cim := rfl
@[simp] theorem Device.setReg_mem (k v : Nat) : (d.setReg k v).mem = d.mem := rfl
@[simp] theorem Device.setReg_attn (k v : Nat) : (d.setReg k v).attn = d.attn := rfl
@[simp] theorem Device.setReg_serv (k v : Nat) : (d.setReg k v).serv = d.serv := rfl
@[simp] theorem Device.setReg_cast (k v : Nat) : (d.setReg k v).cast = d.cast := rfl
@[simp] theorem Device.setReg_fab (k v : Nat) : (d.setReg k v).fab = d.fab := rfl
@[simp] theorem Device.setReg_sync (k v : Nat) : (d.setReg k v).sync = d.sync := rfl
@[simp] theorem Device.setReg_dict (k v : Nat) : (d.setReg k v).dict = d.dict := rfl
@[simp] theorem Device.setReg_sec (k v : Nat) : (d.setReg k v).sec = d.sec := rfl
@[simp] theorem Device.setReg_rel (k v : Nat) : (d.setReg k v).rel = d.rel := rfl
@[simp] theorem Device.setReg_pwr (k v : Nat) : (d.setReg k v).pwr = d.pwr := rfl
@[simp] theorem Device.setReg_side (k v : Nat) : (d.setReg k v).side = d.side := rfl
@[simp] theorem Device.setReg_tap (k v : Nat) : (d.setReg k v).tap = d.tap := rfl

/-! ### bump changes `ctrs` only. -/

@[simp] theorem Device.bump_clk (k n : Nat) : (d.bump k n).clk = d.clk := rfl
@[simp] theorem Device.bump_free (k n : Nat) : (d.bump k n).free = d.free := rfl
@[simp] theorem Device.bump_out (k n : Nat) : (d.bump k n).out = d.out := rfl
@[simp] theorem Device.bump_regs (k n : Nat) : (d.bump k n).regs = d.regs := rfl
@[simp] theorem Device.bump_cim (k n : Nat) : (d.bump k n).cim = d.cim := rfl
@[simp] theorem Device.bump_mem (k n : Nat) : (d.bump k n).mem = d.mem := rfl
@[simp] theorem Device.bump_attn (k n : Nat) : (d.bump k n).attn = d.attn := rfl
@[simp] theorem Device.bump_serv (k n : Nat) : (d.bump k n).serv = d.serv := rfl
@[simp] theorem Device.bump_cast (k n : Nat) : (d.bump k n).cast = d.cast := rfl
@[simp] theorem Device.bump_fab (k n : Nat) : (d.bump k n).fab = d.fab := rfl
@[simp] theorem Device.bump_sync (k n : Nat) : (d.bump k n).sync = d.sync := rfl
@[simp] theorem Device.bump_dict (k n : Nat) : (d.bump k n).dict = d.dict := rfl
@[simp] theorem Device.bump_sec (k n : Nat) : (d.bump k n).sec = d.sec := rfl
@[simp] theorem Device.bump_rel (k n : Nat) : (d.bump k n).rel = d.rel := rfl
@[simp] theorem Device.bump_pwr (k n : Nat) : (d.bump k n).pwr = d.pwr := rfl
@[simp] theorem Device.bump_side (k n : Nat) : (d.bump k n).side = d.side := rfl
@[simp] theorem Device.bump_tap (k n : Nat) : (d.bump k n).tap = d.tap := rfl

/-! ### send changes `out` only. -/

@[simp] theorem Device.send_clk (m : OutMsg) : (d.send m).clk = d.clk := rfl
@[simp] theorem Device.send_free (m : OutMsg) : (d.send m).free = d.free := rfl
@[simp] theorem Device.send_regs (m : OutMsg) : (d.send m).regs = d.regs := rfl
@[simp] theorem Device.send_ctrs (m : OutMsg) : (d.send m).ctrs = d.ctrs := rfl
@[simp] theorem Device.send_cim (m : OutMsg) : (d.send m).cim = d.cim := rfl
@[simp] theorem Device.send_mem (m : OutMsg) : (d.send m).mem = d.mem := rfl
@[simp] theorem Device.send_attn (m : OutMsg) : (d.send m).attn = d.attn := rfl
@[simp] theorem Device.send_serv (m : OutMsg) : (d.send m).serv = d.serv := rfl
@[simp] theorem Device.send_cast (m : OutMsg) : (d.send m).cast = d.cast := rfl
@[simp] theorem Device.send_fab (m : OutMsg) : (d.send m).fab = d.fab := rfl
@[simp] theorem Device.send_sync (m : OutMsg) : (d.send m).sync = d.sync := rfl
@[simp] theorem Device.send_dict (m : OutMsg) : (d.send m).dict = d.dict := rfl
@[simp] theorem Device.send_sec (m : OutMsg) : (d.send m).sec = d.sec := rfl
@[simp] theorem Device.send_rel (m : OutMsg) : (d.send m).rel = d.rel := rfl
@[simp] theorem Device.send_pwr (m : OutMsg) : (d.send m).pwr = d.pwr := rfl
@[simp] theorem Device.send_side (m : OutMsg) : (d.send m).side = d.side := rfl
@[simp] theorem Device.send_tap (m : OutMsg) : (d.send m).tap = d.tap := rfl

/-! ### setCore changes `cim` only. -/

@[simp] theorem Device.setCore_clk (c : Nat) (x : CimCore) : (d.setCore c x).clk = d.clk := rfl
@[simp] theorem Device.setCore_free (c : Nat) (x : CimCore) : (d.setCore c x).free = d.free := rfl
@[simp] theorem Device.setCore_out (c : Nat) (x : CimCore) : (d.setCore c x).out = d.out := rfl
@[simp] theorem Device.setCore_regs (c : Nat) (x : CimCore) : (d.setCore c x).regs = d.regs := rfl
@[simp] theorem Device.setCore_ctrs (c : Nat) (x : CimCore) : (d.setCore c x).ctrs = d.ctrs := rfl
@[simp] theorem Device.setCore_mem (c : Nat) (x : CimCore) : (d.setCore c x).mem = d.mem := rfl
@[simp] theorem Device.setCore_attn (c : Nat) (x : CimCore) : (d.setCore c x).attn = d.attn := rfl
@[simp] theorem Device.setCore_serv (c : Nat) (x : CimCore) : (d.setCore c x).serv = d.serv := rfl
@[simp] theorem Device.setCore_cast (c : Nat) (x : CimCore) : (d.setCore c x).cast = d.cast := rfl
@[simp] theorem Device.setCore_fab (c : Nat) (x : CimCore) : (d.setCore c x).fab = d.fab := rfl
@[simp] theorem Device.setCore_sync (c : Nat) (x : CimCore) : (d.setCore c x).sync = d.sync := rfl
@[simp] theorem Device.setCore_dict (c : Nat) (x : CimCore) : (d.setCore c x).dict = d.dict := rfl
@[simp] theorem Device.setCore_sec (c : Nat) (x : CimCore) : (d.setCore c x).sec = d.sec := rfl
@[simp] theorem Device.setCore_rel (c : Nat) (x : CimCore) : (d.setCore c x).rel = d.rel := rfl
@[simp] theorem Device.setCore_pwr (c : Nat) (x : CimCore) : (d.setCore c x).pwr = d.pwr := rfl
@[simp] theorem Device.setCore_side (c : Nat) (x : CimCore) : (d.setCore c x).side = d.side := rfl
@[simp] theorem Device.setCore_tap (c : Nat) (x : CimCore) : (d.setCore c x).tap = d.tap := rfl

/-! ### modCore changes `cim` only. -/

@[simp] theorem Device.modCore_clk (c : Nat) (f : CimCore → CimCore) : (d.modCore c f).clk = d.clk := rfl
@[simp] theorem Device.modCore_free (c : Nat) (f : CimCore → CimCore) : (d.modCore c f).free = d.free := rfl
@[simp] theorem Device.modCore_out (c : Nat) (f : CimCore → CimCore) : (d.modCore c f).out = d.out := rfl
@[simp] theorem Device.modCore_regs (c : Nat) (f : CimCore → CimCore) : (d.modCore c f).regs = d.regs := rfl
@[simp] theorem Device.modCore_ctrs (c : Nat) (f : CimCore → CimCore) : (d.modCore c f).ctrs = d.ctrs := rfl
@[simp] theorem Device.modCore_mem (c : Nat) (f : CimCore → CimCore) : (d.modCore c f).mem = d.mem := rfl
@[simp] theorem Device.modCore_attn (c : Nat) (f : CimCore → CimCore) : (d.modCore c f).attn = d.attn := rfl
@[simp] theorem Device.modCore_serv (c : Nat) (f : CimCore → CimCore) : (d.modCore c f).serv = d.serv := rfl
@[simp] theorem Device.modCore_cast (c : Nat) (f : CimCore → CimCore) : (d.modCore c f).cast = d.cast := rfl
@[simp] theorem Device.modCore_fab (c : Nat) (f : CimCore → CimCore) : (d.modCore c f).fab = d.fab := rfl
@[simp] theorem Device.modCore_sync (c : Nat) (f : CimCore → CimCore) : (d.modCore c f).sync = d.sync := rfl
@[simp] theorem Device.modCore_dict (c : Nat) (f : CimCore → CimCore) : (d.modCore c f).dict = d.dict := rfl
@[simp] theorem Device.modCore_sec (c : Nat) (f : CimCore → CimCore) : (d.modCore c f).sec = d.sec := rfl
@[simp] theorem Device.modCore_rel (c : Nat) (f : CimCore → CimCore) : (d.modCore c f).rel = d.rel := rfl
@[simp] theorem Device.modCore_pwr (c : Nat) (f : CimCore → CimCore) : (d.modCore c f).pwr = d.pwr := rfl
@[simp] theorem Device.modCore_side (c : Nat) (f : CimCore → CimCore) : (d.modCore c f).side = d.side := rfl
@[simp] theorem Device.modCore_tap (c : Nat) (f : CimCore → CimCore) : (d.modCore c f).tap = d.tap := rfl

/-! ### setEngine changes `cim` only. -/

@[simp] theorem Device.setEngine_clk (c e : Nat) (x : Engine) : (d.setEngine c e x).clk = d.clk := rfl
@[simp] theorem Device.setEngine_free (c e : Nat) (x : Engine) : (d.setEngine c e x).free = d.free := rfl
@[simp] theorem Device.setEngine_out (c e : Nat) (x : Engine) : (d.setEngine c e x).out = d.out := rfl
@[simp] theorem Device.setEngine_regs (c e : Nat) (x : Engine) : (d.setEngine c e x).regs = d.regs := rfl
@[simp] theorem Device.setEngine_ctrs (c e : Nat) (x : Engine) : (d.setEngine c e x).ctrs = d.ctrs := rfl
@[simp] theorem Device.setEngine_mem (c e : Nat) (x : Engine) : (d.setEngine c e x).mem = d.mem := rfl
@[simp] theorem Device.setEngine_attn (c e : Nat) (x : Engine) : (d.setEngine c e x).attn = d.attn := rfl
@[simp] theorem Device.setEngine_serv (c e : Nat) (x : Engine) : (d.setEngine c e x).serv = d.serv := rfl
@[simp] theorem Device.setEngine_cast (c e : Nat) (x : Engine) : (d.setEngine c e x).cast = d.cast := rfl
@[simp] theorem Device.setEngine_fab (c e : Nat) (x : Engine) : (d.setEngine c e x).fab = d.fab := rfl
@[simp] theorem Device.setEngine_sync (c e : Nat) (x : Engine) : (d.setEngine c e x).sync = d.sync := rfl
@[simp] theorem Device.setEngine_dict (c e : Nat) (x : Engine) : (d.setEngine c e x).dict = d.dict := rfl
@[simp] theorem Device.setEngine_sec (c e : Nat) (x : Engine) : (d.setEngine c e x).sec = d.sec := rfl
@[simp] theorem Device.setEngine_rel (c e : Nat) (x : Engine) : (d.setEngine c e x).rel = d.rel := rfl
@[simp] theorem Device.setEngine_pwr (c e : Nat) (x : Engine) : (d.setEngine c e x).pwr = d.pwr := rfl
@[simp] theorem Device.setEngine_side (c e : Nat) (x : Engine) : (d.setEngine c e x).side = d.side := rfl
@[simp] theorem Device.setEngine_tap (c e : Nat) (x : Engine) : (d.setEngine c e x).tap = d.tap := rfl

/-! ### modEngine changes `cim` only. -/

@[simp] theorem Device.modEngine_clk (c e : Nat) (f : Engine → Engine) : (d.modEngine c e f).clk = d.clk := rfl
@[simp] theorem Device.modEngine_free (c e : Nat) (f : Engine → Engine) : (d.modEngine c e f).free = d.free := rfl
@[simp] theorem Device.modEngine_out (c e : Nat) (f : Engine → Engine) : (d.modEngine c e f).out = d.out := rfl
@[simp] theorem Device.modEngine_regs (c e : Nat) (f : Engine → Engine) : (d.modEngine c e f).regs = d.regs := rfl
@[simp] theorem Device.modEngine_ctrs (c e : Nat) (f : Engine → Engine) : (d.modEngine c e f).ctrs = d.ctrs := rfl
@[simp] theorem Device.modEngine_mem (c e : Nat) (f : Engine → Engine) : (d.modEngine c e f).mem = d.mem := rfl
@[simp] theorem Device.modEngine_attn (c e : Nat) (f : Engine → Engine) : (d.modEngine c e f).attn = d.attn := rfl
@[simp] theorem Device.modEngine_serv (c e : Nat) (f : Engine → Engine) : (d.modEngine c e f).serv = d.serv := rfl
@[simp] theorem Device.modEngine_cast (c e : Nat) (f : Engine → Engine) : (d.modEngine c e f).cast = d.cast := rfl
@[simp] theorem Device.modEngine_fab (c e : Nat) (f : Engine → Engine) : (d.modEngine c e f).fab = d.fab := rfl
@[simp] theorem Device.modEngine_sync (c e : Nat) (f : Engine → Engine) : (d.modEngine c e f).sync = d.sync := rfl
@[simp] theorem Device.modEngine_dict (c e : Nat) (f : Engine → Engine) : (d.modEngine c e f).dict = d.dict := rfl
@[simp] theorem Device.modEngine_sec (c e : Nat) (f : Engine → Engine) : (d.modEngine c e f).sec = d.sec := rfl
@[simp] theorem Device.modEngine_rel (c e : Nat) (f : Engine → Engine) : (d.modEngine c e f).rel = d.rel := rfl
@[simp] theorem Device.modEngine_pwr (c e : Nat) (f : Engine → Engine) : (d.modEngine c e f).pwr = d.pwr := rfl
@[simp] theorem Device.modEngine_side (c e : Nat) (f : Engine → Engine) : (d.modEngine c e f).side = d.side := rfl
@[simp] theorem Device.modEngine_tap (c e : Nat) (f : Engine → Engine) : (d.modEngine c e f).tap = d.tap := rfl

/-! ### setCluster changes `clk` only. -/

@[simp] theorem Device.setCluster_free (k : Nat) (x : Cluster) : (d.setCluster k x).free = d.free := rfl
@[simp] theorem Device.setCluster_out (k : Nat) (x : Cluster) : (d.setCluster k x).out = d.out := rfl
@[simp] theorem Device.setCluster_regs (k : Nat) (x : Cluster) : (d.setCluster k x).regs = d.regs := rfl
@[simp] theorem Device.setCluster_ctrs (k : Nat) (x : Cluster) : (d.setCluster k x).ctrs = d.ctrs := rfl
@[simp] theorem Device.setCluster_cim (k : Nat) (x : Cluster) : (d.setCluster k x).cim = d.cim := rfl
@[simp] theorem Device.setCluster_mem (k : Nat) (x : Cluster) : (d.setCluster k x).mem = d.mem := rfl
@[simp] theorem Device.setCluster_attn (k : Nat) (x : Cluster) : (d.setCluster k x).attn = d.attn := rfl
@[simp] theorem Device.setCluster_serv (k : Nat) (x : Cluster) : (d.setCluster k x).serv = d.serv := rfl
@[simp] theorem Device.setCluster_cast (k : Nat) (x : Cluster) : (d.setCluster k x).cast = d.cast := rfl
@[simp] theorem Device.setCluster_fab (k : Nat) (x : Cluster) : (d.setCluster k x).fab = d.fab := rfl
@[simp] theorem Device.setCluster_sync (k : Nat) (x : Cluster) : (d.setCluster k x).sync = d.sync := rfl
@[simp] theorem Device.setCluster_dict (k : Nat) (x : Cluster) : (d.setCluster k x).dict = d.dict := rfl
@[simp] theorem Device.setCluster_sec (k : Nat) (x : Cluster) : (d.setCluster k x).sec = d.sec := rfl
@[simp] theorem Device.setCluster_rel (k : Nat) (x : Cluster) : (d.setCluster k x).rel = d.rel := rfl
@[simp] theorem Device.setCluster_pwr (k : Nat) (x : Cluster) : (d.setCluster k x).pwr = d.pwr := rfl
@[simp] theorem Device.setCluster_side (k : Nat) (x : Cluster) : (d.setCluster k x).side = d.side := rfl
@[simp] theorem Device.setCluster_tap (k : Nat) (x : Cluster) : (d.setCluster k x).tap = d.tap := rfl

/-! ### setHealth changes `rel` only. -/

@[simp] theorem Device.setHealth_clk (i : Nat) (x : Health) : (d.setHealth i x).clk = d.clk := rfl
@[simp] theorem Device.setHealth_free (i : Nat) (x : Health) : (d.setHealth i x).free = d.free := rfl
@[simp] theorem Device.setHealth_out (i : Nat) (x : Health) : (d.setHealth i x).out = d.out := rfl
@[simp] theorem Device.setHealth_regs (i : Nat) (x : Health) : (d.setHealth i x).regs = d.regs := rfl
@[simp] theorem Device.setHealth_ctrs (i : Nat) (x : Health) : (d.setHealth i x).ctrs = d.ctrs := rfl
@[simp] theorem Device.setHealth_cim (i : Nat) (x : Health) : (d.setHealth i x).cim = d.cim := rfl
@[simp] theorem Device.setHealth_mem (i : Nat) (x : Health) : (d.setHealth i x).mem = d.mem := rfl
@[simp] theorem Device.setHealth_attn (i : Nat) (x : Health) : (d.setHealth i x).attn = d.attn := rfl
@[simp] theorem Device.setHealth_serv (i : Nat) (x : Health) : (d.setHealth i x).serv = d.serv := rfl
@[simp] theorem Device.setHealth_cast (i : Nat) (x : Health) : (d.setHealth i x).cast = d.cast := rfl
@[simp] theorem Device.setHealth_fab (i : Nat) (x : Health) : (d.setHealth i x).fab = d.fab := rfl
@[simp] theorem Device.setHealth_sync (i : Nat) (x : Health) : (d.setHealth i x).sync = d.sync := rfl
@[simp] theorem Device.setHealth_dict (i : Nat) (x : Health) : (d.setHealth i x).dict = d.dict := rfl
@[simp] theorem Device.setHealth_sec (i : Nat) (x : Health) : (d.setHealth i x).sec = d.sec := rfl
@[simp] theorem Device.setHealth_pwr (i : Nat) (x : Health) : (d.setHealth i x).pwr = d.pwr := rfl
@[simp] theorem Device.setHealth_side (i : Nat) (x : Health) : (d.setHealth i x).side = d.side := rfl
@[simp] theorem Device.setHealth_tap (i : Nat) (x : Health) : (d.setHealth i x).tap = d.tap := rfl

/-! ### setMem changes `mem` only. -/

@[simp] theorem Device.setMem_clk (m : Mem) : (d.setMem m).clk = d.clk := rfl
@[simp] theorem Device.setMem_free (m : Mem) : (d.setMem m).free = d.free := rfl
@[simp] theorem Device.setMem_out (m : Mem) : (d.setMem m).out = d.out := rfl
@[simp] theorem Device.setMem_regs (m : Mem) : (d.setMem m).regs = d.regs := rfl
@[simp] theorem Device.setMem_ctrs (m : Mem) : (d.setMem m).ctrs = d.ctrs := rfl
@[simp] theorem Device.setMem_cim (m : Mem) : (d.setMem m).cim = d.cim := rfl
@[simp] theorem Device.setMem_attn (m : Mem) : (d.setMem m).attn = d.attn := rfl
@[simp] theorem Device.setMem_serv (m : Mem) : (d.setMem m).serv = d.serv := rfl
@[simp] theorem Device.setMem_cast (m : Mem) : (d.setMem m).cast = d.cast := rfl
@[simp] theorem Device.setMem_fab (m : Mem) : (d.setMem m).fab = d.fab := rfl
@[simp] theorem Device.setMem_sync (m : Mem) : (d.setMem m).sync = d.sync := rfl
@[simp] theorem Device.setMem_dict (m : Mem) : (d.setMem m).dict = d.dict := rfl
@[simp] theorem Device.setMem_sec (m : Mem) : (d.setMem m).sec = d.sec := rfl
@[simp] theorem Device.setMem_rel (m : Mem) : (d.setMem m).rel = d.rel := rfl
@[simp] theorem Device.setMem_pwr (m : Mem) : (d.setMem m).pwr = d.pwr := rfl
@[simp] theorem Device.setMem_side (m : Mem) : (d.setMem m).side = d.side := rfl
@[simp] theorem Device.setMem_tap (m : Mem) : (d.setMem m).tap = d.tap := rfl

/-! ### setScrub changes `mem` only. -/

@[simp] theorem Device.setScrub_clk (u : Nat) (q : List (Nat × Bool)) : (d.setScrub u q).clk = d.clk := rfl
@[simp] theorem Device.setScrub_free (u : Nat) (q : List (Nat × Bool)) : (d.setScrub u q).free = d.free := rfl
@[simp] theorem Device.setScrub_out (u : Nat) (q : List (Nat × Bool)) : (d.setScrub u q).out = d.out := rfl
@[simp] theorem Device.setScrub_regs (u : Nat) (q : List (Nat × Bool)) : (d.setScrub u q).regs = d.regs := rfl
@[simp] theorem Device.setScrub_ctrs (u : Nat) (q : List (Nat × Bool)) : (d.setScrub u q).ctrs = d.ctrs := rfl
@[simp] theorem Device.setScrub_cim (u : Nat) (q : List (Nat × Bool)) : (d.setScrub u q).cim = d.cim := rfl
@[simp] theorem Device.setScrub_attn (u : Nat) (q : List (Nat × Bool)) : (d.setScrub u q).attn = d.attn := rfl
@[simp] theorem Device.setScrub_serv (u : Nat) (q : List (Nat × Bool)) : (d.setScrub u q).serv = d.serv := rfl
@[simp] theorem Device.setScrub_cast (u : Nat) (q : List (Nat × Bool)) : (d.setScrub u q).cast = d.cast := rfl
@[simp] theorem Device.setScrub_fab (u : Nat) (q : List (Nat × Bool)) : (d.setScrub u q).fab = d.fab := rfl
@[simp] theorem Device.setScrub_sync (u : Nat) (q : List (Nat × Bool)) : (d.setScrub u q).sync = d.sync := rfl
@[simp] theorem Device.setScrub_dict (u : Nat) (q : List (Nat × Bool)) : (d.setScrub u q).dict = d.dict := rfl
@[simp] theorem Device.setScrub_sec (u : Nat) (q : List (Nat × Bool)) : (d.setScrub u q).sec = d.sec := rfl
@[simp] theorem Device.setScrub_rel (u : Nat) (q : List (Nat × Bool)) : (d.setScrub u q).rel = d.rel := rfl
@[simp] theorem Device.setScrub_pwr (u : Nat) (q : List (Nat × Bool)) : (d.setScrub u q).pwr = d.pwr := rfl
@[simp] theorem Device.setScrub_side (u : Nat) (q : List (Nat × Bool)) : (d.setScrub u q).side = d.side := rfl
@[simp] theorem Device.setScrub_tap (u : Nat) (q : List (Nat × Bool)) : (d.setScrub u q).tap = d.tap := rfl

/-! ### putHandle changes `mem` only. -/

@[simp] theorem Device.putHandle_clk (h : Nat) (x : Handle) : (d.putHandle h x).clk = d.clk := rfl
@[simp] theorem Device.putHandle_free (h : Nat) (x : Handle) : (d.putHandle h x).free = d.free := rfl
@[simp] theorem Device.putHandle_out (h : Nat) (x : Handle) : (d.putHandle h x).out = d.out := rfl
@[simp] theorem Device.putHandle_regs (h : Nat) (x : Handle) : (d.putHandle h x).regs = d.regs := rfl
@[simp] theorem Device.putHandle_ctrs (h : Nat) (x : Handle) : (d.putHandle h x).ctrs = d.ctrs := rfl
@[simp] theorem Device.putHandle_cim (h : Nat) (x : Handle) : (d.putHandle h x).cim = d.cim := rfl
@[simp] theorem Device.putHandle_attn (h : Nat) (x : Handle) : (d.putHandle h x).attn = d.attn := rfl
@[simp] theorem Device.putHandle_serv (h : Nat) (x : Handle) : (d.putHandle h x).serv = d.serv := rfl
@[simp] theorem Device.putHandle_cast (h : Nat) (x : Handle) : (d.putHandle h x).cast = d.cast := rfl
@[simp] theorem Device.putHandle_fab (h : Nat) (x : Handle) : (d.putHandle h x).fab = d.fab := rfl
@[simp] theorem Device.putHandle_sync (h : Nat) (x : Handle) : (d.putHandle h x).sync = d.sync := rfl
@[simp] theorem Device.putHandle_dict (h : Nat) (x : Handle) : (d.putHandle h x).dict = d.dict := rfl
@[simp] theorem Device.putHandle_sec (h : Nat) (x : Handle) : (d.putHandle h x).sec = d.sec := rfl
@[simp] theorem Device.putHandle_rel (h : Nat) (x : Handle) : (d.putHandle h x).rel = d.rel := rfl
@[simp] theorem Device.putHandle_pwr (h : Nat) (x : Handle) : (d.putHandle h x).pwr = d.pwr := rfl
@[simp] theorem Device.putHandle_side (h : Nat) (x : Handle) : (d.putHandle h x).side = d.side := rfl
@[simp] theorem Device.putHandle_tap (h : Nat) (x : Handle) : (d.putHandle h x).tap = d.tap := rfl

/-! ### setInst changes `cast` only. -/

@[simp] theorem Device.setInst_clk (i : Nat) (x : Inst) : (d.setInst i x).clk = d.clk := rfl
@[simp] theorem Device.setInst_free (i : Nat) (x : Inst) : (d.setInst i x).free = d.free := rfl
@[simp] theorem Device.setInst_out (i : Nat) (x : Inst) : (d.setInst i x).out = d.out := rfl
@[simp] theorem Device.setInst_regs (i : Nat) (x : Inst) : (d.setInst i x).regs = d.regs := rfl
@[simp] theorem Device.setInst_ctrs (i : Nat) (x : Inst) : (d.setInst i x).ctrs = d.ctrs := rfl
@[simp] theorem Device.setInst_cim (i : Nat) (x : Inst) : (d.setInst i x).cim = d.cim := rfl
@[simp] theorem Device.setInst_mem (i : Nat) (x : Inst) : (d.setInst i x).mem = d.mem := rfl
@[simp] theorem Device.setInst_attn (i : Nat) (x : Inst) : (d.setInst i x).attn = d.attn := rfl
@[simp] theorem Device.setInst_serv (i : Nat) (x : Inst) : (d.setInst i x).serv = d.serv := rfl
@[simp] theorem Device.setInst_fab (i : Nat) (x : Inst) : (d.setInst i x).fab = d.fab := rfl
@[simp] theorem Device.setInst_sync (i : Nat) (x : Inst) : (d.setInst i x).sync = d.sync := rfl
@[simp] theorem Device.setInst_dict (i : Nat) (x : Inst) : (d.setInst i x).dict = d.dict := rfl
@[simp] theorem Device.setInst_sec (i : Nat) (x : Inst) : (d.setInst i x).sec = d.sec := rfl
@[simp] theorem Device.setInst_rel (i : Nat) (x : Inst) : (d.setInst i x).rel = d.rel := rfl
@[simp] theorem Device.setInst_pwr (i : Nat) (x : Inst) : (d.setInst i x).pwr = d.pwr := rfl
@[simp] theorem Device.setInst_side (i : Nat) (x : Inst) : (d.setInst i x).side = d.side := rfl
@[simp] theorem Device.setInst_tap (i : Nat) (x : Inst) : (d.setInst i x).tap = d.tap := rfl

/-! ### setLayerRec changes `cast` only. -/

@[simp] theorem Device.setLayerRec_clk (i l : Nat) (x : LayerRec) : (d.setLayerRec i l x).clk = d.clk := rfl
@[simp] theorem Device.setLayerRec_free (i l : Nat) (x : LayerRec) : (d.setLayerRec i l x).free = d.free := rfl
@[simp] theorem Device.setLayerRec_out (i l : Nat) (x : LayerRec) : (d.setLayerRec i l x).out = d.out := rfl
@[simp] theorem Device.setLayerRec_regs (i l : Nat) (x : LayerRec) : (d.setLayerRec i l x).regs = d.regs := rfl
@[simp] theorem Device.setLayerRec_ctrs (i l : Nat) (x : LayerRec) : (d.setLayerRec i l x).ctrs = d.ctrs := rfl
@[simp] theorem Device.setLayerRec_cim (i l : Nat) (x : LayerRec) : (d.setLayerRec i l x).cim = d.cim := rfl
@[simp] theorem Device.setLayerRec_mem (i l : Nat) (x : LayerRec) : (d.setLayerRec i l x).mem = d.mem := rfl
@[simp] theorem Device.setLayerRec_attn (i l : Nat) (x : LayerRec) : (d.setLayerRec i l x).attn = d.attn := rfl
@[simp] theorem Device.setLayerRec_serv (i l : Nat) (x : LayerRec) : (d.setLayerRec i l x).serv = d.serv := rfl
@[simp] theorem Device.setLayerRec_fab (i l : Nat) (x : LayerRec) : (d.setLayerRec i l x).fab = d.fab := rfl
@[simp] theorem Device.setLayerRec_sync (i l : Nat) (x : LayerRec) : (d.setLayerRec i l x).sync = d.sync := rfl
@[simp] theorem Device.setLayerRec_dict (i l : Nat) (x : LayerRec) : (d.setLayerRec i l x).dict = d.dict := rfl
@[simp] theorem Device.setLayerRec_sec (i l : Nat) (x : LayerRec) : (d.setLayerRec i l x).sec = d.sec := rfl
@[simp] theorem Device.setLayerRec_rel (i l : Nat) (x : LayerRec) : (d.setLayerRec i l x).rel = d.rel := rfl
@[simp] theorem Device.setLayerRec_pwr (i l : Nat) (x : LayerRec) : (d.setLayerRec i l x).pwr = d.pwr := rfl
@[simp] theorem Device.setLayerRec_side (i l : Nat) (x : LayerRec) : (d.setLayerRec i l x).side = d.side := rfl
@[simp] theorem Device.setLayerRec_tap (i l : Nat) (x : LayerRec) : (d.setLayerRec i l x).tap = d.tap := rfl

/-! ### setReq changes `serv` only. -/

@[simp] theorem Device.setReq_clk (i : Nat) (x : ReqEnt) : (d.setReq i x).clk = d.clk := rfl
@[simp] theorem Device.setReq_free (i : Nat) (x : ReqEnt) : (d.setReq i x).free = d.free := rfl
@[simp] theorem Device.setReq_out (i : Nat) (x : ReqEnt) : (d.setReq i x).out = d.out := rfl
@[simp] theorem Device.setReq_regs (i : Nat) (x : ReqEnt) : (d.setReq i x).regs = d.regs := rfl
@[simp] theorem Device.setReq_ctrs (i : Nat) (x : ReqEnt) : (d.setReq i x).ctrs = d.ctrs := rfl
@[simp] theorem Device.setReq_cim (i : Nat) (x : ReqEnt) : (d.setReq i x).cim = d.cim := rfl
@[simp] theorem Device.setReq_mem (i : Nat) (x : ReqEnt) : (d.setReq i x).mem = d.mem := rfl
@[simp] theorem Device.setReq_attn (i : Nat) (x : ReqEnt) : (d.setReq i x).attn = d.attn := rfl
@[simp] theorem Device.setReq_cast (i : Nat) (x : ReqEnt) : (d.setReq i x).cast = d.cast := rfl
@[simp] theorem Device.setReq_fab (i : Nat) (x : ReqEnt) : (d.setReq i x).fab = d.fab := rfl
@[simp] theorem Device.setReq_sync (i : Nat) (x : ReqEnt) : (d.setReq i x).sync = d.sync := rfl
@[simp] theorem Device.setReq_dict (i : Nat) (x : ReqEnt) : (d.setReq i x).dict = d.dict := rfl
@[simp] theorem Device.setReq_sec (i : Nat) (x : ReqEnt) : (d.setReq i x).sec = d.sec := rfl
@[simp] theorem Device.setReq_rel (i : Nat) (x : ReqEnt) : (d.setReq i x).rel = d.rel := rfl
@[simp] theorem Device.setReq_pwr (i : Nat) (x : ReqEnt) : (d.setReq i x).pwr = d.pwr := rfl
@[simp] theorem Device.setReq_side (i : Nat) (x : ReqEnt) : (d.setReq i x).side = d.side := rfl
@[simp] theorem Device.setReq_tap (i : Nat) (x : ReqEnt) : (d.setReq i x).tap = d.tap := rfl

/-! ### setAux changes `serv` only. -/

@[simp] theorem Device.setAux_clk (i : Nat) (x : ReqAux) : (d.setAux i x).clk = d.clk := rfl
@[simp] theorem Device.setAux_free (i : Nat) (x : ReqAux) : (d.setAux i x).free = d.free := rfl
@[simp] theorem Device.setAux_out (i : Nat) (x : ReqAux) : (d.setAux i x).out = d.out := rfl
@[simp] theorem Device.setAux_regs (i : Nat) (x : ReqAux) : (d.setAux i x).regs = d.regs := rfl
@[simp] theorem Device.setAux_ctrs (i : Nat) (x : ReqAux) : (d.setAux i x).ctrs = d.ctrs := rfl
@[simp] theorem Device.setAux_cim (i : Nat) (x : ReqAux) : (d.setAux i x).cim = d.cim := rfl
@[simp] theorem Device.setAux_mem (i : Nat) (x : ReqAux) : (d.setAux i x).mem = d.mem := rfl
@[simp] theorem Device.setAux_attn (i : Nat) (x : ReqAux) : (d.setAux i x).attn = d.attn := rfl
@[simp] theorem Device.setAux_cast (i : Nat) (x : ReqAux) : (d.setAux i x).cast = d.cast := rfl
@[simp] theorem Device.setAux_fab (i : Nat) (x : ReqAux) : (d.setAux i x).fab = d.fab := rfl
@[simp] theorem Device.setAux_sync (i : Nat) (x : ReqAux) : (d.setAux i x).sync = d.sync := rfl
@[simp] theorem Device.setAux_dict (i : Nat) (x : ReqAux) : (d.setAux i x).dict = d.dict := rfl
@[simp] theorem Device.setAux_sec (i : Nat) (x : ReqAux) : (d.setAux i x).sec = d.sec := rfl
@[simp] theorem Device.setAux_rel (i : Nat) (x : ReqAux) : (d.setAux i x).rel = d.rel := rfl
@[simp] theorem Device.setAux_pwr (i : Nat) (x : ReqAux) : (d.setAux i x).pwr = d.pwr := rfl
@[simp] theorem Device.setAux_side (i : Nat) (x : ReqAux) : (d.setAux i x).side = d.side := rfl
@[simp] theorem Device.setAux_tap (i : Nat) (x : ReqAux) : (d.setAux i x).tap = d.tap := rfl

/-! ### putSlot changes `dict` only. -/

@[simp] theorem Device.putSlot_clk (i : Nat) (x : KeySlot) : (d.putSlot i x).clk = d.clk := rfl
@[simp] theorem Device.putSlot_free (i : Nat) (x : KeySlot) : (d.putSlot i x).free = d.free := rfl
@[simp] theorem Device.putSlot_out (i : Nat) (x : KeySlot) : (d.putSlot i x).out = d.out := rfl
@[simp] theorem Device.putSlot_regs (i : Nat) (x : KeySlot) : (d.putSlot i x).regs = d.regs := rfl
@[simp] theorem Device.putSlot_ctrs (i : Nat) (x : KeySlot) : (d.putSlot i x).ctrs = d.ctrs := rfl
@[simp] theorem Device.putSlot_cim (i : Nat) (x : KeySlot) : (d.putSlot i x).cim = d.cim := rfl
@[simp] theorem Device.putSlot_mem (i : Nat) (x : KeySlot) : (d.putSlot i x).mem = d.mem := rfl
@[simp] theorem Device.putSlot_attn (i : Nat) (x : KeySlot) : (d.putSlot i x).attn = d.attn := rfl
@[simp] theorem Device.putSlot_serv (i : Nat) (x : KeySlot) : (d.putSlot i x).serv = d.serv := rfl
@[simp] theorem Device.putSlot_cast (i : Nat) (x : KeySlot) : (d.putSlot i x).cast = d.cast := rfl
@[simp] theorem Device.putSlot_fab (i : Nat) (x : KeySlot) : (d.putSlot i x).fab = d.fab := rfl
@[simp] theorem Device.putSlot_sync (i : Nat) (x : KeySlot) : (d.putSlot i x).sync = d.sync := rfl
@[simp] theorem Device.putSlot_sec (i : Nat) (x : KeySlot) : (d.putSlot i x).sec = d.sec := rfl
@[simp] theorem Device.putSlot_rel (i : Nat) (x : KeySlot) : (d.putSlot i x).rel = d.rel := rfl
@[simp] theorem Device.putSlot_pwr (i : Nat) (x : KeySlot) : (d.putSlot i x).pwr = d.pwr := rfl
@[simp] theorem Device.putSlot_side (i : Nat) (x : KeySlot) : (d.putSlot i x).side = d.side := rfl
@[simp] theorem Device.putSlot_tap (i : Nat) (x : KeySlot) : (d.putSlot i x).tap = d.tap := rfl

/-! ### dropTransfer changes `dict` only. -/

@[simp] theorem Device.dropTransfer_clk (t : Nat) (a : Coord) (g : BitVec 16) : (d.dropTransfer t a g).clk = d.clk := rfl
@[simp] theorem Device.dropTransfer_free (t : Nat) (a : Coord) (g : BitVec 16) : (d.dropTransfer t a g).free = d.free := rfl
@[simp] theorem Device.dropTransfer_out (t : Nat) (a : Coord) (g : BitVec 16) : (d.dropTransfer t a g).out = d.out := rfl
@[simp] theorem Device.dropTransfer_regs (t : Nat) (a : Coord) (g : BitVec 16) : (d.dropTransfer t a g).regs = d.regs := rfl
@[simp] theorem Device.dropTransfer_ctrs (t : Nat) (a : Coord) (g : BitVec 16) : (d.dropTransfer t a g).ctrs = d.ctrs := rfl
@[simp] theorem Device.dropTransfer_cim (t : Nat) (a : Coord) (g : BitVec 16) : (d.dropTransfer t a g).cim = d.cim := rfl
@[simp] theorem Device.dropTransfer_mem (t : Nat) (a : Coord) (g : BitVec 16) : (d.dropTransfer t a g).mem = d.mem := rfl
@[simp] theorem Device.dropTransfer_attn (t : Nat) (a : Coord) (g : BitVec 16) : (d.dropTransfer t a g).attn = d.attn := rfl
@[simp] theorem Device.dropTransfer_serv (t : Nat) (a : Coord) (g : BitVec 16) : (d.dropTransfer t a g).serv = d.serv := rfl
@[simp] theorem Device.dropTransfer_cast (t : Nat) (a : Coord) (g : BitVec 16) : (d.dropTransfer t a g).cast = d.cast := rfl
@[simp] theorem Device.dropTransfer_fab (t : Nat) (a : Coord) (g : BitVec 16) : (d.dropTransfer t a g).fab = d.fab := rfl
@[simp] theorem Device.dropTransfer_sync (t : Nat) (a : Coord) (g : BitVec 16) : (d.dropTransfer t a g).sync = d.sync := rfl
@[simp] theorem Device.dropTransfer_sec (t : Nat) (a : Coord) (g : BitVec 16) : (d.dropTransfer t a g).sec = d.sec := rfl
@[simp] theorem Device.dropTransfer_rel (t : Nat) (a : Coord) (g : BitVec 16) : (d.dropTransfer t a g).rel = d.rel := rfl
@[simp] theorem Device.dropTransfer_pwr (t : Nat) (a : Coord) (g : BitVec 16) : (d.dropTransfer t a g).pwr = d.pwr := rfl
@[simp] theorem Device.dropTransfer_side (t : Nat) (a : Coord) (g : BitVec 16) : (d.dropTransfer t a g).side = d.side := rfl
@[simp] theorem Device.dropTransfer_tap (t : Nat) (a : Coord) (g : BitVec 16) : (d.dropTransfer t a g).tap = d.tap := rfl

/-! ### putTransfer changes `dict` only. -/

@[simp] theorem Device.putTransfer_clk (t : Transfer) : (d.putTransfer t).clk = d.clk := rfl
@[simp] theorem Device.putTransfer_free (t : Transfer) : (d.putTransfer t).free = d.free := rfl
@[simp] theorem Device.putTransfer_out (t : Transfer) : (d.putTransfer t).out = d.out := rfl
@[simp] theorem Device.putTransfer_regs (t : Transfer) : (d.putTransfer t).regs = d.regs := rfl
@[simp] theorem Device.putTransfer_ctrs (t : Transfer) : (d.putTransfer t).ctrs = d.ctrs := rfl
@[simp] theorem Device.putTransfer_cim (t : Transfer) : (d.putTransfer t).cim = d.cim := rfl
@[simp] theorem Device.putTransfer_mem (t : Transfer) : (d.putTransfer t).mem = d.mem := rfl
@[simp] theorem Device.putTransfer_attn (t : Transfer) : (d.putTransfer t).attn = d.attn := rfl
@[simp] theorem Device.putTransfer_serv (t : Transfer) : (d.putTransfer t).serv = d.serv := rfl
@[simp] theorem Device.putTransfer_cast (t : Transfer) : (d.putTransfer t).cast = d.cast := rfl
@[simp] theorem Device.putTransfer_fab (t : Transfer) : (d.putTransfer t).fab = d.fab := rfl
@[simp] theorem Device.putTransfer_sync (t : Transfer) : (d.putTransfer t).sync = d.sync := rfl
@[simp] theorem Device.putTransfer_sec (t : Transfer) : (d.putTransfer t).sec = d.sec := rfl
@[simp] theorem Device.putTransfer_rel (t : Transfer) : (d.putTransfer t).rel = d.rel := rfl
@[simp] theorem Device.putTransfer_pwr (t : Transfer) : (d.putTransfer t).pwr = d.pwr := rfl
@[simp] theorem Device.putTransfer_side (t : Transfer) : (d.putTransfer t).side = d.side := rfl
@[simp] theorem Device.putTransfer_tap (t : Transfer) : (d.putTransfer t).tap = d.tap := rfl

/-! ### setAdapter changes `cast` only. -/

@[simp] theorem Device.setAdapter_clk (n : Nat) (x : Adapter) : (d.setAdapter n x).clk = d.clk := rfl
@[simp] theorem Device.setAdapter_free (n : Nat) (x : Adapter) : (d.setAdapter n x).free = d.free := rfl
@[simp] theorem Device.setAdapter_out (n : Nat) (x : Adapter) : (d.setAdapter n x).out = d.out := rfl
@[simp] theorem Device.setAdapter_regs (n : Nat) (x : Adapter) : (d.setAdapter n x).regs = d.regs := rfl
@[simp] theorem Device.setAdapter_ctrs (n : Nat) (x : Adapter) : (d.setAdapter n x).ctrs = d.ctrs := rfl
@[simp] theorem Device.setAdapter_cim (n : Nat) (x : Adapter) : (d.setAdapter n x).cim = d.cim := rfl
@[simp] theorem Device.setAdapter_mem (n : Nat) (x : Adapter) : (d.setAdapter n x).mem = d.mem := rfl
@[simp] theorem Device.setAdapter_attn (n : Nat) (x : Adapter) : (d.setAdapter n x).attn = d.attn := rfl
@[simp] theorem Device.setAdapter_serv (n : Nat) (x : Adapter) : (d.setAdapter n x).serv = d.serv := rfl
@[simp] theorem Device.setAdapter_fab (n : Nat) (x : Adapter) : (d.setAdapter n x).fab = d.fab := rfl
@[simp] theorem Device.setAdapter_sync (n : Nat) (x : Adapter) : (d.setAdapter n x).sync = d.sync := rfl
@[simp] theorem Device.setAdapter_dict (n : Nat) (x : Adapter) : (d.setAdapter n x).dict = d.dict := rfl
@[simp] theorem Device.setAdapter_sec (n : Nat) (x : Adapter) : (d.setAdapter n x).sec = d.sec := rfl
@[simp] theorem Device.setAdapter_rel (n : Nat) (x : Adapter) : (d.setAdapter n x).rel = d.rel := rfl
@[simp] theorem Device.setAdapter_pwr (n : Nat) (x : Adapter) : (d.setAdapter n x).pwr = d.pwr := rfl
@[simp] theorem Device.setAdapter_side (n : Nat) (x : Adapter) : (d.setAdapter n x).side = d.side := rfl
@[simp] theorem Device.setAdapter_tap (n : Nat) (x : Adapter) : (d.setAdapter n x).tap = d.tap := rfl

/-! ### putRegionRec changes `cast` only. -/

@[simp] theorem Device.putRegionRec_clk (h : Nat) (x : Region) : (d.putRegionRec h x).clk = d.clk := rfl
@[simp] theorem Device.putRegionRec_free (h : Nat) (x : Region) : (d.putRegionRec h x).free = d.free := rfl
@[simp] theorem Device.putRegionRec_out (h : Nat) (x : Region) : (d.putRegionRec h x).out = d.out := rfl
@[simp] theorem Device.putRegionRec_regs (h : Nat) (x : Region) : (d.putRegionRec h x).regs = d.regs := rfl
@[simp] theorem Device.putRegionRec_ctrs (h : Nat) (x : Region) : (d.putRegionRec h x).ctrs = d.ctrs := rfl
@[simp] theorem Device.putRegionRec_cim (h : Nat) (x : Region) : (d.putRegionRec h x).cim = d.cim := rfl
@[simp] theorem Device.putRegionRec_mem (h : Nat) (x : Region) : (d.putRegionRec h x).mem = d.mem := rfl
@[simp] theorem Device.putRegionRec_attn (h : Nat) (x : Region) : (d.putRegionRec h x).attn = d.attn := rfl
@[simp] theorem Device.putRegionRec_serv (h : Nat) (x : Region) : (d.putRegionRec h x).serv = d.serv := rfl
@[simp] theorem Device.putRegionRec_fab (h : Nat) (x : Region) : (d.putRegionRec h x).fab = d.fab := rfl
@[simp] theorem Device.putRegionRec_sync (h : Nat) (x : Region) : (d.putRegionRec h x).sync = d.sync := rfl
@[simp] theorem Device.putRegionRec_dict (h : Nat) (x : Region) : (d.putRegionRec h x).dict = d.dict := rfl
@[simp] theorem Device.putRegionRec_sec (h : Nat) (x : Region) : (d.putRegionRec h x).sec = d.sec := rfl
@[simp] theorem Device.putRegionRec_rel (h : Nat) (x : Region) : (d.putRegionRec h x).rel = d.rel := rfl
@[simp] theorem Device.putRegionRec_pwr (h : Nat) (x : Region) : (d.putRegionRec h x).pwr = d.pwr := rfl
@[simp] theorem Device.putRegionRec_side (h : Nat) (x : Region) : (d.putRegionRec h x).side = d.side := rfl
@[simp] theorem Device.putRegionRec_tap (h : Nat) (x : Region) : (d.putRegionRec h x).tap = d.tap := rfl

/-! ### setClk changes `clk` only. -/

@[simp] theorem Device.setClk_free (x : ClkS) : (d.setClk x).free = d.free := rfl
@[simp] theorem Device.setClk_out (x : ClkS) : (d.setClk x).out = d.out := rfl
@[simp] theorem Device.setClk_regs (x : ClkS) : (d.setClk x).regs = d.regs := rfl
@[simp] theorem Device.setClk_ctrs (x : ClkS) : (d.setClk x).ctrs = d.ctrs := rfl
@[simp] theorem Device.setClk_cim (x : ClkS) : (d.setClk x).cim = d.cim := rfl
@[simp] theorem Device.setClk_mem (x : ClkS) : (d.setClk x).mem = d.mem := rfl
@[simp] theorem Device.setClk_attn (x : ClkS) : (d.setClk x).attn = d.attn := rfl
@[simp] theorem Device.setClk_serv (x : ClkS) : (d.setClk x).serv = d.serv := rfl
@[simp] theorem Device.setClk_cast (x : ClkS) : (d.setClk x).cast = d.cast := rfl
@[simp] theorem Device.setClk_fab (x : ClkS) : (d.setClk x).fab = d.fab := rfl
@[simp] theorem Device.setClk_sync (x : ClkS) : (d.setClk x).sync = d.sync := rfl
@[simp] theorem Device.setClk_dict (x : ClkS) : (d.setClk x).dict = d.dict := rfl
@[simp] theorem Device.setClk_sec (x : ClkS) : (d.setClk x).sec = d.sec := rfl
@[simp] theorem Device.setClk_rel (x : ClkS) : (d.setClk x).rel = d.rel := rfl
@[simp] theorem Device.setClk_pwr (x : ClkS) : (d.setClk x).pwr = d.pwr := rfl
@[simp] theorem Device.setClk_side (x : ClkS) : (d.setClk x).side = d.side := rfl
@[simp] theorem Device.setClk_tap (x : ClkS) : (d.setClk x).tap = d.tap := rfl

/-! ### setDetours changes `mem` only. -/

@[simp] theorem Device.setDetours_clk (t : Tbl (List Nat)) : (d.setDetours t).clk = d.clk := rfl
@[simp] theorem Device.setDetours_free (t : Tbl (List Nat)) : (d.setDetours t).free = d.free := rfl
@[simp] theorem Device.setDetours_out (t : Tbl (List Nat)) : (d.setDetours t).out = d.out := rfl
@[simp] theorem Device.setDetours_regs (t : Tbl (List Nat)) : (d.setDetours t).regs = d.regs := rfl
@[simp] theorem Device.setDetours_ctrs (t : Tbl (List Nat)) : (d.setDetours t).ctrs = d.ctrs := rfl
@[simp] theorem Device.setDetours_cim (t : Tbl (List Nat)) : (d.setDetours t).cim = d.cim := rfl
@[simp] theorem Device.setDetours_attn (t : Tbl (List Nat)) : (d.setDetours t).attn = d.attn := rfl
@[simp] theorem Device.setDetours_serv (t : Tbl (List Nat)) : (d.setDetours t).serv = d.serv := rfl
@[simp] theorem Device.setDetours_cast (t : Tbl (List Nat)) : (d.setDetours t).cast = d.cast := rfl
@[simp] theorem Device.setDetours_fab (t : Tbl (List Nat)) : (d.setDetours t).fab = d.fab := rfl
@[simp] theorem Device.setDetours_sync (t : Tbl (List Nat)) : (d.setDetours t).sync = d.sync := rfl
@[simp] theorem Device.setDetours_dict (t : Tbl (List Nat)) : (d.setDetours t).dict = d.dict := rfl
@[simp] theorem Device.setDetours_sec (t : Tbl (List Nat)) : (d.setDetours t).sec = d.sec := rfl
@[simp] theorem Device.setDetours_rel (t : Tbl (List Nat)) : (d.setDetours t).rel = d.rel := rfl
@[simp] theorem Device.setDetours_pwr (t : Tbl (List Nat)) : (d.setDetours t).pwr = d.pwr := rfl
@[simp] theorem Device.setDetours_side (t : Tbl (List Nat)) : (d.setDetours t).side = d.side := rfl
@[simp] theorem Device.setDetours_tap (t : Tbl (List Nat)) : (d.setDetours t).tap = d.tap := rfl

/-! ### setPort changes `fab` only. -/

@[simp] theorem Device.setPort_clk (p : Nat) (x : Port) : (d.setPort p x).clk = d.clk := rfl
@[simp] theorem Device.setPort_free (p : Nat) (x : Port) : (d.setPort p x).free = d.free := rfl
@[simp] theorem Device.setPort_out (p : Nat) (x : Port) : (d.setPort p x).out = d.out := rfl
@[simp] theorem Device.setPort_regs (p : Nat) (x : Port) : (d.setPort p x).regs = d.regs := rfl
@[simp] theorem Device.setPort_ctrs (p : Nat) (x : Port) : (d.setPort p x).ctrs = d.ctrs := rfl
@[simp] theorem Device.setPort_cim (p : Nat) (x : Port) : (d.setPort p x).cim = d.cim := rfl
@[simp] theorem Device.setPort_mem (p : Nat) (x : Port) : (d.setPort p x).mem = d.mem := rfl
@[simp] theorem Device.setPort_attn (p : Nat) (x : Port) : (d.setPort p x).attn = d.attn := rfl
@[simp] theorem Device.setPort_serv (p : Nat) (x : Port) : (d.setPort p x).serv = d.serv := rfl
@[simp] theorem Device.setPort_cast (p : Nat) (x : Port) : (d.setPort p x).cast = d.cast := rfl
@[simp] theorem Device.setPort_sync (p : Nat) (x : Port) : (d.setPort p x).sync = d.sync := rfl
@[simp] theorem Device.setPort_dict (p : Nat) (x : Port) : (d.setPort p x).dict = d.dict := rfl
@[simp] theorem Device.setPort_sec (p : Nat) (x : Port) : (d.setPort p x).sec = d.sec := rfl
@[simp] theorem Device.setPort_rel (p : Nat) (x : Port) : (d.setPort p x).rel = d.rel := rfl
@[simp] theorem Device.setPort_pwr (p : Nat) (x : Port) : (d.setPort p x).pwr = d.pwr := rfl
@[simp] theorem Device.setPort_side (p : Nat) (x : Port) : (d.setPort p x).side = d.side := rfl
@[simp] theorem Device.setPort_tap (p : Nat) (x : Port) : (d.setPort p x).tap = d.tap := rfl

/-! ### setAttnS changes `attn` only. -/

@[simp] theorem Device.setAttnS_clk (x : AttnS) : (d.setAttnS x).clk = d.clk := rfl
@[simp] theorem Device.setAttnS_free (x : AttnS) : (d.setAttnS x).free = d.free := rfl
@[simp] theorem Device.setAttnS_out (x : AttnS) : (d.setAttnS x).out = d.out := rfl
@[simp] theorem Device.setAttnS_regs (x : AttnS) : (d.setAttnS x).regs = d.regs := rfl
@[simp] theorem Device.setAttnS_ctrs (x : AttnS) : (d.setAttnS x).ctrs = d.ctrs := rfl
@[simp] theorem Device.setAttnS_cim (x : AttnS) : (d.setAttnS x).cim = d.cim := rfl
@[simp] theorem Device.setAttnS_mem (x : AttnS) : (d.setAttnS x).mem = d.mem := rfl
@[simp] theorem Device.setAttnS_serv (x : AttnS) : (d.setAttnS x).serv = d.serv := rfl
@[simp] theorem Device.setAttnS_cast (x : AttnS) : (d.setAttnS x).cast = d.cast := rfl
@[simp] theorem Device.setAttnS_fab (x : AttnS) : (d.setAttnS x).fab = d.fab := rfl
@[simp] theorem Device.setAttnS_sync (x : AttnS) : (d.setAttnS x).sync = d.sync := rfl
@[simp] theorem Device.setAttnS_dict (x : AttnS) : (d.setAttnS x).dict = d.dict := rfl
@[simp] theorem Device.setAttnS_sec (x : AttnS) : (d.setAttnS x).sec = d.sec := rfl
@[simp] theorem Device.setAttnS_rel (x : AttnS) : (d.setAttnS x).rel = d.rel := rfl
@[simp] theorem Device.setAttnS_pwr (x : AttnS) : (d.setAttnS x).pwr = d.pwr := rfl
@[simp] theorem Device.setAttnS_side (x : AttnS) : (d.setAttnS x).side = d.side := rfl
@[simp] theorem Device.setAttnS_tap (x : AttnS) : (d.setAttnS x).tap = d.tap := rfl

/-! ### setAttn changes `attn` only. -/

@[simp] theorem Device.setAttn_clk (k : Nat) (x : Attn) : (d.setAttn k x).clk = d.clk := rfl
@[simp] theorem Device.setAttn_free (k : Nat) (x : Attn) : (d.setAttn k x).free = d.free := rfl
@[simp] theorem Device.setAttn_out (k : Nat) (x : Attn) : (d.setAttn k x).out = d.out := rfl
@[simp] theorem Device.setAttn_regs (k : Nat) (x : Attn) : (d.setAttn k x).regs = d.regs := rfl
@[simp] theorem Device.setAttn_ctrs (k : Nat) (x : Attn) : (d.setAttn k x).ctrs = d.ctrs := rfl
@[simp] theorem Device.setAttn_cim (k : Nat) (x : Attn) : (d.setAttn k x).cim = d.cim := rfl
@[simp] theorem Device.setAttn_mem (k : Nat) (x : Attn) : (d.setAttn k x).mem = d.mem := rfl
@[simp] theorem Device.setAttn_serv (k : Nat) (x : Attn) : (d.setAttn k x).serv = d.serv := rfl
@[simp] theorem Device.setAttn_cast (k : Nat) (x : Attn) : (d.setAttn k x).cast = d.cast := rfl
@[simp] theorem Device.setAttn_fab (k : Nat) (x : Attn) : (d.setAttn k x).fab = d.fab := rfl
@[simp] theorem Device.setAttn_sync (k : Nat) (x : Attn) : (d.setAttn k x).sync = d.sync := rfl
@[simp] theorem Device.setAttn_dict (k : Nat) (x : Attn) : (d.setAttn k x).dict = d.dict := rfl
@[simp] theorem Device.setAttn_sec (k : Nat) (x : Attn) : (d.setAttn k x).sec = d.sec := rfl
@[simp] theorem Device.setAttn_rel (k : Nat) (x : Attn) : (d.setAttn k x).rel = d.rel := rfl
@[simp] theorem Device.setAttn_pwr (k : Nat) (x : Attn) : (d.setAttn k x).pwr = d.pwr := rfl
@[simp] theorem Device.setAttn_side (k : Nat) (x : Attn) : (d.setAttn k x).side = d.side := rfl
@[simp] theorem Device.setAttn_tap (k : Nat) (x : Attn) : (d.setAttn k x).tap = d.tap := rfl

/-! ### setWindows changes `mem` only. -/

@[simp] theorem Device.setWindows_clk (w : List Window) : (d.setWindows w).clk = d.clk := rfl
@[simp] theorem Device.setWindows_free (w : List Window) : (d.setWindows w).free = d.free := rfl
@[simp] theorem Device.setWindows_out (w : List Window) : (d.setWindows w).out = d.out := rfl
@[simp] theorem Device.setWindows_regs (w : List Window) : (d.setWindows w).regs = d.regs := rfl
@[simp] theorem Device.setWindows_ctrs (w : List Window) : (d.setWindows w).ctrs = d.ctrs := rfl
@[simp] theorem Device.setWindows_cim (w : List Window) : (d.setWindows w).cim = d.cim := rfl
@[simp] theorem Device.setWindows_attn (w : List Window) : (d.setWindows w).attn = d.attn := rfl
@[simp] theorem Device.setWindows_serv (w : List Window) : (d.setWindows w).serv = d.serv := rfl
@[simp] theorem Device.setWindows_cast (w : List Window) : (d.setWindows w).cast = d.cast := rfl
@[simp] theorem Device.setWindows_fab (w : List Window) : (d.setWindows w).fab = d.fab := rfl
@[simp] theorem Device.setWindows_sync (w : List Window) : (d.setWindows w).sync = d.sync := rfl
@[simp] theorem Device.setWindows_dict (w : List Window) : (d.setWindows w).dict = d.dict := rfl
@[simp] theorem Device.setWindows_sec (w : List Window) : (d.setWindows w).sec = d.sec := rfl
@[simp] theorem Device.setWindows_rel (w : List Window) : (d.setWindows w).rel = d.rel := rfl
@[simp] theorem Device.setWindows_pwr (w : List Window) : (d.setWindows w).pwr = d.pwr := rfl
@[simp] theorem Device.setWindows_side (w : List Window) : (d.setWindows w).side = d.side := rfl
@[simp] theorem Device.setWindows_tap (w : List Window) : (d.setWindows w).tap = d.tap := rfl

/-! ### setSec changes `sec` only. -/

@[simp] theorem Device.setSec_clk (x : SecS) : (d.setSec x).clk = d.clk := rfl
@[simp] theorem Device.setSec_free (x : SecS) : (d.setSec x).free = d.free := rfl
@[simp] theorem Device.setSec_out (x : SecS) : (d.setSec x).out = d.out := rfl
@[simp] theorem Device.setSec_regs (x : SecS) : (d.setSec x).regs = d.regs := rfl
@[simp] theorem Device.setSec_ctrs (x : SecS) : (d.setSec x).ctrs = d.ctrs := rfl
@[simp] theorem Device.setSec_cim (x : SecS) : (d.setSec x).cim = d.cim := rfl
@[simp] theorem Device.setSec_mem (x : SecS) : (d.setSec x).mem = d.mem := rfl
@[simp] theorem Device.setSec_attn (x : SecS) : (d.setSec x).attn = d.attn := rfl
@[simp] theorem Device.setSec_serv (x : SecS) : (d.setSec x).serv = d.serv := rfl
@[simp] theorem Device.setSec_cast (x : SecS) : (d.setSec x).cast = d.cast := rfl
@[simp] theorem Device.setSec_fab (x : SecS) : (d.setSec x).fab = d.fab := rfl
@[simp] theorem Device.setSec_sync (x : SecS) : (d.setSec x).sync = d.sync := rfl
@[simp] theorem Device.setSec_dict (x : SecS) : (d.setSec x).dict = d.dict := rfl
@[simp] theorem Device.setSec_rel (x : SecS) : (d.setSec x).rel = d.rel := rfl
@[simp] theorem Device.setSec_pwr (x : SecS) : (d.setSec x).pwr = d.pwr := rfl
@[simp] theorem Device.setSec_side (x : SecS) : (d.setSec x).side = d.side := rfl
@[simp] theorem Device.setSec_tap (x : SecS) : (d.setSec x).tap = d.tap := rfl

/-! ### setRuns changes `rel` only. -/

@[simp] theorem Device.setRuns_clk (t : Tbl SliceRun) : (d.setRuns t).clk = d.clk := rfl
@[simp] theorem Device.setRuns_free (t : Tbl SliceRun) : (d.setRuns t).free = d.free := rfl
@[simp] theorem Device.setRuns_out (t : Tbl SliceRun) : (d.setRuns t).out = d.out := rfl
@[simp] theorem Device.setRuns_regs (t : Tbl SliceRun) : (d.setRuns t).regs = d.regs := rfl
@[simp] theorem Device.setRuns_ctrs (t : Tbl SliceRun) : (d.setRuns t).ctrs = d.ctrs := rfl
@[simp] theorem Device.setRuns_cim (t : Tbl SliceRun) : (d.setRuns t).cim = d.cim := rfl
@[simp] theorem Device.setRuns_mem (t : Tbl SliceRun) : (d.setRuns t).mem = d.mem := rfl
@[simp] theorem Device.setRuns_attn (t : Tbl SliceRun) : (d.setRuns t).attn = d.attn := rfl
@[simp] theorem Device.setRuns_serv (t : Tbl SliceRun) : (d.setRuns t).serv = d.serv := rfl
@[simp] theorem Device.setRuns_cast (t : Tbl SliceRun) : (d.setRuns t).cast = d.cast := rfl
@[simp] theorem Device.setRuns_fab (t : Tbl SliceRun) : (d.setRuns t).fab = d.fab := rfl
@[simp] theorem Device.setRuns_sync (t : Tbl SliceRun) : (d.setRuns t).sync = d.sync := rfl
@[simp] theorem Device.setRuns_dict (t : Tbl SliceRun) : (d.setRuns t).dict = d.dict := rfl
@[simp] theorem Device.setRuns_sec (t : Tbl SliceRun) : (d.setRuns t).sec = d.sec := rfl
@[simp] theorem Device.setRuns_pwr (t : Tbl SliceRun) : (d.setRuns t).pwr = d.pwr := rfl
@[simp] theorem Device.setRuns_side (t : Tbl SliceRun) : (d.setRuns t).side = d.side := rfl
@[simp] theorem Device.setRuns_tap (t : Tbl SliceRun) : (d.setRuns t).tap = d.tap := rfl

/-! ### setCtlI changes `serv` only. -/

@[simp] theorem Device.setCtlI_clk (i : Nat) (x : Ctl) : (d.setCtlI i x).clk = d.clk := rfl
@[simp] theorem Device.setCtlI_free (i : Nat) (x : Ctl) : (d.setCtlI i x).free = d.free := rfl
@[simp] theorem Device.setCtlI_out (i : Nat) (x : Ctl) : (d.setCtlI i x).out = d.out := rfl
@[simp] theorem Device.setCtlI_regs (i : Nat) (x : Ctl) : (d.setCtlI i x).regs = d.regs := rfl
@[simp] theorem Device.setCtlI_ctrs (i : Nat) (x : Ctl) : (d.setCtlI i x).ctrs = d.ctrs := rfl
@[simp] theorem Device.setCtlI_cim (i : Nat) (x : Ctl) : (d.setCtlI i x).cim = d.cim := rfl
@[simp] theorem Device.setCtlI_mem (i : Nat) (x : Ctl) : (d.setCtlI i x).mem = d.mem := rfl
@[simp] theorem Device.setCtlI_attn (i : Nat) (x : Ctl) : (d.setCtlI i x).attn = d.attn := rfl
@[simp] theorem Device.setCtlI_cast (i : Nat) (x : Ctl) : (d.setCtlI i x).cast = d.cast := rfl
@[simp] theorem Device.setCtlI_fab (i : Nat) (x : Ctl) : (d.setCtlI i x).fab = d.fab := rfl
@[simp] theorem Device.setCtlI_sync (i : Nat) (x : Ctl) : (d.setCtlI i x).sync = d.sync := rfl
@[simp] theorem Device.setCtlI_dict (i : Nat) (x : Ctl) : (d.setCtlI i x).dict = d.dict := rfl
@[simp] theorem Device.setCtlI_sec (i : Nat) (x : Ctl) : (d.setCtlI i x).sec = d.sec := rfl
@[simp] theorem Device.setCtlI_rel (i : Nat) (x : Ctl) : (d.setCtlI i x).rel = d.rel := rfl
@[simp] theorem Device.setCtlI_pwr (i : Nat) (x : Ctl) : (d.setCtlI i x).pwr = d.pwr := rfl
@[simp] theorem Device.setCtlI_side (i : Nat) (x : Ctl) : (d.setCtlI i x).side = d.side := rfl
@[simp] theorem Device.setCtlI_tap (i : Nat) (x : Ctl) : (d.setCtlI i x).tap = d.tap := rfl

/-! ### setReplica changes `rel` only. -/

@[simp] theorem Device.setReplica_clk (i : Nat) (x : Replica) : (d.setReplica i x).clk = d.clk := rfl
@[simp] theorem Device.setReplica_free (i : Nat) (x : Replica) : (d.setReplica i x).free = d.free := rfl
@[simp] theorem Device.setReplica_out (i : Nat) (x : Replica) : (d.setReplica i x).out = d.out := rfl
@[simp] theorem Device.setReplica_regs (i : Nat) (x : Replica) : (d.setReplica i x).regs = d.regs := rfl
@[simp] theorem Device.setReplica_ctrs (i : Nat) (x : Replica) : (d.setReplica i x).ctrs = d.ctrs := rfl
@[simp] theorem Device.setReplica_cim (i : Nat) (x : Replica) : (d.setReplica i x).cim = d.cim := rfl
@[simp] theorem Device.setReplica_mem (i : Nat) (x : Replica) : (d.setReplica i x).mem = d.mem := rfl
@[simp] theorem Device.setReplica_attn (i : Nat) (x : Replica) : (d.setReplica i x).attn = d.attn := rfl
@[simp] theorem Device.setReplica_serv (i : Nat) (x : Replica) : (d.setReplica i x).serv = d.serv := rfl
@[simp] theorem Device.setReplica_cast (i : Nat) (x : Replica) : (d.setReplica i x).cast = d.cast := rfl
@[simp] theorem Device.setReplica_fab (i : Nat) (x : Replica) : (d.setReplica i x).fab = d.fab := rfl
@[simp] theorem Device.setReplica_sync (i : Nat) (x : Replica) : (d.setReplica i x).sync = d.sync := rfl
@[simp] theorem Device.setReplica_dict (i : Nat) (x : Replica) : (d.setReplica i x).dict = d.dict := rfl
@[simp] theorem Device.setReplica_sec (i : Nat) (x : Replica) : (d.setReplica i x).sec = d.sec := rfl
@[simp] theorem Device.setReplica_pwr (i : Nat) (x : Replica) : (d.setReplica i x).pwr = d.pwr := rfl
@[simp] theorem Device.setReplica_side (i : Nat) (x : Replica) : (d.setReplica i x).side = d.side := rfl
@[simp] theorem Device.setReplica_tap (i : Nat) (x : Replica) : (d.setReplica i x).tap = d.tap := rfl

/-! ### setSync changes `sync` only. -/

@[simp] theorem Device.setSync_clk (x : SyncS) : (d.setSync x).clk = d.clk := rfl
@[simp] theorem Device.setSync_free (x : SyncS) : (d.setSync x).free = d.free := rfl
@[simp] theorem Device.setSync_out (x : SyncS) : (d.setSync x).out = d.out := rfl
@[simp] theorem Device.setSync_regs (x : SyncS) : (d.setSync x).regs = d.regs := rfl
@[simp] theorem Device.setSync_ctrs (x : SyncS) : (d.setSync x).ctrs = d.ctrs := rfl
@[simp] theorem Device.setSync_cim (x : SyncS) : (d.setSync x).cim = d.cim := rfl
@[simp] theorem Device.setSync_mem (x : SyncS) : (d.setSync x).mem = d.mem := rfl
@[simp] theorem Device.setSync_attn (x : SyncS) : (d.setSync x).attn = d.attn := rfl
@[simp] theorem Device.setSync_serv (x : SyncS) : (d.setSync x).serv = d.serv := rfl
@[simp] theorem Device.setSync_cast (x : SyncS) : (d.setSync x).cast = d.cast := rfl
@[simp] theorem Device.setSync_fab (x : SyncS) : (d.setSync x).fab = d.fab := rfl
@[simp] theorem Device.setSync_dict (x : SyncS) : (d.setSync x).dict = d.dict := rfl
@[simp] theorem Device.setSync_sec (x : SyncS) : (d.setSync x).sec = d.sec := rfl
@[simp] theorem Device.setSync_rel (x : SyncS) : (d.setSync x).rel = d.rel := rfl
@[simp] theorem Device.setSync_pwr (x : SyncS) : (d.setSync x).pwr = d.pwr := rfl
@[simp] theorem Device.setSync_side (x : SyncS) : (d.setSync x).side = d.side := rfl
@[simp] theorem Device.setSync_tap (x : SyncS) : (d.setSync x).tap = d.tap := rfl

/-! ### setLimits changes `mem` only. -/

@[simp] theorem Device.setLimits_clk (t : Nat) (x : Limits) : (d.setLimits t x).clk = d.clk := rfl
@[simp] theorem Device.setLimits_free (t : Nat) (x : Limits) : (d.setLimits t x).free = d.free := rfl
@[simp] theorem Device.setLimits_out (t : Nat) (x : Limits) : (d.setLimits t x).out = d.out := rfl
@[simp] theorem Device.setLimits_regs (t : Nat) (x : Limits) : (d.setLimits t x).regs = d.regs := rfl
@[simp] theorem Device.setLimits_ctrs (t : Nat) (x : Limits) : (d.setLimits t x).ctrs = d.ctrs := rfl
@[simp] theorem Device.setLimits_cim (t : Nat) (x : Limits) : (d.setLimits t x).cim = d.cim := rfl
@[simp] theorem Device.setLimits_attn (t : Nat) (x : Limits) : (d.setLimits t x).attn = d.attn := rfl
@[simp] theorem Device.setLimits_serv (t : Nat) (x : Limits) : (d.setLimits t x).serv = d.serv := rfl
@[simp] theorem Device.setLimits_cast (t : Nat) (x : Limits) : (d.setLimits t x).cast = d.cast := rfl
@[simp] theorem Device.setLimits_fab (t : Nat) (x : Limits) : (d.setLimits t x).fab = d.fab := rfl
@[simp] theorem Device.setLimits_sync (t : Nat) (x : Limits) : (d.setLimits t x).sync = d.sync := rfl
@[simp] theorem Device.setLimits_dict (t : Nat) (x : Limits) : (d.setLimits t x).dict = d.dict := rfl
@[simp] theorem Device.setLimits_sec (t : Nat) (x : Limits) : (d.setLimits t x).sec = d.sec := rfl
@[simp] theorem Device.setLimits_rel (t : Nat) (x : Limits) : (d.setLimits t x).rel = d.rel := rfl
@[simp] theorem Device.setLimits_pwr (t : Nat) (x : Limits) : (d.setLimits t x).pwr = d.pwr := rfl
@[simp] theorem Device.setLimits_side (t : Nat) (x : Limits) : (d.setLimits t x).side = d.side := rfl
@[simp] theorem Device.setLimits_tap (t : Nat) (x : Limits) : (d.setLimits t x).tap = d.tap := rfl

/-! ### setPwr changes `pwr` only. -/

@[simp] theorem Device.setPwr_clk (x : PwrS) : (d.setPwr x).clk = d.clk := rfl
@[simp] theorem Device.setPwr_free (x : PwrS) : (d.setPwr x).free = d.free := rfl
@[simp] theorem Device.setPwr_out (x : PwrS) : (d.setPwr x).out = d.out := rfl
@[simp] theorem Device.setPwr_regs (x : PwrS) : (d.setPwr x).regs = d.regs := rfl
@[simp] theorem Device.setPwr_ctrs (x : PwrS) : (d.setPwr x).ctrs = d.ctrs := rfl
@[simp] theorem Device.setPwr_cim (x : PwrS) : (d.setPwr x).cim = d.cim := rfl
@[simp] theorem Device.setPwr_mem (x : PwrS) : (d.setPwr x).mem = d.mem := rfl
@[simp] theorem Device.setPwr_attn (x : PwrS) : (d.setPwr x).attn = d.attn := rfl
@[simp] theorem Device.setPwr_serv (x : PwrS) : (d.setPwr x).serv = d.serv := rfl
@[simp] theorem Device.setPwr_cast (x : PwrS) : (d.setPwr x).cast = d.cast := rfl
@[simp] theorem Device.setPwr_fab (x : PwrS) : (d.setPwr x).fab = d.fab := rfl
@[simp] theorem Device.setPwr_sync (x : PwrS) : (d.setPwr x).sync = d.sync := rfl
@[simp] theorem Device.setPwr_dict (x : PwrS) : (d.setPwr x).dict = d.dict := rfl
@[simp] theorem Device.setPwr_sec (x : PwrS) : (d.setPwr x).sec = d.sec := rfl
@[simp] theorem Device.setPwr_rel (x : PwrS) : (d.setPwr x).rel = d.rel := rfl
@[simp] theorem Device.setPwr_side (x : PwrS) : (d.setPwr x).side = d.side := rfl
@[simp] theorem Device.setPwr_tap (x : PwrS) : (d.setPwr x).tap = d.tap := rfl

/-! ### setVersion changes `cast` only. -/

@[simp] theorem Device.setVersion_clk (v : Nat) (x : Version) : (d.setVersion v x).clk = d.clk := rfl
@[simp] theorem Device.setVersion_free (v : Nat) (x : Version) : (d.setVersion v x).free = d.free := rfl
@[simp] theorem Device.setVersion_out (v : Nat) (x : Version) : (d.setVersion v x).out = d.out := rfl
@[simp] theorem Device.setVersion_regs (v : Nat) (x : Version) : (d.setVersion v x).regs = d.regs := rfl
@[simp] theorem Device.setVersion_ctrs (v : Nat) (x : Version) : (d.setVersion v x).ctrs = d.ctrs := rfl
@[simp] theorem Device.setVersion_cim (v : Nat) (x : Version) : (d.setVersion v x).cim = d.cim := rfl
@[simp] theorem Device.setVersion_mem (v : Nat) (x : Version) : (d.setVersion v x).mem = d.mem := rfl
@[simp] theorem Device.setVersion_attn (v : Nat) (x : Version) : (d.setVersion v x).attn = d.attn := rfl
@[simp] theorem Device.setVersion_serv (v : Nat) (x : Version) : (d.setVersion v x).serv = d.serv := rfl
@[simp] theorem Device.setVersion_fab (v : Nat) (x : Version) : (d.setVersion v x).fab = d.fab := rfl
@[simp] theorem Device.setVersion_sync (v : Nat) (x : Version) : (d.setVersion v x).sync = d.sync := rfl
@[simp] theorem Device.setVersion_dict (v : Nat) (x : Version) : (d.setVersion v x).dict = d.dict := rfl
@[simp] theorem Device.setVersion_sec (v : Nat) (x : Version) : (d.setVersion v x).sec = d.sec := rfl
@[simp] theorem Device.setVersion_rel (v : Nat) (x : Version) : (d.setVersion v x).rel = d.rel := rfl
@[simp] theorem Device.setVersion_pwr (v : Nat) (x : Version) : (d.setVersion v x).pwr = d.pwr := rfl
@[simp] theorem Device.setVersion_side (v : Nat) (x : Version) : (d.setVersion v x).side = d.side := rfl
@[simp] theorem Device.setVersion_tap (v : Nat) (x : Version) : (d.setVersion v x).tap = d.tap := rfl

/-! ### setRounds changes `serv` only. -/

@[simp] theorem Device.setRounds_clk (t : Tbl Round) : (d.setRounds t).clk = d.clk := rfl
@[simp] theorem Device.setRounds_free (t : Tbl Round) : (d.setRounds t).free = d.free := rfl
@[simp] theorem Device.setRounds_out (t : Tbl Round) : (d.setRounds t).out = d.out := rfl
@[simp] theorem Device.setRounds_regs (t : Tbl Round) : (d.setRounds t).regs = d.regs := rfl
@[simp] theorem Device.setRounds_ctrs (t : Tbl Round) : (d.setRounds t).ctrs = d.ctrs := rfl
@[simp] theorem Device.setRounds_cim (t : Tbl Round) : (d.setRounds t).cim = d.cim := rfl
@[simp] theorem Device.setRounds_mem (t : Tbl Round) : (d.setRounds t).mem = d.mem := rfl
@[simp] theorem Device.setRounds_attn (t : Tbl Round) : (d.setRounds t).attn = d.attn := rfl
@[simp] theorem Device.setRounds_cast (t : Tbl Round) : (d.setRounds t).cast = d.cast := rfl
@[simp] theorem Device.setRounds_fab (t : Tbl Round) : (d.setRounds t).fab = d.fab := rfl
@[simp] theorem Device.setRounds_sync (t : Tbl Round) : (d.setRounds t).sync = d.sync := rfl
@[simp] theorem Device.setRounds_dict (t : Tbl Round) : (d.setRounds t).dict = d.dict := rfl
@[simp] theorem Device.setRounds_sec (t : Tbl Round) : (d.setRounds t).sec = d.sec := rfl
@[simp] theorem Device.setRounds_rel (t : Tbl Round) : (d.setRounds t).rel = d.rel := rfl
@[simp] theorem Device.setRounds_pwr (t : Tbl Round) : (d.setRounds t).pwr = d.pwr := rfl
@[simp] theorem Device.setRounds_side (t : Tbl Round) : (d.setRounds t).side = d.side := rfl
@[simp] theorem Device.setRounds_tap (t : Tbl Round) : (d.setRounds t).tap = d.tap := rfl

/-! ### setSide changes `side` only. -/

@[simp] theorem Device.setSide_clk (x : SideS) : (d.setSide x).clk = d.clk := rfl
@[simp] theorem Device.setSide_free (x : SideS) : (d.setSide x).free = d.free := rfl
@[simp] theorem Device.setSide_out (x : SideS) : (d.setSide x).out = d.out := rfl
@[simp] theorem Device.setSide_regs (x : SideS) : (d.setSide x).regs = d.regs := rfl
@[simp] theorem Device.setSide_ctrs (x : SideS) : (d.setSide x).ctrs = d.ctrs := rfl
@[simp] theorem Device.setSide_cim (x : SideS) : (d.setSide x).cim = d.cim := rfl
@[simp] theorem Device.setSide_mem (x : SideS) : (d.setSide x).mem = d.mem := rfl
@[simp] theorem Device.setSide_attn (x : SideS) : (d.setSide x).attn = d.attn := rfl
@[simp] theorem Device.setSide_serv (x : SideS) : (d.setSide x).serv = d.serv := rfl
@[simp] theorem Device.setSide_cast (x : SideS) : (d.setSide x).cast = d.cast := rfl
@[simp] theorem Device.setSide_fab (x : SideS) : (d.setSide x).fab = d.fab := rfl
@[simp] theorem Device.setSide_sync (x : SideS) : (d.setSide x).sync = d.sync := rfl
@[simp] theorem Device.setSide_dict (x : SideS) : (d.setSide x).dict = d.dict := rfl
@[simp] theorem Device.setSide_sec (x : SideS) : (d.setSide x).sec = d.sec := rfl
@[simp] theorem Device.setSide_rel (x : SideS) : (d.setSide x).rel = d.rel := rfl
@[simp] theorem Device.setSide_pwr (x : SideS) : (d.setSide x).pwr = d.pwr := rfl
@[simp] theorem Device.setSide_tap (x : SideS) : (d.setSide x).tap = d.tap := rfl

/-! ### Reading back -/

@[simp] theorem Device.ctr_setReg (k v j : Nat) : (d.setReg k v).ctr j = d.ctr j := rfl
@[simp] theorem Device.reg_bump (k n j : Nat) : (d.bump k n).reg j = d.reg j := rfl
@[simp] theorem Device.core_bump (k n c : Nat) : (d.bump k n).core c = d.core c := rfl
@[simp] theorem Device.engine_bump (k n c e : Nat) : (d.bump k n).engine c e = d.engine c e := rfl
@[simp] theorem Device.engine_setCore (c : Nat) (x : CimCore) (c' e : Nat) : (d.setCore c x).engine c' e = d.engine c' e := rfl
@[simp] theorem Device.core_setEngine (c e : Nat) (x : Engine) (c' : Nat) : (d.setEngine c e x).core c' = d.core c' := rfl
@[simp] theorem Device.send_out (m : OutMsg) : (d.send m).out = d.out ++ [m] := rfl

/-- What another counter reads after a bump. -/
theorem Device.ctr_bump_other {k n j : Nat} (h : j ≠ k) : (d.bump k n).ctr j = d.ctr j := by
  unfold Device.bump Device.ctr
  exact Tbl.get_set_other _ _ _ h

/-- A counter reads its old value plus the raise, up to its 64 bits. -/
theorem Device.ctr_bump_same (k n : Nat) : (d.bump k n).ctr k = min (2 ^ 64 - 1) (d.ctr k + n) := Tbl.get_set_same _ _ _ _

/-- A key just written is listed. -/
theorem Tbl.find?_put_same {α : Type} (m : Tbl α) (k : Nat) (v : α) : Tbl.find? (Tbl.put m k v) k = some v := by
  induction m with
  | nil => simp [Tbl.put, Tbl.find?]
  | cons e m ih =>
    obtain ⟨k', v'⟩ := e
    by_cases h1 : k < k'
    · simp [Tbl.put, Tbl.find?, h1]
    · by_cases h2 : k' = k
      · subst h2; simp [Tbl.put, Tbl.find?]
      · simp [Tbl.put, Tbl.find?, h1, h2, ih]

/-- Another key is listed as before. -/
theorem Tbl.find?_put_other {α : Type} (m : Tbl α) {k j : Nat} (v : α) (h : j ≠ k) :
    Tbl.find? (Tbl.put m k v) j = Tbl.find? m j := by
  induction m with
  | nil => simp [Tbl.put, Tbl.find?, Ne.symm h]
  | cons e m ih =>
    obtain ⟨k', v'⟩ := e
    by_cases h1 : k < k'
    · simp [Tbl.put, Tbl.find?, h1, Ne.symm h]
    · by_cases h2 : k' = k
      · subst h2; simp [Tbl.put, Tbl.find?, Ne.symm h]
      · by_cases h3 : k' = j
        · subst h3; simp [Tbl.put, Tbl.find?, h1, h2]
        · simp [Tbl.put, Tbl.find?, h1, h2, h3, ih]

theorem Tbl.find?_del_other {α : Type} (m : Tbl α) {k j : Nat} (h : j ≠ k) : Tbl.find? (Tbl.del m k) j = Tbl.find? m j := by
  induction m with
  | nil => rfl
  | cons e m ih =>
    obtain ⟨k', v'⟩ := e
    by_cases h1 : k' = k
    · subst h1; simp [Tbl.del, Tbl.find?, Ne.symm h, ih]
    · by_cases h2 : k' = j
      · subst h2; simp [Tbl.del, Tbl.find?, h1]
      · simp [Tbl.del, Tbl.find?, h1, h2, ih]

theorem Tbl.find?_set_other {α : Type} [DecidableEq α] (d v : α) (m : Tbl α) {k j : Nat} (h : j ≠ k) :
    Tbl.find? (Tbl.set d m k v) j = Tbl.find? m j := by
  unfold Tbl.set; split
  · exact Tbl.find?_del_other _ h
  · exact Tbl.find?_put_other _ _ h

/-- What a key holds is what is listed for it, or the default. -/
theorem Tbl.get_eq {α : Type} (d : α) (m : Tbl α) (k : Nat) : Tbl.get d m k = (Tbl.find? m k).getD d := by
  induction m with
  | nil => rfl
  | cons e m ih =>
    obtain ⟨k', v'⟩ := e
    by_cases h1 : k' = k
    · simp [Tbl.get, Tbl.find?, h1]
    · simp [Tbl.get, Tbl.find?, h1, ih]

/-! ### Engines read back -/

@[simp] theorem Device.engine_set_same (c e : Nat) (x : Engine) : (d.setEngine c e x).engine c e = x := Tbl.get_set_same _ _ _ _

@[simp] theorem Device.engine_mod_same (c e : Nat) (f : Engine → Engine) : (d.modEngine c e f).engine c e = f (d.engine c e) :=
  Tbl.get_set_same _ _ _ _

theorem Device.engine_set_other {c e c' e' : Nat} (x : Engine) (h : c' * 33 + e' ≠ c * 33 + e) :
    (d.setEngine c e x).engine c' e' = d.engine c' e' := by
  unfold Device.setEngine Device.engine
  rw [Tbl.get_eq, Tbl.get_eq]
  exact congrArg (fun o => o.getD (Engine.reset e')) (Tbl.find?_set_other _ _ _ h)

end Sys2Proof.Machine
end

