-- ==== Sys2Proof/Laws/Calm.lean ====
section
/-!
SUPPORT. Answers, records, notifications and reads of the scratchpad leave the cores, the engines, the stored bytes and the
patrol and every register alone: they touch what is sent, counters, the fabric, logs, handle marks and scrub queues only.
-/
namespace Sys2Proof.Machine

/-- `e` differs from `d` in messages, counters, the fabric, the dictionary, the logs, handle entries and scrub queues only. -/
structure Calm (d e : Device) : Prop where
  clk : e.clk = d.clk
  free : e.free = d.free
  regs : e.regs = d.regs
  cim : e.cim = d.cim
  attn : e.attn = d.attn
  serv : e.serv = d.serv
  cast : e.cast = d.cast
  sync : e.sync = d.sync
  sec : e.sec = d.sec
  pwr : e.pwr = d.pwr
  side : e.side = d.side
  tap : e.tap = d.tap
  m : e.mem.m = d.mem.m
  coord : e.fab.coord = d.fab.coord
  patrol : e.mem.patrol = d.mem.patrol
  passes : e.mem.passes = d.mem.passes
  out : ∃ l, e.out = d.out ++ l

theorem Calm.refl (d : Device) : Calm d d := ⟨rfl, rfl, rfl, rfl, rfl, rfl, rfl, rfl, rfl, rfl, rfl, rfl, rfl, rfl, rfl, rfl, [], (List.append_nil _).symm⟩

theorem Calm.trans {d e g : Device} (h : Calm d e) (k : Calm e g) : Calm d g :=
  ⟨k.clk.trans h.clk, k.free.trans h.free, k.regs.trans h.regs, k.cim.trans h.cim, k.attn.trans h.attn, k.serv.trans h.serv, k.cast.trans h.cast, k.sync.trans h.sync, k.sec.trans h.sec, k.pwr.trans h.pwr, k.side.trans h.side, k.tap.trans h.tap, k.m.trans h.m, k.coord.trans h.coord, k.patrol.trans h.patrol, k.passes.trans h.passes,
    let ⟨l, hl⟩ := h.out; let ⟨m, hm⟩ := k.out; ⟨l ++ m, by rw [hm, hl, List.append_assoc]⟩⟩

theorem Calm.bump (d : Device) (k n : Nat) : Calm d (d.bump k n) := ⟨rfl, rfl, rfl, rfl, rfl, rfl, rfl, rfl, rfl, rfl, rfl, rfl, rfl, rfl, rfl, rfl, [], (List.append_nil _).symm⟩

theorem Calm.send (d : Device) (m : OutMsg) : Calm d (d.send m) := ⟨rfl, rfl, rfl, rfl, rfl, rfl, rfl, rfl, rfl, rfl, rfl, rfl, rfl, rfl, rfl, rfl, [m], rfl⟩

theorem Calm.setScrub (d : Device) (u : Nat) (q : List (Nat × Bool)) : Calm d (d.setScrub u q) := ⟨rfl, rfl, rfl, rfl, rfl, rfl, rfl, rfl, rfl, rfl, rfl, rfl, rfl, rfl, rfl, rfl, [], (List.append_nil _).symm⟩

theorem Calm.putHandle (d : Device) (h : Nat) (x : Handle) : Calm d (d.putHandle h x) := ⟨rfl, rfl, rfl, rfl, rfl, rfl, rfl, rfl, rfl, rfl, rfl, rfl, rfl, rfl, rfl, rfl, [], (List.append_nil _).symm⟩

theorem Calm.setPort (d : Device) (p : Nat) (x : Port) : Calm d (d.setPort p x) := ⟨rfl, rfl, rfl, rfl, rfl, rfl, rfl, rfl, rfl, rfl, rfl, rfl, rfl, rfl, rfl, rfl, [], (List.append_nil _).symm⟩

theorem Calm.ite {d e g : Device} {p : Prop} [Decidable p] (h : Calm d e) (k : Calm d g) : Calm d (if p then e else g) := by
  split <;> assumption

theorem Calm.pump (d : Device) (p n : Nat) : Calm d (d.pump p n) := by
  induction n generalizing d with
  | zero => exact .refl d
  | succ n ih =>
    unfold Device.pump
    dsimp only
    split
    · exact .refl d
    · split
      · exact .refl d
      · split
        · exact .refl d
        · exact ((Calm.setPort d _ _).trans ((Calm.send _ _).trans (Calm.bump _ _ _))).trans (ih _)

theorem Calm.enqueue (d : Device) (p c : Nat) (fs : List Flit) : Calm d (d.enqueue p c fs) :=
  (Calm.setPort d _ _).trans (Calm.pump _ _ _)

theorem Calm.noRoute (d : Device) (c : Nat) (k : Packet) : Calm d (d.noRoute c k) := by
  unfold Device.noRoute
  dsimp only
  split
  · exact (Calm.bump d _ _).trans (Calm.send _ _)
  · exact Calm.bump d _ _

theorem Calm.forward (d : Device) (c g h : Nat) (x : Coord) (k : Packet) : Calm d (d.forward c g h x k) := by
  unfold Device.forward
  dsimp only
  split
  · exact Calm.noRoute d _ _
  · split
    · exact Calm.bump d _ _
    · split
      · exact (Calm.bump d _ _).trans (Calm.enqueue _ _ _ _)
      · exact Calm.enqueue _ _ _ _

theorem Calm.nextSeq (d : Device) (x : Coord) (c : Nat) (f : BitVec 16) : Calm d (d.nextSeq x c f).2 := by
  unfold Device.nextSeq
  split
  · exact .refl d
  · exact ⟨rfl, rfl, rfl, rfl, rfl, rfl, rfl, rfl, rfl, rfl, rfl, rfl, rfl, rfl, rfl, rfl, [], (List.append_nil _).symm⟩

theorem Calm.sendPdu (d : Device) (c k : Nat) (x : Coord) (t : Tenant) (f : BitVec 16) (bs : List Byte) :
    Calm d (d.sendPdu c k x t f bs) := by
  unfold Device.sendPdu Device.originate
  dsimp only
  split
  · exact .refl d
  · exact (Calm.nextSeq d x c f).trans (Calm.forward _ _ _ _ _ _)

theorem Calm.sendNotify (d : Device) (b : Bool) (x : Coord) (t n : Nat) (r : List Byte) : Calm d (d.sendNotify b x t n r) := by
  unfold Device.sendNotify
  dsimp only
  split
  · exact (Calm.send _ _).trans (Calm.send _ _)
  · exact (Calm.send _ _).trans (Calm.sendPdu _ _ _ _ _ _ _)

theorem Calm.foldl {α : Type} {f : Device → α → Device} (h : ∀ d a, Calm d (f d a)) (l : List α) (d : Device) :
    Calm d (l.foldl f d) := by
  induction l generalizing d with
  | nil => exact .refl d
  | cons a l ih => exact (h d a).trans (ih _)

theorem Calm.notifyOne (d : Device) (a b c e x y z : Nat) : Calm d (d.notifyOne a b c e x y z).2 := by
  unfold Device.notifyOne
  dsimp only
  refine Calm.trans ?_ (Calm.foldl (fun d s => Calm.ite (Calm.sendNotify _ _ _ _ _ _) (.refl d)) _ _)
  refine Calm.trans ?_ (Calm.sendNotify _ _ _ _ _ _)
  exact Calm.ite (p := _ = true) ⟨rfl, rfl, rfl, rfl, rfl, rfl, rfl, rfl, rfl, rfl, rfl, rfl, rfl, rfl, rfl, rfl, [], (List.append_nil _).symm⟩ ⟨rfl, rfl, rfl, rfl, rfl, rfl, rfl, rfl, rfl, rfl, rfl, rfl, rfl, rfl, rfl, rfl, [], (List.append_nil _).symm⟩

theorem Calm.notify (d : Device) (a b c e x y z : Nat) : Calm d (d.notify a b c e x y z) := by
  unfold Device.notify
  dsimp only
  split
  · exact (Calm.notifyOne d _ _ _ _ _ _ _).trans (Calm.notifyOne _ _ _ _ _ _ _ _)
  · exact Calm.notifyOne d _ _ _ _ _ _ _

theorem Calm.err (d : Device) (e : ErrAt) (k n : Nat) : Calm d (d.err e k n) := by
  unfold Device.err
  dsimp only
  split
  · exact ⟨rfl, rfl, rfl, rfl, rfl, rfl, rfl, rfl, rfl, rfl, rfl, rfl, rfl, rfl, rfl, rfl, [], (List.append_nil _).symm⟩
  · split
    · exact ⟨rfl, rfl, rfl, rfl, rfl, rfl, rfl, rfl, rfl, rfl, rfl, rfl, rfl, rfl, rfl, rfl, [], (List.append_nil _).symm⟩
    · exact ⟨rfl, rfl, rfl, rfl, rfl, rfl, rfl, rfl, rfl, rfl, rfl, rfl, rfl, rfl, rfl, rfl, [], (List.append_nil _).symm⟩

theorem Calm.queueScrub (d : Device) (w : Nat) (b : Bool) : Calm d (d.queueScrub w b) := by
  unfold Device.queueScrub
  dsimp only
  split
  · exact .refl d
  · split
    · exact Calm.bump _ _ _
    · exact Calm.setScrub _ _ _

theorem Calm.markBad (d : Device) (h : Nat) (x : Handle) : Calm d (d.markBad h x) := by
  unfold Device.markBad
  split
  · exact .refl d
  · exact (((Calm.putHandle d _ _).trans (Calm.err _ _ _ _)).trans (Calm.bump _ _ _)).trans (Calm.notify _ _ _ _ _ _ _ _)

theorem Calm.readWord (d : Device) (w n : Nat) : Calm d (d.readWord w n).2 := by
  unfold Device.readWord
  dsimp only
  have h1 := Calm.ite (p := Tbl.get 0#2 d.mem.m.poison w = 1#2 ∨ Tbl.get 0#2 d.mem.m.poison w = 2#2)
    (Calm.bump d (key 0x8010 5) 1) (.refl d)
  split
  · exact h1
  · exact (h1.trans (Calm.bump _ _ _)).trans (Calm.queueScrub _ _ _)
  · exact ((h1.trans (Calm.bump _ _ _)).trans (Calm.err _ _ _ _)).trans (Calm.queueScrub _ _ _)

theorem Calm.readWords (d : Device) (w n : Nat) : Calm d (d.readWords w n).2 := by
  induction n generalizing d w with
  | zero => exact .refl d
  | succ n ih =>
    unfold Device.readWords
    exact (Calm.readWord d w 0).trans (ih _ _)

/-- A read of the scratchpad changes no stored byte and no core. -/
theorem Calm.readH (d : Device) (h o n : Nat) : Calm d (d.readH h o n).2 := by
  unfold Device.readH
  split
  · exact .refl d
  · dsimp only
    split
    · exact Calm.readWords _ _ _
    · split
      · exact (Calm.readWords _ _ _).trans (Calm.markBad _ _ _)
      · exact Calm.readWords _ _ _

theorem Calm.setWindows (d : Device) (w : List Window) : Calm d (d.setWindows w) := ⟨rfl, rfl, rfl, rfl, rfl, rfl, rfl, rfl, rfl, rfl, rfl, rfl, rfl, rfl, rfl, rfl, [], (List.append_nil _).symm⟩

theorem Calm.readRow (d : Device) (k u r : Nat) : Calm d (d.readRow k u r).2 := by
  unfold Device.readRow
  split
  · exact Calm.readH _ _ _ _
  · exact Calm.readWords _ _ _

/-- The read of a window that closes changes no stored byte and no core. -/
theorem Calm.closeWindow (d : Device) (w : Window) : Calm d (d.closeWindow w) := by
  unfold Device.closeWindow
  dsimp only
  have h := fun ws => (Calm.setWindows d ws).trans (Calm.readRow (d.setWindows ws) w.cluster (13 + w.tile) w.row)
  replace h := h (d.mem.windows.filter (fun x => !decide (x.cluster = w.cluster ∧ x.tile = w.tile ∧ x.row = w.row)))
  obtain ⟨l, hl⟩ := h.out
  exact ⟨h.clk, h.free, h.regs, h.cim, h.attn, h.serv, h.cast, h.sync, h.sec, h.pwr, h.side, h.tap, h.m, h.coord, h.patrol, h.passes,
    l ++ [_], by rw [Device.send_out, hl, List.append_assoc]⟩

theorem Calm.closeRows (d : Device) (a n : Nat) : Calm d (d.closeRows a n) :=
  Calm.foldl (fun d w => Calm.closeWindow d w) _ d

theorem Calm.setQueue (d : Device) (c : Nat) (q : List (Nat × Bool)) : Calm d (d.setQueue c q) := ⟨rfl, rfl, rfl, rfl, rfl, rfl, rfl, rfl, rfl, rfl, rfl, rfl, rfl, rfl, rfl, rfl, [], (List.append_nil _).symm⟩

theorem Calm.fetchOne (d : Device) (c h i : Nat) : Calm d (d.fetchOne c h i) :=
  (Calm.readH d h _ _).trans (Calm.setQueue _ _ _)

/-- Fetching reads the scratchpad and fills the step queue. -/
theorem Calm.fetchWord (d : Device) (c n : Nat) : Calm d (d.fetchWord c n).2 := by
  unfold Device.fetchWord
  dsimp only
  split
  · exact .refl d
  · split
    · exact .refl d
    · exact (Calm.setQueue d _ _).trans (Calm.foldl (fun d i => Calm.fetchOne d c _ i) _ _)

theorem Calm.core {d e : Device} (h : Calm d e) (c : Nat) : e.core c = d.core c := by
  simp only [Device.core, h.cim]

theorem Calm.engine {d e : Device} (h : Calm d e) (c p : Nat) : e.engine c p = d.engine c p := by
  simp only [Device.engine, h.cim]

theorem Calm.reg {d e : Device} (h : Calm d e) (k : Nat) : e.reg k = d.reg k := by
  simp only [Device.reg, h.regs]

end Sys2Proof.Machine
end

