-- ==== Sys2Proof/Laws/Landing.lean ====
section
/-!
SUPPORT. What results becoming visible leave alone: the sequencer's own fields, the results still in flight, other cores.
-/
namespace Sys2Proof.Machine

/-! ### A core reads back -/

@[simp] theorem Device.core_setCore_same (d : Device) (c : Nat) (x : CimCore) : (d.setCore c x).core c = x := by
  simp [Device.setCore, Device.core]

@[simp] theorem Device.core_modCore_same (d : Device) (c : Nat) (f : CimCore → CimCore) :
    (d.modCore c f).core c = f (d.core c) := by
  simp [Device.modCore]

theorem Device.core_setCore_other (d : Device) {c c' : Nat} (x : CimCore) (h : c' ≠ c) :
    (d.setCore c x).core c' = d.core c' := by
  simp only [Device.setCore, Device.core]
  exact Tbl.get_set_other _ _ _ h

theorem Device.core_modCore_other (d : Device) {c c' : Nat} (f : CimCore → CimCore) (h : c' ≠ c) :
    (d.modCore c f).core c' = d.core c' := Device.core_setCore_other d _ h

@[simp] theorem Device.core_modEngine (d : Device) (c e : Nat) (f : Engine → Engine) (c' : Nat) :
    (d.modEngine c e f).core c' = d.core c' := rfl

@[simp] theorem Device.engine_modCore (d : Device) (c : Nat) (f : CimCore → CimCore) (c' e : Nat) :
    (d.modCore c f).engine c' e = d.engine c' e := rfl

@[simp] theorem Device.cim_writeWords (d : Device) (w : Nat) (xs : List RWord) : (d.writeWords w xs).cim = d.cim := by
  induction xs generalizing d w with
  | nil => rfl
  | cons x xs ih => unfold Device.writeWords; dsimp only; rw [ih]; split <;> rfl

@[simp] theorem Device.cim_writeH (d : Device) (h o : Nat) (xs : List RWord) : (d.writeH h o xs).cim = d.cim := by
  unfold Device.writeH; split
  · rfl
  · rw [Device.cim_writeWords, (Calm.closeRows d _ _).cim]

@[simp] theorem Device.cim_degrade (d : Device) (s : Nat) : (d.degrade s).cim = d.cim := by
  unfold Device.degrade; split <;> rfl

@[simp] theorem Device.cim_tellOwner (d : Device) (i : Nat) (m : Coord → OutMsg) {f : Device → Device}
    (h : ∀ x, (f x).cim = x.cim) : (d.tellOwner i m f).cim = d.cim := by
  unfold Device.tellOwner
  split
  · exact h d
  · split
    · exact h d
    · rfl

theorem Device.cim_foldl {α : Type} {f : Device → α → Device} (h : ∀ d a, (f d a).cim = d.cim) (l : List α) (d : Device) :
    (l.foldl f d).cim = d.cim := by
  induction l generalizing d with
  | nil => rfl
  | cons a l ih => exact (ih _).trans (h d a)

theorem Device.m_foldl {α : Type} {f : Device → α → Device} (h : ∀ d a, (f d a).mem.m = d.mem.m) (l : List α) (d : Device) :
    (l.foldl f d).mem.m = d.mem.m := by
  induction l generalizing d with
  | nil => rfl
  | cons a l ih => exact (ih _).trans (h d a)

/-! ### The sequencer's fields -/

/-- A sequencer but for its flags, poison marks and results in flight. -/
def Seq.ctl (q : Seq) : Seq := { q with flags := 0#16, poisoned := [], poisonAll := false, landing := [], norms := [] }

@[simp] theorem Seq.ctl_setFlag (q : Seq) (k : Nat) : (q.setFlag k).ctl = q.ctl := rfl
@[simp] theorem Seq.ctl_notePoison (q : Seq) (t : Tag) : (q.notePoison t).ctl = q.ctl := by cases t <;> rfl
@[simp] theorem Seq.ctl_notePoisonIf (q : Seq) (b : Bool) (t : Tag) : (q.notePoisonIf b t).ctl = q.ctl := by
  unfold Seq.notePoisonIf; split <;> simp
@[simp] theorem Seq.landing_setFlag (q : Seq) (k : Nat) : (q.setFlag k).landing = q.landing := rfl
@[simp] theorem Seq.landing_notePoison (q : Seq) (t : Tag) : (q.notePoison t).landing = q.landing := by cases t <;> rfl
@[simp] theorem Seq.landing_notePoisonIf (q : Seq) (b : Bool) (t : Tag) : (q.notePoisonIf b t).landing = q.landing := by
  unfold Seq.notePoisonIf; split <;> simp

theorem Seq.ctl_foldl_note (l : List Tag) (q : Seq) :
    (l.foldl (fun (q : Seq) t => q.notePoisonIf true t) q).ctl = q.ctl ∧
      (l.foldl (fun (q : Seq) t => q.notePoisonIf true t) q).landing = q.landing := by
  induction l generalizing q with
  | nil => exact ⟨rfl, rfl⟩
  | cons t l ih => simpa using ih (q.notePoisonIf true t)

/-- What a change to core `c` keeps of it: its sequencer but for flags and marks, the results in flight; and other cores. -/
structure KeepsSeq (c : Nat) (d e : Device) : Prop where
  ctl : (e.core c).seq.ctl = (d.core c).seq.ctl
  landing : (e.core c).seq.landing = (d.core c).seq.landing
  others : ∀ c', c' ≠ c → e.core c' = d.core c'

theorem KeepsSeq.refl (c : Nat) (d : Device) : KeepsSeq c d d := ⟨rfl, rfl, fun _ _ => rfl⟩

theorem KeepsSeq.trans {c : Nat} {d e g : Device} (h : KeepsSeq c d e) (k : KeepsSeq c e g) : KeepsSeq c d g :=
  ⟨k.ctl.trans h.ctl, k.landing.trans h.landing, fun c' hc => (k.others c' hc).trans (h.others c' hc)⟩

theorem KeepsSeq.of_cim {c : Nat} {d e : Device} (h : e.cim = d.cim) : KeepsSeq c d e := by
  have hc : ∀ c', e.core c' = d.core c' := fun c' => by simp only [Device.core, h]
  exact ⟨by rw [hc], by rw [hc], fun c' _ => hc c'⟩

theorem KeepsSeq.modCore {c : Nat} (d : Device) {f : CimCore → CimCore} (h : ∀ x, (f x).seq.ctl = x.seq.ctl)
    (k : ∀ x, (f x).seq.landing = x.seq.landing) : KeepsSeq c d (d.modCore c f) :=
  ⟨by rw [Device.core_modCore_same, h], by rw [Device.core_modCore_same, k], fun c' hc => Device.core_modCore_other d f hc⟩

theorem KeepsSeq.foldl {α : Type} {c : Nat} {f : Device → α → Device} (h : ∀ d a, KeepsSeq c d (f d a)) (l : List α)
    (d : Device) : KeepsSeq c d (l.foldl f d) := by
  induction l generalizing d with
  | nil => exact .refl c d
  | cons a l ih => exact (h d a).trans (ih _)

theorem KeepsSeq.modEngine (c : Nat) (d : Device) (c' e : Nat) (f : Engine → Engine) : KeepsSeq c d (d.modEngine c' e f) :=
  ⟨rfl, rfl, fun _ _ => rfl⟩

theorem KeepsSeq.setEngine (c : Nat) (d : Device) (c' e : Nat) (x : Engine) : KeepsSeq c d (d.setEngine c' e x) :=
  ⟨rfl, rfl, fun _ _ => rfl⟩

theorem KeepsSeq.degradeTag (c : Nat) (d : Device) (t : Tag) : KeepsSeq c d (d.degradeTag c t) := by
  unfold Device.degradeTag
  dsimp only
  split
  · exact .refl c d
  · exact (KeepsSeq.of_cim (Device.cim_foldl (fun x s => Device.cim_tellOwner x _ _ (fun y => Device.cim_degrade y s)) _ _)).trans
      (KeepsSeq.modCore _ (fun _ => rfl) (fun _ => rfl))

theorem KeepsSeq.putCells (c : Nat) (d : Device) (p : Nat) (e : Engine) : KeepsSeq c d (d.putCells c p e) :=
  (KeepsSeq.setEngine c d c p e).trans (by
    unfold Device.putCells
    exact KeepsSeq.modCore _ (fun _ => rfl) (fun _ => rfl))

theorem KeepsSeq.writeEngineRow (c : Nat) (d : Device) (p r x y : Nat) (b : Bool) :
    KeepsSeq c d (d.writeEngineRow c p r x y b) := by
  unfold Device.writeEngineRow
  dsimp only
  split
  · exact (KeepsSeq.putCells c d _ _).trans (KeepsSeq.putCells c _ _ _)
  · exact KeepsSeq.putCells c d _ _

/-! ### A plane in its slot -/

theorem KeepsSeq.calm {c : Nat} {d e : Device} (h : Calm d e) : KeepsSeq c d e := KeepsSeq.of_cim h.cim

theorem KeepsSeq.readCount (c : Nat) (d : Device) (p w : Nat) (f : BitVec 39) : KeepsSeq c d (d.readCount c p w f) := by
  unfold Device.readCount
  split
  · exact .refl c d
  · exact .of_cim rfl
  · split
    · exact .refl c d
    · exact ⟨rfl, rfl, fun _ _ => rfl⟩

theorem Calm.engineErrAt (d : Device) (c a b e k n s w : Nat) : Calm d (d.engineErrAt c a b e k n s w) := by
  unfold Device.engineErrAt
  dsimp only
  repeat' apply Calm.ite
  all_goals first
    | exact (Calm.err d _ _ _).trans (Calm.bump _ _ _)
    | exact Calm.err d _ _ _

theorem KeepsSeq.evalPlane (c : Nat) (d : Device) (x : PlaneRun) : KeepsSeq c d (d.evalPlane c x).1 := by
  unfold Device.evalPlane Device.convFaults Device.readCounts
  dsimp only
  refine ((((KeepsSeq.foldl ?_ _ _).trans (KeepsSeq.foldl ?_ _ _))).trans (.of_cim (Device.bump_cim _ _ _))).trans
    (KeepsSeq.modCore _ (fun _ => rfl) (fun _ => rfl))
  · exact fun d r => KeepsSeq.readCount c d _ _ _
  · exact fun d f => (KeepsSeq.calm (Calm.engineErrAt d _ _ _ _ _ _ _ _)).trans (KeepsSeq.modEngine c _ _ _ _)

/-! ### Landing -/

/-- Landings that a list of results can bring: a plane brings its sums. -/
def landWeight (ls : List (Nat × Land)) : Nat := (ls.map (fun l => if l.2.isPlane then 2 else 1)).sum

theorem landWeight_cons (l : Nat × Land) (ls : List (Nat × Land)) :
    landWeight (l :: ls) = (if l.2.isPlane then 2 else 1) + landWeight ls := rfl

theorem landWeight_insert (t : Nat) (l : Land) (ls : List (Nat × Land)) :
    landWeight (insertLand t l ls) = (if l.isPlane then 2 else 1) + landWeight ls := by
  induction ls with
  | nil => rfl
  | cons x xs ih =>
    unfold insertLand
    split
    · rfl
    · rw [landWeight_cons, landWeight_cons, ih]; omega

theorem landWeight_le (ls : List (Nat × Land)) : landWeight ls ≤ 2 * ls.length := by
  induction ls with
  | nil => exact Nat.le_refl _
  | cons l ls ih => rw [landWeight_cons, List.length_cons]; split <;> omega

/-- What landing on core `c` keeps: its sequencer but for flags, marks and results in flight, and other cores. -/
structure Landed (c : Nat) (d e : Device) : Prop where
  ctl : (e.core c).seq.ctl = (d.core c).seq.ctl
  others : ∀ c', c' ≠ c → e.core c' = d.core c'

theorem Landed.refl (c : Nat) (d : Device) : Landed c d d := ⟨rfl, fun _ _ => rfl⟩

theorem Landed.trans {c : Nat} {d e g : Device} (h : Landed c d e) (k : Landed c e g) : Landed c d g :=
  ⟨k.ctl.trans h.ctl, fun c' hc => (k.others c' hc).trans (h.others c' hc)⟩

theorem KeepsSeq.landed {c : Nat} {d e : Device} (h : KeepsSeq c d e) : Landed c d e := ⟨h.ctl, h.others⟩

theorem Landed.fly (d : Device) (c t : Nat) (l : Land) : Landed c d (d.fly c t l) :=
  ⟨by unfold Device.fly; rw [Device.core_modCore_same]; rfl, fun _ hc => Device.core_modCore_other d _ hc⟩

/-- A result that becomes visible keeps the sequencer's fields, the other results in flight, and other cores; a plane
puts its sums in flight. -/
theorem Landed.applyLand (c t : Nat) (d : Device) (l : Land) :
    Landed c d (d.applyLand c t l) ∧
      landWeight ((d.applyLand c t l).core c).seq.landing + 1 =
        landWeight (d.core c).seq.landing + if l.isPlane then 2 else 1 := by
  have keep : ∀ {e : Device}, l.isPlane = false → KeepsSeq c d e → Landed c d e ∧ landWeight (e.core c).seq.landing + 1 =
      landWeight (d.core c).seq.landing + if l.isPlane then 2 else 1 :=
    fun hp k => ⟨k.landed, by rw [k.landing, hp]; rfl⟩
  cases l with
  | osum first n rows =>
    refine keep rfl ?_
    unfold Device.applyLand
    dsimp only
    refine KeepsSeq.trans ?_ (KeepsSeq.foldl (fun d t => KeepsSeq.degradeTag c d t) _ _)
    exact ⟨by simpa using (Seq.ctl_foldl_note _ _).1, by simpa using (Seq.ctl_foldl_note _ _).2,
      fun c' hc => Device.core_setCore_other d _ hc⟩
  | buf h o ws => exact keep rfl (KeepsSeq.of_cim (Device.cim_writeH _ _ _ _))
  | row p r x y b => exact keep rfl (KeepsSeq.writeEngineRow c d p r x y b)
  | enable p m e k =>
    refine keep rfl ?_
    unfold Device.applyLand
    dsimp only
    refine KeepsSeq.trans (e := if k then d.bump _ _ else d) ?_ (KeepsSeq.modEngine c _ _ _ _)
    split
    · exact .of_cim rfl
    · exact .refl c d
  | acc lo n ds bad tag =>
    refine keep rfl ?_
    unfold Device.applyLand
    exact KeepsSeq.modCore d (fun _ => Seq.ctl_notePoisonIf _ _ _) (fun _ => Seq.landing_notePoisonIf _ _ _)
  | plane x =>
    have k : KeepsSeq c d ((d.evalPlane c x).1.modCore c (fun y =>
        { y with seq := y.seq.notePoisonIf (!(d.evalPlane c x).2.2.isEmpty) x.tag })) :=
      (KeepsSeq.evalPlane c d x).trans (KeepsSeq.modCore _ (fun _ => Seq.ctl_notePoisonIf _ _ _)
        (fun _ => Seq.landing_notePoisonIf _ _ _))
    unfold Device.applyLand
    dsimp only
    refine ⟨k.landed.trans (Landed.fly _ _ _ _), ?_⟩
    unfold Device.fly
    rw [Device.core_modCore_same]
    dsimp only
    rw [landWeight_insert, k.landing]
    simp only [Land.isPlane, Bool.false_eq_true, if_false, if_true]
    omega
  | _ => refine keep rfl ?_; unfold Device.applyLand; refine KeepsSeq.modCore d ?_ ?_ <;> intro x <;> rfl

/-- A result lands now: none is in flight, or the first one lies past the limit. -/
def lastAt (lim : Option Nat) : List (Nat × Land) → Prop
  | [] => True
  | l :: _ => pastLim lim l.1 = true

/-- One result is taken off and lands, or none may. -/
theorem Device.landOne_spec (d : Device) (c : Nat) (lim : Option Nat) :
    match d.landOne c lim with
    | none => lastAt lim (d.core c).seq.landing
    | some e => Landed c d e ∧ landWeight (e.core c).seq.landing + 1 = landWeight (d.core c).seq.landing := by
  unfold Device.landOne
  cases hl : (d.core c).seq.landing with
  | nil => exact trivial
  | cons l ls =>
    dsimp only
    by_cases hb : pastLim lim l.1 = true
    · rw [if_pos hb]
      exact hb
    · rw [if_neg hb]
      have a := Landed.applyLand c l.1 (d.modCore c (fun x => { x with seq := { x.seq with landing := ls } })) l.2
      rw [Device.core_modCore_same] at a
      refine ⟨Landed.trans ⟨by rw [Device.core_modCore_same]; rfl, fun _ hc => Device.core_modCore_other d _ hc⟩ a.1, ?_⟩
      have := a.2
      rw [landWeight_cons]
      dsimp only at this ⊢
      omega

theorem Device.landMany_spec (c : Nat) (lim : Option Nat) (n : Nat) (d : Device) :
    Landed c d (Device.landMany c lim n d) ∧
      (landWeight (d.core c).seq.landing ≤ n → lastAt lim ((Device.landMany c lim n d).core c).seq.landing) := by
  induction n generalizing d with
  | zero =>
    refine ⟨.refl c d, fun h => ?_⟩
    unfold Device.landMany
    cases hl : (d.core c).seq.landing with
    | nil => exact trivial
    | cons l ls => rw [hl, landWeight_cons] at h; split at h <;> omega
  | succ n ih =>
    have s := Device.landOne_spec d c lim
    unfold Device.landMany
    cases ho : d.landOne c lim with
    | none => rw [ho] at s; exact ⟨.refl c d, fun _ => s⟩
    | some e =>
      rw [ho] at s
      exact ⟨s.1.trans (ih e).1, fun h => (ih e).2 (by have := s.2; omega)⟩

/-- Results that become visible by cycle `t`: the sequencer's fields and the other cores stay, and what is first in flight
afterwards is later than `t`. -/
theorem Device.landUpTo_spec (d : Device) (c t : Nat) :
    ((d.landUpTo c t).core c).seq.ctl = (d.core c).seq.ctl ∧
      lastAt (some t) ((d.landUpTo c t).core c).seq.landing ∧
      (∀ c', c' ≠ c → (d.landUpTo c t).core c' = d.core c') :=
  have s := Device.landMany_spec c (some t) (d.landFuel c) d
  ⟨s.1.ctl, s.2 (landWeight_le _), s.1.others⟩

/-- When everything has landed nothing is in flight. -/
theorem Device.landAll_spec (d : Device) (c : Nat) :
    ((d.landAll c).core c).seq.ctl = (d.core c).seq.ctl ∧ ((d.landAll c).core c).seq.landing = [] ∧
      (∀ c', c' ≠ c → (d.landAll c).core c' = d.core c') := by
  have s := Device.landMany_spec c none (d.landFuel c) d
  refine ⟨s.1.ctl, ?_, s.1.others⟩
  have h := s.2 (landWeight_le _)
  show ((Device.landMany c none (d.landFuel c) d).core c).seq.landing = []
  cases hl : ((Device.landMany c none (d.landFuel c) d).core c).seq.landing with
  | nil => rfl
  | cons l ls => rw [hl] at h; cases h

/-- Nothing more becomes visible at the same cycle. -/
theorem Device.landUpTo_idem (d : Device) (c t : Nat) : (d.landUpTo c t).landUpTo c t = d.landUpTo c t := by
  have h := (Device.landUpTo_spec d c t).2.1
  generalize d.landUpTo c t = e at h ⊢
  unfold Device.landUpTo
  cases Device.landFuel e c with
  | zero => rfl
  | succ n =>
    have s := Device.landOne_spec e c (some t)
    unfold Device.landMany
    unfold Device.landOne at s ⊢
    cases hl : (e.core c).seq.landing with
    | nil => rfl
    | cons l ls =>
      rw [hl] at h
      have h' : pastLim (some t) l.1 = true := h
      simp [h']

/-! ### Maquettes -/

theorem Device.cast_foldl {α : Type} {f : Device → α → Device} (h : ∀ d a, (f d a).cast = d.cast) (l : List α) (d : Device) :
    (l.foldl f d).cast = d.cast := by
  induction l generalizing d with
  | nil => rfl
  | cons a l ih => exact (ih _).trans (h d a)

theorem Device.cast_writeWords (d : Device) (w : Nat) (xs : List RWord) : (d.writeWords w xs).cast = d.cast := by
  induction xs generalizing d w with
  | nil => rfl
  | cons x xs ih =>
    unfold Device.writeWords
    dsimp only
    rw [ih]
    split <;> rfl

theorem Device.cast_writeH (d : Device) (h o : Nat) (xs : List RWord) : (d.writeH h o xs).cast = d.cast := by
  unfold Device.writeH; split
  · rfl
  · rw [Device.cast_writeWords, (Calm.closeRows d _ _).cast]

theorem Device.cast_degradeTag (d : Device) (c : Nat) (t : Tag) : (d.degradeTag c t).cast = d.cast := by
  unfold Device.degradeTag
  dsimp only
  split
  · rfl
  · refine Device.cast_foldl (fun x s => ?_) _ d
    have h : ∀ y : Device, (y.degrade s).cast = y.cast := fun y => by unfold Device.degrade; split <;> rfl
    unfold Device.tellOwner
    split
    · exact h x
    · split
      · exact h x
      · rfl

theorem Device.cast_readCount (d : Device) (c p w : Nat) (f : BitVec 39) : (d.readCount c p w f).cast = d.cast := by
  unfold Device.readCount
  split
  · rfl
  · rfl
  · split <;> rfl

theorem Device.cast_evalPlane (d : Device) (c : Nat) (x : PlaneRun) : (d.evalPlane c x).1.cast = d.cast := by
  unfold Device.evalPlane Device.convFaults Device.readCounts
  refine (Device.cast_foldl (fun e (f : Nat × Nat) => ?_) _ _).trans
    (Device.cast_foldl (fun e (r : Reading) => Device.cast_readCount e c _ _ r.flip) _ d)
  exact (Calm.engineErrAt e _ _ _ _ _ _ _ _).cast

theorem Device.cast_applyLand (d : Device) (c t : Nat) (l : Land) : (d.applyLand c t l).cast = d.cast := by
  cases l with
  | osum first n rows =>
    unfold Device.applyLand
    dsimp only
    rw [Device.cast_foldl (fun e t => Device.cast_degradeTag e c t)]
    rfl
  | buf h o ws => exact Device.cast_writeH _ _ _ _
  | row p r x y b => unfold Device.applyLand Device.writeEngineRow; dsimp only; split <;> rfl
  | enable p m e k => unfold Device.applyLand; dsimp only; split <;> rfl
  | plane x =>
    have h := Device.cast_evalPlane d c x
    unfold Device.applyLand Device.fly Device.modCore Device.setCore
    exact h
  | stage => rfl
  | q => rfl
  | accClear => rfl
  | acc => rfl
  | u => rfl
  | topk => rfl
  | topkClear => rfl
  | grid => rfl

theorem Device.cast_landMany (c : Nat) (lim : Option Nat) (n : Nat) (d : Device) :
    (Device.landMany c lim n d).cast = d.cast := by
  induction n generalizing d with
  | zero => rfl
  | succ n ih =>
    unfold Device.landMany
    split
    · rfl
    · rename_i e h
      rw [ih]
      unfold Device.landOne at h
      split at h
      · cases h
      · split at h
        · cases h
        · cases h; exact Device.cast_applyLand _ _ _ _

/-- What becomes visible changes no instance, no adapter and no precision record. -/
theorem Device.cast_landUpTo (d : Device) (c t : Nat) : (d.landUpTo c t).cast = d.cast := Device.cast_landMany _ _ _ _

theorem Device.cast_landAll (d : Device) (c : Nat) : (d.landAll c).cast = d.cast := Device.cast_landMany _ _ _ _

end Sys2Proof.Machine
end

