-- ==== Sys2Proof/Laws/Outcome.lean ====
section
/-!
SUPPORT. What a command can do to the queue and the supply, by the way its effect reaches the block.
-/
namespace Sys2Proof.Machine

/-- A command with an effect on the running block goes on. -/
theorem State.lift_eq (s : State) (f : Device → Device) :
    s.lift f = .next { s with dev := if s.alive then f s.dev else s.dev } := rfl

/-- On a block that acts the effect is the whole of the change. -/
theorem State.lift_alive {s : State} (h : s.alive = true) (f : Device → Device) :
    s.lift f = .next { s with dev := f s.dev } := by
  simp [State.lift_eq, h]

/-- A block that does not act keeps its state. -/
theorem State.lift_dark {s : State} (h : s.alive = false) (f : Device → Device) : s.lift f = .next s := by
  simp [State.lift_eq, h]

@[simp] theorem State.always_eq (s : State) (f : Device → Device) : s.always f = .next { s with dev := f s.dev } := rfl

theorem State.liftStage_eq (s : State) (f : Device → Device) : s.liftStage f = .next { s with dev :=
    if !s.sup.standby then s.dev else if s.sup.rstLow then { s.dev with pwr := (f s.dev).pwr } else f s.dev } := rfl

theorem State.viaTap_eq (s : State) (f : Device → Device) :
    s.viaTap f = .next { s with dev := if s.sup.standby then f s.dev else s.dev } := rfl

@[simp] theorem State.supplied_eq (s : State) (g : Supply) (f : Device → Device) :
    s.supplied g f = .next { s with sup := g, dev := f s.dev } := rfl

/-- The reset state acts. -/
theorem State.reset_alive : State.reset.alive = true := rfl

/-- The commands that move the supply or the reset pin. -/
def movesSupply : Instr → Bool
  | .powerOn | .standbyLoss | .rstNAssert | .rstNRelease _ => true
  | _ => false

/-- How a command reaches the block: through the running block, through the power stage, through the TAP, or it is one of
the six of the supply, the pins and the private TAP instructions. -/
inductive Reach (s : State) (o : Host.Outcome State Fault Refusal) : Instr → Prop where
  | lift {i : Instr} (f : Device → Device) (h : o = s.lift f) (hp : ofPins i = false) (hm : movesSupply i = false) :
      Reach s o i
  | stage {i : Instr} (f : Device → Device) (h : o = s.liftStage f) (hp : ofPins i = true)
      (hm : movesSupply i = false) : Reach s o i
  | tap {i : Instr} (f : Device → Device) (h : o = s.viaTap f) (hp : ofPins i = true) (hm : movesSupply i = false) (hf : ∀ d, f d = { d with free := (f d).free, out := (f d).out, tap := (f d).tap }) : Reach s o i
  | powerOn (h : o = execPowerOn s) : Reach s o .powerOn
  | standbyLoss (h : o = execStandbyLoss s) : Reach s o .standbyLoss
  | rstNAssert (h : o = execRstNAssert s) : Reach s o .rstNAssert
  | rstNRelease (st : Straps) (h : o = execRstNRelease st s) : Reach s o (.rstNRelease st)
  | strapSample (st : Straps) (h : o = execStrapSample st s) : Reach s o (.strapSample st)
  | tapPrivate (code : BitVec 8) (h : o = execTapPrivate code s) : Reach s o (.tapPrivate code)

/-- Every command reaches the block in one of these ways. -/
theorem exec_reach (i : Instr) (s : State) : Reach s (exec i s) i := by
  cases i with
  | nop _ _ => exact .lift _ (by unfold exec execNop; rfl) rfl rfl
  | step _ _ => exact .lift _ (by unfold exec execStep; rfl) rfl rfl
  | commit _ _ => exact .lift _ (by unfold exec execCommit; rfl) rfl rfl
  | commitMark _ => exact .lift _ (by unfold exec execCommitMark; rfl) rfl rfl
  | plinthRelease _ => exact .lift _ (by unfold exec execPlinthRelease; rfl) rfl rfl
  | grid _ _ => exact .lift _ (by unfold exec execGrid; rfl) rfl rfl
  | loop _ _ => exact .lift _ (by unfold exec execLoop; rfl) rfl rfl
  | endloop _ _ => exact .lift _ (by unfold exec execEndloop; rfl) rfl rfl
  | eval _ _ _ => exact .lift _ (by unfold exec execEval; rfl) rfl rfl
  | evalt _ _ _ => exact .lift _ (by unfold exec execEvalt; rfl) rfl rfl
  | evalx _ _ _ => exact .lift _ (by unfold exec execEvalx; rfl) rfl rfl
  | rdrow _ _ => exact .lift _ (by unfold exec execRdrow; rfl) rfl rfl
  | wrrow _ _ => exact .lift _ (by unfold exec execWrrow; rfl) rfl rfl
  | enable _ _ => exact .lift _ (by unfold exec execEnable; rfl) rfl rfl
  | read _ _ => exact .lift _ (by unfold exec execRead; rfl) rfl rfl
  | pack _ _ => exact .lift _ (by unfold exec execPack; rfl) rfl rfl
  | load _ _ => exact .lift _ (by unfold exec execLoad; rfl) rfl rfl
  | vadd _ _ => exact .lift _ (by unfold exec execVadd; rfl) rfl rfl
  | vsub _ _ => exact .lift _ (by unfold exec execVsub; rfl) rfl rfl
  | vmul _ _ => exact .lift _ (by unfold exec execVmul; rfl) rfl rfl
  | vfma _ _ => exact .lift _ (by unfold exec execVfma; rfl) rfl rfl
  | vmax _ _ => exact .lift _ (by unfold exec execVmax; rfl) rfl rfl
  | vmin _ _ => exact .lift _ (by unfold exec execVmin; rfl) rfl rfl
  | vmov _ _ => exact .lift _ (by unfold exec execVmov; rfl) rfl rfl
  | vexp _ _ => exact .lift _ (by unfold exec execVexp; rfl) rfl rfl
  | vrsqrt _ _ => exact .lift _ (by unfold exec execVrsqrt; rfl) rfl rfl
  | vrecip _ _ => exact .lift _ (by unfold exec execVrecip; rfl) rfl rfl
  | vrsum _ _ => exact .lift _ (by unfold exec execVrsum; rfl) rfl rfl
  | vrmax _ _ => exact .lift _ (by unfold exec execVrmax; rfl) rfl rfl
  | vrssq _ _ => exact .lift _ (by unfold exec execVrssq; rfl) rfl rfl
  | qset _ _ => exact .lift _ (by unfold exec execQset; rfl) rfl rfl
  | pata _ _ => exact .lift _ (by unfold exec execPata; rfl) rfl rfl
  | patb _ _ => exact .lift _ (by unfold exec execPatb; rfl) rfl rfl
  | outl _ _ => exact .lift _ (by unfold exec execOutl; rfl) rfl rfl
  | copy _ _ => exact .lift _ (by unfold exec execCopy; rfl) rfl rfl
  | copyDone _ _ _ => exact .lift _ (by unfold exec execCopyDone; rfl) rfl rfl
  | gather _ _ => exact .lift _ (by unfold exec execGather; rfl) rfl rfl
  | gatherDone _ _ _ => exact .lift _ (by unfold exec execGatherDone; rfl) rfl rfl
  | scatter _ _ => exact .lift _ (by unfold exec execScatter; rfl) rfl rfl
  | scatterDone _ _ _ => exact .lift _ (by unfold exec execScatterDone; rfl) rfl rfl
  | signal _ _ => exact .lift _ (by unfold exec execSignal; rfl) rfl rfl
  | wait _ _ => exact .lift _ (by unfold exec execWait; rfl) rfl rfl
  | arrive _ _ => exact .lift _ (by unfold exec execArrive; rfl) rfl rfl
  | topk _ _ => exact .lift _ (by unfold exec execTopk; rfl) rfl rfl
  | topkout _ _ => exact .lift _ (by unfold exec execTopkout; rfl) rfl rfl
  | topkmrg _ _ => exact .lift _ (by unfold exec execTopkmrg; rfl) rfl rfl
  | sample _ _ => exact .lift _ (by unfold exec execSample; rfl) rfl rfl
  | holdTimeout _ => exact .lift _ (by unfold exec execHoldTimeout; rfl) rfl rfl
  | elasticStart _ _ _ => exact .lift _ (by unfold exec execElasticStart; rfl) rfl rfl
  | pauseRequest _ _ => exact .lift _ (by unfold exec execPauseRequest; rfl) rfl rfl
  | countRecomputeDone _ _ _ => exact .lift _ (by unfold exec execCountRecomputeDone; rfl) rfl rfl
  | calFreeSlotUse _ _ _ _ => exact .lift _ (by unfold exec execCalFreeSlotUse; rfl) rfl rfl
  | rotationBatchStart _ _ => exact .lift _ (by unfold exec execRotationBatchStart; rfl) rfl rfl
  | rotationCheck _ _ => exact .lift _ (by unfold exec execRotationCheck; rfl) rfl rfl
  | selectionAttemptDone _ _ _ => exact .lift _ (by unfold exec execSelectionAttemptDone; rfl) rfl rfl
  | patternRecal _ _ _ _ => exact .lift _ (by unfold exec execPatternRecal; rfl) rfl rfl
  | engineReplaceSwitch _ _ => exact .lift _ (by unfold exec execEngineReplaceSwitch; rfl) rfl rfl
  | batchStale _ _ _ => exact .lift _ (by unfold exec execBatchStale; rfl) rfl rfl
  | calSliceReserve _ => exact .lift _ (by unfold exec execCalSliceReserve; rfl) rfl rfl
  | calibrationSliceEnd _ => exact .lift _ (by unfold exec execCalibrationSliceEnd; rfl) rfl rfl
  | calProbe _ _ _ _ => exact .lift _ (by unfold exec execCalProbe; rfl) rfl rfl
  | monitorWindowClose _ _ _ _ => exact .lift _ (by unfold exec execMonitorWindowClose; rfl) rfl rfl
  | redundancyHintWrite _ => exact .lift _ (by unfold exec execRedundancyHintWrite; rfl) rfl rfl
  | revisitPeriodWrite _ => exact .lift _ (by unfold exec execRevisitPeriodWrite; rfl) rfl rfl
  | overflowWindowClose _ _ => exact .lift _ (by unfold exec execOverflowWindowClose; rfl) rfl rfl
  | referenceStep _ _ => exact .lift _ (by unfold exec execReferenceStep; rfl) rfl rfl
  | createHandle _ => exact .lift _ (by unfold exec execCreateHandle; rfl) rfl rfl
  | releaseHandle _ => exact .lift _ (by unfold exec execReleaseHandle; rfl) rfl rfl
  | handleZeroDone _ => exact .lift _ (by unfold exec execHandleZeroDone; rfl) rfl rfl
  | handleRecreate _ => exact .lift _ (by unfold exec execHandleRecreate; rfl) rfl rfl
  | combineWindowClose _ _ _ => exact .lift _ (by unfold exec execCombineWindowClose; rfl) rfl rfl
  | patrolRead _ _ _ _ => exact .lift _ (by unfold exec execPatrolRead; rfl) rfl rfl
  | scrubWriteback _ _ => exact .lift _ (by unfold exec execScrubWriteback; rfl) rfl rfl
  | attentionDescriptor _ => exact .lift _ (by unfold exec execAttentionDescriptor; rfl) rfl rfl
  | attentionDescriptorDone _ => exact .lift _ (by unfold exec execAttentionDescriptorDone; rfl) rfl rfl
  | pageRequest _ _ => exact .lift _ (by unfold exec execPageRequest; rfl) rfl rfl
  | pagePartialReceive _ _ => exact .lift _ (by unfold exec execPagePartialReceive; rfl) rfl rfl
  | spanNeutralAnswer _ _ => exact .lift _ (by unfold exec execSpanNeutralAnswer; rfl) rfl rfl
  | remoteFrameRequest _ => exact .lift _ (by unfold exec execRemoteFrameRequest; rfl) rfl rfl
  | remoteFrameAnswer _ _ _ _ => exact .lift _ (by unfold exec execRemoteFrameAnswer; rfl) rfl rfl
  | frameRelease _ _ => exact .lift _ (by unfold exec execFrameRelease; rfl) rfl rfl
  | frameZeroDone _ _ _ => exact .lift _ (by unfold exec execFrameZeroDone; rfl) rfl rfl
  | submit _ => exact .lift _ (by unfold exec execSubmit; rfl) rfl rfl
  | cancel _ => exact .lift _ (by unfold exec execCancel; rfl) rfl rfl
  | deadlinePass _ => exact .lift _ (by unfold exec execDeadlinePass; rfl) rfl rfl
  | retentionExpiry _ => exact .lift _ (by unfold exec execRetentionExpiry; rfl) rfl rfl
  | tenantServingWrite _ => exact .lift _ (by unfold exec execTenantServingWrite; rfl) rfl rfl
  | instanceServingWrite _ => exact .lift _ (by unfold exec execInstanceServingWrite; rfl) rfl rfl
  | expertControlWrite _ => exact .lift _ (by unfold exec execExpertControlWrite; rfl) rfl rfl
  | castOpen _ _ => exact .lift _ (by unfold exec execCastOpen; rfl) rfl rfl
  | chunk _ => exact .lift _ (by unfold exec execChunk; rfl) rfl rfl
  | castClose _ => exact .lift _ (by unfold exec execCastClose; rfl) rfl rfl
  | castAbort _ => exact .lift _ (by unfold exec execCastAbort; rfl) rfl rfl
  | swapOpen _ _ => exact .lift _ (by unfold exec execSwapOpen; rfl) rfl rfl
  | layerRewriteStart _ => exact .lift _ (by unfold exec execLayerRewriteStart; rfl) rfl rfl
  | layerRewriteDone _ => exact .lift _ (by unfold exec execLayerRewriteDone; rfl) rfl rfl
  | regionRecast _ => exact .lift _ (by unfold exec execRegionRecast; rfl) rfl rfl
  | regionRecastDone _ => exact .lift _ (by unfold exec execRegionRecastDone; rfl) rfl rfl
  | adapterInstall _ => exact .lift _ (by unfold exec execAdapterInstall; rfl) rfl rfl
  | adapterVersionCurrent _ => exact .lift _ (by unfold exec execAdapterVersionCurrent; rfl) rfl rfl
  | adapterRecordWrite _ => exact .lift _ (by unfold exec execAdapterRecordWrite; rfl) rfl rfl
  | adapterRemove _ => exact .lift _ (by unfold exec execAdapterRemove; rfl) rfl rfl
  | packetReceive _ _ => exact .lift _ (by unfold exec execPacketReceive; rfl) rfl rfl
  | multicastReceive _ _ => exact .lift _ (by unfold exec execMulticastReceive; rfl) rfl rfl
  | retryRequest _ _ => exact .lift _ (by unfold exec execRetryRequest; rfl) rfl rfl
  | helloSend _ => exact .lift _ (by unfold exec execHelloSend; rfl) rfl rfl
  | helloReceive _ _ => exact .lift _ (by unfold exec execHelloReceive; rfl) rfl rfl
  | portTrained _ _ => exact .lift _ (by unfold exec execPortTrained; rfl) rfl rfl
  | portTrainTimeout _ => exact .lift _ (by unfold exec execPortTrainTimeout; rfl) rfl rfl
  | laneAlignmentLoss _ => exact .lift _ (by unfold exec execLaneAlignmentLoss; rfl) rfl rfl
  | retryLimitExceeded _ => exact .lift _ (by unfold exec execRetryLimitExceeded; rfl) rfl rfl
  | silenceTimeout _ => exact .lift _ (by unfold exec execSilenceTimeout; rfl) rfl rfl
  | routeNotice _ _ _ => exact .lift _ (by unfold exec execRouteNotice; rfl) rfl rfl
  | reorderHoldExpiry _ _ _ => exact .lift _ (by unfold exec execReorderHoldExpiry; rfl) rfl rfl
  | reorderEntryIdle _ _ _ => exact .lift _ (by unfold exec execReorderEntryIdle; rfl) rfl rfl
  | probeWaitExpiry _ => exact .lift _ (by unfold exec execProbeWaitExpiry; rfl) rfl rfl
  | probeTimeout _ => exact .lift _ (by unfold exec execProbeTimeout; rfl) rfl rfl
  | echoAnswer _ => exact .lift _ (by unfold exec execEchoAnswer; rfl) rfl rfl
  | portRecordWrite _ => exact .lift _ (by unfold exec execPortRecordWrite; rfl) rfl rfl
  | portDrainDone _ => exact .lift _ (by unfold exec execPortDrainDone; rfl) rfl rfl
  | coordinateWrite _ => exact .lift _ (by unfold exec execCoordinateWrite; rfl) rfl rfl
  | timeExchangeSend _ => exact .lift _ (by unfold exec execTimeExchangeSend; rfl) rfl rfl
  | timeFlitReceive _ _ _ _ _ => exact .lift _ (by unfold exec execTimeFlitReceive; rfl) rfl rfl
  | syncPacketReceive _ => exact .lift _ (by unfold exec execSyncPacketReceive; rfl) rfl rfl
  | remoteWaiterRetry _ => exact .lift _ (by unfold exec execRemoteWaiterRetry; rfl) rfl rfl
  | bind _ => exact .lift _ (by unfold exec execBind; rfl) rfl rfl
  | unbind _ => exact .lift _ (by unfold exec execUnbind; rfl) rfl rfl
  | handSet _ => exact .lift _ (by unfold exec execHandSet; rfl) rfl rfl
  | dictRead _ _ _ => exact .lift _ (by unfold exec execDictRead; rfl) rfl rfl
  | dictWrite _ _ _ => exact .lift _ (by unfold exec execDictWrite; rfl) rfl rfl
  | dictAbort _ _ _ => exact .lift _ (by unfold exec execDictAbort; rfl) rfl rfl
  | dictDescribe _ _ _ => exact .lift _ (by unfold exec execDictDescribe; rfl) rfl rfl
  | dictEcho _ _ _ => exact .lift _ (by unfold exec execDictEcho; rfl) rfl rfl
  | transferTimeout _ _ _ => exact .lift _ (by unfold exec execTransferTimeout; rfl) rfl rfl
  | latchTimeout _ _ => exact .lift _ (by unfold exec execLatchTimeout; rfl) rfl rfl
  | defineTenant _ => exact .lift _ (by unfold exec execDefineTenant; rfl) rfl rfl
  | undefineTenant _ => exact .lift _ (by unfold exec execUndefineTenant; rfl) rfl rfl
  | createContext _ => exact .lift _ (by unfold exec execCreateContext; rfl) rfl rfl
  | releaseContext _ => exact .lift _ (by unfold exec execReleaseContext; rfl) rfl rfl
  | keyInstall _ => exact .lift _ (by unfold exec execKeyInstall; rfl) rfl rfl
  | keyRemove _ => exact .lift _ (by unfold exec execKeyRemove; rfl) rfl rfl
  | keyClaim _ => exact .lift _ (by unfold exec execKeyClaim; rfl) rfl rfl
  | acknowledgedSequenceWrite _ => exact .lift _ (by unfold exec execAcknowledgedSequenceWrite; rfl) rfl rfl
  | imageLoad _ => exact .lift _ (by unfold exec execImageLoad; rfl) rfl rfl
  | imagePull => exact .lift _ (by unfold exec execImagePull; rfl) rfl rfl
  | imagePullResponse _ _ => exact .lift _ (by unfold exec execImagePullResponse; rfl) rfl rfl
  | imageStart => exact .lift _ (by unfold exec execImageStart; rfl) rfl rfl
  | raiseFloor _ => exact .lift _ (by unfold exec execRaiseFloor; rfl) rfl rfl
  | attestationReady _ _ => exact .lift _ (by unfold exec execAttestationReady; rfl) rfl rfl
  | attestationRequest _ => exact .lift _ (by unfold exec execAttestationRequest; rfl) rfl rfl
  | diagnosticUnlock _ => exact .lift _ (by unfold exec execDiagnosticUnlock; rfl) rfl rfl
  | testPassOpen _ => exact .lift _ (by unfold exec execTestPassOpen; rfl) rfl rfl
  | passOverdue _ => exact .lift _ (by unfold exec execPassOverdue; rfl) rfl rfl
  | forcedSpacingExpiry _ => exact .lift _ (by unfold exec execForcedSpacingExpiry; rfl) rfl rfl
  | fieldTestSliceEnd _ _ => exact .lift _ (by unfold exec execFieldTestSliceEnd; rfl) rfl rfl
  | logicScanSliceEnd _ _ => exact .lift _ (by unfold exec execLogicScanSliceEnd; rfl) rfl rfl
  | sporePackInstall _ => exact .lift _ (by unfold exec execSporePackInstall; rfl) rfl rfl
  | sporePackRemove _ => exact .lift _ (by unfold exec execSporePackRemove; rfl) rfl rfl
  | scanSecurityTile _ => exact .lift _ (by unfold exec execScanSecurityTile; rfl) rfl rfl
  | healthFlagAction _ => exact .lift _ (by unfold exec execHealthFlagAction; rfl) rfl rfl
  | coreHealthWrite _ => exact .lift _ (by unfold exec execCoreHealthWrite; rfl) rfl rfl
  | coreDrained _ => exact .lift _ (by unfold exec execCoreDrained; rfl) rfl rfl
  | replicaScanStart _ => exact .lift _ (by unfold exec execReplicaScanStart; rfl) rfl rfl
  | replicaScanDone _ => exact .lift _ (by unfold exec execReplicaScanDone; rfl) rfl rfl
  | replicaDigestReceive _ _ => exact .lift _ (by unfold exec execReplicaDigestReceive; rfl) rfl rfl
  | replicaScanTimeout _ => exact .lift _ (by unfold exec execReplicaScanTimeout; rfl) rfl rfl
  | powerOn => exact .powerOn rfl
  | undervoltage => exact .stage _ (by unfold exec execUndervoltage; rfl) rfl rfl
  | overvoltage => exact .stage _ (by unfold exec execOvervoltage; rfl) rfl rfl
  | overvoltageClear => exact .stage _ (by unfold exec execOvervoltageClear; rfl) rfl rfl
  | overcurrent => exact .stage _ (by unfold exec execOvercurrent; rfl) rfl rfl
  | standbyLoss => exact .standbyLoss rfl
  | psSyncLock _ => exact .stage _ (by unfold exec execPsSyncLock; rfl) rfl rfl
  | psSyncLoss _ => exact .stage _ (by unfold exec execPsSyncLoss; rfl) rfl rfl
  | adcDeliver _ => exact .lift _ (by unfold exec execAdcDeliver; rfl) rfl rfl
  | urgentRequest _ => exact .lift _ (by unfold exec execUrgentRequest; rfl) rfl rfl
  | sequenceWrite _ => exact .lift _ (by unfold exec execSequenceWrite; rfl) rfl rfl
  | sequenceControlWrite _ => exact .lift _ (by unfold exec execSequenceControlWrite; rfl) rfl rfl
  | thermalModelUpdate _ => exact .lift _ (by unfold exec execThermalModelUpdate; rfl) rfl rfl
  | modelConverged => exact .lift _ (by unfold exec execModelConverged; rfl) rfl rfl
  | anchorCheck => exact .lift _ (by unfold exec execAnchorCheck; rfl) rfl rfl
  | enginePause _ _ => exact .lift _ (by unfold exec execEnginePause; rfl) rfl rfl
  | rstNAssert => exact .rstNAssert rfl
  | rstNRelease _ => exact .rstNRelease _ rfl
  | strapSample _ => exact .strapSample _ rfl
  | deviceResetWrite _ _ => exact .lift _ (by unfold exec execDeviceResetWrite; rfl) rfl rfl
  | clusterResetWrite _ => exact .lift _ (by unfold exec execClusterResetWrite; rfl) rfl rfl
  | clusterResetDrained _ => exact .lift _ (by unfold exec execClusterResetDrained; rfl) rfl rfl
  | clusterRecordWrite _ => exact .lift _ (by unfold exec execClusterRecordWrite; rfl) rfl rfl
  | clusterPark _ => exact .lift _ (by unfold exec execClusterPark; rfl) rfl rfl
  | wakeRequest _ => exact .lift _ (by unfold exec execWakeRequest; rfl) rfl rfl
  | crossingResetRequest _ => exact .lift _ (by unfold exec execCrossingResetRequest; rfl) rfl rfl
  | crossingResetAck _ => exact .lift _ (by unfold exec execCrossingResetAck; rfl) rfl rfl
  | crossingReady _ => exact .lift _ (by unfold exec execCrossingReady; rfl) rfl rfl
  | crossingFallback _ => exact .lift _ (by unfold exec execCrossingFallback; rfl) rfl rfl
  | mesochronousRecentre _ => exact .lift _ (by unfold exec execMesochronousRecentre; rfl) rfl rfl
  | refclkDetect => exact .lift _ (by unfold exec execRefclkDetect; rfl) rfl rfl
  | railsRamped => exact .lift _ (by unfold exec execRailsRamped; rfl) rfl rfl
  | centralBlockReady _ => exact .lift _ (by unfold exec execCentralBlockReady; rfl) rfl rfl
  | clusterWave _ _ => exact .lift _ (by unfold exec execClusterWave; rfl) rfl rfl
  | clusterReady _ => exact .lift _ (by unfold exec execClusterReady; rfl) rfl rfl
  | pllLockTimeout _ => exact .lift _ (by unfold exec execPllLockTimeout; rfl) rfl rfl
  | refclkLoss => exact .lift _ (by unfold exec execRefclkLoss; rfl) rfl rfl
  | refclkRestore => exact .lift _ (by unfold exec execRefclkRestore; rfl) rfl rfl
  | tapBypass => exact .tap _ (by unfold exec execTapBypass; rfl) rfl rfl (fun _ => rfl)
  | tapIdcode => exact .tap _ (by unfold exec execTapIdcode; rfl) rfl rfl (fun _ => rfl)
  | tapSamplePreload _ => exact .tap _ (by unfold exec execTapSamplePreload; rfl) rfl rfl (fun _ => rfl)
  | tapExtest _ => exact .tap _ (by unfold exec execTapExtest; rfl) rfl rfl (fun _ => rfl)
  | tapPrivate _ => exact .tapPrivate _ rfl
  | pauseEnd _ => exact .lift _ (by unfold exec execPauseEnd; rfl) rfl rfl
  | idleFlitReceive _ _ => exact .lift _ (by unfold exec execIdleFlitReceive; rfl) rfl rfl
  | plcaBeacon => exact .lift _ (by unfold exec execPlcaBeacon; rfl) rfl rfl
  | sidebandCarrierChange _ => exact .lift _ (by unfold exec execSidebandCarrierChange; rfl) rfl rfl

end Sys2Proof.Machine
end

