-- ==== Sys2Proof/Laws/Words.lean ====
section
/-!
SUPPORT. What step words do besides their results: a word that issues goes on; notes, faults and counters of engine words leave
registers, other cores and stored bytes alone; a result put in flight is in flight and displaces none.
-/
namespace Sys2Proof.Machine

/-- A command of a running block goes on with what its meaning makes of the block. -/
theorem lift_goes {s : State} (h : s.alive = true) {o : Host.Outcome State Fault Refusal} {f : Device → Device}
    (e : o = s.lift f) : o = s.goes (f s.dev) := by
  rw [e, State.lift_alive h]; rfl

theorem run_issues {s : State} {c : CoreIx} {w plan t d} (h : s.issues c w plan t d) (eff) :
    s.lift (fun d => d.run c.val w plan eff) = s.goes (eff t d) := by
  rw [State.lift_alive h.1]
  simp only [Device.run, h.2, State.goes]

structure Quiet (c : Nat) (d e : Device) : Prop where
  regs : (e.core c).regs = (d.core c).regs
  others : ∀ c', c' ≠ c → e.core c' = d.core c'
  m : e.mem.m = d.mem.m
  await : ∀ t l, d.awaits c t l → e.awaits c t l

theorem Quiet.refl (c d) : Quiet c d d := ⟨rfl, fun _ _ => rfl, rfl, fun _ _ h => h⟩
theorem Quiet.trans {c d e f} (h : Quiet c d e) (k : Quiet c e f) : Quiet c d f :=
  ⟨k.regs.trans h.regs, fun c' hc => (k.others c' hc).trans (h.others c' hc), k.m.trans h.m, fun t l a => k.await t l (h.await t l a)⟩
theorem Quiet.of_core {c} {d e : Device} (h : ∀ c', e.core c' = d.core c') (hm : e.mem.m = d.mem.m) : Quiet c d e :=
  ⟨by rw [h], fun c' _ => h c', hm, fun t l a => by unfold Device.awaits at *; rw [h]; exact a⟩
theorem Quiet.bump (c) (d : Device) (k n) : Quiet c d (d.bump k n) := .of_core (fun _ => rfl) rfl
theorem Quiet.modEngine (c) (d : Device) (a b f) : Quiet c d (d.modEngine a b f) := .of_core (fun _ => rfl) rfl
theorem Quiet.calm {c} {d e : Device} (h : Calm d e) : Quiet c d e := .of_core h.core h.m
theorem Quiet.modCore {c} (d : Device) {f : CimCore → CimCore} (h1 : ∀ x, (f x).regs = x.regs) (h2 : ∀ x, (f x).seq.landing = x.seq.landing) :
   Quiet c d (d.modCore c f) :=
  ⟨by rw [Device.core_modCore_same, h1], fun c' hc => Device.core_modCore_other d f hc, rfl,
   fun t l a => by unfold Device.awaits at *; rw [Device.core_modCore_same, h2]; exact a⟩
theorem Quiet.fly (c) (d : Device) (t l) : Quiet c d (d.fly c t l) := by
  unfold Device.fly
  refine ⟨by rw [Device.core_modCore_same], fun c' hc => Device.core_modCore_other d _ hc, rfl, fun t' l' a => ?_⟩
  unfold Device.awaits at *
  rw [Device.core_modCore_same]
  have : ∀ ls : List (Nat × Land), (t', l') ∈ ls → (t', l') ∈ insertLand t l ls := by
      intro ls; induction ls with
      | nil => intro h; cases h
      | cons a ls ih => 
        intro h; unfold insertLand; split
        · exact List.mem_cons_of_mem _ h
        · rcases List.mem_cons.mp h with rfl | h
          · simp
          · exact List.mem_cons_of_mem _ (ih h)
  exact this _ a
theorem awaits_fly (d : Device) (c t l) : (d.fly c t l).awaits c t l := by
  unfold Device.awaits Device.fly
  rw [Device.core_modCore_same]
  dsimp only
  have : ∀ ls : List (Nat × Land), (t, l) ∈ insertLand t l ls := by
    intro ls; induction ls with
    | nil => simp [insertLand]
    | cons a ls ih => unfold insertLand; split <;> simp [ih]
  exact this _
theorem Quiet.foldl {α : Type} {c : Nat} {f : Device → α → Device} (h : ∀ d a, Quiet c d (f d a)) (l : List α)
    (d : Device) : Quiet c d (l.foldl f d) := by
  induction l generalizing d with
  | nil => exact .refl c d
  | cons a l ih => exact (h d a).trans (ih _)
theorem Quiet.engineErr (c) (d : Device) (a b e f g h i) : Quiet c d (d.engineErr a b e f g h i) :=
  Quiet.calm (Calm.engineErrAt _ _ _ _ _ _ _ _ _)
theorem Quiet.convFaults (c) (d : Device) (a b e f g h) : Quiet c d (d.convFaults a b e f g h) := by
  unfold Device.convFaults
  exact Quiet.foldl (fun d f => (Quiet.calm (Calm.engineErrAt _ _ _ _ _ _ _ _ _)).trans (Quiet.modEngine _ _ _ _ _)) _ _
theorem Quiet.readCount (c) (d : Device) (a b w f) : Quiet c d (d.readCount a b w f) := by
  unfold Device.readCount
  split
  · exact .refl _ _
  · exact .of_core (fun _ => rfl) rfl
  · split
    · exact .refl _ _
    · exact .of_core (fun _ => rfl) rfl
theorem Quiet.readCounts (c) (d : Device) (a b rd) : Quiet c d (d.readCounts a b rd) :=
  Quiet.foldl (fun d _ => Quiet.readCount c d _ _ _ _) _ _
theorem Quiet.putCells (c) (d : Device) (b e) : Quiet c d (d.putCells c b e) := by
  unfold Device.putCells
  dsimp only
  refine Quiet.trans (Quiet.of_core (e := d.setEngine c b e) (fun _ => rfl) rfl) ?_
  exact Quiet.modCore _ (fun _ => rfl) (fun _ => rfl)
theorem Quiet.takeSlots (c) (d : Device) (b t ss) : Quiet c d (d.takeSlots c b t ss) := by
  unfold Device.takeSlots Device.settleSlots
  dsimp only
  exact ((Quiet.putCells c d _ _).trans (Quiet.bump _ _ _ _)).trans (Quiet.modEngine _ _ _ _ _)
theorem Quiet.probeFaults (c) (d : Device) (a b e f g h) : Quiet c d (d.probeFaults a b e f g h) := by
  unfold Device.probeFaults
  refine Quiet.foldl (fun d f => ?_) _ _
  split
  · exact Quiet.engineErr _ _ _ _ _ _ _ _ _
  · exact (Quiet.engineErr _ _ _ _ _ _ _ _ _).trans (Quiet.modEngine _ _ _ _ _)
theorem landing_noteBuffer (q : Seq) (b t) : (q.noteBufferIf b t).landing = q.landing := by
  unfold Seq.noteBufferIf; split
  · cases t <;> rfl
  · rfl
theorem Quiet.flyBuf (c) (d : Device) (t h o ws) : Quiet c d (d.flyBuf c t h o ws) := by
  unfold Device.flyBuf
  dsimp only
  split
  · exact Quiet.fly _ _ _ _
  · refine (Quiet.fly c d _ _).trans (Quiet.modCore _ (fun _ => rfl) (fun x => ?_))
    dsimp only
    have h1 : ∀ (l : List Nat) (q : Seq), (l.foldl (fun (q : Seq) p => q.notePoison (.pos p)) q).landing = q.landing := by
      intro l; induction l with
      | nil => intro q; rfl
      | cons a l ih => intro q; exact (ih _).trans (Seq.landing_notePoison _ _)
    have h2 : ∀ (l : List Tag) (q : Seq), (l.foldl (fun (q : Seq) p => q.noteBufferIf true p) q).landing = q.landing := by
      intro l; induction l with
      | nil => intro q; rfl
      | cons a l ih => intro q; exact (ih _).trans (landing_noteBuffer _ _ _)
    rw [h1, h2]
theorem awaits_flyBuf (d : Device) (c t h o ws) : (d.flyBuf c t h o ws).awaits c t (.buf h o (ws.map (·.1))) := by
  unfold Device.flyBuf
  dsimp only
  split
  · exact awaits_fly _ _ _ _
  · have h1 : ∀ (l : List Nat) (q : Seq), (l.foldl (fun (q : Seq) p => q.notePoison (.pos p)) q).landing = q.landing := by
      intro l; induction l with
      | nil => intro q; rfl
      | cons a l ih => intro q; exact (ih _).trans (Seq.landing_notePoison _ _)
    have h2 : ∀ (l : List Tag) (q : Seq), (l.foldl (fun (q : Seq) p => q.noteBufferIf true p) q).landing = q.landing := by
      intro l; induction l with
      | nil => intro q; rfl
      | cons a l ih => intro q; exact (ih _).trans (landing_noteBuffer _ _ _)
    have := awaits_fly d c t (.buf h o (ws.map (·.1)))
    unfold Device.awaits at *
    rw [Device.core_modCore_same]
    dsimp only
    rw [h1, h2]; exact this
theorem foldl_mem {α : Type} {F : Device → α → Device} {c : Nat} {P : α → Device → Prop}
    (hQ : ∀ d g, Quiet c d (F d g)) (hI : ∀ d g, P g (F d g)) (hM : ∀ d e g, Quiet c d e → P g d → P g e) :
    ∀ (l : List α) (d : Device), ∀ g ∈ l, P g (l.foldl F d) := by
  intro l
  induction l with
  | nil => intro d g h; cases h
  | cons a l ih =>
    intro d g h
    rcases List.mem_cons.mp h with rfl | h
    · exact hM _ _ _ (Quiet.foldl hQ l _) (hI d g)
    · exact ih _ g h
theorem gridPos_mem {r : Core} {p : Nat} (h : p < 2 ^ (r.gi + r.go)) : (p, p / 2 ^ r.go, p % 2 ^ r.go) ∈ gridPos r := by
  unfold gridPos; rw [List.mem_map]; exact ⟨p, List.mem_range.mpr h, rfl⟩

theorem cim_m_degrade (d : Device) (s) : (d.degrade s).mem = d.mem := by unfold Device.degrade; split <;> rfl
theorem m_tellOwner (d : Device) (i : Nat) (m : Coord → OutMsg) {f : Device → Device} (h : ∀ x, (f x).mem.m = x.mem.m) :
    (d.tellOwner i m f).mem.m = d.mem.m := by
  unfold Device.tellOwner
  split
  · exact h d
  · split
    · exact h d
    · rfl
theorem Quiet.degradeTag (c) (d : Device) (t) : Quiet c d (d.degradeTag c t) := by
  unfold Device.degradeTag
  dsimp only
  split
  · exact .refl c d
  · refine Quiet.trans (Quiet.foldl (fun d s => ?_) _ _) (Quiet.modCore _ (fun _ => rfl) (fun _ => rfl))
    exact Quiet.of_core (fun c' => congrArg (fun (z : Cim) => Tbl.get CimCore.reset z.cores c')
      (Device.cim_tellOwner d _ _ (fun y => Device.cim_degrade y s))) (m_tellOwner d _ _ (fun y => by rw [cim_m_degrade]))
theorem Quiet.layerOver (c) (d : Device) (a b n t) : Quiet c d (d.layerOver c a b n t) := by
  unfold Device.layerOver
  split
  · exact .refl c d
  · dsimp only
    refine Quiet.trans (Quiet.trans (e := (d.bump (key 0x7041 2) n).setLayerRec _ _ _) (Quiet.of_core (fun _ => rfl) rfl) (Quiet.modCore _ ?_ ?_)) (Quiet.degradeTag _ _ _) <;> intro x <;> rfl
structure Kept (c : Nat) (d e : Device) : Prop where
  acc : (e.core c).regs.acc = (d.core c).regs.acc
  osum : (e.core c).regs.osum = (d.core c).regs.osum
  stage : (e.core c).regs.stage = (d.core c).regs.stage
  q : (e.core c).regs.q = (d.core c).regs.q
  loops : (e.core c).regs.loops = (d.core c).regs.loops
  others : ∀ c', c' ≠ c → e.core c' = d.core c'
  m : e.mem.m = d.mem.m
theorem Kept.trans {c d e f} (h : Kept c d e) (k : Kept c e f) : Kept c d f :=
  ⟨k.acc.trans h.acc, k.osum.trans h.osum, k.stage.trans h.stage, k.q.trans h.q, k.loops.trans h.loops,
   fun c' hc => (k.others c' hc).trans (h.others c' hc), k.m.trans h.m⟩
theorem Quiet.kept {c d e} (h : Quiet c d e) : Kept c d e := by
  refine ⟨?_, ?_, ?_, ?_, ?_, h.others, h.m⟩ <;> rw [h.regs]
theorem Quiet.noteCompact (c) (d : Device) (w m) : Quiet c d (d.noteCompact c w m) := by
  unfold Device.noteCompact; split
  · refine (Quiet.bump _ _ _ _).trans (Quiet.modCore _ ?_ ?_) <;> intro x <;> rfl
  · exact .refl _ _
theorem Kept.takeVector (c) (d : Device) (w o t) : Kept c d (d.takeVector c w o t) ∧ ((d.takeVector c w o t).core c).regs.held = o.elim (d.core c).regs.held (fun b => some b.hv) := by
  unfold Device.takeVector
  cases o with
  | none => exact ⟨(Quiet.refl _ _).kept, rfl⟩
  | some b =>
    dsimp only
    constructor
    · refine Kept.trans ⟨?_, ?_, ?_, ?_, ?_, fun c' hc => Device.core_modCore_other _ _ hc, ?_⟩ (Quiet.layerOver _ _ _ _ _ _).kept <;> first | rw [Device.core_modCore_same] | rfl
    · rw [(Quiet.layerOver _ _ _ _ _ _).regs, Device.core_modCore_same]; rfl
theorem Kept.reuseVector (c) (d : Device) (w b) : Kept c d (d.reuseVector c w b) ∧ ((d.reuseVector c w b).core c).regs.held = (d.core c).regs.held := by
  unfold Device.reuseVector
  split
  · refine ⟨⟨?_, ?_, ?_, ?_, ?_, fun c' hc => Device.core_modCore_other _ _ hc, ?_⟩, ?_⟩ <;> first | rw [Device.core_modCore_same] | rfl
  · exact ⟨(Quiet.refl _ _).kept, rfl⟩
theorem Quiet.sendPlanes (c) (d : Device) (ne slot w h rd t0 t g) : Quiet c d (d.sendPlanes c ne slot w h rd t0 t g) := by
  unfold Device.sendPlanes
  dsimp only
  split
  · exact (Quiet.bump _ _ _ _).trans (Quiet.fly _ _ _ _)
  · exact (Quiet.takeSlots c d _ _ _).trans (Quiet.foldl (fun d x => Quiet.fly c d _ _) _ _)
theorem Quiet.evaltAt (c) (d : Device) (w rd t o h g) : Quiet c d (d.evaltAt c w rd t o h g) := by
  unfold Device.evaltAt
  dsimp only
  refine (((((Quiet.takeSlots c d _ _ _).trans (Quiet.readCounts _ _ _ _ _)).trans (Quiet.convFaults _ _ _ _ _ _ _ _)).trans
    (Quiet.bump _ _ _ _)).trans (Quiet.modCore _ ?_ ?_)).trans (Quiet.flyBuf _ _ _ _ _ _) <;> intro x <;> rfl
theorem Quiet.evalxAt (c) (d : Device) (w rd t o h g) : Quiet c d (d.evalxAt c w rd t o h g) := by
  unfold Device.evalxAt
  dsimp only
  exact (((Quiet.takeSlots c d _ _ _).trans (Quiet.readCounts _ _ _ _ _)).trans (Quiet.probeFaults _ _ _ _ _ _ _ _)).trans
    (Quiet.flyBuf _ _ _ _ _ _)

/-! ### Results of the vector, patina and top-k words -/

theorem Quiet.notes (c) (d : Device) (l : List Tag) :
    Quiet c d (d.modCore c (fun x => { x with seq := l.foldl (fun (q : Seq) t => q.notePoisonIf true t) x.seq })) :=
  Quiet.modCore d (fun _ => rfl) (fun x => (Seq.ctl_foldl_note l x.seq).2)
theorem flyStage_spec (c) (d : Device) (t lo rs) :
    Quiet c d (d.flyStage c t lo rs) ∧ (d.flyStage c t lo rs).awaits c t (.stage lo (rs.map (·.1))) := by
  unfold Device.flyStage
  dsimp only
  have k := (Quiet.notes c (d.fly c t (.stage lo (rs.map (·.1)))) ((List.filter (fun (v : VWord × Bool) => v.1.poison) rs).map (·.1.tag))).trans
    (Quiet.foldl (fun d t => Quiet.degradeTag c d t) ((List.filter (fun (v : VWord × Bool) => v.2) rs).map (·.1.tag)) _)
  exact ⟨(Quiet.fly _ _ _ _).trans k, k.await _ _ (awaits_fly _ _ _ _)⟩
theorem Quiet.burstOver (c) (d : Device) (i l n) : Quiet c d (d.burstOver c i l n) := by
  unfold Device.burstOver
  dsimp only
  refine Quiet.trans (e := (d.bump (key 0x7041 1) n).setLayerRec i l _) (Quiet.of_core (fun _ => rfl) rfl)
    (Quiet.modCore _ ?_ ?_) <;> intro x <;> rfl
theorem flyQ_spec (c) (d : Device) (t r v b) :
    Quiet c d (d.flyQ c t r v b) ∧ (d.flyQ c t r v b).awaits c t (.q r v) := by
  unfold Device.flyQ
  dsimp only
  have k : Quiet c (d.fly c t (.q r v)) ((d.fly c t (.q r v)).modCore c (fun x => { x with seq := x.seq.notePoisonIf v.poison v.tag })) :=
    Quiet.modCore _ (fun _ => rfl) (fun x => by simp)
  split
  · exact ⟨((Quiet.fly _ _ _ _).trans k).trans (Quiet.degradeTag _ _ _), (k.trans (Quiet.degradeTag _ _ _)).await _ _ (awaits_fly _ _ _ _)⟩
  · exact ⟨(Quiet.fly _ _ _ _).trans k, k.await _ _ (awaits_fly _ _ _ _)⟩

end Sys2Proof.Machine
end

