-- ==== Sys2Proof/Laws/Issue.lean ====
section
/-!
SUPPORT. Issue (R95) and the end of a step (R96): what the waits come to, and what a step that ends leaves behind.
-/
namespace Sys2Proof.Machine

theorem ctl_eq {q r : Seq} (h : q.ctl = r.ctl) : q.phase = r.phase ∧ q.plan = r.plan ∧ q.word = r.word ∧ q.rows = r.rows ∧ q.prev = r.prev ∧ q.ended = r.ended ∧ q.status = r.status ∧ q.wait = r.wait ∧ q.pause = r.pause ∧ q.board = r.board ∧ q.tags = r.tags ∧ q.resv = r.resv ∧ q.ops = r.ops := by
  cases q; cases r; simp_all [Seq.ctl]

theorem boardWait_ok {b rs} : ∀ n t u, boardWait b rs n t = .ok u → (n = b.length + 1 → True) → t ≤ u := by
  intro n
  induction n with
  | zero => intro t u h _; cases h; exact Nat.le_refl _
  | succ n ih =>
    intro t u h _
    unfold boardWait at h
    split at h
    · cases h; exact Nat.le_refl _
    · rename_i e es he
      split at h
      · cases h
      · have := ih _ _ h (by simp)
        refine Nat.le_trans ?_ this
        have hm : ∀ (l : List SbEntry) (m : Nat), m ≤ l.foldl (fun m x => max m (x.freed.getD t)) m := by
          intro l; induction l with
          | nil => intro m; exact Nat.le_refl _
          | cons a l ih2 => intro m; exact Nat.le_trans (Nat.le_max_left _ _) (ih2 _)
        exact hm _ _

def later (b : List SbEntry) (t : Nat) : Nat := (b.filter (fun e => match e.freed with | none => true | some f => decide (t < f))).length

theorem later_mono {b : List SbEntry} {t u : Nat} (h : t ≤ u) : later b u ≤ later b t := by
  unfold later
  induction b with
  | nil => simp
  | cons e b ih =>
    simp only [List.filter_cons]
    cases hf : e.freed with
    | none => simp; exact ih
    | some f =>
      by_cases h1 : u < f
      · simp [h1, show t < f by omega]; exact ih
      · by_cases h2 : t < f
        · simp [h1, h2]; omega
        · simp [h1, h2]; exact ih

theorem later_lt {b : List SbEntry} {t u f : Nat} {e : SbEntry} (h : t ≤ u) (he : e ∈ b) (hf : e.freed = some f) (h1 : t < f) (h2 : f ≤ u) :
    later b u < later b t := by
  unfold later
  induction b with
  | nil => cases he
  | cons a b ih =>
    simp only [List.filter_cons]
    rcases List.mem_cons.mp he with rfl | he
    · have := later_mono (b := b) h
      unfold later at this
      rw [hf]
      simp [h1, show ¬ u < f by omega]; omega
    · have := ih he
      cases ha : a.freed with
      | none => simp; exact this
      | some g =>
        by_cases h3 : u < g
        · simp [h3, show t < g by omega]; exact this
        · by_cases h4 : t < g
          · simp [h3, h4]; omega
          · simp [h3, h4]; exact this

theorem boardWait_free {b rs} : ∀ n t u, later b t ≤ n → boardWait b rs (n+1) t = .ok u → boardHits b rs u = [] := by
  intro n
  induction n with
  | zero =>
    intro t u hl h
    unfold boardWait at h
    split at h
    · cases h; assumption
    · rename_i e es he
      exfalso
      have hm : e ∈ boardHits b rs t := by rw [he]; simp
      simp only [boardHits, List.mem_filter, SbEntry.holds, SbEntry.busy] at hm
      have : e ∈ b.filter (fun e => match e.freed with | none => true | some f => decide (t < f)) := by
        rw [List.mem_filter]; refine ⟨hm.1, ?_⟩
        have := hm.2
        simp at this; exact this.1.2.2
      have := List.length_pos_of_mem this
      unfold later at hl; omega
  | succ n ih =>
    intro t u hl h
    unfold boardWait at h
    split at h
    · cases h; assumption
    · rename_i e es he
      split at h
      · cases h
      · rename_i hn
        refine ih _ _ ?_ h
        have hm : e ∈ boardHits b rs t := by rw [he]; simp
        simp only [boardHits, List.mem_filter, SbEntry.holds, SbEntry.busy] at hm
        have h2 := hm.2
        simp at h2
        cases hf : e.freed with
        | none =>
          simp at hn
          exact absurd hf hn.1
        | some f =>
          rw [hf] at h2; simp at h2
          have hmax : ∀ (l : List SbEntry) (m : Nat), m ≤ l.foldl (fun m x => max m (x.freed.getD t)) m := by
            intro l; induction l with
            | nil => intro m; exact Nat.le_refl _
            | cons a l ih2 => intro m; exact Nat.le_trans (Nat.le_max_left _ _) (ih2 _)
          have hx : max t f ≤ (e :: es).foldl (fun m x => max m (x.freed.getD t)) t := by
            simp only [List.foldl_cons, hf, Option.getD_some]; exact hmax _ _
          have := later_lt (b := b) (t := t) (u := (e :: es).foldl (fun m x => max m (x.freed.getD t)) t) (by omega) hm.1 hf h2.1.2.2 (by omega)
          omega

theorem afterTags_ge (q : Seq) (ts : List Nat) : ∀ t0, t0 ≤ q.afterTags ts t0 := by
  unfold Seq.afterTags
  induction ts with
  | nil => intro t; exact Nat.le_refl _
  | cons a l ih => intro t; exact Nat.le_trans (Nat.le_max_left _ _) (ih _)
theorem afterTags_mem (q : Seq) (ts : List Nat) : ∀ t0, ∀ g ∈ ts, (q.tagSt g).signal.getD 0 ≤ q.afterTags ts t0 := by
  unfold Seq.afterTags
  induction ts with
  | nil => intro t g h; cases h
  | cons a l ih =>
    intro t g h
    rcases List.mem_cons.mp h with rfl | h
    · exact Nat.le_trans (Nat.le_max_right t _) (afterTags_ge q l _)
    · exact ih _ g h

theorem reach_cim (d : Device) (u) : (d.reach u).cim = d.cim := by
  unfold Device.reach Device.advance; split <;> rfl
theorem reachCyc_core (d : Device) (u c) : (d.reachCyc u).core c = d.core c := by
  unfold Device.reachCyc; simp only [Device.core, reach_cim]

theorem issueAt_spec {d d' : Device} {c w p t2 wt pq was t} (h : d.issueAt c w p t2 wt pq was = (some t, d')) :
    p.fault = none ∧ t2 ≤ t ∧ boardHits (d.core c).seq.board (p.ranges.map (·.1)) t = [] ∧
    (∀ r ∈ p.units.map (Resv.shift t), ∀ o ∈ (d.core c).seq.resv, o.overlaps r = false) ∧
    (d'.core c).seq.prev = t ∧ (d'.core c).seq.word = (d.core c).seq.word + 1 ∧ (d'.core c).seq.wait = none := by
  unfold Device.issueAt at h
  dsimp only at h
  split at h
  · cases h
  · rename_i hf
    split at h
    · cases h
    · generalize ht3 : descriptorFrom was t2 = t3 at h
      have h3 : t2 ≤ t3 := by
        rw [← ht3]; unfold descriptorFrom; cases was with
        | none => exact Nat.le_refl _
        | some x => dsimp only; split <;> omega
      split at h
      · cases h
      · rename_i u hu
        split at h
        · cases h
        · rename_i hov
          cases h
          have hl : later (d.core c).seq.board t3 ≤ (d.core c).seq.board.length := List.length_filter_le _ _
          refine ⟨hf, Nat.le_trans h3 (boardWait_ok _ _ _ hu (by simp)), boardWait_free _ _ _ hl hu, ?_, ?_⟩
          · intro r hr o ho
            have := hov
            simpa using List.any_eq_false.mp (by simpa using List.any_eq_false.mp (Bool.eq_false_iff.mpr this) r hr) o ho
          · rw [Device.core_modCore_same]
            have hk := (Device.landUpTo_spec ((((d.bump (key 49184 3) wt).bump (key 49184 2) (t - t2))).reachCyc t) c t).1
            rw [reachCyc_core] at hk
            have hw := (ctl_eq hk).2.2.1
            exact ⟨rfl, by simpa [Seq.commitIssue, Seq.yieldStart] using hw, rfl⟩

theorem afterTags_le (q : Seq) (ts : List Nat) : ∀ t0, (∀ g ∈ ts, (q.tagSt g).signal.getD 0 ≤ t0) → q.afterTags ts t0 = t0 := by
  unfold Seq.afterTags
  induction ts with
  | nil => intro t _; rfl
  | cons a l ih =>
    intro t h
    simp only [List.foldl_cons]
    rw [Nat.max_eq_left (h a (by simp))]
    exact ih t (fun g hg => h g (by simp [hg]))

theorem withdraw_cim (d : Device) (w) : (d.withdraw w).cim = d.cim := by
  unfold Device.withdraw; split
  · rfl
  · split <;> rfl
theorem dropWaiters_core (d : Device) (c) : (d.dropWaiters c).core c = { d.core c with seq := { (d.core c).seq with
    ops := List.filter (fun (o : ElOp) => decide (o.kind ≠ .sync)) (d.core c).seq.ops } } := by
  unfold Device.dropWaiters
  dsimp only
  rw [Device.core_modCore_same]
  have : ∀ (l : List Waiter) (e : Device), (l.foldl (fun d w => d.withdraw w) e).cim = e.cim :=
    fun l e => Device.cim_foldl withdraw_cim l e
  simp only [Device.core, Device.setSync, Device.sendAll, Device.takeWaiters, this]
theorem endStep_core (d : Device) (c code t loc) (h0 : (d.core c).seq.status = 0) :
   ((d.endStep c code t loc).core c).seq.ended = true ∧ ((d.endStep c code t loc).core c).seq.status = code ∧ ((d.endStep c code t loc).core c).seq.prev = t := by
  unfold Device.endStep
  dsimp only
  rw [Device.core_modCore_same]
  refine ⟨rfl, ?_, rfl⟩
  dsimp only
  rw [Device.core_bump, (Calm.err _ _ _ _).core, dropWaiters_core, reachCyc_core, if_pos h0]
theorem ctr_other {d e : Device} (k n j) (h : e = d.bump k n) (hj : j ≠ k) : e.ctr j = d.ctr j := by rw [h, Device.ctr_bump_other _ hj]
theorem err_ctr (d : Device) (e k n) (j) (h1 : j ≠ key 0xA012 1) (h2 : j ≠ key 0xA012 2) (h3 : j ≠ key 0xA012 3) : (d.err e k n).ctr j = d.ctr j := by
  unfold Device.err; dsimp only
  split
  · rw [Device.ctr_bump_other _ h2]; rfl
  · split
    · rw [Device.ctr_bump_other _ h3, Device.ctr_bump_other _ h1]; rfl
    · rw [Device.ctr_bump_other _ h1]; rfl
theorem foldl_ctr {α} {f : Device → α → Device} {j} (h : ∀ d a, (f d a).ctr j = d.ctr j) (l : List α) (d : Device) : (l.foldl f d).ctr j = d.ctr j := by
  induction l generalizing d with
  | nil => rfl
  | cons a l ih => exact (ih _).trans (h d a)
theorem withdraw_ctr (d : Device) (w j) (hj : j ≠ key 0xB030 7) : (d.withdraw w).ctr j = d.ctr j := by
  unfold Device.withdraw; split
  · rfl
  · split
    · dsimp only; rw [Device.ctr_bump_other _ hj]; rfl
    · rfl
theorem dropWaiters_ctr (d : Device) (c j) (hj : j ≠ key 0xB030 7) : (d.dropWaiters c).ctr j = d.ctr j := by
  unfold Device.dropWaiters
  dsimp only
  show Device.ctr (List.foldl _ _ _) j = _
  rw [foldl_ctr (fun d w => withdraw_ctr d w j hj)]
  rfl
theorem reach_ctr (d : Device) (u j) : (d.reach u).ctr j = d.ctr j := by
  unfold Device.reach Device.advance; split <;> rfl
theorem Device.ctr_modCore (d : Device) (c : Nat) (f : CimCore → CimCore) (j) : (d.modCore c f).ctr j = d.ctr j := rfl
theorem endStep_ctr (d : Device) (c t loc) : (d.endStep c stSchedule t loc).ctr (key 0xC020 1) = min (2 ^ 64 - 1) (d.ctr (key 0xC020 1) + 1) := by
  unfold Device.endStep
  dsimp only
  rw [Device.ctr_modCore, show faultCounter stSchedule = key 0xC020 1 from rfl, Device.ctr_bump_same _ _ _, err_ctr _ _ _ _ _ (by decide) (by decide) (by decide),
    dropWaiters_ctr _ _ _ (by decide)]
  unfold Device.reachCyc
  rw [reach_ctr]

end Sys2Proof.Machine
end

