-- ==== Sys2Proof/Laws/Counts.lean ====
section
/-!
SUPPORT. Notifications and error records count in the counters of the links, the dictionary and the error log only.
-/
namespace Sys2Proof.Machine

/-- A counter that is none of the links', the dictionary's or the error log's. -/
abbrev farCtr (j : Nat) : Prop := j / 256 ≠ 0x4030 ∧ j / 256 ≠ 0x5020 ∧ j / 256 ≠ 0xA012

theorem Device.ctr_bump_far (d : Device) {j : Nat} (h : farCtr j) (k n : Nat)
    (hk : k / 256 = 0x4030 ∨ k / 256 = 0x5020 ∨ k / 256 = 0xA012) : (d.bump k n).ctr j = d.ctr j :=
  Device.ctr_bump_other _ (fun e => by subst e; obtain ⟨a, b, c⟩ := h; rcases hk with h | h | h; exact a h; exact b h; exact c h)

theorem Device.pump_ctr (d : Device) {j : Nat} (h : farCtr j) (p n : Nat) : (d.pump p n).ctr j = d.ctr j := by
  induction n generalizing d with
  | zero => rfl
  | succ n ih =>
    unfold Device.pump
    dsimp only
    split
    · rfl
    · split
      · rfl
      · split
        · rfl
        · exact (ih _).trans (Device.ctr_bump_far _ h _ _ (.inl rfl))

theorem Device.enqueue_ctr (d : Device) {j : Nat} (h : farCtr j) (p c : Nat) (fs : List Flit) : (d.enqueue p c fs).ctr j = d.ctr j :=
  Device.pump_ctr _ h _ _

theorem Device.noRoute_ctr (d : Device) {j : Nat} (h : farCtr j) (c : Nat) (k : Packet) : (d.noRoute c k).ctr j = d.ctr j := by
  unfold Device.noRoute
  dsimp only
  split <;> exact Device.ctr_bump_far d h _ _ (.inl rfl)

theorem Device.forward_ctr (d : Device) {j : Nat} (hj : farCtr j) (c g h : Nat) (x : Coord) (k : Packet) :
    (d.forward c g h x k).ctr j = d.ctr j := by
  unfold Device.forward
  dsimp only
  split
  · exact Device.noRoute_ctr d hj _ _
  · split
    · exact Device.ctr_bump_far d hj _ _ (.inl rfl)
    · split
      · exact (Device.enqueue_ctr _ hj _ _ _).trans (Device.ctr_bump_far d hj _ _ (.inl rfl))
      · exact Device.enqueue_ctr _ hj _ _ _

theorem Device.sendPdu_ctr (d : Device) {j : Nat} (hj : farCtr j) (c k : Nat) (x : Coord) (t : Tenant) (f : BitVec 16)
    (bs : List Byte) : (d.sendPdu c k x t f bs).ctr j = d.ctr j := by
  unfold Device.sendPdu Device.originate
  dsimp only
  split
  · rfl
  · refine (Device.forward_ctr _ hj _ _ _ _ _).trans ?_
    unfold Device.nextSeq
    split <;> rfl

theorem Device.sendNotify_ctr (d : Device) {j : Nat} (hj : farCtr j) (b : Bool) (x : Coord) (t n : Nat) (r : List Byte) :
    (d.sendNotify b x t n r).ctr j = d.ctr j := by
  unfold Device.sendNotify
  dsimp only
  split
  · rfl
  · exact Device.sendPdu_ctr _ hj _ _ _ _ _ _

theorem Device.notifyOne_ctr (d : Device) {j : Nat} (hj : farCtr j) (a b c e x y z : Nat) :
    (d.notifyOne a b c e x y z).2.ctr j = d.ctr j := by
  unfold Device.notifyOne
  dsimp only
  have h1 : ∀ (b : Bool) (u : Device), (if b = true then u.bump (key 0x5020 7) 1 else u).ctr j = u.ctr j := fun b u => by
    split
    · exact Device.ctr_bump_far _ hj (key 0x5020 7) 1 (.inr (.inl rfl))
    · rfl
  rw [foldl_ctr (fun d s => by split; exact Device.sendNotify_ctr _ hj _ _ _ _ _; rfl), Device.sendNotify_ctr _ hj, h1]
  exact Device.ctr_bump_far _ hj (key 0x5020 6) 1 (.inr (.inl rfl))

theorem Device.notify_ctr (d : Device) {j : Nat} (hj : farCtr j) (a b c e x y z : Nat) :
    (d.notify a b c e x y z).ctr j = d.ctr j := by
  unfold Device.notify
  dsimp only
  split
  · exact (Device.notifyOne_ctr _ hj _ _ _ _ _ _ _).trans (Device.notifyOne_ctr d hj _ _ _ _ _ _ _)
  · exact Device.notifyOne_ctr d hj _ _ _ _ _ _ _

theorem Device.err_ctr (d : Device) {j : Nat} (hj : farCtr j) (e : ErrAt) (k n : Nat) : (d.err e k n).ctr j = d.ctr j := by
  unfold Device.err
  dsimp only
  split
  · exact Device.ctr_bump_far _ hj _ _ (.inr (.inr rfl))
  · split
    · exact (Device.ctr_bump_far _ hj _ _ (.inr (.inr rfl))).trans (Device.ctr_bump_far _ hj _ _ (.inr (.inr rfl)))
    · exact Device.ctr_bump_far _ hj _ _ (.inr (.inr rfl))

end Sys2Proof.Machine
end

