-- ==== Sys2Proof/Laws/Ends.lean ====
section
/-!
SUPPORT. The end of a request: what it leaves in its own entry, and that it leaves other entries, instances, adapters, cores and
control records alone.
-/
namespace Sys2Proof.Machine

theorem Device.req_setReq_same (d : Device) (i x) : (d.setReq i x).req i = x := Tbl.get_set_same _ _ _ _
theorem Device.req_setReq_other (d : Device) {i j} (x) (h : j ≠ i) : (d.setReq i x).req j = d.req j := Tbl.get_set_other _ _ _ h

/-- `e` differs from `d` in counters, versions, regions, handles, stored bytes and what is sent only: a write closes the
windows of the rows it reaches, which sends their words. -/
structure EndFrame (d e : Device) : Prop where
  clk : e.clk = d.clk
  cim : e.cim = d.cim
  out : ∃ l, e.out = d.out ++ l
  serv : e.serv = d.serv
  insts : e.cast.insts = d.cast.insts
  adapters : e.cast.adapters = d.cast.adapters
  layers : e.cast.layers = d.cast.layers

theorem EndFrame.refl (d) : EndFrame d d := ⟨rfl, rfl, ⟨[], (List.append_nil _).symm⟩, rfl, rfl, rfl, rfl⟩
theorem EndFrame.trans {d e g} (h : EndFrame d e) (k : EndFrame e g) : EndFrame d g := ⟨k.1.trans h.1, k.2.trans h.2, let ⟨l, hl⟩ := h.3; let ⟨m, hm⟩ := k.3; ⟨l ++ m, by rw [hm, hl, List.append_assoc]⟩, k.4.trans h.4, k.5.trans h.5, k.6.trans h.6, k.7.trans h.7⟩
theorem EndFrame.writeWords (d : Device) (wa ws) : EndFrame d (d.writeWords wa ws) := by
  induction ws generalizing d wa with
  | nil => exact .refl d
  | cons x xs ih =>
    unfold Device.writeWords
    dsimp only
    refine EndFrame.trans ?_ (ih _ _)
    split <;> exact ⟨rfl, rfl, ⟨[], (List.append_nil _).symm⟩, rfl, rfl, rfl, rfl⟩
theorem EndFrame.closeRows (d : Device) (a n : Nat) : EndFrame d (d.closeRows a n) :=
  let h := Calm.closeRows d a n
  ⟨h.clk, h.cim, h.out, h.serv, by rw [h.cast], by rw [h.cast], by rw [h.cast]⟩
theorem EndFrame.writeH (d : Device) (h o ws) : EndFrame d (d.writeH h o ws) := by
  unfold Device.writeH; split
  · exact .refl d
  · exact (EndFrame.closeRows d _ _).trans (EndFrame.writeWords _ _ _)
theorem EndFrame.startRelease (d : Device) (h) : EndFrame d (d.startRelease h) := by
  unfold Device.startRelease; split <;> exact ⟨rfl, rfl, ⟨[], (List.append_nil _).symm⟩, rfl, rfl, rfl, rfl⟩
theorem EndFrame.releaseAll (hs : List Nat) (d : Device) : EndFrame d (hs.foldl (fun d h => d.startRelease h) d) := by
  induction hs generalizing d with
  | nil => exact .refl d
  | cons a l ih => exact (EndFrame.startRelease d a).trans (ih _)
theorem EndFrame.freeVersion (d : Device) (v) : EndFrame d (d.freeVersion v) := by
  unfold Device.freeVersion
  dsimp only
  have h := EndFrame.releaseAll (((d.version v).hA ++ (d.version v).hB).map (·.2)) d
  exact ⟨h.clk, h.cim, h.out, h.serv, h.insts, h.adapters, h.layers⟩
theorem EndFrame.unpin (d : Device) (v) : EndFrame d (d.unpin v) := by
  unfold Device.unpin; split
  · exact .refl d
  · dsimp only; split
    · exact EndFrame.trans (e := d.setVersion v _) ⟨rfl, rfl, ⟨[], (List.append_nil _).symm⟩, rfl, rfl, rfl, rfl⟩ (EndFrame.freeVersion _ _)
    · exact ⟨rfl, rfl, ⟨[], (List.append_nil _).symm⟩, rfl, rfl, rfl, rfl⟩
theorem EndFrame.countEnd (d : Device) (a b c) : EndFrame d (d.countEnd a b c) := by
  unfold Device.countEnd
  dsimp only
  repeat' split
  all_goals exact ⟨rfl, rfl, ⟨[], (List.append_nil _).symm⟩, rfl, rfl, rfl, rfl⟩

def endAux (d : Device) (slot : Nat) : ReqAux :=
  { d.aux slot with inRound := false, failure := none, token := none, fenced := false, sent := d.clk.up, recorded := d.time32 }
theorem Device.closeReq_eq (d : Device) (slot st c) :
    let e := d.closeReq slot st c
    e.serv = ((d.setReq slot { d.req slot with state := st, status := c, pin := 0 }).setAux slot (endAux d slot)).serv ∧ e.clk = d.clk ∧ e.cim = d.cim ∧ (∃ l, e.out = d.out ++ l) ∧ e.cast.insts = d.cast.insts ∧ e.cast.adapters = d.cast.adapters := by
  unfold Device.closeReq
  dsimp only
  have hc := EndFrame.countEnd d st c (d.req slot).cancel
  generalize d.countEnd st c (d.req slot).cancel = g at *
  have h1 := fun (x : Device) i o w v => (EndFrame.writeH x i o w).trans (EndFrame.unpin _ v)
  refine ⟨(h1 _ _ _ _ _).serv.trans ?_, (h1 _ _ _ _ _).clk.trans hc.clk, (h1 _ _ _ _ _).cim.trans hc.cim, ?_,
    (h1 _ _ _ _ _).insts.trans hc.insts, (h1 _ _ _ _ _).adapters.trans hc.adapters⟩
  · unfold endAux Device.setAux Device.setReq Device.aux Device.time32
    dsimp only
    rw [hc.serv, hc.clk]
  · obtain ⟨l, hl⟩ := hc.out
    obtain ⟨m, hm⟩ := (h1 _ _ _ _ _).out
    exact ⟨l ++ m, hm.trans (by rw [← List.append_assoc, ← hl]; rfl)⟩
theorem Device.closeReq_serv (d : Device) (slot st c) : ∃ a e, d.closeReq slot st c = e ∧ a.inRound = false ∧ a.sent = d.clk.up ∧ a.car = (d.aux slot).car ∧ a.source = (d.aux slot).source ∧
    e.serv = ((d.setReq slot { d.req slot with state := st, status := c, pin := 0 }).setAux slot a).serv ∧ e.clk = d.clk ∧ e.cim = d.cim ∧ (∃ l, e.out = d.out ++ l) ∧
    e.cast.insts = d.cast.insts ∧ e.cast.adapters = d.cast.adapters :=
  ⟨endAux d slot, _, rfl, rfl, rfl, rfl, rfl, Device.closeReq_eq d slot st c⟩

theorem Device.endReq_spec (d : Device) (slot st c) (h : (d.req slot).live = true) :
    let v := d.endReq slot st c
    v.req slot = { d.req slot with state := st, status := c, pin := 0 } ∧ (∀ j, j ≠ slot → v.req j = d.req j) ∧
    (v.aux slot).inRound = false ∧ (v.aux slot).sent = d.clk.up ∧ v.clk = d.clk ∧ v.cim = d.cim ∧
    ∃ l p, v.out = d.out ++ l ++ [.result (d.aux slot).car (d.aux slot).source (BitVec.ofNat 9 (d.req slot).tenant) p] := by
  obtain ⟨a, e, he, h1, h2, h3, h4, hs, hk, hm, ho, _⟩ := Device.closeReq_serv d slot st c
  unfold Device.endReq
  rw [if_pos h, he]
  have hr : e.serv.reqs = (d.setReq slot { d.req slot with state := st, status := c, pin := 0 }).serv.reqs := by rw [hs]; rfl
  have ha : e.aux slot = a := by
    show Tbl.get ReqAux.free e.serv.aux slot = a
    rw [hs]; exact Tbl.get_set_same _ _ _ _
  have hq : e.req slot = { d.req slot with state := st, status := c, pin := 0 } := by
    show Tbl.get ReqEnt.free e.serv.reqs slot = _
    rw [hr]; exact Device.req_setReq_same _ _ _
  dsimp only
  unfold Device.sendRecord
  refine ⟨hq, fun j hj => ?_, ?_, ?_, hk, hm, ?_⟩
  · show Tbl.get ReqEnt.free e.serv.reqs j = _
    rw [hr]; exact Device.req_setReq_other _ _ hj
  · show (e.aux slot).inRound = _; rw [ha]; exact h1
  · show (e.aux slot).sent = _; rw [ha]; exact h2
  · dsimp only
    rw [ha, hq, h3, h4]
    obtain ⟨l, hl⟩ := ho
    exact ⟨l, _, congrArg (· ++ _) hl⟩

/-- fences keep the control tables -/
theorem Device.fenceReq_ctl (d : Device) (k) : (d.fenceReq k).serv.tenants = d.serv.tenants ∧ (d.fenceReq k).serv.insts = d.serv.insts ∧
    (d.fenceReq k).cast.insts = d.cast.insts ∧ (d.fenceReq k).cast.adapters = d.cast.adapters := by
  unfold Device.fenceReq
  split
  · exact ⟨rfl, rfl, rfl, rfl⟩
  · split
    · exact ⟨rfl, rfl, rfl, rfl⟩
    · unfold Device.endReq
      split
      · obtain ⟨a, e, he, _, _, _, _, hs, _, _, _, h1, h2⟩ := Device.closeReq_serv d k rsFailed 5
        rw [he]
        show e.serv.tenants = _ ∧ e.serv.insts = _ ∧ e.cast.insts = _ ∧ e.cast.adapters = _
        rw [hs]; exact ⟨rfl, rfl, h1, h2⟩
      · exact ⟨rfl, rfl, rfl, rfl⟩
theorem Device.fenceAll_ctl (d : Device) (p) : (d.fenceAll p).serv.tenants = d.serv.tenants ∧ (d.fenceAll p).serv.insts = d.serv.insts ∧
    (d.fenceAll p).cast.insts = d.cast.insts ∧ (d.fenceAll p).cast.adapters = d.cast.adapters := by
  unfold Device.fenceAll
  generalize List.filter _ d.serv.reqs = l
  induction l generalizing d with
  | nil => exact ⟨rfl, rfl, rfl, rfl⟩
  | cons a l ih =>
    rw [List.foldl_cons]
    have h := ih (d.fenceReq a.1)
    have k := Device.fenceReq_ctl d a.1
    exact ⟨h.1.trans k.1, h.2.1.trans k.2.1, h.2.2.1.trans k.2.2.1, h.2.2.2.trans k.2.2.2⟩

end Sys2Proof.Machine
end

