-- ==== Sys2Proof/Laws/Links.lean ====
section
/-!
SUPPORT. Sending over the links touches only the sending side of ports: every port keeps its state, what it expects and what it
knows of its neighbour.
-/
namespace Sys2Proof.Machine

/-- Every port keeps all but its sending side, and the links known to be down and the coordinate stay. -/
def LinkKeep (d e : Device) : Prop :=
  (∀ q, (e.port q).kept = (d.port q).kept) ∧ e.fab.down = d.fab.down ∧ e.fab.coord = d.fab.coord ∧ e.fab.written = d.fab.written

/-- Besides, the same devices are unreachable, and the same echoes are out. -/
def PortKeep (d e : Device) : Prop :=
  (∀ q, (e.port q).kept = (d.port q).kept) ∧ e.fab.down = d.fab.down ∧ e.fab.unreachable = d.fab.unreachable ∧
    e.fab.echoes = d.fab.echoes ∧ e.fab.coord = d.fab.coord ∧ e.fab.written = d.fab.written

theorem PortKeep.refl (d : Device) : PortKeep d d := ⟨fun _ => rfl, rfl, rfl, rfl, rfl, rfl⟩

theorem PortKeep.trans {d e g : Device} (h : PortKeep d e) (k : PortKeep e g) : PortKeep d g :=
  ⟨fun q => (k.1 q).trans (h.1 q), k.2.1.trans h.2.1, k.2.2.1.trans h.2.2.1, k.2.2.2.1.trans h.2.2.2.1, k.2.2.2.2.1.trans h.2.2.2.2.1,
    k.2.2.2.2.2.trans h.2.2.2.2.2⟩

theorem PortKeep.of_ports {d e : Device} (h : e.fab.ports = d.fab.ports)
    (k : e.fab.down = d.fab.down ∧ e.fab.unreachable = d.fab.unreachable ∧ e.fab.echoes = d.fab.echoes ∧
      e.fab.coord = d.fab.coord ∧ e.fab.written = d.fab.written) : PortKeep d e :=
  ⟨fun q => by unfold Device.port; rw [h], k⟩

theorem PortKeep.links {d e : Device} (h : PortKeep d e) : LinkKeep d e := ⟨h.1, h.2.1, h.2.2.2.2⟩

theorem LinkKeep.refl (d : Device) : LinkKeep d d := ⟨fun _ => rfl, rfl, rfl, rfl⟩

theorem LinkKeep.trans {d e g : Device} (h : LinkKeep d e) (k : LinkKeep e g) : LinkKeep d g :=
  ⟨fun q => (k.1 q).trans (h.1 q), k.2.1.trans h.2.1, k.2.2.1.trans h.2.2.1, k.2.2.2.trans h.2.2.2⟩

theorem LinkKeep.of_ports {d e : Device} (h : e.fab.ports = d.fab.ports) (k : e.fab.down = d.fab.down ∧
    e.fab.coord = d.fab.coord ∧ e.fab.written = d.fab.written) : LinkKeep d e :=
  ⟨fun q => by unfold Device.port; rw [h], k⟩

theorem LinkKeep.foldl {α : Type} {f : Device → α → Device} (h : ∀ d a, LinkKeep d (f d a)) (l : List α) (d : Device) :
    LinkKeep d (l.foldl f d) := by
  induction l generalizing d with
  | nil => exact .refl d
  | cons a l ih => exact (h d a).trans (ih _)

theorem Device.port_setPort_same (d : Device) (p : Nat) (x : Port) : (d.setPort p x).port p = x := Tbl.get_set_same _ _ _ _
theorem Device.port_setPort_other (d : Device) {p q : Nat} (x : Port) (h : q ≠ p) : (d.setPort p x).port q = d.port q :=
  Tbl.get_set_other _ _ _ h

theorem PortKeep.setPort (d : Device) (p : Nat) (x : Port) (h : x.kept = (d.port p).kept) : PortKeep d (d.setPort p x) := by
  refine ⟨fun q => ?_, rfl, rfl, rfl, rfl, rfl⟩
  by_cases hq : q = p
  · rw [hq, Device.port_setPort_same, h]
  · rw [Device.port_setPort_other _ _ hq]

theorem PortKeep.ite {d e g : Device} {p : Prop} [Decidable p] (h : PortKeep d e) (k : PortKeep d g) :
    PortKeep d (if p then e else g) := by split <;> assumption

theorem PortKeep.foldl {α : Type} {f : Device → α → Device} (h : ∀ d a, PortKeep d (f d a)) (l : List α) (d : Device) :
    PortKeep d (l.foldl f d) := by
  induction l generalizing d with
  | nil => exact .refl d
  | cons a l ih => exact (h d a).trans (ih _)

theorem Port.kept_pop {x x' : Port} {c f} (h : x.pop c = some (f, x')) : x'.kept = x.kept := by
  unfold Port.pop at h
  split at h
  · injection h with h; injection h with _ h; rw [← h]; rfl
  · cases h

theorem PortKeep.pump (d : Device) (p n : Nat) : PortKeep d (d.pump p n) := by
  induction n generalizing d with
  | zero => exact .refl d
  | succ n ih =>
    unfold Device.pump
    dsimp only
    split
    · exact .refl d
    · split
      · exact .refl d
      · split
        · exact .refl d
        · rename_i _ f x' hp
          refine (PortKeep.setPort d p _ ?_).trans ((PortKeep.of_ports (e := Device.bump (Device.send _ _) _ _) rfl ⟨rfl, rfl, rfl, rfl, rfl⟩).trans (ih _))
          exact (show _ = x'.kept from rfl).trans (Port.kept_pop hp)

theorem PortKeep.enqueue (d : Device) (p c : Nat) (fs : List Flit) : PortKeep d (d.enqueue p c fs) := by
  unfold Device.enqueue
  dsimp only
  refine PortKeep.trans ?_ (PortKeep.pump _ _ _)
  exact PortKeep.setPort d p { d.port p with queue := _ } rfl

theorem PortKeep.noRoute (d : Device) (c : Nat) (k : Packet) : PortKeep d (d.noRoute c k) := by
  unfold Device.noRoute
  dsimp only
  split
  · exact .of_ports rfl ⟨rfl, rfl, rfl, rfl, rfl⟩
  · exact .of_ports rfl ⟨rfl, rfl, rfl, rfl, rfl⟩

theorem PortKeep.forward (d : Device) (c g h : Nat) (x : Coord) (k : Packet) : PortKeep d (d.forward c g h x k) := by
  unfold Device.forward
  dsimp only
  split
  · exact PortKeep.noRoute d _ _
  · split
    · exact .of_ports rfl ⟨rfl, rfl, rfl, rfl, rfl⟩
    · split
      · exact (PortKeep.of_ports (e := d.bump _ _) rfl ⟨rfl, rfl, rfl, rfl, rfl⟩).trans (PortKeep.enqueue _ _ _ _)
      · exact PortKeep.enqueue _ _ _ _

theorem PortKeep.nextSeq (d : Device) (x : Coord) (c : Nat) (f : BitVec 16) : PortKeep d (d.nextSeq x c f).2 := by
  unfold Device.nextSeq
  split
  · exact .refl d
  · exact .of_ports rfl ⟨rfl, rfl, rfl, rfl, rfl⟩

theorem PortKeep.sendPdu (d : Device) (c k : Nat) (x : Coord) (t : Tenant) (f : BitVec 16) (bs : List Byte) :
    PortKeep d (d.sendPdu c k x t f bs) := by
  unfold Device.sendPdu Device.originate
  dsimp only
  split
  · exact .refl d
  · exact (PortKeep.nextSeq d x c f).trans (PortKeep.forward _ _ _ _ _ _)

theorem PortKeep.sendNotify (d : Device) (b : Bool) (x : Coord) (t n : Nat) (r : List Byte) :
    PortKeep d (d.sendNotify b x t n r) := by
  unfold Device.sendNotify
  dsimp only
  split
  · exact .of_ports rfl ⟨rfl, rfl, rfl, rfl, rfl⟩
  · exact (PortKeep.of_ports (e := d.send _) rfl ⟨rfl, rfl, rfl, rfl, rfl⟩).trans (PortKeep.sendPdu _ _ _ _ _ _ _)

theorem PortKeep.notifyOne (d : Device) (a b c e x y z : Nat) : PortKeep d (d.notifyOne a b c e x y z).2 := by
  unfold Device.notifyOne
  dsimp only
  refine PortKeep.trans ?_ (PortKeep.foldl (fun d s => PortKeep.ite (PortKeep.sendNotify _ _ _ _ _ _) (.refl d)) _ _)
  refine PortKeep.trans ?_ (PortKeep.sendNotify _ _ _ _ _ _)
  exact PortKeep.ite (p := _ = true) (.of_ports rfl ⟨rfl, rfl, rfl, rfl, rfl⟩) (.of_ports rfl ⟨rfl, rfl, rfl, rfl, rfl⟩)

theorem PortKeep.notify (d : Device) (a b c e x y z : Nat) : PortKeep d (d.notify a b c e x y z) := by
  unfold Device.notify
  dsimp only
  split
  · exact (PortKeep.notifyOne d _ _ _ _ _ _ _).trans (PortKeep.notifyOne _ _ _ _ _ _ _ _)
  · exact PortKeep.notifyOne d _ _ _ _ _ _ _

theorem PortKeep.err (d : Device) (e : ErrAt) (k n : Nat) : PortKeep d (d.err e k n) := by
  unfold Device.err
  dsimp only
  split
  · exact .of_ports rfl ⟨rfl, rfl, rfl, rfl, rfl⟩
  · split
    · exact .of_ports rfl ⟨rfl, rfl, rfl, rfl, rfl⟩
    · exact .of_ports rfl ⟨rfl, rfl, rfl, rfl, rfl⟩

theorem PortKeep.sendBare (d : Device) (p t l : Nat) (ws) : PortKeep d (d.sendBare p t l ws) := .of_ports rfl ⟨rfl, rfl, rfl, rfl, rfl⟩

theorem PortKeep.failAt (d : Device) (o : Coord) (s k : Nat) : PortKeep d (d.failAt o s k) := by
  unfold Device.failAt Device.fixFailure
  split
  · split
    · exact .of_ports rfl ⟨rfl, rfl, rfl, rfl, rfl⟩
    · exact .refl d
  · exact .of_ports rfl ⟨rfl, rfl, rfl, rfl, rfl⟩

theorem PortKeep.pageLost (d : Device) (o : Coord) (s k : Nat) : PortKeep d (d.pageLost o s k) := by
  unfold Device.pageLost
  split
  · exact .refl d
  · dsimp only
    refine PortKeep.trans ?_ (PortKeep.failAt _ _ _ _)
    exact .of_ports rfl ⟨rfl, rfl, rfl, rfl, rfl⟩

theorem PortKeep.loseFrames (d : Device) (x : Coord) : PortKeep d (d.loseFrames x) :=
  PortKeep.foldl (fun d _ => PortKeep.pageLost d _ _ _) _ d

theorem LinkKeep.setUnreachable (d : Device) (x : Coord) : LinkKeep d (d.setUnreachable x) := by
  unfold Device.setUnreachable
  split
  · exact .refl d
  · exact (LinkKeep.of_ports (e := { d with fab := { d.fab with unreachable := d.fab.unreachable ++ [x] } }) rfl ⟨rfl, rfl, rfl⟩).trans
      (((PortKeep.notify _ _ _ _ _ _ _ _).links).trans ((PortKeep.loseFrames _ _).links))

theorem LinkKeep.setReachable (d : Device) (x : Coord) : LinkKeep d (d.setReachable x) := by
  unfold Device.setReachable
  split
  · exact (LinkKeep.of_ports (e := { d with fab := { d.fab with
      unreachable := d.fab.unreachable.filter (fun y => !decide (y = x)) } }) rfl ⟨rfl, rfl, rfl⟩).trans ((PortKeep.notify _ _ _ _ _ _ _ _).links)
  · exact .refl d

/-- A device that is lost is among those that are unreachable, and no other joins them. -/
theorem Device.setUnreachable_list (d : Device) (x y : Coord) :
    y ∈ (d.setUnreachable x).fab.unreachable ↔ y = x ∨ y ∈ d.fab.unreachable := by
  unfold Device.setUnreachable
  split
  · rename_i h
    have h : x ∈ d.fab.unreachable := by simpa using h
    exact ⟨.inr, fun k => k.elim (fun k => k ▸ h) id⟩
  · rw [(PortKeep.loseFrames _ _).2.2.1, (PortKeep.notify _ _ _ _ _ _ _ _).2.2.1]
    simp only [List.mem_append, List.mem_singleton]
    exact or_comm

theorem Device.setUnreachable_echoes (d : Device) (x : Coord) : (d.setUnreachable x).fab.echoes = d.fab.echoes := by
  unfold Device.setUnreachable
  split
  · rfl
  · rw [(PortKeep.loseFrames _ _).2.2.2.1, (PortKeep.notify _ _ _ _ _ _ _ _).2.2.2.1]

theorem Device.setReachable_list (d : Device) (x y : Coord) :
    y ∈ (d.setReachable x).fab.unreachable ↔ y ≠ x ∧ y ∈ d.fab.unreachable := by
  unfold Device.setReachable
  split
  · rw [(PortKeep.notify _ _ _ _ _ _ _ _).2.2.1]
    simp only [List.mem_filter, Bool.not_eq_true', decide_eq_false_iff_not]
    exact and_comm
  · rename_i h
    have h : x ∉ d.fab.unreachable := by simpa using h
    exact ⟨fun k => ⟨fun e => h (e ▸ k), k⟩, fun k => k.2⟩

/-- A change of routes changes no port but as the change itself does. -/
theorem LinkKeep.withRoutes (d : Device) (f : Device → Device) : LinkKeep (f d) (d.withRoutes f) := by
  unfold Device.withRoutes
  exact (LinkKeep.foldl (fun d x => LinkKeep.setReachable d x) _ _).trans (LinkKeep.foldl (fun d x => LinkKeep.setUnreachable d x) _ _)

theorem LinkKeep.keepParent (d : Device) (f : Device → Device) : LinkKeep (f d) (d.keepParent f) := by
  unfold Device.keepParent
  dsimp only
  split
  · exact .refl _
  · exact .of_ports rfl ⟨rfl, rfl, rfl⟩

theorem LinkKeep.changeRoutes (d : Device) (f : Device → Device) : LinkKeep (f d) (d.withRoutes (fun d => d.keepParent f)) :=
  (LinkKeep.keepParent d f).trans (LinkKeep.withRoutes d (fun d => d.keepParent f))

theorem PortKeep.rerouteAll (d : Device) (p : Nat) (x : Port) : PortKeep d (d.rerouteAll p x) := by
  unfold Device.rerouteAll
  exact PortKeep.foldl (fun d c => PortKeep.foldl (fun d fs => PortKeep.forward _ _ _ _ _ _) _ _) _ _

/-- A link that carried something is lost: the port is where the rules send it, with an empty link. -/
theorem Device.portDown_port (d : Device) (p : Nat) (h : 2 ≤ (d.port p).st) (h5 : (d.port p).st ≠ 5) :
    ((d.portDown p).port p).kept = { (d.port p).cut (d.downState p) with drained := !(d.port p).enabled }.kept ∧
    (∀ q, q ≠ p → ((d.portDown p).port q).kept = (d.port q).kept) ∧ (d.portDown p).fab.down = d.fab.down := by
  have key : ∀ (x e : Device), e = x.portDown p → x = d → LinkKeep (d.setPort p { (d.port p).cut (d.downState p) with drained := !(d.port p).enabled }) e := by
    rintro x e rfl rfl
    unfold Device.portDown
    dsimp only
    rw [if_neg (by omega)]
    refine LinkKeep.trans ?_ (LinkKeep.withRoutes _ _)
    refine LinkKeep.trans ?_ (LinkKeep.keepParent _ _)
    refine LinkKeep.trans ?_ (PortKeep.rerouteAll _ _ _).links
    have h1 : ∀ u : Device, LinkKeep u (((u.err (portAt p) 0x11 0).bump (key 0x4030 5) 1).notify 2 0 0x4010 0 p (x.downState p)) :=
      fun u => ((PortKeep.err u _ _ _).links).trans ((LinkKeep.of_ports (e := Device.bump _ _ _) rfl ⟨rfl, rfl, rfl⟩).trans ((PortKeep.notify _ _ _ _ _ _ _ _).links))
    split
    · exact (h1 _).trans (.of_ports rfl ⟨rfl, rfl, rfl⟩)
    · exact h1 _
  have k := key d _ rfl rfl
  refine ⟨?_, fun q hq => ?_, k.2.1⟩
  · have := k.1 p; rw [Device.port_setPort_same] at this; exact this
  · have := k.1 q; rw [Device.port_setPort_other _ _ hq] at this; exact this

end Sys2Proof.Machine
end

