-- ==== Sys2Proof/Laws/Memory.lean ====
section
/-!
SUPPORT. The scratchpad: every operation keeps its canonical form, a word reads back what was written, other bytes stay.
-/
namespace Sys2Proof.Machine

theorem Mem.wf_iff (m : Mem) : m.wf = true ↔
    Tbl.wf (0 : Byte) m.cells = true ∧ Tbl.wf 0#2 m.poison = true ∧ Tbl.wf 0#39 m.flips = true := by
  simp [Mem.wf, and_assoc]

/-- Writing a word keeps the canonical form. -/
theorem Mem.wf_write {m : Mem} (h : m.wf = true) (wa : Nat) (x : RWord) : (m.write wa x).wf = true := by
  rw [Mem.wf_iff] at h ⊢
  exact ⟨Tbl.wf_set _ _ (Tbl.wf_set _ _ (Tbl.wf_set _ _ (Tbl.wf_set _ _ h.1))), Tbl.wf_set _ _ h.2.1,
    Tbl.wf_set wa 0#39 h.2.2⟩

/-- Zeroing a range keeps the canonical form. -/
theorem Mem.wf_zeroRange {m : Mem} (h : m.wf = true) (a n : Nat) : (m.zeroRange a n).wf = true := by
  rw [Mem.wf_iff] at h ⊢
  exact ⟨Tbl.wf_filter _ h.1, Tbl.wf_filter _ h.2.1, Tbl.wf_filter _ h.2.2⟩

/-- Writing words keeps the canonical form. -/
theorem Device.writeWords_wf (d : Device) (wa : Nat) (xs : List RWord) (h : d.mem.m.wf = true) :
    (d.writeWords wa xs).mem.m.wf = true := by
  induction xs generalizing d wa with
  | nil => exact h
  | cons x xs ih =>
    unfold Device.writeWords
    apply ih
    split <;> exact Mem.wf_write h wa x

/-- Zeroing rows keeps the canonical form. -/
theorem Device.zeroRange_wf (d : Device) (a n : Nat) (h : d.mem.m.wf = true) : (d.zeroRange a n).mem.m.wf = true :=
  Mem.wf_zeroRange h a n

/-- The scratchpad after reset is in canonical form. -/
theorem MemS.reset_wf : MemS.reset.m.wf = true := by decide

/-- A word's write leaves every other byte as it was. -/
theorem Mem.byte_write_other (m : Mem) (wa : Nat) (x : RWord) {a : Nat} (h : a < 4 * wa ∨ 4 * wa + 4 ≤ a) :
    (m.write wa x).byte a = m.byte a := by
  simp only [Mem.byte, Mem.write, Mem.setByte]
  rw [Tbl.get_set_other _ _ _ (by omega), Tbl.get_set_other _ _ _ (by omega), Tbl.get_set_other _ _ _ (by omega),
    Tbl.get_set_other _ _ _ (by omega)]

/-- A word reads back as written, with its poison and no flips (R150, R171). -/
theorem Mem.raw_write_same (m : Mem) (wa : Nat) (x : RWord) :
    (m.write wa x).raw wa = x.w ∧ Tbl.get 0#2 (m.write wa x).poison wa = (if x.poison then 3#2 else 0#2) ∧
      Tbl.get 0#39 (m.write wa x).flips wa = 0#39 := by
  refine ⟨?_, Tbl.get_set_same .., Tbl.get_set_same 0#39 _ wa 0#39⟩
  generalize hm : Tbl.set (0 : Byte) m.cells (4 * wa) (BitVec.ofNat 8 x.w.toNat) = m0
  generalize hm1 : Tbl.set (0 : Byte) m0 (4 * wa + 1) (BitVec.ofNat 8 (x.w.toNat / 256)) = m1
  generalize hm2 : Tbl.set (0 : Byte) m1 (4 * wa + 2) (BitVec.ofNat 8 (x.w.toNat / 65536)) = m2
  have e0 : Tbl.get (0 : Byte) m0 (4 * wa) = BitVec.ofNat 8 x.w.toNat := by rw [← hm, Tbl.get_set_same]
  have e1 : Tbl.get (0 : Byte) m1 (4 * wa + 1) = BitVec.ofNat 8 (x.w.toNat / 256) := by rw [← hm1, Tbl.get_set_same]
  have e1' : Tbl.get (0 : Byte) m1 (4 * wa) = BitVec.ofNat 8 x.w.toNat := by
    rw [← hm1, Tbl.get_set_other _ _ _ (by omega), e0]
  have e2 : Tbl.get (0 : Byte) m2 (4 * wa + 2) = BitVec.ofNat 8 (x.w.toNat / 65536) := by rw [← hm2, Tbl.get_set_same]
  have e2' : Tbl.get (0 : Byte) m2 (4 * wa + 1) = BitVec.ofNat 8 (x.w.toNat / 256) := by
    rw [← hm2, Tbl.get_set_other _ _ _ (by omega), e1]
  have e2'' : Tbl.get (0 : Byte) m2 (4 * wa) = BitVec.ofNat 8 x.w.toNat := by
    rw [← hm2, Tbl.get_set_other _ _ _ (by omega), e1']
  have hc : (m.write wa x).cells = Tbl.set (0 : Byte) m2 (4 * wa + 3) (BitVec.ofNat 8 (x.w.toNat / 16777216)) := by
    rw [← hm2, ← hm1, ← hm]; rfl
  simp only [Mem.raw, hc, Nat.add_zero, Tbl.get_set_same]
  rw [Tbl.get_set_other _ _ _ (show 4 * wa ≠ 4 * wa + 3 by omega), e2'',
    Tbl.get_set_other _ _ _ (show 4 * wa + 1 ≠ 4 * wa + 3 by omega), e2',
    Tbl.get_set_other _ _ _ (show 4 * wa + 2 ≠ 4 * wa + 3 by omega), e2]
  apply BitVec.eq_of_toNat_eq
  have := x.w.isLt
  simp
  omega

/-- A word number other than the one written reads as before. -/
theorem Mem.raw_write_other (m : Mem) (x : RWord) {wa wb : Nat} (h : wb ≠ wa) :
    (m.write wa x).raw wb = m.raw wb := by
  have hb : ∀ i, i < 4 → Tbl.get (0 : Byte) (m.write wa x).cells (4 * wb + i) = Tbl.get (0 : Byte) m.cells (4 * wb + i) :=
    fun i hi => Mem.byte_write_other m wa x (by omega)
  simp only [Mem.raw, hb 0 (by omega), hb 1 (by omega), hb 2 (by omega), hb 3 (by omega)]

end Sys2Proof.Machine
end

