-- ==== Sys2Proof/Laws/Popc.lean ====
section
/-!
SUPPORT. `popc` counts the 1-bits of a number below 2^128 (R34): byte by byte, and over disjoint sets of rows.
-/
namespace Sys2Proof.Machine

/-- 1-bits below bit `n`. -/
def ones : Nat → Nat → Nat
  | 0, _ => 0
  | n + 1, x => ones n x + (if x.testBit n then 1 else 0)

theorem ones_zero (n : Nat) : ones n 0 = 0 := by
  induction n with
  | zero => rfl
  | succ n ih => simp [ones, ih]

theorem ones_le (n x : Nat) : ones n x ≤ n := by
  induction n with
  | zero => simp [ones]
  | succ n ih => simp only [ones]; split <;> omega

/-- Rows split into those in a set and those outside it. -/
theorem ones_split (n x b : Nat) : ones n (x &&& b) + ones n ((2 ^ n - 1 - x) &&& b) = ones n b ∨ 2 ^ n ≤ x := by
  by_cases hx : x < 2 ^ n
  · left
    have key : ∀ m, m ≤ n → ones m (x &&& b) + ones m ((2 ^ n - 1 - x) &&& b) = ones m b := by
      intro m hm
      induction m with
      | zero => rfl
      | succ m ih =>
        have hi := ih (by omega)
        have ht : (2 ^ n - 1 - x).testBit m = !(x.testBit m) := by
          have := Nat.testBit_two_pow_sub_succ hx m
          rw [show 2 ^ n - 1 - x = 2 ^ n - (x + 1) by omega, this]
          simp [show m < n by omega]
        simp only [ones, Nat.testBit_and, ht]
        cases x.testBit m <;> cases b.testBit m <;> simp <;> omega
    exact key n (Nat.le_refl n)
  · right; omega

/-- A subset has no more rows than the set. -/
theorem ones_and_le (n x b : Nat) : ones n (x &&& b) ≤ ones n b := by
  induction n with
  | zero => simp [ones]
  | succ n ih =>
    simp only [ones, Nat.testBit_and]
    cases x.testBit n <;> cases b.testBit n <;> simp <;> omega

theorem ones_add (k n x : Nat) : ones (k + n) x = ones k x + ones n (x / 2 ^ k) := by
  induction n with
  | zero => simp [ones]
  | succ n ih =>
    simp only [ones, Nat.add_eq, ← Nat.add_assoc, ih, Nat.testBit_div_two_pow]
    rw [Nat.add_comm n k]

theorem ones_mod (k x : Nat) : ones k (x % 2 ^ k) = ones k x := by
  have key : ∀ m, m ≤ k → ones m (x % 2 ^ k) = ones m x := by
    intro m hm
    induction m with
    | zero => rfl
    | succ m ih => simp only [ones, ih (by omega), Nat.testBit_mod_two_pow, show m < k by omega, decide_true, Bool.true_and]
  exact key k (Nat.le_refl k)

/-! ### The byte-parallel count -/

theorem and_byte (l h m M : Nat) (hl : l < 256) (hm : m < 256) :
    (l + 256 * h) &&& (m + 256 * M) = (l &&& m) + 256 * (h &&& M) := by
  have hlm : l &&& m < 256 := Nat.lt_of_le_of_lt Nat.and_le_left hl
  apply Nat.eq_of_testBit_eq
  intro i
  have e : ∀ a b : Nat, a < 256 → (a + 256 * b).testBit i = if i < 8 then a.testBit i else b.testBit (i - 8) := by
    intro a b ha
    have := Nat.testBit_two_pow_mul_add b (show a < 2 ^ 8 by simpa using ha) i
    rw [Nat.add_comm, show 256 = 2 ^ 8 by rfl, this]
  rw [Nat.testBit_and, e l h hl, e m M hm, e _ _ hlm]
  split <;> simp

/-- A byte repeated `n` times. -/
def rep (m : Nat) : Nat → Nat
  | 0 => 0
  | n + 1 => m + 256 * rep m n

def stepA (n x : Nat) : Nat := (x &&& rep 0x55 n) + ((x >>> 1) &&& rep 0x55 n)
def stepB (n a : Nat) : Nat := (a &&& rep 0x33 n) + ((a >>> 2) &&& rep 0x33 n)
def stepC (n b : Nat) : Nat := (b &&& rep 0x0F n) + ((b >>> 4) &&& rep 0x0F n)

theorem testBit_byte (a b i : Nat) (ha : a < 256) :
    (a + 256 * b).testBit i = if i < 8 then a.testBit i else b.testBit (i - 8) := by
  have := Nat.testBit_two_pow_mul_add b (show a < 2 ^ 8 by simpa using ha) i
  rw [Nat.add_comm, show 256 = 2 ^ 8 by rfl, this]

theorem shift_and_byte (k l h m M : Nat) (hl : l < 256) (hm : m < 2 ^ (8 - k)) :
    ((l + 256 * h) >>> k) &&& (m + 256 * M) = ((l >>> k) &&& m) + 256 * ((h >>> k) &&& M) := by
  have hm8 : m < 256 := Nat.lt_of_lt_of_le hm (by simpa using Nat.pow_le_pow_right (show 0 < 2 by omega) (show 8 - k ≤ 8 by omega))
  have hlm : (l >>> k) &&& m < 256 := Nat.lt_of_le_of_lt Nat.and_le_right hm8
  apply Nat.eq_of_testBit_eq
  intro i
  rw [Nat.testBit_and, Nat.testBit_shiftRight, testBit_byte l h _ hl, testBit_byte m M _ hm8, testBit_byte _ _ _ hlm]
  by_cases h8 : i < 8
  · simp only [h8, if_true, Nat.testBit_and, Nat.testBit_shiftRight]
    by_cases hk : k + i < 8
    · simp [hk]
    · have : m.testBit i = false := Nat.testBit_lt_two_pow
        (Nat.lt_of_lt_of_le hm (Nat.pow_le_pow_right (by omega) (by omega)))
      simp [this]
  · simp only [h8, if_false, show ¬ (k + i < 8) by omega, Nat.testBit_and, Nat.testBit_shiftRight,
      show k + i - 8 = k + (i - 8) by omega]

theorem stepA_byte (n l h : Nat) (hl : l < 256) : stepA (n + 1) (l + 256 * h) = stepA 1 l + 256 * stepA n h := by
  simp only [stepA, rep, Nat.mul_zero, Nat.add_zero]
  rw [and_byte l h _ _ hl (by omega), shift_and_byte 1 l h _ _ hl (by decide)]
  omega

theorem stepB_byte (n l h : Nat) (hl : l < 256) : stepB (n + 1) (l + 256 * h) = stepB 1 l + 256 * stepB n h := by
  simp only [stepB, rep, Nat.mul_zero, Nat.add_zero]
  rw [and_byte l h _ _ hl (by omega), shift_and_byte 2 l h _ _ hl (by decide)]
  omega

theorem stepC_byte (n l h : Nat) (hl : l < 256) : stepC (n + 1) (l + 256 * h) = stepC 1 l + 256 * stepC n h := by
  simp only [stepC, rep, Nat.mul_zero, Nat.add_zero]
  rw [and_byte l h _ _ hl (by omega), shift_and_byte 4 l h _ _ hl (by decide)]
  omega

theorem byte_facts : ∀ l, l < 256 →
    stepA 1 l < 256 ∧ stepB 1 (stepA 1 l) < 256 ∧ stepC 1 (stepB 1 (stepA 1 l)) = ones 8 l := by decide +kernel

/-- The sum of the bytes of a number. -/
def byteSum : Nat → Nat → Nat
  | 0, _ => 0
  | n + 1, x => x % 256 + byteSum n (x / 256)

theorem byteSum_steps (n x : Nat) : byteSum n (stepC n (stepB n (stepA n x))) = ones (8 * n) x := by
  induction n generalizing x with
  | zero => rfl
  | succ n ih =>
    have hl : x % 256 < 256 := Nat.mod_lt _ (by omega)
    have hx : x = x % 256 + 256 * (x / 256) := by omega
    obtain ⟨ha, hb, hc⟩ := byte_facts _ hl
    have h9 : ones 8 (x % 256) ≤ 8 := ones_le 8 _
    rw [show stepC (n + 1) (stepB (n + 1) (stepA (n + 1) x)) =
      ones 8 (x % 256) + 256 * stepC n (stepB n (stepA n (x / 256))) by
        have e := stepA_byte n (x % 256) (x / 256) hl
        rw [← hx] at e
        rw [← hc, e, stepB_byte n _ _ ha, stepC_byte n _ _ hb]]
    have e1 : (ones 8 (x % 256) + 256 * stepC n (stepB n (stepA n (x / 256)))) % 256 = ones 8 (x % 256) := by omega
    have e2 : (ones 8 (x % 256) + 256 * stepC n (stepB n (stepA n (x / 256)))) / 256 =
      stepC n (stepB n (stepA n (x / 256))) := by omega
    have e3 : ones (8 + 8 * n) x = ones 8 x + ones (8 * n) (x / 256) := ones_add 8 (8 * n) x
    have e4 : ones 8 (x % 256) = ones 8 x := ones_mod 8 x
    rw [byteSum, e1, e2, ih, show 8 * (n + 1) = 8 + 8 * n by omega, e3, e4]

theorem foldl_bytes (n i c a : Nat) :
    (List.range' i n).foldl (fun n i => n + (c >>> (8 * i)) % 256) a = a + byteSum n (c >>> (8 * i)) := by
  induction n generalizing i a with
  | zero => simp [byteSum]
  | succ n ih =>
    rw [List.range'_succ, List.foldl_cons, ih, byteSum, show c >>> (8 * (i + 1)) = c >>> (8 * i) / 256 by
      rw [show 8 * (i + 1) = 8 * i + 8 by omega, Nat.shiftRight_add, Nat.shiftRight_eq_div_pow _ 8]]
    omega

/-- `popc` counts the 1-bits of the low 128 bits. -/
theorem popc_eq (x : Nat) : popc x = ones 128 x := by
  have h := byteSum_steps 16 x
  unfold popc
  rw [List.range_eq_range', foldl_bytes]
  simpa [stepA, stepB, stepC, rep, pc1, pc2, pc4] using h


end Sys2Proof.Machine
end

