-- ==== Sys2Proof/Laws/Requests.lean ====
section
/-!
SUPPORT. A keyed WRITE that passes the checks of R327 runs its object's rule once and is answered; what else it may do.
-/
namespace Sys2Proof.Machine

/-- The row a WRITE is judged by comes from the object list. -/
theorem writeRow_obj {i j o} (h : writeRow? i j = some o) : ∃ o0, objAt? i j = some o0 ∧ (if o0.key = 0x800300 then { o0 with right := 4 } else o0) = o := by
  unfold writeRow? at h
  cases hh : objAt? i j with
  | none => rw [hh] at h; simp at h
  | some o0 => rw [hh] at h; exact ⟨o0, rfl, by simpa using h⟩

/-- A keyed WRITE past steps 1 to 4. -/
theorem write_cleared {d : Device} {i j rule r o} (h : d.cleared i j rule r o) :
    d.write i j rule r = d.writeOpen r i j o rule := by
  obtain ⟨h1, h2, h3, h4, h5, h6, h7⟩ := h
  obtain ⟨o0, ho, rfl⟩ := writeRow_obj h3
  unfold Device.write
  dsimp only
  rw [if_neg (by simp [h1]), h2]
  dsimp only
  rw [ho]
  dsimp only
  rw [if_neg (by simp [h4]), if_neg (by simp [h4]), if_neg (by simp [h5]), h6]
  dsimp only
  rw [if_pos h7]

/-- An accepted whole value is executed on the block with the counter taken. -/
theorem write_writes {s : State} {i j rule r o} (h : s.writes i j rule r o) :
    s.dev.write i j rule r = (s.dev.counted i o r).execute r i j (decide (o.right = 4)) rule r.payload := by
  obtain ⟨ha, ⟨hc, h1, h2, h3⟩, h4⟩ := h
  rw [write_cleared hc]
  unfold Device.writeOpen
  rw [h1]
  dsimp only
  rw [if_neg (by simp [h2]), if_neg (by omega), if_neg (by omega)]
  unfold Device.counted
  by_cases hr : o.right ≠ 4
  · rw [if_pos hr, if_neg hr]
    unfold Device.beginWrite; rw [if_pos h3]
  · rw [if_neg hr]
    have hr : o.right = 4 := by omega
    obtain ⟨k, hk, hj⟩ := h4 hr
    rw [if_pos hr, hk]
    dsimp only
    rw [hj]
    dsimp only; unfold Device.beginWrite; rw [if_pos h3]

/-- The last segment of a transfer executes the whole value. -/
theorem write_lasts {s : State} {i j rule r o v e} (h : s.lasts i j rule r o v e) :
    s.dev.write i j rule r = e.execute r i j (decide (o.right = 4)) rule v := by
  obtain ⟨_, hc, t, h1, h2, h3, h4, h5, h6, h7, rfl, rfl⟩ := h
  rw [write_cleared hc]
  unfold Device.writeOpen Device.segment
  rw [h1]; dsimp only
  rw [if_neg (by simp [h2, h3]), if_neg (by simp [h4]), h5]; dsimp only
  rw [if_neg (by omega), if_neg (by omega)]
  simp [Transfer.value, Device.closeTransfer]

/-- A WRITE that takes its value, at once or at a transfer's end, answers with what its rule gives, or later. -/
theorem takes_run {s : State} {i j rule r o v e c} (h : s.takes i j rule r o v e)
    (hc : exec c s = s.lift (fun d => d.write i j rule r)) :
    let a := rule.run e r v
    (a.status = 0x100 → exec c s = s.goes a.dev) ∧
    (a.status ≠ 0x100 → exec c s = s.told e i j o r a.status a.payload a.dev) := by
  have ha : s.alive = true := by obtain ⟨h, _⟩ | h := h <;> exact h.1
  have x : exec c s = s.goes (s.dev.write i j rule r) := lift_goes ha hc
  have hw : s.dev.write i j rule r = e.execute r i j (decide (o.right = 4)) rule v := by
    obtain ⟨h, rfl, rfl⟩ | h := h
    · exact write_writes h
    · exact write_lasts h
  rw [hw] at x
  unfold Device.execute at x
  dsimp only at x
  refine ⟨fun g => ?_, fun g => ?_⟩
  · rw [if_pos (show _ = dPending from g)] at x; exact x
  · rw [if_neg (show ¬ _ = dPending from g)] at x; exact x

/-- The same for a rule whose result is known. -/
theorem takes_eq {s : State} {i j rule r o v e c} (h : s.takes i j rule r o v e)
    (hc : exec c s = s.lift (fun d => d.write i j rule r)) {st p u}
    (hr : rule.run e r v = ⟨st, p, u⟩) (hs : st ≠ 0x100) : exec c s = s.told e i j o r st p u := by
  have := (takes_run h hc).2
  rw [hr] at this
  exact this hs

/-- A command that is a keyed WRITE answers with what its rule gives, or later. -/
theorem writes_run {s : State} {i j rule r o c} (h : s.writes i j rule r o)
    (hc : exec c s = s.lift (fun d => d.write i j rule r)) :
    let a := rule.run (s.dev.counted i o r) r r.payload
    (a.status = 0x100 → exec c s = s.goes a.dev) ∧
    (a.status ≠ 0x100 → exec c s = s.wrote i j o r a.status a.payload a.dev) := by
  have x : exec c s = s.goes (s.dev.write i j rule r) := lift_goes h.1 hc
  rw [write_writes h] at x
  unfold Device.execute at x
  dsimp only at x
  refine ⟨fun g => ?_, fun g => ?_⟩
  · rw [if_pos (show _ = dPending from g)] at x; exact x
  · rw [if_neg (show ¬ _ = dPending from g)] at x; exact x

/-- The same for a rule whose result is known. -/
theorem writes_eq {s : State} {i j rule r o c} (h : s.writes i j rule r o)
    (hc : exec c s = s.lift (fun d => d.write i j rule r)) {st p e}
    (hr : rule.run (s.dev.counted i o r) r r.payload = ⟨st, p, e⟩) (hs : st ≠ 0x100) :
    exec c s = s.wrote i j o r st p e := by
  have := (writes_run h hc).2
  rw [hr] at this
  exact this hs

/-- A command's operand inside its range reaches its rule. -/
theorem valued_run {s : State} {i j rule r o} (hw : s.writes i j rule r o) (hr : objRow? (key i j) = writeRow? i j)
    (hf : scalarFault o r.payload = none) {run d} : valued (key i j) run d r r.payload = run d r (ofLe r.payload) := by
  have h := hw.2.1.1.2.2.1
  unfold valued
  rw [hr, h]
  dsimp only
  rw [hf]

/-- A value of its object's size reaches its rule. -/
theorem sized_run {n run d r} {v : List Byte} (h : v.length = n) : sized n run d r v = run d r v := by
  unfold sized; rw [if_neg (by omega)]

end Sys2Proof.Machine
end

