-- ==== Sys2Proof/Laws/Resets.lean ====
section
/-!
SUPPORT. What a cluster's reset does to the cluster records, and that neither it nor the loss of a link touches the power stage.
-/
namespace Sys2Proof.Machine

/-- The power stage, the cluster records, the readiness bits and the reference stay. -/
structure StageKeep (d e : Device) : Prop where
  pwr : e.pwr = d.pwr
  clusters : e.clk.clusters = d.clk.clusters
  ready : e.clk.ready = d.clk.ready
  refOk : e.clk.refOk = d.clk.refOk
  resetting : e.clk.resetting = d.clk.resetting

theorem StageKeep.refl (d : Device) : StageKeep d d := ⟨rfl, rfl, rfl, rfl, rfl⟩

theorem StageKeep.trans {d e g : Device} (h : StageKeep d e) (k : StageKeep e g) : StageKeep d g :=
  ⟨k.1.trans h.1, k.2.trans h.2, k.3.trans h.3, k.4.trans h.4, k.5.trans h.5⟩

theorem StageKeep.of_calm {d e : Device} (h : Calm d e) : StageKeep d e :=
  ⟨h.pwr, by rw [h.clk], by rw [h.clk], by rw [h.clk], by rw [h.clk]⟩

theorem StageKeep.of_same {d e : Device} (h : e.pwr = d.pwr) (k : e.clk = d.clk) : StageKeep d e :=
  ⟨h, by rw [k], by rw [k], by rw [k], by rw [k]⟩

theorem StageKeep.foldl {α : Type} {f : Device → α → Device} (h : ∀ d a, StageKeep d (f d a)) (l : List α) (d : Device) :
    StageKeep d (l.foldl f d) := by
  induction l generalizing d with
  | nil => exact .refl d
  | cons a l ih => exact (h d a).trans (ih _)

theorem StageKeep.ite {d e g : Device} {p : Prop} [Decidable p] (h : StageKeep d e) (k : StageKeep d g) :
    StageKeep d (if p then e else g) := by split <;> assumption

theorem StageKeep.advance (d : Device) (n : Nat) : StageKeep d (d.advance n) := by
  unfold Device.advance; split <;> exact ⟨rfl, rfl, rfl, rfl, rfl⟩

theorem StageKeep.writeWords (d : Device) (wa ws) : StageKeep d (d.writeWords wa ws) := by
  induction ws generalizing d wa with
  | nil => exact .refl d
  | cons x xs ih =>
    unfold Device.writeWords
    dsimp only
    refine StageKeep.trans ?_ (ih _ _)
    split <;> exact .of_same rfl rfl

theorem StageKeep.writeH (d : Device) (h o ws) : StageKeep d (d.writeH h o ws) := by
  unfold Device.writeH; split
  · exact .refl d
  · exact (StageKeep.of_calm (Calm.closeRows d _ _)).trans (StageKeep.writeWords _ _ _)

theorem StageKeep.startRelease (d : Device) (h) : StageKeep d (d.startRelease h) := by
  unfold Device.startRelease; split <;> exact .of_same rfl rfl

theorem StageKeep.freeVersion (d : Device) (v) : StageKeep d (d.freeVersion v) := by
  unfold Device.freeVersion
  dsimp only
  have h := StageKeep.foldl (fun d h => StageKeep.startRelease d h) (((d.version v).hA ++ (d.version v).hB).map (·.2)) d
  exact h.trans (.of_same rfl rfl)

theorem StageKeep.unpin (d : Device) (v) : StageKeep d (d.unpin v) := by
  unfold Device.unpin; split
  · exact .refl d
  · dsimp only; split
    · exact StageKeep.trans (e := d.setVersion v _) (.of_same rfl rfl) (StageKeep.freeVersion _ _)
    · exact .of_same rfl rfl

theorem StageKeep.countEnd (d : Device) (a b c) : StageKeep d (d.countEnd a b c) := by
  unfold Device.countEnd
  dsimp only
  repeat' split
  all_goals exact .of_same rfl rfl

theorem StageKeep.endReq (d : Device) (s st c) : StageKeep d (d.endReq s st c) := by
  unfold Device.endReq
  split
  · unfold Device.closeReq
    dsimp only
    refine StageKeep.trans ?_ (.of_calm (.send _ _))
    refine StageKeep.trans ?_ (StageKeep.unpin _ _)
    refine StageKeep.trans ?_ (StageKeep.writeH _ _ _ _)
    exact (StageKeep.countEnd _ _ _ _).trans (.of_same rfl rfl)
  · exact .refl d

theorem StageKeep.failReq (d : Device) (s c) : StageKeep d (d.failReq s c) := by
  unfold Device.failReq Device.fixFailure
  split
  · split
    · exact .of_same rfl rfl
    · exact .refl d
  · exact StageKeep.endReq _ _ _ _

theorem StageKeep.endStep (d : Device) (c code t loc) : StageKeep d (d.endStep c code t loc) := by
  unfold Device.endStep
  dsimp only
  refine StageKeep.trans (e := ((d.reachCyc t).dropWaiters c)) ?_ ?_
  · refine StageKeep.trans (e := d.reachCyc t) (StageKeep.advance _ _) ?_
    unfold Device.dropWaiters
    dsimp only
    refine StageKeep.trans (e := List.foldl _ _ _) ?_ (.of_same rfl rfl)
    refine StageKeep.trans (e := (Device.takeWaiters _ _).2) (.of_same rfl rfl) (StageKeep.foldl (fun d w => ?_) _ _)
    unfold Device.withdraw
    repeat' split
    all_goals exact .of_same rfl rfl
  · exact (StageKeep.of_calm (.err _ _ _ _)).trans (.of_same rfl rfl)

theorem StageKeep.faultWaiter (d : Device) (w) : StageKeep d (d.faultWaiter w) := by
  unfold Device.faultWaiter Device.syncFaultStep
  split
  · dsimp only; split
    · exact StageKeep.endStep _ _ _ _ _
    · exact .refl d
  · exact .of_same rfl rfl

theorem StageKeep.loseHomed (d : Device) (o x) : StageKeep d (d.loseHomed o x) := by
  unfold Device.loseHomed
  dsimp only
  refine StageKeep.trans ?_ (.of_calm (.bump _ _ _))
  refine StageKeep.trans ?_ (.of_calm (.err _ _ _ _))
  refine StageKeep.trans (e := List.foldl _ _ _) ?_ (.of_same rfl rfl)
  exact StageKeep.trans (e := (Device.takeWaiters _ _).2) (.of_same rfl rfl) (StageKeep.foldl (fun d w => StageKeep.faultWaiter d w) _ _)

theorem StageKeep.loseTable (d : Device) (c t h) : StageKeep d (d.loseTable c t h) := by
  unfold Device.loseTable
  dsimp only
  refine StageKeep.trans (e := List.foldl _ _ _) ?_ (.of_same rfl rfl)
  refine StageKeep.trans ?_ (StageKeep.foldl (fun d w => StageKeep.loseHomed _ _ _) _ _)
  exact .of_same rfl rfl

theorem StageKeep.allocReserve {d : Device} {k n : Nat} {x : Nat × Device} (h : d.allocReserve k n = some x) : StageKeep d x.2 := by
  unfold Device.allocReserve Device.alloc at h
  dsimp only at h
  split at h
  · rename_i y hy
    cases h
    split at hy
    · cases hy
    · split at hy
      · cases hy; exact .of_same rfl rfl
      · cases hy
  · cases h

theorem StageKeep.moveTable (d : Device) (c t h) : StageKeep d (d.moveTable c t h) := by
  unfold Device.moveTable
  split
  · exact StageKeep.loseTable _ _ _ _
  · rename_i x hx
    have hx : StageKeep d x.2 := by
      cases hh : d.tableHome with
      | none => rw [hh] at hx; cases hx
      | some k => rw [hh] at hx; exact StageKeep.allocReserve hx
    dsimp only
    refine StageKeep.trans (e := Device.writeH _ _ _ _) ?_ (.of_same rfl rfl)
    exact hx.trans ((StageKeep.of_calm (.readH _ _ _ _)).trans (StageKeep.writeH _ _ _ _))

theorem StageKeep.breakRound (d : Device) (i) : StageKeep d (d.breakRound i) := by
  unfold Device.breakRound
  split
  · exact .refl d
  · dsimp only
    refine StageKeep.trans (e := d.setRounds (Tbl.del d.serv.rounds i)) (.of_same rfl rfl) (StageKeep.foldl (fun d b => ?_) _ _)
    refine StageKeep.trans (e := d.setAux b.1 { d.aux b.1 with inRound := false, fenced := false }) (.of_same rfl rfl) ?_
    split
    · exact StageKeep.endReq _ _ _ _
    · exact StageKeep.endReq _ _ _ _
    · exact .refl _

theorem StageKeep.wipeCluster (d : Device) (k) : StageKeep d (d.wipeCluster k) := by
  unfold Device.wipeCluster
  dsimp only
  refine StageKeep.trans (e := (d.freeReserves k).dropClusterFrames k) ?_ (.of_same rfl rfl)
  unfold Device.dropClusterFrames
  dsimp only
  refine StageKeep.trans (e := List.foldl _ _ _) ?_ (.of_same rfl rfl)
  have h : ∀ (d : Device) (e : Nat × Frame), StageKeep d (d.subKv e.2.tenant (e.2.rows / 64)) := fun d e => .of_same rfl rfl
  exact StageKeep.trans (e := d.freeReserves k) (.of_same rfl rfl) (StageKeep.foldl h _ _)

theorem Device.wipeCluster_cores (d : Device) (k) :
    ∃ t : Tbl CimCore, (d.wipeCluster k).cim.cores = dropKeys t (fun c => decide (c / 12 = k)) :=
  ⟨(((d.freeReserves k).dropClusterFrames k).zeroRange (k * 2 ^ 27) (2 ^ 27)).cim.cores, rfl⟩

theorem StageKeep.failPlaced (d : Device) (k) : StageKeep d (d.failPlaced k) := by
  unfold Device.failPlaced
  refine StageKeep.foldl (fun d i => ?_) _ _
  dsimp only
  refine StageKeep.trans (e := match (d.inst i).job with | some j => d.releaseAllH j.staging | none => d) ?_ (.of_same rfl rfl)
  split
  · exact StageKeep.foldl (fun d h => StageKeep.startRelease d h) _ _
  · exact .refl d

/-- What is gone before the records of a cluster are written. -/
def Device.clearCluster (d : Device) (k : Nat) : Device :=
  let d := ((d.badHandles k).failHomed k).failPlaced k
  let ids := (List.filter (fun (e : Nat × Inst) => d.placedIn e.2 k) d.cast.insts).map (·.1)
  ((ids.foldl (fun d i => d.breakRound i) d).moveTables k).wipeCluster k

theorem StageKeep.clearCluster (d : Device) (k) : StageKeep d (d.clearCluster k) := by
  unfold Device.clearCluster
  dsimp only
  refine StageKeep.trans ?_ (StageKeep.wipeCluster _ _)
  refine StageKeep.trans ?_ (StageKeep.foldl (fun d e => StageKeep.moveTable _ _ _ _) _ _)
  refine StageKeep.trans ?_ (StageKeep.foldl (fun d i => StageKeep.breakRound d i) _ _)
  refine StageKeep.trans ?_ (StageKeep.failPlaced _ _)
  refine StageKeep.trans ?_ (StageKeep.foldl (fun d s => StageKeep.failReq _ _ _) _ _)
  exact StageKeep.foldl (fun d e => .of_calm (.markBad _ _ _)) _ _

theorem Device.resetCluster_eq (d : Device) (k st : Nat) : d.resetCluster k st =
    let was := d.cluster k
    let n := if was.st = 0 then was.resets else min 65535 (was.resets + 1)
    let e := (d.clearCluster k).setCluster k { Cluster.reset with st := st, park := was.park, resets := n, wakes := was.wakes }
    let f := { e with clk := { e.clk with ready := e.clk.ready &&& ~~~(1#7 <<< 4) } }
    if was.st = 0 then f else f.bump (key 0x3020 3) 1 := rfl

theorem Device.cluster_setCluster_same (d : Device) (k) (x) : (d.setCluster k x).cluster k = x := Tbl.get_set_same _ _ _ _
theorem Device.cluster_setCluster_other (d : Device) {k j : Nat} (x) (h : j ≠ k) : (d.setCluster k x).cluster j = d.cluster j :=
  Tbl.get_set_other _ _ _ h

/-- A cluster's reset: its own record, every other record, the power stage and the reference. -/
theorem Device.resetCluster_spec (d : Device) (k st : Nat) :
    (d.resetCluster k st).cluster k = { Cluster.reset with st := st, park := (d.cluster k).park, wakes := (d.cluster k).wakes, resets := (if (d.cluster k).st = 0 then (d.cluster k).resets else min 65535 ((d.cluster k).resets + 1)) } ∧
    (∀ j, j ≠ k → (d.resetCluster k st).cluster j = d.cluster j) ∧ (d.resetCluster k st).pwr = d.pwr ∧
    (d.resetCluster k st).clk.refOk = d.clk.refOk ∧ (d.resetCluster k st).clk.ready = d.clk.ready &&& ~~~(1#7 <<< 4) ∧
    (d.resetCluster k st).cim.cores = dropKeys (d.resetCluster k st).cim.cores (fun c => decide (c / 12 = k)) := by
  rw [Device.resetCluster_eq]
  have hk := StageKeep.clearCluster d k
  have hw : ∃ t : Tbl CimCore, (d.clearCluster k).cim.cores = dropKeys t (fun c => decide (c / 12 = k)) := by
    unfold Device.clearCluster
    exact Device.wipeCluster_cores _ k
  generalize d.clearCluster k = g at hk hw
  dsimp only
  have hc : ∀ j, g.cluster j = d.cluster j := fun j => by unfold Device.cluster; rw [hk.clusters]
  have hd : g.cim.cores = dropKeys g.cim.cores (fun c => decide (c / 12 = k)) := by
    obtain ⟨x, hx⟩ := hw
    rw [hx]
    simp [dropKeys, List.filter_filter]
  split
  · exact ⟨Device.cluster_setCluster_same _ _ _, fun j hj => (Device.cluster_setCluster_other _ _ hj).trans (hc j), hk.pwr, hk.refOk, by rw [← hk.ready]; rfl, hd⟩
  · exact ⟨Device.cluster_setCluster_same _ _ _, fun j hj => (Device.cluster_setCluster_other _ _ hj).trans (hc j), hk.pwr, hk.refOk, by rw [← hk.ready]; rfl, hd⟩

/-- Every cluster off: its record, and what stays. -/
theorem Device.resetAll_spec (d : Device) :
    (∀ j, j < 16 → (d.resetAll.cluster j).st = 0 ∧ (d.resetAll.cluster j).park = (d.cluster j).park) ∧ d.resetAll.pwr = d.pwr ∧
    d.resetAll.clk.refOk = d.clk.refOk ∧ (∀ n, d.clk.ready.getLsbD n = false → d.resetAll.clk.ready.getLsbD n = false) := by
  have key : ∀ (n : Nat) (e : Device), let u := (List.range n).foldl (fun d k => d.resetCluster k 0) e
      (∀ j, j < n → (u.cluster j).st = 0 ∧ (u.cluster j).park = (e.cluster j).park) ∧ (∀ j, n ≤ j → u.cluster j = e.cluster j) ∧
      u.pwr = e.pwr ∧ u.clk.refOk = e.clk.refOk ∧ (∀ n, e.clk.ready.getLsbD n = false → u.clk.ready.getLsbD n = false) := by
    intro n
    induction n with
    | zero => intro e; exact ⟨fun j h => absurd h (by omega), fun _ _ => rfl, rfl, rfl, fun _ h => h⟩
    | succ n ih =>
      intro e
      obtain ⟨h1, h2, h3, h4, h5⟩ := ih e
      rw [List.range_succ, List.foldl_append]
      dsimp only [List.foldl_cons, List.foldl_nil] at *
      generalize (List.range n).foldl (fun d k => d.resetCluster k 0) e = g at h1 h2 h3 h4 h5
      obtain ⟨s1, s2, s3, s4, s5, -⟩ := g.resetCluster_spec n 0
      refine ⟨fun j hj => ?_, fun j hj => ?_, s3.trans h3, s4.trans h4, fun m hm => ?_⟩
      · by_cases hn : j = n
        · subst hn; rw [s1, h2 j (Nat.le_refl _)]; exact ⟨rfl, rfl⟩
        · rw [s2 j hn]; exact h1 j (by omega)
      · rw [s2 j (by omega)]; exact h2 j (by omega)
      · rw [s5]
        have := h5 m hm
        simp only [BitVec.getLsbD_and, this, Bool.false_and]
  have h := key 16 { d with clk := { d.clk with resetting := 0xFFFF#16, draining := 0#16 } }
  unfold Device.resetAll
  dsimp only at h ⊢
  generalize List.foldl (fun (d : Device) k => d.resetCluster k 0) _ (List.range 16) = g at h ⊢
  exact ⟨h.1, h.2.2.1, h.2.2.2.1, h.2.2.2.2⟩

end Sys2Proof.Machine
end

