-- ==== Sys2Proof/Laws/Sends.lean ====
section
/-!
SUPPORT. Sending a packet and answering a request: what is sent goes behind what was sent, and memory, handles, keys, the
dictionary and the health records stay besides what Calm keeps.
-/
namespace Sys2Proof.Machine

/-- `e` is `d` after something was sent. -/
structure Sends (d e : Device) : Prop where
  calm : Calm d e
  mem : e.mem = d.mem
  dict : e.dict = d.dict
  rel : e.rel = d.rel
  out : ∃ rest, e.out = d.out ++ rest

theorem Sends.refl (d : Device) : Sends d d := ⟨.refl d, rfl, rfl, rfl, [], by simp⟩

theorem Sends.trans {d e g : Device} (h : Sends d e) (k : Sends e g) : Sends d g := by
  refine ⟨h.calm.trans k.calm, k.mem.trans h.mem, k.dict.trans h.dict, k.rel.trans h.rel, ?_⟩
  obtain ⟨a, ha⟩ := h.out
  obtain ⟨b, hb⟩ := k.out
  exact ⟨a ++ b, by rw [hb, ha, List.append_assoc]⟩

theorem Sends.bump (d : Device) (k n : Nat) : Sends d (d.bump k n) := ⟨.bump d k n, rfl, rfl, rfl, [], by simp [Device.bump]⟩

theorem Sends.send (d : Device) (m : OutMsg) : Sends d (d.send m) := ⟨.send d m, rfl, rfl, rfl, [m], rfl⟩

theorem Sends.setPort (d : Device) (p : Nat) (x : Port) : Sends d (d.setPort p x) :=
  ⟨.setPort d p x, rfl, rfl, rfl, [], by simp [Device.setPort]⟩

theorem Sends.ite {d e g : Device} {p : Prop} [Decidable p] (h : Sends d e) (k : Sends d g) :
    Sends d (if p then e else g) := by split <;> assumption

theorem Sends.pump (d : Device) (p n : Nat) : Sends d (d.pump p n) := by
  induction n generalizing d with
  | zero => exact .refl d
  | succ n ih =>
    unfold Device.pump
    dsimp only
    split
    · exact .refl d
    · split
      · exact .refl d
      · split
        · exact .refl d
        · exact ((Sends.setPort d _ _).trans ((Sends.send _ _).trans (Sends.bump _ _ _))).trans (ih _)

theorem Sends.enqueue (d : Device) (p c : Nat) (fs : List Flit) : Sends d (d.enqueue p c fs) :=
  (Sends.setPort d _ _).trans (Sends.pump _ _ _)

theorem Sends.noRoute (d : Device) (c : Nat) (k : Packet) : Sends d (d.noRoute c k) := by
  unfold Device.noRoute
  dsimp only
  split
  · exact (Sends.bump d _ _).trans (Sends.send _ _)
  · exact Sends.bump d _ _

theorem Sends.forward (d : Device) (c g h : Nat) (x : Coord) (k : Packet) : Sends d (d.forward c g h x k) := by
  unfold Device.forward
  dsimp only
  split
  · exact Sends.noRoute d _ _
  · split
    · exact Sends.bump d _ _
    · split
      · exact (Sends.bump d _ _).trans (Sends.enqueue _ _ _ _)
      · exact Sends.enqueue _ _ _ _

theorem Sends.nextSeq (d : Device) (x : Coord) (c : Nat) (f : BitVec 16) : Sends d (d.nextSeq x c f).2 := by
  have h := Calm.nextSeq d x c f
  revert h
  unfold Device.nextSeq
  split
  · exact fun _ => .refl d
  · exact fun h => ⟨h, rfl, rfl, rfl, [], by simp⟩

theorem Sends.sendPdu (d : Device) (c k : Nat) (x : Coord) (t : Tenant) (f : BitVec 16) (bs : List Byte) :
    Sends d (d.sendPdu c k x t f bs) := by
  unfold Device.sendPdu Device.originate
  dsimp only
  split
  · exact .refl d
  · exact (Sends.nextSeq d x c f).trans (Sends.forward _ _ _ _ _ _)

/-- Sending a message and then its PDU, as a frame of the sideband or over the fabric. -/
theorem Device.send_pdu_spec (d : Device) (m : OutMsg) (c : Option Nat) (mac k : Nat) (x : Coord) (t : Tenant)
    (f : BitVec 16) (bs : List Byte) :
    Sends d (match c with | none => (d.send m).sendFrame mac bs | some c => (d.send m).sendPdu c k x t f bs) ∧
    ∃ rest, (match c with | none => (d.send m).sendFrame mac bs | some c => (d.send m).sendPdu c k x t f bs).out =
      d.out ++ m :: rest := by
  cases c with
  | none => exact ⟨(Sends.send d m).trans (Sends.send _ _), [_], List.append_assoc d.out [m] _⟩
  | some c =>
    have h := Sends.sendPdu (d.send m) c k x t f bs
    refine ⟨(Sends.send d m).trans h, ?_⟩
    obtain ⟨rest, hr⟩ := h.out
    exact ⟨rest, hr.trans (List.append_assoc d.out [m] rest)⟩

/-- A response stands first among what its answering sends. -/
theorem Device.respondKey_spec (d : Device) (k : Option (List Byte)) (r : Req) (code index sub status : Nat) (again : Bool)
    (total : Nat) (p : List Byte) :
    Sends d (d.respondKey k r code index sub status again total p) ∧
    ∃ chk rest, (d.respondKey k r code index sub status again total p).out = d.out ++
      .response r.carrier (reqSrc r) r.flow r.tenant r.tag code index sub status again k.isSome
        r.counter.toNat r.offset.toNat total p chk :: rest := by
  have h := fun chk bs => Device.send_pdu_spec d (.response r.carrier (reqSrc r) r.flow r.tenant r.tag code index sub status
    again k.isSome r.counter.toNat r.offset.toNat total p chk) (carrierChan r.carrier) r.mac.toNat (if code = 6 then 2 else 1) r.source
    r.tenant r.flow bs
  exact ⟨(h _ _).1, _, (h _ _).2⟩

end Sys2Proof.Machine
end

