-- ==== Sys2Proof/Laws/Slots.lean ====
section
/-!
SUPPORT. What taking a slot of an engine leaves alone (R43, R45): the accesses of the calibration unit that become due write
cells and count their work, and nothing else of any engine changes.
-/
namespace Sys2Proof.Machine

/-- Two engines differ at most in their cells, their work and their slots. -/
def Engine.sameShape (g h : Engine) : Prop :=
  h.st = g.st ∧ h.pos = g.pos ∧ h.disabled = g.disabled ∧ h.steer = g.steer ∧ h.rot = g.rot ∧ h.cls = g.cls

theorem Engine.sameShape.refl (g : Engine) : g.sameShape g := ⟨rfl, rfl, rfl, rfl, rfl, rfl⟩

theorem Engine.sameShape.trans {f g h : Engine} (a : f.sameShape g) (b : g.sameShape h) : f.sameShape h :=
  ⟨b.1.trans a.1, b.2.1.trans a.2.1, b.2.2.1.trans a.2.2.1, b.2.2.2.1.trans a.2.2.2.1, b.2.2.2.2.1.trans a.2.2.2.2.1,
    b.2.2.2.2.2.trans a.2.2.2.2.2⟩

theorem Engine.sameShape.foldl {α : Type} {f : Engine → α → Engine} (h : ∀ (g : Engine) (a : α), g.sameShape (f g a)) (l : List α) (g : Engine) :
    g.sameShape (l.foldl f g) := by
  induction l generalizing g with
  | nil => exact .refl g
  | cons a l ih => exact (h g a).trans (ih _)

theorem Engine.sameShape.breakProbe (g : Engine) (a b : Bool) : g.sameShape (g.breakProbe a b) := by
  unfold Engine.breakProbe
  cases a <;> cases b <;> exact ⟨rfl, rfl, rfl, rfl, rfl, rfl⟩

theorem Engine.sameShape.makeAccess (g : Engine) (u : SlotUse) (seg : Bool) : g.sameShape (g.makeAccess u seg) := by
  have h0 : ∀ (n : Nat), g.sameShape (g.setMade u seg n) := fun _ => ⟨rfl, rfl, rfl, rfl, rfl, rfl⟩
  unfold Engine.makeAccess
  dsimp only
  split
  · split
    · refine ((h0 _).trans (Engine.sameShape.foldl (fun g (x : Nat × Nat) => ?_) _ _)).trans (Engine.sameShape.breakProbe _ _ _)
      exact ⟨rfl, rfl, rfl, rfl, rfl, rfl⟩
    · exact h0 _
  · exact h0 _

theorem Engine.sameShape.takeSlots (g : Engine) (ss : List EngSlot) : g.sameShape (g.takeSlots ss) := by
  unfold Engine.takeSlots
  dsimp only
  refine Engine.sameShape.trans ?_ (Engine.sameShape.foldl (fun g (x : EngSlot) => ?_) _ _) <;>
    exact ⟨rfl, rfl, rfl, rfl, rfl, rfl⟩

/-- Every engine of the device keeps its shape. -/
def SameShapes (d e : Device) : Prop := ∀ c p, p ≤ 32 → (d.engine c p).sameShape (e.engine c p)

theorem SameShapes.refl (d : Device) : SameShapes d d := fun _ _ _ => .refl _

theorem SameShapes.trans {d e f : Device} (h : SameShapes d e) (k : SameShapes e f) : SameShapes d f :=
  fun c p hp => (h c p hp).trans (k c p hp)

theorem SameShapes.foldl {α : Type} {f : Device → α → Device} (h : ∀ d a, SameShapes d (f d a)) (l : List α) (d : Device) :
    SameShapes d (l.foldl f d) := by
  induction l generalizing d with
  | nil => exact .refl d
  | cons a l ih => exact (h d a).trans (ih _)

/-- An engine changed at a physical place of a core, to one of its shape. -/
theorem SameShapes.setEngine (d : Device) (c p : Nat) (x : Engine) (hp : p ≤ 32) (h : (d.engine c p).sameShape x) :
    SameShapes d (d.setEngine c p x) := by
  intro c' p' h2
  by_cases he : c' * 33 + p' = c * 33 + p
  · obtain ⟨rfl, rfl⟩ : c' = c ∧ p' = p := by omega
    rw [Device.engine_set_same]; exact h
  · rw [Device.engine_set_other _ x he]; exact .refl _

theorem SameShapes.of_engines {d e : Device} (h : ∀ c p, e.engine c p = d.engine c p) : SameShapes d e :=
  fun c p _ => by rw [h]; exact .refl _

/-- A slot taken of the engine at a physical place of a core keeps the shape of every engine. -/
theorem SameShapes.takeSlots (d : Device) (c p t : Nat) (ss : List EngSlot) (hp : p ≤ 32) :
    SameShapes d (d.takeSlots c p t ss) := by
  unfold Device.takeSlots Device.modEngine Device.settleSlots Device.putCells
  dsimp only
  refine SameShapes.trans ?_ (SameShapes.setEngine _ c p _ hp (Engine.sameShape.takeSlots _ ss))
  refine SameShapes.setEngine d c p _ hp ?_
  refine Engine.sameShape.trans (g := { d.engine c p with slots := _ }) ⟨rfl, rfl, rfl, rfl, rfl, rfl⟩
    (Engine.sameShape.foldl (fun g b => ?_) _ _)
  cases b.work with
  | none => exact .refl g
  | some u => exact Engine.sameShape.makeAccess _ _ _

end Sys2Proof.Machine
end

