-- ==== Sys2Proof/Laws/Windows.lean ====
section
/-!
SUPPORT. Answers, records, notifications and reads leave the combining windows, what they delivered, the patrol's pace and the cores'
health alone.
-/
namespace Sys2Proof.Machine

/-- `e` has the windows, the combined rows, the patrol instants and the health of `d`. -/
structure Apart (d e : Device) : Prop where
  windows : e.mem.windows = d.mem.windows
  combined : e.mem.combined = d.mem.combined
  asked : e.mem.asked = d.mem.asked
  health : e.rel.health = d.rel.health

theorem Apart.refl (d : Device) : Apart d d := ⟨rfl, rfl, rfl, rfl⟩

theorem Apart.trans {d e g : Device} (h : Apart d e) (k : Apart e g) : Apart d g :=
  ⟨k.windows.trans h.windows, k.combined.trans h.combined, k.asked.trans h.asked, k.health.trans h.health⟩

theorem Apart.bump (d : Device) (k n : Nat) : Apart d (d.bump k n) := ⟨rfl, rfl, rfl, rfl⟩

theorem Apart.send (d : Device) (m : OutMsg) : Apart d (d.send m) := ⟨rfl, rfl, rfl, rfl⟩

theorem Apart.setPort (d : Device) (p : Nat) (x : Port) : Apart d (d.setPort p x) := ⟨rfl, rfl, rfl, rfl⟩

theorem Apart.ite {d e g : Device} {p : Prop} [Decidable p] (h : Apart d e) (k : Apart d g) : Apart d (if p then e else g) := by
  split <;> assumption

theorem Apart.foldl {α : Type} {f : Device → α → Device} (h : ∀ d a, Apart d (f d a)) (l : List α) (d : Device) :
    Apart d (l.foldl f d) := by
  induction l generalizing d with
  | nil => exact .refl d
  | cons a l ih => exact (h d a).trans (ih _)

theorem Apart.pump (d : Device) (p n : Nat) : Apart d (d.pump p n) := by
  induction n generalizing d with
  | zero => exact .refl d
  | succ n ih =>
    unfold Device.pump
    dsimp only
    split
    · exact .refl d
    · split
      · exact .refl d
      · split
        · exact .refl d
        · exact (((Apart.setPort d _ _).trans (Apart.send _ _)).trans (Apart.bump _ _ _)).trans (ih _)

theorem Apart.forward (d : Device) (c g h : Nat) (x : Coord) (k : Packet) : Apart d (d.forward c g h x k) := by
  have hn : ∀ d : Device, Apart d (d.noRoute c k) := fun d => by
    unfold Device.noRoute
    dsimp only
    split <;> exact ⟨rfl, rfl, rfl, rfl⟩
  have hq : ∀ (d : Device) p fs, Apart d (d.enqueue p c fs) := fun d p fs =>
    (Apart.setPort d p _).trans (Apart.pump _ _ _)
  unfold Device.forward
  dsimp only
  split
  · exact hn d
  · split
    · exact Apart.bump d _ _
    · split
      · exact (Apart.bump d _ _).trans (hq _ _ _)
      · exact hq _ _ _

theorem Apart.sendPdu (d : Device) (c k : Nat) (x : Coord) (t : Tenant) (f : BitVec 16) (bs : List Byte) :
    Apart d (d.sendPdu c k x t f bs) := by
  have hn : Apart d (d.nextSeq x c f).2 := by unfold Device.nextSeq; split <;> exact ⟨rfl, rfl, rfl, rfl⟩
  unfold Device.sendPdu Device.originate
  dsimp only
  split
  · exact .refl d
  · exact hn.trans (Apart.forward _ _ _ _ _ _)

theorem Apart.notifyOne (d : Device) (a b c e x y z : Nat) : Apart d (d.notifyOne a b c e x y z).2 := by
  have hs : ∀ (d : Device) b x t n r, Apart d (d.sendNotify b x t n r) := fun d b x t n r => by
    unfold Device.sendNotify
    dsimp only
    split
    · exact ⟨rfl, rfl, rfl, rfl⟩
    · exact (Apart.send d _).trans (Apart.sendPdu _ _ _ _ _ _ _)
  unfold Device.notifyOne
  dsimp only
  refine Apart.trans ?_ (Apart.foldl (fun d s => Apart.ite (hs _ _ _ _ _ _) (.refl d)) _ _)
  refine Apart.trans ?_ (hs _ _ _ _ _ _)
  exact Apart.ite (p := _ = true) ⟨rfl, rfl, rfl, rfl⟩ ⟨rfl, rfl, rfl, rfl⟩

theorem Apart.notify (d : Device) (a b c e x y z : Nat) : Apart d (d.notify a b c e x y z) := by
  unfold Device.notify
  dsimp only
  split
  · exact (Apart.notifyOne d _ _ _ _ _ _ _).trans (Apart.notifyOne _ _ _ _ _ _ _ _)
  · exact Apart.notifyOne d _ _ _ _ _ _ _

theorem Apart.err (d : Device) (e : ErrAt) (k n : Nat) : Apart d (d.err e k n) := by
  unfold Device.err
  dsimp only
  split
  · exact ⟨rfl, rfl, rfl, rfl⟩
  · split <;> exact ⟨rfl, rfl, rfl, rfl⟩

theorem Apart.markBad (d : Device) (h : Nat) (x : Handle) : Apart d (d.markBad h x) := by
  unfold Device.markBad
  split
  · exact .refl d
  · exact ((show Apart d (d.putHandle _ _) from ⟨rfl, rfl, rfl, rfl⟩).trans (Apart.err _ _ _ _)).trans
      ((Apart.bump _ _ _).trans (Apart.notify _ _ _ _ _ _ _ _))

theorem Apart.readWord (d : Device) (w n : Nat) : Apart d (d.readWord w n).2 := by
  have hq : ∀ (d : Device) b, Apart d (d.queueScrub w b) := fun d b => by
    unfold Device.queueScrub
    dsimp only
    split
    · exact .refl d
    · split <;> exact ⟨rfl, rfl, rfl, rfl⟩
  unfold Device.readWord
  dsimp only
  have h1 := Apart.ite (p := Tbl.get 0#2 d.mem.m.poison w = 1#2 ∨ Tbl.get 0#2 d.mem.m.poison w = 2#2) (Apart.bump d (key 0x8010 5) 1) (.refl d)
  split
  · exact h1
  · exact (h1.trans (Apart.bump _ _ _)).trans (hq _ _)
  · exact ((h1.trans (Apart.bump _ _ _)).trans (Apart.err _ _ _ _)).trans (hq _ _)

theorem Apart.readWords (d : Device) (w n : Nat) : Apart d (d.readWords w n).2 := by
  induction n generalizing d w with
  | zero => exact .refl d
  | succ n ih =>
    unfold Device.readWords
    exact (Apart.readWord d w 0).trans (ih _ _)

theorem Apart.readH (d : Device) (h o n : Nat) : Apart d (d.readH h o n).2 := by
  unfold Device.readH
  split
  · exact .refl d
  · dsimp only
    split
    · exact Apart.readWords _ _ _
    · split
      · exact (Apart.readWords _ _ _).trans (Apart.markBad _ _ _)
      · exact Apart.readWords _ _ _

theorem Apart.readRow (d : Device) (k u r : Nat) : Apart d (d.readRow k u r).2 := by
  unfold Device.readRow
  split
  · exact Apart.readH _ _ _ _
  · exact Apart.readWords _ _ _

/-- A window that closes, and so a write's closing of windows, leaves the cores' health alone. -/
theorem Device.closeRows_health (d : Device) (a n : Nat) : (d.closeRows a n).rel.health = d.rel.health := by
  have hw : ∀ (d : Device) (w : Window), (d.closeWindow w).rel.health = d.rel.health := fun d w =>
    (Apart.readRow (d.setWindows _) _ _ _).health
  unfold Device.closeRows
  generalize List.filter _ _ = l
  induction l generalizing d with
  | nil => rfl
  | cons w l ih => exact (ih _).trans (hw d w)

/-- What a read of words delivers is what they read as before it: no read of one changes another (R167). -/
theorem Device.readWords_val (d : Device) (wa n : Nat) : (d.readWords wa n).1 = (List.range n).map (fun i => d.peek (wa + i)) := by
  induction n generalizing d wa with
  | zero => rfl
  | succ n ih =>
    have hp : ∀ w, (d.readWord wa 0).2.peek w = d.peek w := fun w => by
      unfold Device.peek; rw [(Calm.readWord d wa 0).m]
    have h0 : (d.readWord wa 0).1 = d.peek wa := by unfold Device.readWord; dsimp only; split <;> rfl
    unfold Device.readWords
    dsimp only
    rw [ih, h0, List.range_succ_eq_map, List.map_cons, List.map_map]
    refine congrArg (List.cons _) (List.map_congr_left fun i _ => ?_)
    rw [hp, show wa + 1 + i = wa + (i + 1) by omega]
    rfl

end Sys2Proof.Machine
end

