-- ==== Sys2Proof/WellFormed.lean ====
section
/-!
DEFINITION. Which commands are well formed: operands that the chapters' own formats can carry. A step word has its
operation's class and code (Tab. 6.2), a flit its 59 words and type (Tab. 12.3), a request a payload its length field can
name (Tab. 14.4), a converter's answer is at most 65 (R30).
-/
namespace Sys2Proof

/-- The word's operation and class are those of the command (Tab. 5.2). -/
def wordIs (w : StepWord) (cls op : Nat) : Bool := decide (w.toNat % 1024 = cls * 64 + op)

/-- A converter's answer: plane and count (R30). -/
def readingOk (r : Reading) : Bool := decide (r.pass < 8) && (match r.count with | some k => decide (k ≤ 65) | none => true)

/-- The payload length fits w2 [15:0] (Tab. 14.4). -/
def reqOk (r : Req) : Bool := decide (r.payload.length < 65536)

/-- A flit of a type: 59 words, reserved bits 0 (Tab. 12.3, Tab. 12.4). -/
def flitOk (type : Nat) (f : Flit) : Bool :=
  decide (f.payload.length = 59 ∧ f.mask.toNat < 2 ^ 59 ∧ f.link.toNat < 2 ^ 53 ∧ f.link.toNat % 8 = type)

/-- Three ladder copies and four instances of a column (R50). -/
def colOk (m : ColMeas) : Bool := decide (m.copies.length = 3 ∧ m.insts.length = 4)

def attemptOk (a : Attempt) : Bool := a.first.all colOk && a.again.all colOk && a.probe.all readingOk

/-- At power-up a hinted column may be measured on its hinted copy and instances alone (R53). -/
def hintColOk (m : ColMeas) : Bool := colOk m || decide (m.copies.length = 1 ∧ m.insts.length = 1)

def testAttemptOk (a : Attempt) : Bool := a.first.all hintColOk && a.again.all hintColOk && a.probe.all readingOk

/-- A token's vector has as many bursts as EVAL's field can say (Tab. 6.6). -/
def refOk (x : RefStep) : Bool := x.toks.all (fun t => decide (t.bursts < 256))

/-- Query vectors of the head size, key ranges that lie forward (R193, R202). -/
def pageReqOk (q : PageReq) : Bool :=
  q.queries.all (fun x => decide (x.x.length = q.headSize ∧ x.lo ≤ x.hi))

def partialOk (p : Partial) : Bool := decide (p.o.length = p.bad.length)

/-- Engines and their attempts lie in the cluster. -/
def testOk (t : ClusterTest) : Bool := t.engines.all (fun e => decide (e.1 < 396) && testAttemptOk e.2)

/-- Placements name cores, regions carry 32-byte digests. -/
def extraOk (x : MaqExtra) : Bool :=
  x.programs.all (fun p => p.placements.all (fun c => decide (c < 192))) &&
    x.regions.all (fun r => decide (r.digest.length = 32 ∧ r.kind ≤ 3))

/-- A command is well formed. -/
def Instr.wf (i : Instr) : Bool :=
  match i with
  | .nop _ w => wordIs w 0 0
  | .step _ w => wordIs w 0 1
  | .commit _ w => wordIs w 0 2
  | .commitMark _ => true
  | .plinthRelease _ => true
  | .grid _ w => wordIs w 0 3
  | .loop _ w => wordIs w 0 4
  | .endloop _ w => wordIs w 0 5
  | .eval _ w rd => wordIs w 1 0 && rd.all readingOk
  | .evalt _ w rd => wordIs w 1 1 && rd.all readingOk
  | .evalx _ w rd => wordIs w 1 2 && rd.all readingOk
  | .rdrow _ w => wordIs w 1 3
  | .wrrow _ w => wordIs w 1 4
  | .enable _ w => wordIs w 1 5
  | .read _ w => wordIs w 2 0
  | .pack _ w => wordIs w 2 1
  | .load _ w => wordIs w 2 2
  | .vadd _ w => wordIs w 3 0
  | .vsub _ w => wordIs w 3 1
  | .vmul _ w => wordIs w 3 2
  | .vfma _ w => wordIs w 3 3
  | .vmax _ w => wordIs w 3 4
  | .vmin _ w => wordIs w 3 5
  | .vmov _ w => wordIs w 3 6
  | .vexp _ w => wordIs w 3 7
  | .vrsqrt _ w => wordIs w 3 8
  | .vrecip _ w => wordIs w 3 9
  | .vrsum _ w => wordIs w 3 10
  | .vrmax _ w => wordIs w 3 11
  | .vrssq _ w => wordIs w 3 12
  | .qset _ w => wordIs w 3 13
  | .pata _ w => wordIs w 4 0
  | .patb _ w => wordIs w 4 1
  | .outl _ w => wordIs w 5 0
  | .copy _ w => wordIs w 6 0
  | .copyDone _ _ _ => true
  | .gather _ w => wordIs w 6 1
  | .gatherDone _ _ _ => true
  | .scatter _ w => wordIs w 6 2
  | .scatterDone _ _ _ => true
  | .signal _ w => wordIs w 7 0
  | .wait _ w => wordIs w 7 1
  | .arrive _ w => wordIs w 7 2
  | .topk _ w => wordIs w 8 0
  | .topkout _ w => wordIs w 8 1
  | .topkmrg _ w => wordIs w 8 2
  | .sample _ w => wordIs w 8 3
  | .holdTimeout _ => true
  | .elasticStart _ _ _ => true
  | .pauseRequest _ q => decide (1 ≤ q)
  | .countRecomputeDone _ _ _ => true
  | .calFreeSlotUse _ _ _ _ => true
  | .rotationBatchStart _ _ => true
  | .rotationCheck _ _ => true
  | .selectionAttemptDone _ _ a => attemptOk a
  | .patternRecal _ _ _ a => attemptOk a
  | .engineReplaceSwitch _ _ => true
  | .batchStale _ _ _ => true
  | .calSliceReserve _ => true
  | .calibrationSliceEnd _ => true
  | .calProbe _ _ _ rd => rd.all readingOk
  | .monitorWindowClose _ _ _ _ => true
  | .redundancyHintWrite r => reqOk r
  | .revisitPeriodWrite r => reqOk r
  | .overflowWindowClose _ _ => true
  | .referenceStep _ x => refOk x
  | .createHandle r => reqOk r
  | .releaseHandle r => reqOk r
  | .handleZeroDone _ => true
  | .handleRecreate r => reqOk r
  | .combineWindowClose _ _ row => decide (row < 2 ^ 19)
  | .patrolRead _ _ _ _ => true
  | .scrubWriteback _ _ => true
  | .attentionDescriptor _ => true
  | .attentionDescriptorDone _ => true
  | .pageRequest _ q => pageReqOk q
  | .pagePartialReceive _ m => m.parts.all partialOk
  | .spanNeutralAnswer _ q => pageReqOk q
  | .remoteFrameRequest _ => true
  | .remoteFrameAnswer _ _ _ _ => true
  | .frameRelease _ _ => true
  | .frameZeroDone _ _ row => decide (row < 2 ^ 19)
  | .submit r => reqOk r
  | .cancel r => reqOk r
  | .deadlinePass _ => true
  | .retentionExpiry _ => true
  | .tenantServingWrite r => reqOk r
  | .instanceServingWrite r => reqOk r
  | .expertControlWrite r => reqOk r
  | .castOpen r x => reqOk r && extraOk x
  | .chunk r => reqOk r
  | .castClose r => reqOk r
  | .castAbort r => reqOk r
  | .swapOpen r x => reqOk r && extraOk x
  | .layerRewriteStart _ => true
  | .layerRewriteDone _ => true
  | .regionRecast r => reqOk r
  | .regionRecastDone _ => true
  | .adapterInstall r => reqOk r
  | .adapterVersionCurrent _ => true
  | .adapterRecordWrite r => reqOk r
  | .adapterRemove r => reqOk r
  | .packetReceive _ fs => !fs.isEmpty && fs.all (flitOk 1)
  | .multicastReceive _ fs => !fs.isEmpty && fs.all (flitOk 1)
  | .retryRequest _ f => flitOk 4 f
  | .helloSend _ => true
  | .helloReceive _ f => flitOk 2 f
  | .portTrained _ _ => true
  | .portTrainTimeout _ => true
  | .laneAlignmentLoss _ => true
  | .retryLimitExceeded _ => true
  | .silenceTimeout _ => true
  | .routeNotice _ _ _ => true
  | .reorderHoldExpiry _ _ _ => true
  | .reorderEntryIdle _ _ _ => true
  | .probeWaitExpiry _ => true
  | .probeTimeout _ => true
  | .echoAnswer _ => true
  | .portRecordWrite r => reqOk r
  | .portDrainDone _ => true
  | .coordinateWrite r => reqOk r
  | .timeExchangeSend _ => true
  | .timeFlitReceive _ _ _ _ _ => true
  | .syncPacketReceive _ => true
  | .remoteWaiterRetry _ => true
  | .bind r => reqOk r
  | .unbind r => reqOk r
  | .handSet r => reqOk r
  | .dictRead _ _ r => reqOk r
  | .dictWrite _ _ r => reqOk r
  | .dictAbort _ _ r => reqOk r
  | .dictDescribe _ _ r => reqOk r
  | .dictEcho _ _ r => reqOk r
  | .transferTimeout _ _ _ => true
  | .latchTimeout _ _ => true
  | .defineTenant r => reqOk r
  | .undefineTenant r => reqOk r
  | .createContext r => reqOk r
  | .releaseContext r => reqOk r
  | .keyInstall r => reqOk r
  | .keyRemove r => reqOk r
  | .keyClaim r => reqOk r
  | .acknowledgedSequenceWrite r => reqOk r
  | .imageLoad r => reqOk r
  | .imagePull => true
  | .imagePullResponse _ env => decide (env.length ≤ 4197924)
  | .imageStart => true
  | .raiseFloor r => reqOk r
  | .attestationReady _ _ => true
  | .attestationRequest r => reqOk r
  | .diagnosticUnlock r => reqOk r
  | .testPassOpen _ => true
  | .passOverdue _ => true
  | .forcedSpacingExpiry _ => true
  | .fieldTestSliceEnd _ _ => true
  | .logicScanSliceEnd _ _ => true
  | .sporePackInstall r => reqOk r
  | .sporePackRemove r => reqOk r
  | .scanSecurityTile r => reqOk r
  | .healthFlagAction _ => true
  | .coreHealthWrite r => reqOk r
  | .coreDrained _ => true
  | .replicaScanStart _ => true
  | .replicaScanDone _ => true
  | .replicaDigestReceive _ m => m.digests.all (fun e => decide (e.2.length = 32))
  | .replicaScanTimeout _ => true
  | .powerOn => true
  | .undervoltage => true
  | .overvoltage => true
  | .overvoltageClear => true
  | .overcurrent => true
  | .standbyLoss => true
  | .psSyncLock _ => true
  | .psSyncLoss _ => true
  | .adcDeliver _ => true
  | .urgentRequest r => reqOk r
  | .sequenceWrite r => reqOk r
  | .sequenceControlWrite r => reqOk r
  | .thermalModelUpdate act => decide (act.length = 48) && act.all (fun x => decide (x.length = 5))
  | .modelConverged => true
  | .anchorCheck => true
  | .enginePause _ _ => true
  | .rstNAssert => true
  | .rstNRelease _ => true
  | .strapSample _ => true
  | .deviceResetWrite r _ => reqOk r
  | .clusterResetWrite r => reqOk r
  | .clusterResetDrained _ => true
  | .clusterRecordWrite r => reqOk r
  | .clusterPark _ => true
  | .wakeRequest _ => true
  | .crossingResetRequest x => decide (x < 144)
  | .crossingResetAck x => decide (x < 144)
  | .crossingReady x => decide (x < 144)
  | .crossingFallback x => decide (x < 144)
  | .mesochronousRecentre x => decide (x < 144)
  | .refclkDetect => true
  | .railsRamped => true
  | .centralBlockReady _ => true
  | .clusterWave _ rs => rs.all testOk
  | .clusterReady _ => true
  | .pllLockTimeout _ => true
  | .refclkLoss => true
  | .refclkRestore => true
  | .tapBypass => true
  | .tapIdcode => true
  | .tapSamplePreload _ => true
  | .tapExtest _ => true
  | .tapPrivate _ => true
  | .pauseEnd _ => true
  | .idleFlitReceive _ f => flitOk 0 f
  | .plcaBeacon => true
  | .sidebandCarrierChange _ => true

end Sys2Proof
end

