-- ==== Sys2Proof/Tests/Slice0.lean ====
section
/-!
SUPPORT. Tests: ill-formed commands that the checks refuse, the worked examples of the spec, and for the statements concrete
states and operands that meet their hypotheses. What is expected comes from the spec's tables and examples.
-/
namespace Sys2Proof.Tests
open Sys2Proof Sys2Proof.Machine
set_option Elab.async false

/-! ### Builders -/

/-- A step word of a class and operation, delay 1, with the fields (value, lowest bit). -/
def mkWord (cls op : Nat) (fs : List (Nat × Nat)) : StepWord :=
  BitVec.ofNat 128 (op + cls * 64 + 1024 + (fs.map (fun f => f.1 * 2 ^ f.2)).sum)

/-- Cluster 0 is ready. -/
def upClk : ClkS := { ClkS.reset with clusters := [(0, { Cluster.reset with st := 4 })], refOk := true, ready := 0x1F#7 }

/-- An instance with one layer. -/
def oneInst : Inst := { Inst.absent with state := 2, layers := 1 }

/-- A running step of one request in slot 0: two tokens from position 3. -/
def runSeq : Seq := { Seq.reset with phase := .running, rows := [⟨0, 2, 3, 0, 0⟩], prev := 10, start := 10, word := 1 }

/-- Handle 1: 64 KiB of core 0's buffer, readable and writable, tenant 0. -/
def bufHandle : Handle := ⟨0, 0, 0, 0, 1024, 3#11⟩

/-- Core 0 of a block whose cluster 0 is up. -/
def coreDev (x : CimCore) : Device :=
  { Device.reset with
    clk := upClk
    cim := { Cim.reset with cores := [(0, x)] }
    mem := { MemS.reset with handles := [(1, bufHandle)] }
    cast := { CastS.reset with insts := [(0, oneInst)] } }

def withDev (d : Device) : State := { State.reset with dev := d }

/-- A held vector of one element. -/
def heldOne : HeldVec :=
  { a := [1], x := [f32One], poison := [false], width := 8, signed := true, ea := 127, tag := .none, slot := 0, layer := 0,
    tok := 0 }

def runDev : Device := coreDev ⟨{ Core.reset with held := some heldOne, topk := ⟨[], some 4, false, .none⟩ }, runSeq, CoreAux.reset⟩
def run : State := withDev runDev

/-- The word issues on core 0 of `d`. -/
def goes (d : Device) (w : StepWord) (plan : Device → OpPlan) : Bool := (d.issue 0 w plan).1.isSome

/-! ### A small maquette: instance 0, one layer of 128 inputs and 16 outputs on engine 0 of core 0, served from core 0 -/

def serv0 : ServInfo := ⟨0#18, ⟨0, by decide⟩, [], 4, 64, 16, 8, true, 1024, [], [⟨1, 64, 64, 128, 1000⟩], 4000, []⟩
def extra0 : MaqExtra := ⟨[], serv0, [], [], []⟩
def layer0 : LayerEnt :=
  { layer := 0, arrival := 0, width := 0, mse := false, bits := 8, signed := true, fanIn := 128, outputs := 16, mag := f32One,
    clip := 0#32, cap := 8, rc := 0, ra := 0, tokens := 0, rlo := 0#32, rhi := 0#32, firstPl := 0, numPl := 1, corr := 0,
    ref := 1, refFmt := 1 }
def maq0 : Maq := ⟨0, 0, 0, false, false, [layer0], [⟨0#18, 0, 0, 0, 0, 0, 0, 0⟩], [], [], [], extra0⟩
def job0 (swap : Bool) : CastJob := ⟨maq0, 1, swap, [], [], [], [], [], [], [], [], [], false, false, 2⟩

/-! ### Step words: states and words that meet the hypotheses -/

def ctl (op : Nat) (w : StepWord) (us : List Resv) (lat : Nat) : Device → OpPlan := fun _ =>
  { listed := listedWord w 0 op, units := us, latency := lat }

/-- StepRunsFrontCommand, IdleStepPassesTime, IssueCycle, PlainWordIssues, ControlWords. -/
theorem witness_control_words :
    run.alive = true ∧ run.pending = [] ∧ runDev.canIssue 0 = true ∧
    goes runDev (mkWord 0 0 []) (fun _ => { listed := listedWord (mkWord 0 0 []) 0 0 }) = true ∧
    goes runDev (mkWord 0 2 []) (fun _ => { listed := listedWord (mkWord 0 2 []) 0 2 }) = true ∧
    (let w := mkWord 0 3 [(1, 40), (4, 43)]
     goes runDev w (fun _ => { listed := listedWord w 0 3 && decide (fld w 42 40 + fld w 45 43 ≤ 5),
                               units := ⟨.broadcast, 0, 2⟩ :: allEngines 0 2, latency := 2 }) = true) ∧
    (∀ n ∈ [0, 3, 65535], let w := mkWord 0 4 [(2, 40), (n, 43)]
     goes runDev w (ctl 4 w [⟨.sequencer, 0, 1⟩] 1) = true ∧ fld w 58 43 = n) ∧
    (let w := mkWord 0 5 [(2, 40)]
     goes runDev w (ctl 5 w [⟨.sequencer, 0, 1⟩] 1) = true) := by
  decide +kernel

/-- UnlistedWordEndsStep: a reserved grid. -/
theorem witness_unlisted_word :
    let w := mkWord 0 3 [(3, 40), (3, 43)]
    runDev.canIssue 0 = true ∧ (runDev.fetchWord 0 1).1 = .word ∧ (runDev.core 0).seq.status = 0 ∧
    (listedWord w 0 3 && decide (fld w 42 40 + fld w 45 43 ≤ 5)) = false := by decide +kernel

/-- A core that may start a step: its lists stand in handle 1, one request with one token. -/
def readySeq : Seq := { Seq.reset with phase := .ready, prev := 10 }
def listMem : MemS := { MemS.reset with handles := [(1, bufHandle)], m := { MemS.reset.m with cells := [⟨64, 1#8⟩, ⟨68, 1#8⟩, ⟨72, 1#8⟩, ⟨76, 1#8⟩, ⟨80, 1#8⟩] } }
def readyDev : Device :=
  { coreDev ⟨Core.reset, readySeq, CoreAux.reset⟩ with
    mem := listMem, serv := { ServS.reset with reqs := [(0, { ReqEnt.free with maxLen := 5 })] } }

/-- StepWordStarts: a step of an instance with a rerun that is asked for and not made. -/
theorem witness_step_waits :
    let d := { coreDev ⟨Core.reset, readySeq, { CoreAux.reset with plans := [Plan.zero] }⟩ with
      cast := { CastS.reset with insts := [(0, oneInst)], reruns := [(0, 0)] } }
    (withDev d).alive = true ∧ d.coreUp 0 = true ∧ (d.core 0).seq.phase = .ready ∧ d.rerunWaits 0 = true ∧
    listedWord (mkWord 0 1 [(1, 40), (0, 53), (1, 68), (1, 81), (0, 96)]) 0 1 = true := by decide +kernel

/-- StepWordStarts. -/
theorem witness_step_word :
    let w := mkWord 0 1 [(1, 40), (0, 53), (1, 68), (1, 81), (0, 96)]
    let d := readyDev
    let x := d.core 0
    let p := x.aux.plans.head?.getD Plan.zero
    let t := max d.cyc x.seq.prev
    let q : Seq := { Seq.reset with
      phase := .running, plan := p, rows := d.roundRows p.inst, start := t, prev := t, done := t,
      pause := x.seq.pause, board := x.seq.board, ops := x.seq.ops, nextOp := x.seq.nextOp }
    let f := ((d.reachCyc t).setCore 0 ⟨Core.atStep, q, { x.aux with plans := x.aux.plans.drop 1 }⟩).setQueue 0 [] |>.fetchWord 0 0
    let r1 := f.2.readH 1 0 1
    let r2 := r1.2.readH 1 64 8
    let table := r2.1.map (fun y => y.w.toNat)
    let rows := lenRows ((List.range 1).map (fun i => leAt (rwBytes r1.1) (2 * i) 2)) table
    (withDev d).alive = true ∧ d.coreUp 0 = true ∧ x.seq.phase = .ready ∧ listedWord w 0 1 = true ∧ d.rerunWaits 0 = false ∧ f.1 = .word ∧
      fld w 103 96 + 1 = 1 ∧ f.2.checkFixed 0 1 0 2 false = none ∧ f.2.checkFixed 0 1 64 32 false = none ∧
      (r1.1 ++ r2.1).any (·.poison) = false ∧ r2.2.lenOk (r2.2.ownsInst p.inst) 1 rows table = true := by decide +kernel

/-! ### Engine, readout, vector, path words -/

def wEval : StepWord := mkWord 1 0 [(1, 40), (2, 79), (7, 87), (0, 90), (7, 93)]
def wEvalt : StepWord := mkWord 1 1 [(1, 40), (128, 82), (128, 90)]
def wEvalx : StepWord := mkWord 1 2 [(1, 40)]
def wRdrow : StepWord := mkWord 1 3 [(1, 40), (31, 79), (127, 84)]
def wWrrow : StepWord := mkWord 1 4 [(1, 40), (31, 79), (127, 84)]
def wEnable : StepWord := mkWord 1 5 [(1, 40), (1, 98)]
def gridDev : Device := coreDev ⟨{ Core.reset with gi := 1, go := 2, held := some heldOne }, runSeq, CoreAux.reset⟩

/-- A word that waits for no tag comes up with nothing to wait for. -/
def comes (d : Device) (w : StepWord) (plan : Device → OpPlan) : Bool :=
  let q := (d.core 0).seq
  let t := q.prev + max 1 (wDelay w)
  let f := d.fetchWord 0 q.word
  let p := plan (f.2.landUpTo 0 t)
  (withDev d).alive && d.canIssue 0 && decide (f.1 = .word) && q.wait.isNone && q.pause.isNone &&
    (waitTags (wWait w)).isEmpty && p.listed && p.fault.isNone && !p.dma && (boardHits q.board (p.ranges.map (·.1)) t).isEmpty &&
    (p.units.map (Resv.shift t)).all (fun r => q.resv.all (fun o => !o.overlaps r))

theorem ready_of_comes (d : Device) (w : StepWord) (plan : Device → OpPlan) (h : comes d w plan = true) :
    (withDev d).ready ⟨0, by decide⟩ w plan := by
  simp only [comes, Bool.and_eq_true, decide_eq_true_eq, List.isEmpty_iff, Option.isNone_iff_eq_none, List.all_eq_true,
    Bool.not_eq_true'] at h
  obtain ⟨⟨⟨⟨⟨⟨⟨⟨⟨⟨h1, h2⟩, h3⟩, h4⟩, h5⟩, h6⟩, h7⟩, h8⟩, h9⟩, h10⟩, h11⟩ := h
  refine ⟨h1, h2, h3, h4, .inr h5, ?_, h7, h8, .inl h9, h10, h11⟩
  intro g hg
  rw [h6] at hg
  cases hg

/-- EvalCompletes: EVAL issues, and a vector stands for its evaluation; in compact mode an engine whose columns are all
disabled, and one with enabled columns; with and without Accumulate. -/
theorem witness_eval :
    goes gridDev wEval (fun d => d.evalPlan 0 wEval) = true ∧
    (gridDev.evalVector 0 wEval ((gridDev.readH 1 0 32).1)).2.isSome = true ∧
    (withDev gridDev).ready ⟨0, by decide⟩ wEval (fun d => d.evalPlan 0 wEval) ∧
    (let w := mkWord 1 0 [(1, 40), (2, 79), (7, 87), (0, 90), (7, 93), (1, 23), (1, 97)]
     let d : Device := { gridDev with cim := { gridDev.cim with engines := [(1, { Engine.reset 1 with disabled := BitVec.allOnes 1024 })] } }
     goes d w (fun d => d.evalPlan 0 w) = true ∧ wCompact w = true ∧ w.getLsbD 97 = true ∧ wEval.getLsbD 97 = false ∧
     (d.engine 0 (d.physAt 0 1)).disabled = BitVec.allOnes 1024 ∧ (d.engine 0 (d.physAt 0 2)).disabled ≠ BitVec.allOnes 1024) :=
  ⟨by decide +kernel, by decide +kernel, ready_of_comes _ _ _ (by decide +kernel), by decide +kernel⟩

/-- MaskWordsComplete. -/
theorem witness_mask_words :
    (gridDev.core 0).regs.held = some heldOne ∧
    goes gridDev wEvalt (fun d => d.maskPlan 0 wEvalt 1 256 1 2 5
      (decide (fld wEvalt 89 82 ≤ 128 ∧ fld wEvalt 97 90 ≤ 128))) = true ∧
    goes gridDev wEvalx (fun d => d.maskPlan 0 wEvalx 2 272 2 4 7 true) = true ∧
    (withDev gridDev).ready ⟨0, by decide⟩ wEvalt (fun d => d.maskPlan 0 wEvalt 1 256 1 2 5
      (decide (fld wEvalt 89 82 ≤ 128 ∧ fld wEvalt 97 90 ≤ 128))) ∧
    (withDev gridDev).ready ⟨0, by decide⟩ wEvalx (fun d => d.maskPlan 0 wEvalx 2 272 2 4 7 true) :=
  ⟨by decide +kernel, by decide +kernel, by decide +kernel, ready_of_comes _ _ _ (by decide +kernel),
    ready_of_comes _ _ _ (by decide +kernel)⟩

/-- RowWordsComplete: with data that is whole, and with a poisoned word. -/
theorem witness_row_words :
    let bad : Device := { gridDev with mem := { gridDev.mem with m := { gridDev.mem.m with poison := [(0, 1#2)] } } }
    goes gridDev wRdrow (fun d => d.rdrowPlan 0 wRdrow) = true ∧
    goes gridDev wWrrow (fun d => d.wrrowPlan 0 wWrrow) = true ∧ goes bad wWrrow (fun d => d.wrrowPlan 0 wWrrow) = true ∧
    (gridDev.readH 1 0 66).1.any (·.poison) = false ∧ (bad.readH 1 0 66).1.any (·.poison) = true ∧
    goes gridDev wEnable (fun d => d.enablePlan 0 wEnable) = true ∧ (gridDev.readH 1 0 256).1.any (·.poison) = false := by
  decide +kernel

def wVec (op : Nat) : StepWord := mkWord 3 op [(0, 40), (64, 53), (64, 67), (128, 80)]

/-- VectorElementwise, VectorReductions. -/
theorem witness_vector_words :
    (∀ op ∈ [0, 1, 2, 4, 5], goes runDev (wVec op) (fun _ => vecPlan op .binary (wVec op)) = true) ∧
    goes runDev (wVec 3) (fun _ => vecPlan 3 .fma (wVec 3)) = true ∧
    (∀ op ∈ [6, 7, 8, 9], goes runDev (wVec op) (fun _ => vecPlan op .unary (wVec op)) = true) ∧
    (∀ op ∈ [10, 11, 12], goes runDev (wVec op) (fun _ => vecPlan op .reduce (wVec op)) = true) ∧
    (let w := mkWord 3 13 [(15, 40), (0x3F800000, 95)]
     goes runDev w (fun _ => { listed := listedWord w 3 13 && decide (fld w 94 93 ≠ 3), units := [⟨.vector, 0, 1⟩],
                               latency := 1 }) = true) := by decide +kernel

def wRead (clear : Nat) : StepWord := mkWord 2 0 [(0, 40), (64, 53), (0x3F800000, 67), (1, 99), (clear, 100)]

/-- ReadCompletes: an accumulator beyond 32 bits stands among those read; the word clears, or does not. -/
theorem witness_read :
    let d := coreDev ⟨{ Core.reset with acc := [(0, { Acc.zero with v := 0x7FFFFFFFFFFF#48 })] }, runSeq, CoreAux.reset⟩
    goes d (wRead 0) (fun _ => readPlan (wRead 0)) = true ∧ goes d (wRead 1) (fun _ => readPlan (wRead 1)) = true ∧
    (Tbl.get Acc.zero (d.core 0).regs.acc 0).v.toInt > 2 ^ 31 - 1 ∧
    (wRead 0).getLsbD 100 = false ∧ (wRead 1).getLsbD 100 = true := by decide +kernel

/-- PackAndLoad, in every format. -/
theorem witness_pack_load : ∀ fmt ∈ [0, 1, 2, 3, 4, 5],
    (let w := mkWord 2 1 [(0, 40), (62, 53), (1, 67), (fmt, 106)]; goes runDev w (fun d => d.packPlan 0 w) = true) ∧
    (let w := mkWord 2 2 [(0, 40), (62, 53), (1, 67), (fmt, 106)]; goes runDev w (fun d => d.loadPlan 0 w) = true) := by
  decide +kernel

def wPat (op sel : Nat) : StepWord := mkWord 4 op [(1, 40), (7, 79), (sel, 86), (0, 87), (64, 100)]

/-- A core whose token's request pins version 1 of adapter 0, whose factors stand in handles 1 and 1. -/
def pinDev (ua : List VWord) : Device :=
  { coreDev ⟨{ Core.reset with held := some heldOne, ua := ua }, runSeq, CoreAux.reset⟩ with
    serv := { ServS.reset with reqs := [(0, { ReqEnt.free with state := 3, pin := 1 })] }
    cast := { CastS.reset with
      insts := [(0, oneInst)], versions := [(1, { Version.free with st := 2, adapter := 0, hA := [(0, 1)], hB := [(0, 1)] })] } }

def uOne : List VWord := [⟨f32One, false, .none⟩]

/-- PatinaAndOutlier and PatbCompletes: the common path, no adapter pinned, an adapter pinned with and without a u. -/
theorem witness_patina :
    (∀ sel ∈ [0, 1],
      (let w := wPat 0 sel; goes runDev w (fun d => d.patPlan 0 w 0 64 0 (checkIdx 0 64)) = true) ∧
      (let w := wPat 1 sel; goes runDev w (fun d => d.patPlan 0 w 1 64 4 (checkIdx 0 64)) = true)) ∧
    runDev.pinOf heldOne = 0 ∧ (pinDev []).pinOf heldOne = 1 ∧
    (∀ u ∈ [[], uOne],
      (let w := wPat 0 1; goes (pinDev u) w (fun d => d.patPlan 0 w 0 64 0 (checkIdx 0 64)) = true) ∧
      (let w := wPat 1 1; goes (pinDev u) w (fun d => d.patPlan 0 w 1 64 4 (checkIdx 0 64)) = true)) ∧
    ((pinDev uOne).core 0).regs.ua ≠ [] ∧
    ((pinDev uOne).readFactor 0 1 0 257 true).1.length = 257 ∧
    (let w := mkWord 5 0 [(0, 40), (64, 53)]; goes runDev w (fun d => d.outlPlan 0 w) = true) := by decide +kernel

/-! ### Elastic, sync, top-k and sampling words; commit -/

def wCopy : StepWord := mkWord 6 0 [(1, 24), (1, 40), (0, 53), (1, 75), (16, 88), (4, 110)]
def wGather (op : Nat) : StepWord := mkWord 6 op [(1, 24), (1, 40)]

/-- MoveWordsQueue. -/
theorem witness_move_words :
    goes runDev wCopy (fun d => d.copyPlan 0 wCopy) = true ∧
    goes runDev (wGather 1) (fun d => d.gatherPlan 0 (wGather 1) 1) = true ∧
    goes runDev (wGather 2) (fun d => d.gatherPlan 0 (wGather 2) 2) = true := by decide +kernel

/-- Context 0 of tenant 0 has its table in handle 1, whose entry 0 names object 5. -/
def syncDev (o : SyncObj) : Device :=
  { runDev with
    mem := { runDev.mem with m := { runDev.mem.m with cells := [(0, 5#8), (3, 0x80#8)] } }
    dict := { DictS.reset with contexts := [(0, (0, 1))] }
    sync := { SyncS.reset with objs := [(5, o)] } }
def objAt (v arrivals barrier : Nat) : SyncObj := ⟨BitVec.ofNat 32 v, arrivals, barrier, 7, 0, 0, 0, false⟩
def wSync (op a : Nat) : StepWord := mkWord 7 op [(1, 24), (0, 40), (a, 52)]
def syncPlan (op a : Nat) (d : Device) : OpPlan :=
  { listed := listedWord (wSync op a) 7 op, fault := d.syncFault 0 0 op a, units := [⟨.sequencer, 0, 1⟩], latency := 1,
    elastic := some 0 }

/-- SyncWords: a signal, a satisfied and a waiting WAIT, the last and an earlier ARRIVE. -/
theorem witness_sync_words :
    (∀ x ∈ [(0, 9, objAt 3 0 0), (1, 3, objAt 3 0 0), (1, 4, objAt 3 0 0), (2, 65535, objAt 3 65534 65535),
        (2, 1, objAt 3 0 0), (2, 2, objAt 3 0 0)],
      let d := syncDev x.2.2
      goes d (wSync x.1 x.2.1) (syncPlan x.1 x.2.1) = true ∧ d.ownsStep 0 = true ∧
        (d.translate (d.stepContext 0).1 0).1 = some (.here 5) ∧ Tbl.find? d.sync.objs 5 = some x.2.2 ∧ x.2.2.lost = false) ∧
    (3#32 - 3#32).toNat < 2 ^ 31 ∧ ¬ (3#32 - 4#32).toNat < 2 ^ 31 := by decide +kernel

/-- TopKWords: k is fixed at 4 in the state above. -/
theorem witness_topk_words :
    (let w := mkWord 8 0 [(0, 40), (64, 53), (3, 67), (1, 77)]; goes runDev w (fun _ => topkPlan w) = true) ∧
    (let w := mkWord 8 2 [(1, 40), (4, 79), (3, 90), (1, 100)]; goes runDev w (fun d => d.topkmrgPlan 0 w) = true) ∧
    (runDev.core 0).regs.topk.k = some 4 ∧
    (let w := mkWord 8 1 [(1, 40), (1, 79)]
     goes runDev w (fun d => d.topkoutPlan 0 w) = true ∧ w.getLsbD 79 = true) := by decide +kernel

/-- SampleCompletes: the last token of the step, in a last chunk. -/
theorem witness_sample :
    let w := mkWord 8 3 [(0, 40), (64, 53), (0, 67), (1, 85), (1, 100), (1, 101)]
    goes runDev w (fun d => d.samplePlan 0 w) = true ∧
    (runDev.core 0).seq.rowOf (tForm w 85 (runDev.core 0).regs) = some (⟨0, 2, 3, 0, 0⟩, 0) ∧ w.getLsbD 101 = true := by
  decide +kernel

def moveOp (k : ElKind) (started : Bool) : ElOp :=
  ⟨3, k, 1, 11, started, true, 1, 0, 1, 1024, 64, some ⟨1, 1, 0, 1, 1024, 64, false, 1⟩, []⟩
def moveDev (k : ElKind) (started : Bool) (board : List SbEntry) : Device :=
  coreDev ⟨Core.reset, { runSeq with ops := [moveOp k started], nextOp := 4, board := board }, CoreAux.reset⟩

/-- ElasticStartsAndEnds: a copy that may start, one that a held range keeps waiting, and an end of each kind. -/
theorem witness_elastic :
    (∀ b ∈ [true, false],
      let d := moveDev .copy false (if b then [] else [⟨9, ⟨false, 0, 4096, true, true⟩, 1, 0, 0, 10, none⟩])
      let e := (d.reachCyc 20).landUpTo 0 20
      List.find? (fun (o : ElOp) => decide (o.ident = 3) && !o.started) (d.core 0).seq.ops = some (moveOp .copy false) ∧
        (e.core 0).seq.mayStart (e.opEntries 0 (moveOp .copy false) 20) 20 = b ∧
        (∀ y ∈ (e.core 0).seq.ops, y.ident = 3 → y.started = false)) ∧
    (∀ k ∈ [ElKind.copy, .gather, .scatter],
      let d := moveDev k true []
      let z := ((d.reachCyc 20).landUpTo 0 20).closeOf 0 3
      List.find? (fun (o : ElOp) => decide (o.ident = 3)) (z.core 0).seq.ops = some (moveOp k true) ∧
        (d.core 0).seq.startedOp k 3 = some (moveOp k true) ∧ z.windowOf 1 = none) := by decide +kernel

def drainDev : Device := coreDev ⟨Core.reset, { runSeq with phase := .drain, status := 8 }, CoreAux.reset⟩

/-- CommitMark. -/
theorem witness_commit :
    (drainDev.coreUp 0 && (drainDev.core 0).drained) = true ∧ (runDev.coreUp 0 && (runDev.core 0).drained) = false ∧
    (let q := ((drainDev.landAll 0).core 0).seq; q.status ≠ 0 ∧ q.rows ≠ []) := by decide +kernel

/-- CommitMark, SampleCompletes: the owner of the step's requests, and another device. -/
theorem witness_owner :
    ∀ b ∈ [true, false],
      let x := { oneInst with maq := some { maq0 with extra := { extra0 with serving := { serv0 with home := if b then 0#18 else 8#18 } } } }
      let d : Device := { drainDev with cast := { CastS.reset with insts := [(0, x)] } }
      d.ownsInst 0 = b ∧ (d.inst 0).maq.any (fun i => decide (i.extra.serving.home ≠ d.fab.coord)) = !b ∧
        ((d.landAll 0).core 0).seq.status ≠ 0 ∧ ((d.landAll 0).core 0).seq.rows ≠ [] := by decide +kernel

def phaseDev (p : Phase) : Device :=
  coreDev ⟨Core.reset, { runSeq with phase := p, wait := some ⟨wCopy, 12, true, 0, 0, false, 0, none, []⟩ },
    { CoreAux.reset with plans := [Plan.zero] }⟩
def swapPlan : Plan := { Plan.zero with layers := some (0, 0), newRound := true }

/-- PausesAndHolds: each kind of core and phase, an attention core that pauses, and both plinth cases. -/
theorem witness_pauses :
    ((phaseDev .idle).core 0).seq.phase = .idle ∧ ((phaseDev .running).core 0).seq.phase ≠ .idle ∧
    ((phaseDev .markPause).core 0).seq.phase = .markPause ∧ (runDev.attnUnit 0).cur = none ∧
    (let a : Attn := { Attn.reset with pauseQ := [(5, 7)], pausing := [(2, 9), (3, 8)] }
     let d := { runDev with attn := { AttnS.reset with units := [(0, a)] } }
     (d.attnUnit 0).pauseQ.find? (fun x => decide (x.1 = 5)) = some (5, 7) ∧ (d.attnUnit 0).pausing = (2, 9) :: [(3, 8)]) ∧
    ((phaseDev .running).core 0).seq.wait ≠ none ∧ ((phaseDev .running).core 0).seq.status = 0 ∧
    ((phaseDev .plinth).core 0).seq.phase = .plinth ∧ ((phaseDev .plinth).core 0).aux.plans = Plan.zero :: [] ∧
    (phaseDev .plinth).plinthHolds Plan.zero = false ∧ Plan.zero.batch = [] ∧
    (let d := { phaseDev .plinth with cast := { CastS.reset with insts := [(0, { oneInst with job := some (job0 true) })] } }
     d.plinthHolds swapPlan = true) := by decide +kernel

/-! ### Counting and calibration -/

def engDev (e : Nat) (g : Engine) : Device := { runDev with cim := { runDev.cim with engines := [(e, g)] } }

/-- SegmentCounts: the bounds of a segment whose plane and weight have 64 rows; one at each edge of the accepted range. -/
theorem witness_counts :
    let x := 2 ^ 64 - 1
    let y := 2 ^ 96 - 2 ^ 32
    let both := fun (x y : Nat) => (List.range 128).countP (fun i => x.testBit i && y.testBit i)
    both x (2 ^ 128 - 1) = 64 ∧ both y (2 ^ 128 - 1) = 64 ∧ both x y = 32 ∧
      (segResult x y false none).v = 32 ∧ (segResult x y false (some 64)).fault = none ∧
      (segResult x y false (some 65)).fault = some 1 ∧ (segResult x (2 ^ 96 - 1) false (some 31)).fault = some 2 ∧
      (segResult x (2 ^ 96 - 1) false (some 32)).fault = none ∧ (evaltBit x y 128 false none).1 = some false := by
  and_intros <;> decide +kernel

def rot (phase : Nat) : Rotation := ⟨0, [(0, 0)], phase, 1, 0x3F800000#32, 0x3F800000#32, 0x3F800000#32, 3⟩
/-- The calibration unit has made accesses of a kind in both segments. -/
def madeN (u : SlotUse) (n : Nat) : Tbl Nat := [(2 * slotIx u, n), (2 * slotIx u + 1, n)]

/-- RotationEvents: an engine that is not active and one whose unit works, no spare left, no spare free, earlier work,
nothing to rotate, a start; a copy that is not made, counts that agree and counts that differ. -/
theorem witness_rotation :
    (let d := engDev 0 { Engine.reset 0 with st := 2 }; d.unitFree 0 0 = true ∧ (d.engine 0 0).st ≠ 0) ∧
    (engDev 0 { Engine.reset 0 with replacing := true }).unitFree 0 0 = false ∧
    (let d := engDev 0 { Engine.reset 0 with retired := (List.range 16).map (· + 1024) }
     d.unitFree 0 0 = true ∧ (d.engine 0 0).sparesGone = true) ∧
    (let d := engDev 0 { Engine.reset 0 with spares := (List.range 16).map (fun j => (j, ⟨j, 1⟩)) }
     d.unitFree 0 0 = true ∧ (d.engine 0 0).sparesGone = false ∧ (d.engine 0 0).freeSpares = []) ∧
    (let d := engDev 0 { Engine.reset 0 with queue := [⟨5, [1024]⟩] }
     let w := (d.engine 0 0).nextWork d.clk.up (d.reg (key 0x9000 1))
     d.unitFree 0 0 = true ∧ (d.engine 0 0).st = 0 ∧ (d.engine 0 0).sparesGone = false ∧ (d.engine 0 0).before w.2.1 = true) ∧
    (∀ b ∈ [true, false],
      let d := engDev 0 (if b then { Engine.reset 0 with next := 15, steer := [(15, 1024)], spares := [(0, ⟨15, 2⟩)] } else Engine.reset 0)
      let g := d.engine 0 0
      let w := g.nextWork d.clk.up (d.reg (key 0x9000 1))
      let now := (w.1.filter (fun l => (Tbl.find? g.steer l).isNone)).take g.freeSpares.length
      d.unitFree 0 0 = true ∧ g.st = 0 ∧ g.sparesGone = false ∧ g.before w.2.1 = false ∧ g.freeSpares ≠ [] ∧
        decide (now = []) = b) ∧
    (∀ b ∈ [true, false],
      let g : Engine := { Engine.reset 0 with rot := some (rot 0), cells := if b then [] else [(0, 1#128)], work := madeN .copyRow 256 }
      let y := ((engDev 0 g).settleSlots 0 0 (engDev 0 g).cyc).engine 0 0
      y.rot = some (rot 0) ∧ (rot 0).phase = 0 ∧ y.madeBoth .copyRow 256 = true ∧ ((rot 0).cols.map (·.2)).Nodup ∧
        (rot 0).cols.all (fun x => y.sameCounts x.1 (1024 + x.2)) = b) ∧
    (let d := engDev 0 { Engine.reset 0 with rot := some (rot 0) }
     ((d.settleSlots 0 0 d.cyc).engine 0 0).madeBoth .copyRow 256 = false) := by
  and_intros <;> decide +kernel

/-- AttemptsAndReplacement: an attempt before its measurement, one measured with few and with many columns lost; a copy that
is not read, one that agrees, one that differs. -/
theorem witness_attempts :
    (∀ n ∈ [0, 12], let d := engDev 0 { Engine.reset 0 with rot := some (rot 2), retired := List.range n, work := madeN .measure 14 ++ madeN .probe 2 }
      let g := (d.settleSlots 0 0 d.cyc).engine 0 0
      g.rot = some (rot 2) ∧ (rot 2).phase = 2 ∧ (rot 2).cls = 1 ∧ g.madeBoth .measure 14 = true ∧ g.madeBoth .probe 2 = true ∧
        (decide (g.lost < d.reg (key 0x9000 8)) = decide (n = 0))) ∧
    (let d := engDev 0 { Engine.reset 0 with rot := some (rot 2), work := madeN .probe 2 }
     ((d.settleSlots 0 0 d.cyc).engine 0 0).madeBoth .measure 14 = false) ∧
    (∀ x ∈ [(true, 128), (false, 128), (true, 127)],
      let d := engDev 0 { Engine.reset 0 with replacing := true, cells := if x.1 then [] else [(0, 1#128)], work := madeN .copyRow x.2 }
      let e := d.settleSlots 0 0 d.cyc
      (e.engine 0 0).replacing = true ∧ (e.engine 0 0).rot = none ∧ (e.engine 0 0).madeBoth .copyRow 128 = decide (x.2 = 128) ∧
        sameLogical (e.engine 0 0) (e.engine 0 32) = x.1) := by
  and_intros <;> decide +kernel

/-- An attempt of a pattern calibration on one column, with or without a failed sweep: sums 248 and 888 at 16 and 56 rows are
without offset. -/
def patAttempt (p : Fin 1040) (bad : Bool) : Attempt :=
  let m : ColMeas := ⟨p, List.replicate 3 (⟨248, 888⟩, ⟨248, 888⟩), List.replicate 4 (⟨248, 888⟩, ⟨248, 888⟩)⟩
  ⟨[m], [m], [], if bad then [p] else []⟩

/-- CalibrationTimes: a spare that passes, one that fails for the first and for the third time, one that may not be
recalibrated, earlier work; an engine and an empty engine; a slice due on an idle and on a running core, its end; a free slot,
one that an operation has, and a row under test; a count word before and after the reads of its rows. -/
theorem witness_calibration :
    (∀ x ∈ [(0, false), (0, true), (2, true)],
      let d := engDev 0 { Engine.reset 0 with fails := [(1027, x.1)], spares := [(3, ⟨0, 3⟩)] }
      let g := d.engine 0 0
      d.unitFree 0 0 = true ∧ g.spareOpen 3 = true ∧ g.before (g.spareLevel 3) = false ∧
        (tryCol (BitVec.ofNat 32 (d.reg (key 0x9000 4))) (g.copyOf 1027) 1027 (patAttempt 1027 x.2)).map (·.isSome) = some !x.2) ∧
    ((engDev 0 { Engine.reset 0 with spares := [(3, ⟨0, 1⟩)] }).engine 0 0).spareOpen 3 = false ∧
    (let g := (engDev 0 { Engine.reset 0 with queue := [⟨3, [5]⟩] }).engine 0 0; g.before (g.spareLevel 3) = true) ∧
    (engDev 0 (Engine.reset 0)).unitFree 0 0 = true ∧ (Engine.reset 0).st = 0 ∧ (Engine.reset 0).cls = 0 ∧
    (Engine.reset 0).before 5 = false ∧ (runDev.engine 0 32).st = 1 ∧ runDev.unitFree 0 32 = true ∧
    (∀ p ∈ [Phase.idle, .running], let d := { phaseDev p with cim := { (phaseDev p).cim with
                                                                  engines := [(0, { Engine.reset 0 with stale := [1] })] } }
      (d.sliceDue 0).isSome = true ∧ d.coreUp 0 = true ∧ (d.core 0).seq.phase = p) ∧
    ((phaseDev .calSlice).core 0).seq.phase = .calSlice ∧
    (∀ x ∈ [(30, true), (60, false)],
      let d := engDev 0 { Engine.reset 0 with slots := [⟨30, 2, true, true, none⟩] }
      let z := ((d.reachCyc x.1).landUpTo 0 x.1).settleSlots 0 0 x.1
      z.underTest 0 (z.engine 0 0).pos = false ∧
        (z.engine 0 0).slots.any (fun y => (⟨x.1, 2, true, false, some .measure⟩ : EngSlot).meets y) = x.2) ∧
    (let d := coreDev ⟨Core.reset, { runSeq with board := [⟨9, ⟨true, 0, 256, true, true⟩, 0, 0, 3, 10, none⟩] }, CoreAux.reset⟩
     d.underTest 0 0 = true) ∧
    (∀ n ∈ [127, 128],
      let d := engDev 0 { Engine.reset 0 with badCounts := [7], work := madeN .recompute n }
      let y := (d.settleSlots 0 0 d.cyc).engine 0 0
      y.madeBoth .recompute 128 = decide (n = 128) ∧ y.badCounts = [7]) := by
  and_intros <;> decide +kernel

def monDev (n : Nat) (s : Int) : Device :=
  coreDev ⟨Core.reset, runSeq, { CoreAux.reset with mon := [(0, ⟨s, 4, n, 0, 0, 0⟩)] }⟩
def recDev (over_ toks : Nat) : Device :=
  { runDev with cast := { CastS.reset with
      insts := [(0, { oneInst with maq := some maq0 })],
      layers := [(0, { LayerRec.zero with cap := 8, winOver := over_, winTok := toks })] } }

/-- ProbesAndWindows: a probe before and after its conversions, with valid and invalid counts; an early window, a full one
without and with a bias; a window of few tokens, and a full one with no overflow and with many. -/
theorem witness_windows :
    (∀ x ∈ [((2 : Nat), ([] : List Nat)), (2, [3]), (1, [])],
      let d := engDev 0 { Engine.reset 0 with badCounts := x.2, work := madeN .probe x.1 }
      let b := d.settleSlots 0 0 d.cyc
      let y := b.engine 0 0
      b.unitFree 0 0 = true ∧ y.before (if y.queue.contains (probeJob 0) then 3 else 7) = false ∧ y.made .probe false = x.1 ∧
        y.badCounts = x.2) ∧
    (∀ x ∈ [(0, (0 : Int)), (1000000, 0), (1000000, 1000000)],
      let d := monDev x.1 x.2
      let w := (d.core 0).aux.window (d.engine 0 0).pos 0
      (decide (w.n < d.reg (key 0x9000 7)) = decide (x.1 = 0)) ∧ (d.engine 0 0).st = 0 ∧ w.asked = 0 ∧
        w.biased (BitVec.ofNat 32 (d.reg (key 0x9000 6))) = decide (x.2 ≠ 0) ∧ (d.engine 0 0).logicalOf 0 = some 0) ∧
    (∀ x ∈ [(0, 0), (0, 1000000), (1000000, 1000000)], let d := recDev x.1 x.2
      let pol := fun i => d.layerPolicy maq0 layer0 (key 0x7040 i)
      (d.inst 0).maq = some maq0 ∧ d.layerEnt? 0 0 = some layer0 ∧
        (decide ((d.layerRec 0 0).winTok < pol 2) = decide (x.2 = 0)) ∧
        (decide ((d.layerRec 0 0).winOver ≤ pol 1) = decide (x.1 = 0)) ∧
        (d.layerRec 0 0).cap < min ((d.layerRec 0 0).cap + pol 3) (pol 4)) := by
  and_intros <;> decide +kernel

def refStep (sc : RefScope) : RefStep := ⟨0#10, 0#12, sc, [⟨0#16, 1#13, 0, 1⟩], 1#13, 1024⟩

/-- ReferenceStep: asked for by a rerun, by a sampled request, and by nothing; on the layer's cluster and on another. -/
theorem witness_reference :
    layer0.refFmt ≠ 0 ∧ ((recDev 0 0).layerClusters maq0 layer0).contains 0 = true ∧
    ((recDev 0 0).layerClusters maq0 layer0).contains 1 = false ∧ (recDev 0 0).attnUp 0 = true ∧ (recDev 0 0).attnUp 1 = false ∧
    (let d := { recDev 0 0 with cast := { (recDev 0 0).cast with reruns := [(0, 0)] } }
     d.refWanted maq0 (refStep .layer) = true ∧ d.refWanted maq0 (refStep .inst) = false) ∧
    (let d := { recDev 0 0 with serv := { ServS.reset with aux := [(0, { ReqAux.free with sampled := true })] } }
     d.refWanted maq0 (refStep .sampled) = true) := by
  and_intros <;> decide +kernel

/-! ### Keyed requests -/

theorem leBytes_ofLe : ∀ l : List Byte, leBytes l.length (ofLe l) = l
  | [] => rfl
  | b :: bs => by
    have h := b.isLt
    have e : ofLe (b :: bs) / 256 = ofLe bs := by simp only [ofLe]; omega
    have g : BitVec.ofNat 8 (ofLe (b :: bs)) = b := by
      apply BitVec.eq_of_toNat_eq; simp only [ofLe, BitVec.toNat_ofNat]; omega
    simp only [List.length_cons, leBytes, e, g, leBytes_ofLe bs]

theorem ofLe_lt : ∀ l : List Byte, ofLe l < 256 ^ l.length
  | [] => by simp [ofLe]
  | b :: bs => by
    have := ofLe_lt bs
    have h := b.isLt
    simp only [ofLe, List.length_cons, Nat.pow_succ]; omega

theorem beBytes_length (v : Nat) : (beBytes 4 v).length = 4 := rfl

theorem bytesAt_length (bs : List Sys2Proof.Byte) (o n : Nat) : (bytesAt bs o n).length = n := by
  simp only [bytesAt, List.length_append, List.length_take, List.length_drop, List.length_replicate]; omega

theorem hmac_take (k m : List Sys2Proof.Byte) : ((hmacSha256 k m).take 16).length = 16 := by
  have h : (hmacSha256 k m).length = 32 := bytesAt_length _ _ _
  rw [List.length_take, h]; rfl

/-- FIPS 180-4: the first and last round constant, the last word of the initial hash value. -/
theorem test_sha_constants : rootFrac 3 2 = 0x428a2f98#32 ∧ rootFrac 3 311 = 0xc67178f2#32 ∧
    rootFrac 2 19 = 0x5be0cd19#32 := by decide +kernel

theorem reqCheck_length (r : Req) (k : List Byte) (c i j : Nat) : (reqCheck r k c i j).length = 16 := by
  exact hmac_take _ _

def key0 : List Byte := List.replicate 32 0x0B#8

/-- The request with its keyed check (R332) under `key0`. -/
def sign (code i j : Nat) (r : Req) : Req := { r with check := BitVec.ofNat 128 (ofLe (reqCheck r key0 code i j)) }

theorem slotOf_check (d : Device) (r : Req) (c : BitVec 128) : d.slotOf { r with check := c } = d.slotOf r := rfl

theorem reqCheck_check (r : Req) (c : BitVec 128) (k : List Byte) (n i j : Nat) :
    reqCheck { r with check := c } k n i j = reqCheck r k n i j := rfl

theorem sign_good (d : Device) (code i j : Nat) (r : Req) (h : (d.slotOf r).map (fun k => k.2.key) = some key0) :
    d.checkGood (sign code i j r) code i j = true := by
  have e : d.slotOf (sign code i j r) = d.slotOf r := slotOf_check d r _
  have g : reqCheck (sign code i j r) key0 code i j = reqCheck r key0 code i j := reqCheck_check r _ _ _ _ _
  have n := reqCheck_length r key0 code i j
  have lt := ofLe_lt (reqCheck r key0 code i j)
  unfold Device.checkGood
  rw [e]
  cases hk : d.slotOf r with
  | none => rw [hk] at h; simp at h
  | some k =>
    rw [hk] at h
    have h : k.2.key = key0 := by simpa using h
    have l := leBytes_ofLe (reqCheck r key0 code i j)
    have lt : ofLe (reqCheck r key0 code i j) < 2 ^ 128 := by
      rw [n] at lt; exact Nat.lt_of_lt_of_le lt (by decide)
    rw [n] at l
    simp only [h, g, decide_eq_true_eq]
    rw [show (sign code i j r).check.toNat = ofLe (reqCheck r key0 code i j) from by
      simp only [sign, BitVec.toNat_ofNat]; exact Nat.mod_eq_of_lt lt, l]

/-- The object a WRITE of the table names. -/
def rowAt (i j : Nat) : ObjRow := (writeRow? i j).getD ⟨0, 0, 0, 0, 0, 0, 0, false⟩

/-- What `writes` asks besides the check and the counter. -/
def okOpen (d : Device) (i j : Nat) (rule : WriteRule) (r : Req) : Bool :=
  let q := sign 2 i j r
  decide (reqTenantOk q = true ∧ reqFault q = none ∧ writeRow? i j = some (rowAt i j) ∧ q.keyed = true ∧
    d.writeFault q (rowAt i j) = none ∧ rule.auth d (d.soFar q) = true ∧ (d.slotOf r).map (fun k => k.2.key) = some key0)

def okWrite (d : Device) (i j : Nat) (rule : WriteRule) (r : Req) : Bool :=
  let q := sign 2 i j r
  okOpen d i j rule r && decide ((withDev d).alive = true ∧ d.transfer? q = none ∧ q.offset = 0#32 ∧
    q.total.toNat = q.payload.length ∧ ((d.slotOf r).any (fun k => decide (k.2.last < r.counter.toNat))) = true)

theorem cleared_of {d : Device} {i j : Nat} {rule : WriteRule} {r : Req} (h : okOpen d i j rule r = true) :
    d.cleared i j rule (sign 2 i j r) (rowAt i j) := by
  simp only [okOpen, decide_eq_true_eq] at h
  obtain ⟨h1, h2, h3, h4, h5, h6, h7⟩ := h
  exact ⟨h1, h2, h3, h4, sign_good d 2 i j r h7, h5, h6⟩

theorem writes_of {d : Device} {i j : Nat} {rule : WriteRule} {r : Req} (h : okWrite d i j rule r = true) :
    (withDev d).writes i j rule (sign 2 i j r) (rowAt i j) := by
  simp only [okWrite, Bool.and_eq_true, decide_eq_true_eq] at h
  obtain ⟨h0, h1, h2, h3, h4, h5⟩ := h
  refine ⟨h1, ⟨cleared_of h0, h2, h3, h4⟩, fun _ => ?_⟩
  obtain ⟨k, hk, hl⟩ := (Option.any_eq_true _ _).1 h5
  refine ⟨k, (slotOf_check d r _).trans hk, ?_⟩
  have hc : (sign 2 i j r).counter = r.counter := by unfold sign; rfl
  have hl : k.2.last < r.counter.toNat := of_decide_eq_true hl
  unfold KeySlot.judge
  rw [hc, if_pos hl]

/-- A keyed request of tenant 0 over the sideband, with a payload. -/
def req0 (p : List Byte) : Req :=
  { carrier := .sideband, source := 0#18, pktTenant := 0#9, flow := 0#16, version := 1#8, tenant := 0#9, keyed := true,
    tag := 1#16, counter := 5#64, offset := 0#32, total := BitVec.ofNat 32 p.length, check := 0#128, payload := p }

/-- The same from coordinate 8 in-band, of a tenant. -/
def reqT (t : Nat) (p : List Byte) : Req :=
  { req0 p with carrier := .mgmt, source := 8#18, tenant := BitVec.ofNat 9 t, pktTenant := BitVec.ofNat 9 t }

def keysT : Tbl KeySlot :=
  [(0, ⟨0, sideSource, key0, 4, []⟩), (1, ⟨0, 8#18, key0, 4, []⟩), (2, ⟨1, 8#18, key0, 4, []⟩)]

/-- `d` with the keys of these requests installed and tenant 1 defined. -/
def keyed (d : Device) : Device := { d with dict := { DictS.reset with keys := keysT, tenants := [1] } }
def kDev : Device := keyed { Device.reset with clk := upClk }

/-- A keyed WRITE passes and is executed (R327). -/
def passes (i j : Nat) (rule : WriteRule) (r : Req) (d : Device) : Prop :=
  (withDev d).writes i j rule (sign 2 i j r) (rowAt i j)

/-- The request of the last 4 bytes, zeros, of a value of `n` bytes. -/
def tailReq (n : Nat) : Req := { req0 [0, 0, 0, 0] with offset := BitVec.ofNat 32 (n - 4), total := BitVec.ofNat 32 n }

/-- The transfer of `n` bytes of which `vs`, all but 4, has come so far. -/
def tail (i j : Nat) (vs : List Byte) (n : Nat) : Transfer :=
  ⟨0, sideSource, 1#16, (rowAt i j).key, 5, n, 0#128, [(0, 0#128, vs)], 0, false⟩

/-- `d` with that transfer open. -/
def opened (d : Device) (i j : Nat) (vs : List Byte) (n : Nat) : Device :=
  { d with dict := { d.dict with transfers := [tail i j vs n] } }

/-- The last segment, 4 zeros, makes the value whole. -/
def endsWith (i j : Nat) (rule : WriteRule) (vs : List Byte) (n : Nat) (d : Device) : Prop :=
  ∃ v e, (withDev (opened d i j vs n)).lasts i j rule (sign 2 i j (tailReq n)) (rowAt i j) v e ∧ v = vs ++ List.replicate 4 0#8

/-- The last segment makes a value of zeros whole. -/
def ends (i j : Nat) (rule : WriteRule) (n : Nat) (d : Device) : Prop :=
  endsWith i j rule (List.replicate (n - 4) 0#8) n d

theorem transfer_check (d : Device) (r : Req) (c : BitVec 128) : d.transfer? { r with check := c } = d.transfer? r := rfl

theorem opened_transfer (d : Device) (i j : Nat) (vs : List Byte) (n : Nat) :
    (opened d i j vs n).transfer? (tailReq n) = some (tail i j vs n) := by
  unfold Device.transfer? opened
  exact List.find?_cons_of_pos (by rfl)

theorem lasts_of {d : Device} {i j : Nat} {rule : WriteRule} {r : Req} (c : BitVec 128) (t : Transfer)
    (h : d.cleared i j rule { r with check := c } (rowAt i j)) (ha : (withDev d).alive = true) (ht : d.transfer? r = some t)
    (h1 : t.obj = (rowAt i j).key) (h2 : t.counter = r.counter.toNat) (h3 : t.dup = false)
    (h4 : t.segs.find? (fun x => decide (x.1 = r.offset.toNat)) = none) (h5 : r.offset.toNat = t.got)
    (h6 : t.got + r.payload.length = t.total) :
    ∃ v e, (withDev d).lasts i j rule { r with check := c } (rowAt i j) v e ∧ v = t.value ++ r.payload :=
  ⟨_, _, ⟨ha, h, t, ht, h1, h2, h3, h4, h5, h6, rfl, rfl⟩, rfl⟩

theorem endsWith_of {d : Device} {i j n : Nat} {vs : List Byte} {rule : WriteRule}
    (h : okOpen (opened d i j vs n) i j rule (tailReq n) = true) (hv : vs.length = n - 4) (hn : 4 < n ∧ n < 2 ^ 32) :
    endsWith i j rule vs n d := by
  obtain ⟨h1, h2⟩ := hn
  have hg : (tail i j vs n).got = n - 4 := by
    unfold tail Transfer.got
    simp only [List.map_cons, List.map_nil, List.sum_cons, List.sum_nil, hv, Nat.add_zero]
  have ho2 : (BitVec.ofNat 32 (n - 4)).toNat = n - 4 := by
    rw [BitVec.toNat_ofNat]; exact Nat.mod_eq_of_lt (by omega)
  have x := lasts_of _ (tail i j vs n) (cleared_of h) rfl (opened_transfer d i j vs n) rfl rfl rfl
    (by
      show List.find? _ [(0, 0#128, vs)] = none
      rw [show (tailReq n).offset.toNat = n - 4 from ho2, List.find?_cons_of_neg (by simp; omega)]; rfl)
    (by rw [hg]; exact ho2) (by rw [hg]; show n - 4 + 4 = n; omega)
  obtain ⟨v, e, hl, hv⟩ := x
  refine ⟨v, e, hl, hv.trans ?_⟩
  show List.flatMap _ [(0, 0#128, vs)] ++ List.replicate 4 0#8 = _
  rw [List.flatMap_cons, List.flatMap_nil, List.append_nil]

theorem ends_of {d : Device} {i j n : Nat} {rule : WriteRule}
    (h : okOpen (opened d i j (List.replicate (n - 4) 0#8) n) i j rule (tailReq n) = true) (hn : 4 < n ∧ n < 2 ^ 32) :
    ends i j rule n d := endsWith_of h List.length_replicate hn

/-- Worked example of R332's algorithm: RFC 4231, case 2, 16 bytes. -/
theorem test_hmac : (hmacSha256 [0x4A, 0x65, 0x66, 0x65] [0x77, 0x68, 0x61, 0x74, 0x20, 0x64, 0x6F, 0x20, 0x79, 0x61, 0x20, 0x77,
    0x61, 0x6E, 0x74, 0x20, 0x66, 0x6F, 0x72, 0x20, 0x6E, 0x6F, 0x74, 0x68, 0x69, 0x6E, 0x67, 0x3F]).take 16 =
    [0x5B, 0xDC, 0xC1, 0x46, 0xBF, 0x60, 0x75, 0x4E, 0x6A, 0x04, 0x24, 0x26, 0x08, 0x95, 0x75, 0xC7] := by decide +kernel

/-! ### Requests of the dictionary -/

/-- The commands of WriteProtocol and their rules. -/
def wIx : Nat × Nat × WriteRule := (0x5010, 0, ruleKeyInstall)
def win1 : WinEnt := ⟨5, 0x501000, 0#128, 0, [], none⟩

/-- WriteProtocol: a disagreeing tenant, a wrong version, a long payload, no key, a wrong check, a refused right. -/
theorem witness_write_steps :
    reqTenantOk { reqT 0 [] with pktTenant := 1#9 } = false ∧ reqTenantOk (reqT 0 []) = true ∧
    (req0 []).version = 1#8 ∧ { req0 [] with version := 2#8 }.version ≠ 1#8 ∧
    (let r := req0 (List.replicate 1025 0#8); r.version = 1#8 ∧ carrierLimit r.carrier < r.payload.length) ∧
    (let r := req0 []; reqFault { r with keyed := false } = none ∧ { r with keyed := false }.keyed = false ∧
      r.keyed = true ∧ kDev.checkGood r 2 0x5010 0 = false ∧ (Device.reset).checkGood r 2 0x5010 0 = false) := by decide +kernel

theorem witness_write_rights :
    (let r := sign 2 0x5010 0 (reqT 0 []); kDev.checkGood r 2 0x5010 0 = true ∧ kDev.writeFault r (rowAt 0x5010 0) = some 3) ∧
    (let r := sign 2 0x6002 0 (reqT 1 []); kDev.checkGood r 2 0x6002 0 = true ∧ kDev.writeFault r (rowAt 0x6002 0) = none) ∧
    (let r := sign 2 0x7000 2 (reqT 1 [])
     kDev.checkGood r 2 0x7000 2 = true ∧ kDev.writeFault r (rowAt 0x7000 2) = none ∧ ruleCastClose.auth kDev (kDev.soFar r) = true ∧
      (rowAt 0x7000 2).right = 4) := by
  refine ⟨⟨sign_good _ _ _ _ _ (by decide +kernel), by decide +kernel⟩, ⟨sign_good _ _ _ _ _ (by decide +kernel),
    by decide +kernel⟩, sign_good _ _ _ _ _ (by decide +kernel), by decide +kernel⟩

/-- The rule of a cast's close admits its tenant alone; a create of another tenant's handle fails its right. -/
theorem witness_write_auth :
    (let r := sign 2 0x8001 0 (reqT 1 (leBytes 4 0 ++ leBytes 4 64 ++ leBytes 8 0))
     kDev.checkGood r 2 0x8001 0 = true ∧ kDev.writeFault r (rowAt 0x8001 0) = none ∧ ruleCreateHandle.auth kDev (kDev.soFar r) = false) ∧
    (∀ c ∈ [3, 4], let r := { req0 [] with counter := BitVec.ofNat 64 c }
      kDev.cleared 0x7000 2 ruleCastClose (sign 2 0x7000 2 r) (rowAt 0x7000 2) ∧ (rowAt 0x7000 2).right = 4) := by
  refine ⟨⟨sign_good _ _ _ _ _ (by decide +kernel), by decide +kernel⟩, fun c hc => ⟨cleared_of ?_, by decide +kernel⟩⟩
  revert c; decide +kernel

/-- ReplayWindow, with WriteProtocol's counter step: an accepted counter, a duplicate, an old one, one 64 below. -/
theorem witness_judge :
    let k : KeySlot := ⟨0, sideSource, key0, 70, [win1, { win1 with counter := 40, digest := 9#128 }]⟩
    k.judge 71 0#128 = .accept ∧ k.judge 40 9#128 = .duplicate { win1 with counter := 40, digest := 9#128 } ∧
    k.judge 40 8#128 = .replay ∧ k.judge 7 0#128 = .replay ∧ k.judge 6 0#128 = .replay ∧ k.judge 5 0#128 = .replay := by
  decide +kernel

/-- A device with `n` latches, the first of them tag 1 of the sideband. -/
def latchDev (n : Nat) : Device :=
  { kDev with dict := { kDev.dict with latches := (List.range n).map (fun i =>
    ⟨sideSource, BitVec.ofNat 16 (if i = 0 then 1 else 100 + i), 0x202003, List.replicate 256 0#8, 0⟩) } }

/-- DictRequests: READ, DESCRIBE, ABORT and ECHO past steps 1 to 4. -/
theorem witness_dict_asks :
    ((fun r => kDev.asked 1 0x1000 2 r (rowAt 0x1000 2) ∧ (rowAt 0x1000 2).right ≠ 3 ∧ (rowAt 0x1000 2).right ≠ 5)
      { req0 [] with keyed := false, total := 8#32 }) ∧
    kDev.asked 4 0x2020 3 { req0 [] with keyed := false } (rowAt 0x2020 3) ∧
    (let r := { reqT 0 (List.replicate 64 1#8) with keyed := false }
     kDev.asked 6 0x1000 2 r (rowAt 0x1000 2) ∧ r.carrier = .mgmt ∧ r.keyed = false ∧ r.payload.length ≤ 64) := by
  simp only [Device.asked]; decide +kernel

theorem witness_dict_abort : ∀ x ∈ [(3, 0x7000, 2), (1, 0x7002, 0)],
    kDev.asked x.1 x.2.1 x.2.2 (sign x.1 x.2.1 x.2.2 (req0 [])) (rowAt x.2.1 x.2.2) ∧
      ((rowAt x.2.1 x.2.2).right = 3 ↔ x.1 = 1) := by
  intro x hx
  simp only [List.mem_cons, List.not_mem_nil, or_false] at hx
  have q (c i j : Nat) : (sign c i j (req0 [])).keyed = true := by unfold sign; rfl
  rcases hx with rfl | rfl <;> exact ⟨⟨by decide +kernel, by decide +kernel, by decide +kernel, fun h => by
    rw [q] at h; exact absurd h (by decide), fun _ => sign_good _ _ _ _ _ (by decide +kernel), by decide +kernel⟩, by decide +kernel⟩

/-- A latched read: room for a latch, none, a later segment with a latch and without. -/
theorem witness_latches :
    let r := fun (off : Nat) => { req0 [] with keyed := false, total := 64#32, offset := BitVec.ofNat 32 off }
    let o := rowAt 0x2020 3
    o.right = 5 ∧ o.key = 0x202003 ∧ (∀ n ∈ [0, 5], ∀ f ∈ [0, 192],
      (latchDev n).asked 1 0x2020 3 (r f) o ∧ decide ((latchDev n).latch? sideSource 1#16 = none) = decide (n = 0)) ∧
    (let e := (latchDev 0).dropLatch sideSource 1#16
     let v := (latchDev 0).shown (r 0) o
     e.dict.latches.length < 4 ∧ (reqPart (r 0) v).length < v.length) ∧
    4 ≤ ((latchDev 5).dropLatch sideSource 1#16).dict.latches.length ∧
    (∀ l ∈ (latchDev 5).dict.latches.head?, l.obj = o.key ∧ l.value.length ≤ 192 + (reqPart (r 192) l.value).length) := by
  simp only [Device.asked]; decide +kernel

/-- The block after a keyed WRITE's counter is taken. -/
def after (i j : Nat) (r : Req) (d : Device) : Device := d.counted i (rowAt i j) (sign 2 i j r)

/-- WritesAndTransfers: a scalar of its size and range, one out of range and one too long. -/
theorem witness_scalar : ∀ x ∈ [(leBytes 4 100, (none : Option Nat)), (leBytes 4 0, some 6), (leBytes 8 100, some 7)],
    passes 0x5040 1 (scalarRule 0x504001) (req0 x.1) kDev ∧ scalarFault (rowAt 0x5040 1) x.1 = x.2 := by
  intro x hx
  exact ⟨writes_of (by revert x hx; decide +kernel), by revert x hx; decide +kernel⟩

theorem witness_scalar_rule : lowRule 0x504001 = none ∧ objRow? 0x504001 = some (rowAt 0x5040 1) := by decide +kernel

def xfer : Transfer := ⟨0, sideSource, 1#16, 0x504001, 5, 8, 0#128, [(0, 0#128, [0, 0, 0, 0])], 0, false⟩
def xferDev (l : List Transfer) : Device := { kDev with dict := { kDev.dict with transfers := l } }
def segAt (off total : Nat) : Req := { req0 [0, 0, 0, 0] with offset := BitVec.ofNat 32 off, total := BitVec.ofNat 32 total }

/-- A first segment, a next one out of place, the last one; ends by time of a transfer and of a latch. -/
theorem witness_transfer :
    (let r := sign 2 0x5040 1 (segAt 0 8); (xferDev []).cleared 0x5040 1 (scalarRule 0x504001) r (rowAt 0x5040 1) ∧
      (xferDev []).transfer? r = none ∧ (xferDev []).slotOf r ≠ none ∧ r.offset = 0#32 ∧ r.payload.length < r.total.toNat ∧
      r.payload.length % 4 = 0 ∧ (xferDev []).transferRoom (reqSrc r) = true) ∧
    (∀ f ∈ [2, 4], let r := sign 2 0x5040 1 (segAt f 8); (xferDev [xfer]).cleared 0x5040 1 (scalarRule 0x504001) r (rowAt 0x5040 1) ∧
      (xferDev [xfer]).transfer? r = some xfer ∧ xfer.obj = (rowAt 0x5040 1).key ∧ xfer.counter = r.counter.toNat ∧
      xfer.dup = false ∧ xfer.segs.find? (fun x => decide (x.1 = r.offset.toNat)) = none ∧
      decide (r.offset.toNat = xfer.got) = decide (f = 4) ∧ xfer.got + r.payload.length = xfer.total) ∧
    ((xferDev [xfer]).dict.transfers.find? (fun (x : Transfer) => decide (x.tenant = 0 ∧ x.source = sideSource ∧ x.tag = 1#16)))
      = some xfer ∧ (latchDev 1).latch? sideSource 1#16 ≠ none := by
  refine ⟨⟨cleared_of (by decide +kernel), by decide +kernel⟩, fun f hf => ⟨cleared_of ?_, ?_⟩, by decide +kernel⟩ <;>
    (revert f hf; decide +kernel)

/-! ### Handles -/

/-- A creation's payload: tenant 1, cluster, unit or any buffer, length in rows, attributes. -/
def create (cluster unit len attrs : Nat) (any_ : Bool) : List Byte :=
  leBytes 4 (1 + cluster * 512 + unit * 8192 + (if any_ then 131072 else 0)) ++ leBytes 4 len ++ leBytes 4 attrs ++ leBytes 4 8

def memDev (m : MemS) : Device := { kDev with mem := m }
def fullMem : MemS := { MemS.reset with handles := [(1, ⟨0, 0, 0, 0, 524288, 3#11⟩)] }
def lim (h b : Nat) : MemS := { MemS.reset with limits := [(1, ⟨h, b, 9, 9, 9, 9⟩)] }

/-- HandleCommands: cluster not ready, quota, no room, room in a unit and in any; a remote window. -/
theorem witness_create :
    ∀ x ∈ [(create 1 0 64 0 false, memDev (lim 9 9), 0), (create 0 0 64 0 false, memDev (lim 0 9), 1),
           (create 0 0 64 0 false, memDev (lim 9 0), 1), (create 0 0 64 0 false, memDev { fullMem with limits := (lim 9 9).limits }, 2),
           (create 0 0 64 0 false, memDev (lim 9 9), 3), (create 0 0 524288 0 true, memDev (lim 9 9999), 3)],
    passes 0x8001 0 ruleCreateHandle (reqT 0 x.1) x.2.1 ∧ x.1.length = 16 ∧
      (let e := after 0x8001 0 (reqT 0 x.1) x.2.1
       let a := BitVec.ofNat 11 (wordAt x.1 2)
       let n := (wordAt x.1 1 + 63) / 64
       let w := wordAt x.1
       let units := if bit (w 0) 17 then [13, 14, 15] else [bits (w 0) 16 13]
       let full := (e.limits 1).handles < (e.handleUse 1).1 + 1 ∨ (e.limits 1).bytes < (e.handleUse 1).2 + n
       bits (w 0) 8 0 = 1 ∧ e.tenantDefined 1 = true ∧ a.getLsbD 9 = false ∧ a.getLsbD 10 = false ∧ a.getLsbD 7 = false ∧ 1 ≤ w 1 ∧ w 1 ≤ 524288 ∧
        x.2.2 = if (e.cluster (bits (w 0) 12 9)).ready = false then 0 else if full then 1
          else if e.freeHandle = none ∨ e.findIn (bits (w 0) 12 9) (w 1) units = none then 2 else 3) := by
  intro x hx
  exact ⟨writes_of (by revert x hx; decide +kernel), by revert x hx; decide +kernel⟩

theorem witness_window :
    let p := create 0 0 0 128 false
    passes 0x8001 0 ruleCreateHandle (reqT 0 p) (memDev (lim 9 9)) ∧ (BitVec.ofNat 11 (wordAt p 2)).getLsbD 7 = true ∧
      (let e := after 0x8001 0 (reqT 0 p) (memDev (lim 9 9)); (e.handleUse 1).1 + 1 ≤ (e.limits 1).handles ∧ e.freeHandle ≠ none) :=
  ⟨writes_of (by decide +kernel), by decide +kernel⟩

def busyDev : Device :=
  { coreDev ⟨Core.reset, runSeq, CoreAux.reset⟩ with
    dict := kDev.dict, serv := { ServS.reset with reqs := [(0, { ReqEnt.free with state := 4, io := 1 })] } }

/-- A release of no handle, of one in use and of one that is not. -/
theorem witness_release :
    ∀ x ∈ [(2, memDev fullMem, 0), (1, busyDev, 1), (1, memDev fullMem, 2)],
    passes 0x8002 0 ruleReleaseHandle (req0 (leBytes 2 x.1)) x.2.1 ∧ scalarFault (rowAt 0x8002 0) (leBytes 2 x.1) = none ∧
      (let e := after 0x8002 0 (req0 (leBytes 2 x.1)) x.2.1
       let h := Tbl.find? e.mem.handles (ofLe (leBytes 2 x.1))
       (h.map (fun h => h.reserve)).getD false = false ∧ x.2.2 = if h = none then 0 else if e.handleInUse x.1 then 1 else 2) := by
  intro x hx
  exact ⟨writes_of (by revert x hx; decide +kernel), by revert x hx; decide +kernel⟩

/-- A handle table whose record 0 is of a length, without its last 4 bytes. -/
def tableOf (len : Nat) : List Byte := leBytes 4 1 ++ leBytes 4 0 ++ leBytes 4 len ++ leBytes 4 3 ++ List.replicate 131052 0#8

theorem tableOf_length (len : Nat) : (tableOf len).length = 131072 - 4 := by
  have h : ∀ v, (leBytes 4 v).length = 4 := fun _ => rfl
  simp only [tableOf, List.length_append, List.length_replicate, h]

/-- A table of 131,072 bytes, its last segment, that re-creates a lost entry in range, and one that does not; a lost handle; a
releasing handle whose extent has been zeroed; a free base. -/
theorem witness_recreate :
    (∀ len ∈ [0, 64], endsWith 0x8003 0 ruleHandleTable (tableOf len) 131072 (memDev { MemS.reset with lost := [0] }) ∧
      (tableOf len ++ List.replicate 4 0#8).length = 131072 ∧
      ([0] : List Nat).any (fun h => match handleOf (bytesAt (tableOf len ++ List.replicate 4 0#8) (16 * h) 16) with
        | some x => !x.ranged | none => false) = decide (len = 0)) ∧
    (memDev { MemS.reset with lost := [7] }).mem.lost.contains (7#13).toNat = true ∧
    (let x : Handle := ⟨0, 0, 0, 0, 64, 1024#11⟩
     Tbl.find? (memDev { MemS.reset with handles := [(1, x)] }).mem.handles (1#13).toNat = some x ∧ x.releasing = true ∧
      x.remote = false) ∧ (memDev (lim 9 9)).findBase 0 0 64 = some 0 := by
  refine ⟨fun len h => ⟨endsWith_of (by revert len h; decide +kernel) (tableOf_length len) (by decide), ?_, ?_⟩, by decide +kernel⟩
  · rw [List.length_append, tableOf_length, List.length_replicate]
  · revert len h; decide +kernel

/-- WritesAndTransfers: a policy object, whose value takes effect at the cores' commit marks. -/
theorem witness_policy :
    passes 0x7040 1 (scalarRule 0x704001) (req0 (leBytes 4 5)) kDev ∧ scalarFault (rowAt 0x7040 1) (leBytes 4 5) = none ∧
    highRule 0x704001 = none ∧ objRow? 0x704001 = some (rowAt 0x7040 1) ∧ policyKeys.contains 0x704001 = true :=
  ⟨writes_of (by decide +kernel), by decide +kernel⟩

/-! ### Serving: tenant 0's context 0, a maquette that does not generate, an I/O handle and a handle for masks -/

/-- A submission of instance 0: client 7, no deadline, 10 tokens, I/O handle `io`. -/
def submit (client io : Nat) : List Byte :=
  leBytes 64 (client * 2 ^ 32 + (2 ^ 48 - 1) * 2 ^ 64 + 10 * 2 ^ 112 + 10 * 2 ^ 135 + io * 2 ^ 158)

def servN : ServInfo := { serv0 with generates := false }
def maqN : Maq := { maq0 with extra := { extra0 with serving := servN } }

def servDev (reqs : Tbl ReqEnt) (aux : Tbl ReqAux) : Device :=
  { coreDev ⟨Core.reset, Seq.reset, CoreAux.reset⟩ with
    dict := { kDev.dict with contexts := [(0, (0, 0))] }
    cast := { CastS.reset with insts := [(0, { oneInst with maq := some maqN })] }
    serv := { ServS.reset with reqs := reqs, aux := aux } }

def queued : ReqEnt := { ReqEnt.free with state := 2, client := 7, maxLen := 10, prompt := 5, deadline := 2 ^ 48 - 1 }
def ended : ReqEnt := { queued with state := 5 }

/-- Submissions: a client ID in use by an ended and by a live request, one that is refused, one that is admitted. -/
theorem witness_submit :
    ∀ x ∈ [([(0, ended)], 1, 0), ([(0, queued)], 1, 1), ([], 2, 2), ([], 1, 3)],
    let d := servDev x.1 []
    passes 0x6001 0 ruleSubmit (req0 (submit 7 x.2.1)) d ∧ (submit 7 x.2.1).length = 64 ∧
      (let e := after 0x6001 0 (req0 (submit 7 x.2.1)) d
       let u := subOf (submit 7 x.2.1)
       u.client = 7 ∧ ((e.reqOf 0 7).isSome || e.admittedBefore 0 7) = decide (x.2.2 ≤ 1) ∧
       (x.2.2 = 0 → (e.reqOf 0 7).map (fun y => y.2.live) = some false) ∧
       (x.2.2 = 1 → (e.reqOf 0 7).map (fun y => y.2.live) = some true) ∧
       (2 ≤ x.2.2 → lowestFree (Tbl.keys e.serv.reqs) 65536 0 = some 0 ∧
         (e.admitFault 0 0 u).1 = if x.2.2 = 3 then none else some 0x10)) := by
  intro x hx
  exact ⟨writes_of (by revert x hx; decide +kernel), by revert x hx; decide +kernel⟩

theorem no_free (u : List Nat) : ∀ n k, (∀ j, k ≤ j → j < k + n → j ∈ u) → lowestFree u n k = none
  | 0, _, _ => rfl
  | n + 1, k, h => by
    unfold lowestFree
    rw [if_pos (List.contains_iff_mem.2 (h k (Nat.le_refl _) (by omega)))]
    exact no_free u n (k + 1) (fun j h1 h2 => h j (by omega) (by omega))

def fullReqs : Tbl ReqEnt := (List.range 65536).map (fun i => (i, queued))

theorem after_reqs (reqs : Tbl ReqEnt) (r : Req) : (after 0x6001 0 r (servDev reqs [])).serv.reqs = reqs := by
  unfold after Device.counted
  split <;> rfl

theorem full_slots : lowestFree (Tbl.keys fullReqs) 65536 0 = none := by
  refine no_free _ _ _ (fun j _ h => ?_)
  show j ∈ List.map Prod.fst (List.map (fun i => (i, queued)) (List.range 65536))
  rw [List.map_map]
  exact List.mem_map.2 ⟨j, List.mem_range.2 (by omega), rfl⟩

theorem full_client : List.find? (fun (e : Nat × ReqEnt) => decide (e.2.state ≠ 0 ∧ e.2.tenant = 0 ∧ e.2.client = 8)) fullReqs = none := by
  rw [List.find?_eq_none]
  intro x hx
  obtain ⟨i, _, rfl⟩ := List.mem_map.1 hx
  exact (by decide : ¬ decide (queued.state ≠ 0 ∧ queued.tenant = 0 ∧ queued.client = 8) = true)

/-- Every slot taken, none by the client. -/
theorem witness_full :
    passes 0x6001 0 ruleSubmit (req0 (submit 8 1)) (servDev fullReqs []) ∧
      (let e := after 0x6001 0 (req0 (submit 8 1)) (servDev fullReqs [])
       e.reqOf 0 8 = none ∧ e.admittedBefore 0 8 = false ∧ lowestFree (Tbl.keys e.serv.reqs) 65536 0 = none) := by
  refine ⟨writes_of (by decide +kernel), ?_, by decide +kernel, ?_⟩
  · unfold Device.reqOf; rw [after_reqs]; exact full_client
  · rw [after_reqs]; exact full_slots

/-- EndsOfRequests: a cancel of nothing, of an ended, of a live request in a round and of one that waits. -/
theorem witness_cancel :
    ∀ x ∈ [(([] : Tbl ReqEnt), ([] : Tbl ReqAux), 0), ([(0, ended)], [], 1), ([(0, queued)], [(0, { ReqAux.free with inRound := true })], 2),
           ([(0, queued)], [], 3)],
    let d := servDev x.1 x.2.1
    passes 0x6002 0 ruleCancel (req0 (leBytes 4 7)) d ∧ scalarFault (rowAt 0x6002 0) (leBytes 4 7) = none ∧
      (let e := after 0x6002 0 (req0 (leBytes 4 7)) d
       (e.reqOf 0 7).map (fun y => (y.2.live, (e.aux y.1).inRound)) =
         [none, some (false, false), some (true, true), some (true, false)].getD x.2.2 none) := by
  intro x hx
  exact ⟨writes_of (by revert x hx; decide +kernel), by revert x hx; decide +kernel⟩

/-- A deadline that passes with no round, a fenced request, one late and one whose bound is late, an entry retained. -/
theorem witness_ends :
    (let d := servDev [(0, { queued with deadline := 1000 })] []
     d.serving? 0 = some servN ∧ (d.req 0).live = true ∧ (d.req 0).inst = 0 ∧ (d.req 0).deadline ≠ 2 ^ 48 - 1 ∧
      Tbl.find? d.serv.rounds 0 = none ∧ d.coreUp servN.lead.val = true ∧ (d.core servN.lead.val).seq.phase = .idle ∧
      (d.aux 0).failure = none ∧ (d.aux 0).fenced = false ∧ d.passed 1000 = false ∧ d.reg (key 0x6000 3) = 1 ∧
      d.boundExceeds 0 (d.req 0) servN = true ∧
      { d with clk := { d.clk with time := 2000#64 } }.passed 1000 = true) ∧
    (let d := servDev [(0, ended)] []
     5 ≤ (d.req 0).state ∧ d.framesHeld 0 = false) ∧
    ((servDev [(0, queued)] [(0, { ReqAux.free with fenced := true })]).aux 0).fenced = true := by decide +kernel

/-- ServingControls: the records of tenants and instances, and the control bytes of the experts as a transfer. -/
theorem witness_controls :
    passes 0x6004 0 ruleTenantServing (reqT 1 (List.replicate 4096 0#8)) kDev ∧ (List.replicate 4096 0#8).length = 4096 ∧
    passes 0x6006 0 ruleInstServing (reqT 1 (List.replicate 8192 0#8)) kDev ∧ (List.replicate 8192 0#8).length = 8192 ∧
    ends 0x6030 0 ruleExperts 262144 kDev ∧ (List.replicate 262144 0#8).length = 262144 :=
  ⟨writes_of (by decide +kernel), List.length_replicate .., writes_of (by decide +kernel), List.length_replicate ..,
    ends_of (by decide +kernel) (by decide), List.length_replicate ..⟩

/-- Control records with Enabled set and clear, FENCE and not, by their own tenant, tenant 0 and another. -/
theorem witness_control_bits :
    (∀ x ∈ [(0#8, false, false), (1#8, true, false), (2#8, false, true)],
      bit (wordAt [x.1] 0) 0 = x.2.1 ∧ bit (wordAt [x.1] 0) 1 = x.2.2) ∧
    (∀ b ∈ [true, false], let d := servDev [(0, queued)] [(0, { ReqAux.free with inRound := b })]
      (d.req 0).live = true ∧ (d.aux 0).inRound = b) := by decide +kernel

/-! ### Casting -/

/-- A maquette: class 1, tenant 0, one layer of 128 inputs and 16 outputs on core 0 of cluster 0, no region or program. -/
def maqHead : List Byte :=
  leBytes 4 1 ++ leBytes 4 (2 ^ 19) ++ leBytes 4 (1 + 5 * 65536) ++ leBytes 4 176 ++
  [(1, 96, 64, 1), (2, 160, 16, 1), (3, 176, 0, 0), (4, 176, 0, 0), (5, 176, 0, 0)].flatMap (fun (s : Nat × Nat × Nat × Nat) =>
    leBytes 4 s.1 ++ leBytes 4 s.2.1 ++ leBytes 4 s.2.2.1 ++ leBytes 4 s.2.2.2)
def maqLayer : List Byte :=
  leBytes 4 (7 * 2 ^ 20 + 2 ^ 23) ++ leBytes 4 128 ++ leBytes 4 16 ++ leBytes 4 f32One.toNat ++ leBytes 4 f32One.toNat ++
  leBytes 4 8 ++ leBytes 4 1 ++ leBytes 4 0 ++ leBytes 4 f32One.toNat ++ leBytes 4 65536 ++ leBytes 4 (2 ^ 32 - 1) ++ leBytes 20 0
def maqBytes : List Byte := maqHead ++ maqLayer ++ leBytes 16 0
def maqDigest : List Byte := sha256 maqBytes
def extraN : MaqExtra := ⟨[], servN, [], [], []⟩

def castDev (x : Inst) (m : MemS) : Device :=
  { coreDev ⟨Core.reset, Seq.reset, CoreAux.reset⟩ with
    dict := kDev.dict, cast := { CastS.reset with insts := [(0, x)] }, mem := m }
def maqMem : MemS :=
  { MemS.reset with handles := [(1, bufHandle)]
                    m := ⟨(maqBytes.zipIdx.filter (fun x => x.1 ≠ 0#8)).map (fun x => ⟨bufHandle.addr x.2, x.1⟩), [], []⟩ }

theorem ecc_zero : eccRead 0#39 = .clean := by decide +kernel

/-- Clean words are read with no effect. -/
theorem readWords_clean (d : Device) (hf : d.mem.m.flips = []) (hp : d.mem.m.poison = []) :
    ∀ n wa, (d.readWords wa n).2 = d
  | 0, _ => rfl
  | n + 1, wa => by
    have h : (d.readWord wa 0).2 = d := by
      unfold Device.readWord
      rw [hf, hp, show Tbl.get 0#39 ([] : Tbl (BitVec 39)) wa = 0#39 from rfl, show Tbl.get 0#2 ([] : Tbl (BitVec 2)) wa = 0#2 from rfl]
      dsimp only
      rw [if_neg (by decide), ecc_zero]
    unfold Device.readWords
    dsimp only
    rw [h, readWords_clean d hf hp n (wa + 1)]

theorem readMaquette_clean (d : Device) (h : Nat) (hf : d.mem.m.flips = []) (hp : d.mem.m.poison = [])
    (hs : ∀ x, d.handle? h = some x → x.bad = false ∧ x.shared = false) : (d.readMaquette h).2 = d := by
  unfold Device.readMaquette Device.readH
  cases d.maquetteBytes h with
  | none => rfl
  | some b =>
    dsimp only
    cases hh : d.handle? h with
    | none => rfl
    | some x =>
      obtain ⟨h1, h2⟩ := hs x hh
      simp [h1, h2, readWords_clean d hf hp]

/-- A cast's opening: instance 0, handle 1, the digest. -/
def openCast (digest : List Byte) : List Byte := leBytes 2 0 ++ leBytes 2 1 ++ digest

/-- Whether the handles are made, and if not, for want of what. -/
def outcome {α : Type} (x : Except NoHandle α) : Nat := match x with | .ok _ => 0 | .error .quota => 1 | .error .space => 2

/-- An opening with a handle and its device: the value passes, the maquette is read without effect, the first check that
fails, and what the handles give. -/
def castCase (p : List Byte) (d : Device) (fault : Option Nat) (made : Nat) : Prop :=
  passes 0x7000 1 (ruleCastOpen extraN) (req0 p) d ∧ p.length = 36 ∧ leAt p 0 2 = 0 ∧ leAt p 2 2 = 1 ∧
    (let e := after 0x7000 1 (req0 p) d
     let m := maqOf maqBytes extraN
     (e.readMaquette 1).1 = some maqBytes ∧ bytesAt p 4 32 = p.drop 4 ∧ e.castFault 0 (some maqBytes) (p.drop 4) m = fault ∧
       (e.readMaquette 1).2 = e ∧ (fault = none → outcome (e.startCast 0 1 m) = made))

/-- Casts: a wrong digest. -/
theorem witness_cast_digest : castCase (openCast (List.replicate 32 0#8)) (castDev Inst.absent maqMem) (some 2) 0 :=
  ⟨writes_of (by decide +kernel), by decide +kernel, by decide +kernel, by decide +kernel, by decide +kernel, by decide +kernel,
    by decide +kernel, readMaquette_clean _ _ (by decide +kernel) (by decide +kernel) (fun y hy => by injection hy with hy; subst hy; decide +kernel),
    nofun⟩

/-- Casts: handles over the quota. -/
theorem witness_cast_quota :
    castCase (openCast maqDigest) (castDev Inst.absent { maqMem with limits := [(0, ⟨0, 0, 0, 0, 0, 0⟩)] }) none 1 :=
  ⟨writes_of (by decide +kernel), by decide +kernel, by decide +kernel, by decide +kernel, by decide +kernel, by decide +kernel,
    by decide +kernel, readMaquette_clean _ _ (by decide +kernel) (by decide +kernel) (fun y hy => by injection hy with hy; subst hy; decide +kernel),
    fun _ => by decide +kernel⟩

/-- Casts: no room for the handles. -/
theorem witness_cast_space :
    castCase (openCast maqDigest) (castDev Inst.absent { maqMem with handles := maqMem.handles ++
      [(2, ⟨0, 0, 13, 0, 524288, 3#11⟩), (3, ⟨0, 0, 14, 0, 524288, 3#11⟩), (4, ⟨0, 0, 15, 0, 524288, 3#11⟩)] }) none 2 :=
  ⟨writes_of (by decide +kernel), by decide +kernel, by decide +kernel, by decide +kernel, by decide +kernel, by decide +kernel,
    by decide +kernel, readMaquette_clean _ _ (by decide +kernel) (by decide +kernel) (fun y hy => by injection hy with hy; subst hy; decide +kernel),
    fun _ => by decide +kernel⟩

/-- Casts: an opening that passes. -/
theorem witness_cast_open : castCase (openCast maqDigest) (castDev Inst.absent maqMem) none 0 :=
  ⟨writes_of (by decide +kernel), by decide +kernel, by decide +kernel, by decide +kernel, by decide +kernel, by decide +kernel,
    by decide +kernel, readMaquette_clean _ _ (by decide +kernel) (by decide +kernel) (fun y hy => by injection hy with hy; subst hy; decide +kernel),
    fun _ => by decide +kernel⟩

def castInst (state : Nat) (j : CastJob) : Inst := { oneInst with state := state, job := some j }

/-- A close by another tenant, of no cast, of one with a layer missing, with a digest wrong, and of one whole; an abort. -/
theorem witness_cast_close :
    ∀ x ∈ [(reqT 1 (leBytes 2 0), Inst.absent, 0), (req0 (leBytes 2 0), Inst.absent, 1), (req0 (leBytes 2 0), castInst 1 (job0 false), 2),
           (req0 (leBytes 2 0), castInst 1 { job0 false with staged := [0], maq := { maq0 with expected := [[]] } }, 3),
           (req0 (leBytes 2 0), castInst 1 { job0 false with staged := [0] }, 4)],
    passes 0x7000 2 ruleCastClose x.1 (castDev x.2.1 MemS.reset) ∧ passes 0x7000 3 ruleCastAbort x.1 (castDev x.2.1 MemS.reset) ∧
      scalarFault (rowAt 0x7000 2) x.1.payload = none ∧ scalarFault (rowAt 0x7000 3) x.1.payload = none ∧
      (let d := (after 0x7000 2 x.1 (castDev x.2.1 MemS.reset)).castHeld
       let j := (d.inst 0).job.getD (job0 false)
       let whole := j.maq.layers.all (fun l => j.staged.contains l.layer) && j.settled
       let good := j.maq.expected.isEmpty || decide (j.maq.layers.map (fun l => j.digest l) = j.maq.expected)
       j.maq.extra.regions = [] ∧
       x.2.2 = if x.1.tenant ≠ 0#9 then 0 else if (d.inst 0).job = none ∨ (d.inst 0).state ≠ 1 then 1 else
         if !whole then 2 else if !good then 3 else 4) := by
  intro x hx
  exact ⟨writes_of (by revert x hx; decide +kernel), writes_of (by revert x hx; decide +kernel), by revert x hx; decide +kernel⟩

/-- A chunk: instance 0, target, swap bit, index 0, adapter 1, offset 0, `n` zero bytes of payload. -/
def chunk (target swap n : Nat) : List Byte :=
  leBytes 4 (target * 1024 + swap * 8192) ++ leBytes 4 0 ++ leBytes 4 n ++ leBytes 4 n ++ leBytes 4 1 ++ leBytes 12 0 ++
    List.replicate n 0#8

def okE {α β : Type} (x : Except α β) : Bool := match x with | .ok _ => true | .error _ => false

theorem takes_of {d : Device} {i j : Nat} {rule : WriteRule} {r : Req} (h : okWrite d i j rule r = true) :
    (withDev d).takes i j rule (sign 2 i j r) (rowAt i j) (sign 2 i j r).payload (after i j r d) := Or.inl ⟨writes_of h, rfl, rfl⟩

/-- Chunks of an open cast and of a swap, good and bad; of nothing open. -/
theorem witness_chunk :
    ∀ x ∈ [(chunk 0 0 256, castInst 1 (job0 false), true, true), (chunk 0 0 10, castInst 1 (job0 false), true, false),
           (chunk 0 1 10, { castInst 3 (job0 true) with maq := some maq0 }, true, false), (chunk 0 0 256, Inst.absent, false, false)],
    let d := castDev x.2.1 MemS.reset
    okWrite d 0x7002 0 ruleChunk (req0 x.1) = true ∧ 32 ≤ x.1.length ∧
      (let e := after 0x7002 0 (req0 x.1) d
       let h := chunkHdr x.1
       h.inst = 0 ∧ h.target = 0 ∧ (e.inst 0).job.isSome = x.2.2.1 ∧
         (x.2.2.1 = true → ((e.inst 0).job.getD (job0 false)).swap = h.swap ∧
           okE (e.jobChunk 0 ((e.inst 0).job.getD (job0 false)) h x.1) = x.2.2.2)) := by decide +kernel

def layerA : LayerEnt := { layer0 with ra := 4 }
def maqA : Maq := { maqN with layers := [layerA] }
def loading : Version := { Version.free with adapter := 1, st := 1, rank := 4 }
def adDev (a : Adapter) (vs : Tbl Version) : Device :=
  let d := castDev { oneInst with maq := some maqA } MemS.reset
  { d with cast := { d.cast with adapters := [(1, a)], versions := vs } }

/-- Chunks of a loading adapter, good and bad. -/
theorem witness_adapter_chunk :
    ∀ x ∈ [(chunk 2 0 16, true), (chunk 2 0 16 ++ [0#8], false)],
    let d := adDev { Adapter.reset with bound := true } [(1, loading)]
    okWrite d 0x7002 0 ruleChunk (req0 x.1) = true ∧
      (let e := after 0x7002 0 (req0 x.1) d
       let h := chunkHdr x.1
       h.target = 2 ∧ e.loading? h.adapter = some (1, loading) ∧ (e.adapter h.adapter).inst = h.inst ∧
         (e.adapterChunk 1 loading h x.1).isSome = x.2) := by decide +kernel

def recastDev (n : Nat) : Device :=
  let d := castDev oneInst { MemS.reset with handles := [(1, ⟨0, 0, 0, 0, 1, 3#11⟩)] }
  { d with cast := { d.cast with regions := [(1, ⟨0, 0, [], some ([(0, n)], [])⟩)] } }

/-- A re-cast of no region and of one; its end before the last byte and after it. -/
theorem witness_recast :
    (∀ n ∈ [1, 2], passes 0x7032 0 ruleRecast (req0 (leBytes 2 n)) (recastDev 64) ∧
      scalarFault (rowAt 0x7032 0) (leBytes 2 n) = none ∧
      ((after 0x7032 0 (req0 (leBytes 2 n)) (recastDev 64)).region? n).isSome = decide (n = 1)) ∧
    (∀ n ∈ [63, 64], ((recastDev n).region? 1).bind (fun g => g.recast) = some ([(0, n)], []) ∧
      ((recastDev n).handle? 1).map (fun y => decide (gotBytes [(0, n)] = y.bytes)) = some (decide (n = 64))) := by
  refine ⟨fun n hn => ⟨writes_of ?_, ?_⟩, by decide +kernel⟩ <;> (revert n hn; decide +kernel)

/-! ### Swaps -/

def openSwap (digest : List Byte) : List Byte := leBytes 2 0 ++ leBytes 2 1 ++ leBytes 4 0 ++ digest

/-- Swaps: one open already, a maquette of another shape, and an opening that passes. -/
theorem witness_swap_open :
    ∀ x ∈ [(openSwap maqDigest, castInst 3 (job0 true), 0), (openSwap maqDigest, { oneInst with maq := some maq0 }, 1),
           (openSwap maqDigest, { oneInst with maq := some (maqOf maqBytes extraN) }, 2)],
    passes 0x7010 1 (ruleSwapOpen extraN) (req0 x.1) (castDev x.2.1 maqMem) ∧ x.1.length = 40 ∧ leAt x.1 0 2 = 0 ∧ leAt x.1 2 2 = 1 ∧
      leAt x.1 4 1 = 0 ∧
      (let e := after 0x7010 1 (req0 x.1) (castDev x.2.1 maqMem)
       let m := maqOf maqBytes extraN
       let y := e.inst 0
       (e.readMaquette 1).1 = some maqBytes ∧ bytesAt x.1 8 32 = maqDigest ∧ x.2.2 = if ((y.state ≠ 2 ∧ y.state ≠ 4) ∨ y.job.isSome = true) then 0
         else if swapFault y 0 (some maqBytes) maqDigest m ≠ none then 1
         else if outcome (e.allocMany (e.stagingWants m)) = 0 then 2 else 3) := by
  refine List.forall_mem_cons.2 ⟨?_, List.forall_mem_cons.2 ⟨?_, List.forall_mem_cons.2 ⟨?_, List.forall_mem_nil _⟩⟩⟩ <;>
    exact ⟨writes_of (by decide +kernel), by decide +kernel, by decide +kernel, by decide +kernel,
    by decide +kernel, by decide +kernel, by decide +kernel, by decide +kernel⟩


def swapDev (j : CastJob) (two : Bool) : Device :=
  let ls := if two then [layer0, { layer0 with layer := 1, numPl := 1 }] else [layer0]
  castDev { castInst 3 { j with maq := { maq0 with layers := ls } } with maq := some { maq0 with layers := ls }, front := 0 } MemS.reset

/-- A layer that is staged, right and wrong; a rewrite under way with a layer after it; a swap that opens in a round. -/
theorem witness_rewrite :
    (∀ b ∈ [true, false], let j := { job0 true with staged := [0], maq := { maq0 with expected := if b then [[]] else [] } }
      let d := castDev { castInst 3 j with maq := some maq0 } MemS.reset
      let y := d.inst 0
      y.job = some j ∧ j.swap = true ∧ y.maq = some maq0 ∧ j.maq.layers[y.front]? = some layer0 ∧ j.rewriting = false ∧
        j.staged.contains 0 = true ∧ d.layerTested j.maq layer0 = false ∧ j.maq.regionsOf layer0 = [0, 1] ∧
        ([0, 1].any j.regionWrong || (!j.maq.expected.isEmpty && decide (some (j.digest layer0) ≠ j.maq.expected[0]?))) = b ∧
        [0, 1].all (j.regionSet maq0) = true ∧ d.oldPast 0 0 maq0 = true) ∧
    (let y := (swapDev { job0 true with rewriting := true } true).inst 0
     (y.job.map (fun j => (j.rewriting, j.swap, decide (y.front + 1 < j.maq.layers.length)))) = some (true, true, true)) ∧
    (∀ b ∈ [true, false], let d := swapDev { job0 true with rewriting := true } false
      let q := { runSeq with board := if b then [] else [⟨9, ⟨true, 0, 256, true, true⟩, 0, 0, 3, 0, none⟩] }
      (maq0.layerKeys layer0).all (fun k => (d.setCore 0 ⟨Core.reset, q, CoreAux.reset⟩).keyFree maq0 k) = b) ∧
    (let d := servDev [] []
     Tbl.find? { d with serv := { d.serv with rounds := [(0, ⟨[], 0, 0, false, [], false, []⟩)] } }.serv.rounds 0 ≠ none) ∧
    (∀ b ∈ [true, false], let y := (swapDev { job0 true with rewriting := b } false).inst 0
      y.job.map (fun j => (decide (y.front = 0), j.rewriting)) = some (true, b)) := by decide +kernel

/-! ### Adapters -/

/-- An installation of adapter 1 on instance 0 at a rank. -/
def install (rank : Nat) : List Byte := leBytes 4 (1 + rank * 2 ^ 22) ++ leBytes 12 0

/-- A name of another instance, a rank above a ceiling, no version slot, no quota, no room, and a version made. -/
theorem witness_install :
    ∀ x ∈ [(adDev { Adapter.reset with bound := true, inst := 3 } [], 4, 0), (adDev Adapter.reset [], 5, 1),
           ({ adDev Adapter.reset [] with mem := { MemS.reset with limits := [(0, ⟨0, 0, 0, 0, 0, 0⟩)] } }, 4, 3),
           ({ adDev Adapter.reset [] with mem := fullMem }, 4, 4), (adDev Adapter.reset [], 4, 5)],
    passes 0x7061 0 ruleAdapterInstall (req0 (install x.2.1)) x.1 ∧ (install x.2.1).length = 16 ∧
      (let d := after 0x7061 0 (req0 (install x.2.1)) x.1
       let a := d.adapter 1
       (d.inst 0).maq = some maqA ∧ maqA.extra.serving.home = d.fab.coord ∧ lowestFree (Tbl.keys d.cast.versions) 4095 1 = some 1 ∧
       x.2.2 = if a.bound = true ∧ (a.tenant ≠ 0 ∨ a.inst ≠ 0) then 0 else if (∀ l ∈ adapterLayers maqA, l.ra < x.2.1) then 1
         else if outcome (d.allocFactors 0 maqA) = 1 then 3 else if outcome (d.allocFactors 0 maqA) = 2 then 4 else 5) := by
  intro x hx
  exact ⟨writes_of (by revert x hx; decide +kernel), by revert x hx; decide +kernel⟩

def fullVersions : Tbl Version := (List.range 4096).map (fun i => (i, loading))

theorem witness_versions_full : lowestFree (Tbl.keys fullVersions) 4095 1 = none := by
  refine no_free _ _ _ (fun j _ h => ?_)
  show j ∈ List.map Prod.fst (List.map (fun i => (i, loading)) (List.range 4096))
  rw [List.map_map]
  exact List.mem_map.2 ⟨j, List.mem_range.2 (by omega), rfl⟩

/-- A version whose last byte has arrived, after none, after one that a request pins and one that none pins; the records and a
removal of an unbound name, of a pinned one and of one that nothing pins. -/
theorem witness_versions :
    (∀ p ∈ [0, 1], let w : Version := { loading with got := [(0, [(0, 2 * 4 * 144)])] }
      let d := adDev { Adapter.reset with bound := true, cur := 2 } [(1, w), (2, { loading with st := 2, pins := p })]
      (d.version 1).st = 1 ∧ (d.adapter 1).cur = 2 ∧ (d.version 2).pins = p ∧ (d.inst 0).maq = some maqA ∧
        ∀ l ∈ adapterLayers maqA, gotBytes (Tbl.get [] w.got l.layer) = l.adapterBytes w.rank) ∧
    ends 0x7062 0 ruleAdapterRecords 65536 kDev ∧ (List.replicate 65536 0#8).length = 65536 :=
  ⟨by decide +kernel, ends_of (by decide +kernel) (by decide), List.length_replicate ..⟩

theorem witness_remove :
    ∀ x ∈ [(false, 0), (true, 0), (true, 1)], let d := adDev { Adapter.reset with bound := x.1 } [(1, { loading with pins := x.2 })]
      passes 0x7064 0 ruleAdapterRemove (req0 (leBytes 2 1)) d ∧ scalarFault (rowAt 0x7064 0) (leBytes 2 1) = none ∧
        ((after 0x7064 0 (req0 (leBytes 2 1)) d).adapter 1).bound = x.1 := by
  intro x hx
  exact ⟨writes_of (by revert x hx; decide +kernel), by revert x hx; decide +kernel⟩

/-! ### The scratchpad -/

def memOf (m : Mem) (ws : List Window) (scrub : Tbl (List (Nat × Bool))) : Device :=
  memDev { MemS.reset with m := m, windows := ws, scrub := scrub }

/-- Scratchpad: one and two flipped bits, an open window, a word to scrub, a patrol of a ready cluster. -/
theorem witness_scratchpad :
    (let d := memOf ⟨[], [], [(5, 1#39 <<< 38), (6, 1#39 <<< 21 ^^^ 1#39 <<< 5)]⟩ [] []
     Tbl.get 0#2 d.mem.m.poison 5 = 0#2 ∧ Tbl.get 0#39 d.mem.m.flips 5 = 1#39 <<< 38 ∧ Tbl.get 0#2 d.mem.m.poison 6 = 0#2 ∧
      Tbl.get 0#39 d.mem.m.flips 6 = 1#39 <<< 21 ^^^ 1#39 <<< 5) ∧
    (memOf ⟨[], [], []⟩ [⟨0, 1, 7, [(3, 0)], 0⟩] []).window? 0 1 7 = some ⟨0, 1, 7, [(3, 0)], 0⟩ ∧
    (memOf ⟨[], [], []⟩ [⟨0, 1, 7, [(3, 0)], 0⟩] []).handleOfRow 0 14 7 = none ∧
    (let h : Handle := ⟨0, 0, 14, 0, 64, 0x201#11⟩
     let d := memDev { MemS.reset with windows := [⟨0, 1, 7, [(3, 0)], 0⟩], handles := [(4, h)] }
     d.handleOfRow 0 14 7 = some (4, h) ∧ d.handle? 4 = some h ∧ h.bad = true) ∧
    Tbl.get [] (memOf ⟨[], [], []⟩ [] [(15, [(5, true)])]).mem.scrub (0 * 16 + 15) = [(5, true)] ∧
    (∀ u ∈ [PatrolUnit.scratch ⟨0, by decide⟩ ⟨0, by decide⟩, .pageTable ⟨0, by decide⟩, .handleTable], kDev.patrolOn u = true) ∧
    (∀ n ∈ [0, patrolRows .handleTable - 1], let d := { kDev with mem := { kDev.mem with patrol := [(0, n)] } }
      d.patrolOn .handleTable = true) := by decide +kernel

/-- The worked example of R167: word 1 has the codeword 0Fh; bit 21 flipped is corrected, bits 21 and 5 poison the word. -/
theorem test_r167 : eccRead (1#39 <<< 21) = .corrected 21 ∧ eccRead (1#39 <<< 21 ^^^ 1#39 <<< 5) = .poisoned := by decide +kernel

/-! ### Attention -/

def stream1 : Stream := ⟨1, 1, 64, 0, false, 1, 0, 0#18, 0, 0⟩
def class1 : KvClass := ⟨4, 8, false, 1024, 0#18, 1, [stream1], []⟩
def maqKv : Maq := { maq0 with kv := [class1] }

/-- A pool of rows in tile 0 of cluster 0, and a frame of page 0 of slot 0's stream 0 there, entry 0. -/
def poolMem : MemS := { MemS.reset with handles := [(1, ⟨0, 0, 13, 0, 4096, 0x23#11⟩)] }
def frame0 (rel : Bool) : Frame := ⟨64, 0#18, 0, 7, 0, 0, 0, 0, 0, 0, rel⟩
def page0 : PageEnt := ⟨localEntry 0 0 0 0 0 0, ownerWord 0 0 0 false⟩
def kvDevOf (c : KvClass) (a : AttnS) : Device :=
  { servDev [(0, { queued with state := 5 })] [] with
    mem := poolMem, attn := a, cast := { CastS.reset with insts := [(0, { oneInst with maq := some { maqKv with kv := [c] } })] } }
def kvDev : AttnS → Device := kvDevOf class1
def attnS (u : Attn) (fs : Tbl Frame) : AttnS := { AttnS.reset with units := [(0, u)], frames := fs, pages := [(0, page0)] }

/-- A descriptor of slot 0, client 7, stream 0, at layer `l`. -/
def desc (l : Nat) (write : Bool) : List Nat := [l * 2 ^ 19 + (if write then 2 ^ 27 else 0), 0, 7, 0, 0, 0, 1, 0, 0, 0, 0, 0, 0, 0, 0, 0]
def descW (l : Nat) (bad : Bool) : List (Word × Bool) := (desc l false).map (fun w => (BitVec.ofNat 32 w, bad))
def attnQ (q : List (Word × Bool)) : Device := kvDev (attnS { Attn.reset with queue := [q] } [(0, frame0 false)])
def descJob (l : Nat) (write range handle failed : Bool) : DescJob := ⟨desc l write, [], [], [], failed, range, handle⟩
def attnJ (j : DescJob) (fs : Tbl Frame) : Device := kvDev (attnS { Attn.reset with cur := some j } fs)

/-- AttentionCores: a descriptor that is poisoned, one with no owner, one that starts, one outside what is held. -/
theorem witness_descriptor :
    ∀ x ∈ [(attnQ (descW 0 true), true, true, false), (kvDev { attnS { Attn.reset with queue := [descW 0 false] } [] with pages := [] }, false, true, false),
           (attnQ (descW 0 false), false, false, false), (attnQ (descW 5 false), false, false, true)],
    let u := x.1.attnUnit 0
    u.cur = none ∧ x.1.attnUp 0 = true ∧ u.pausing = [] ∧ u.pauseQ = [] ∧
      (∀ ws ∈ u.queue.head?, let e := x.1.setAttn 0 { u with queue := [] }
        let y := descOf (ws.map (fun w => w.1.toNat))
        ws.any (fun w => w.2) = x.2.1 ∧ (x.2.1 = false → (e.descOwner y).isNone = x.2.2.1) ∧
          (x.2.2.1 = false → ∀ o ∈ e.descOwner y, e.kvClass? o.1 o.2.1 = some class1 ∧ class1.streams[y.stream]? = some stream1 ∧
            (x.2.2.2 = true → y.outside stream1 (e.tokensHeld class1 y.owner y.slot y.stream) = true))) := by decide +kernel

/-- Its end: no owner left, a handle fault or a write, a range fault with its area, and whole parts. -/
theorem witness_descriptor_done :
    (let d := kvDev AttnS.reset
     d.descOwner (descOf (desc 0 false)) = none) ∧
    (∀ j ∈ [descJob 0 true false false false, descJob 0 false false true false, descJob 5 false true false false,
            descJob 0 false false false true, descJob 0 false false false false],
      let d := attnJ j [(0, frame0 false)]
      let x := descOf j.words
      (d.attnUnit 0).cur = some j ∧ d.descOwner x = some (0, 0, 0) ∧
        (d.kvClass? 0 0).bind (fun c => c.streams[x.stream]?) = some stream1 ∧
        (j.handle = false → x.write = false → j.range = false → j.failed = false →
          ∀ h < stream1.heads, (j.merged x stream1 h).isSome = true)) ∧
    (let d := { attnJ (descJob 5 false true false false) [(0, frame0 false)] with
                  mem := { poolMem with handles := (0, ⟨0, 0, 12, 0, 64, 3#11⟩) :: poolMem.handles } }
     let x := descOf (desc 5 false)
     d.areaFault 0 0 x.oH x.oOff (4 * (stream1.outBytes x.q / 4)) true = none) := by decide +kernel

def partMsg (slot : Nat) (neutral lost : Bool) : PartialMsg := ⟨BitVec.ofNat 16 slot, 0, 0, 0, neutral, lost, []⟩

/-- Parts for its slot, lost and not, for another slot and a neutral one; a lost page that a far device holds, and one of this
device; a page that is held and one that is not. -/
theorem witness_parts :
    (let j := descJob 0 false false false false
     let d := attnJ j [(0, frame0 false)]
     (d.attnUnit 0).cur = some j ∧ (descOf j.words).slot = (partMsg 0 false false).slot.toNat ∧ j.failed = false ∧
      (descOf j.words).owner = d.fab.coord ∧ (descOf j.words).slot ≠ (partMsg 1 false false).slot.toNat ∧
      d.holderOf (descOf j.words) 0 = none ∧
      ({ d with attn := { d.attn with pages := [(0, ⟨remoteEntry 0 0 8#18 5 0, ownerWord 0 0 0 false⟩)] } } : Device).holderOf
        (descOf j.words) 0 = some 8#18) ∧
    (∀ b ∈ [true, false], let d := kvDev { AttnS.reset with pages := if b then [(0, page0)] else [] }
      let p := d.pageEnt 0
      (decide (p.slot = 0 ∧ p.stream = 0 ∧ p.page = 0 ∧ p.remote = false ∧ p.cluster = 0 ∧ p ≠ noPage) &&
        !d.attn.deadPages.contains 0 && !(d.health (0 * 13 + 12)).drained) = b) ∧
    (kvDev { AttnS.reset with frames := [(0, frame0 true)] }).attn.frames.all (fun f => f.2.releasing) = true := by decide +kernel

def pageFor0 : PageFor := ⟨8#18, 3, 9, 0, 0, 0, 0, 0⟩
def frameReq (auth : Bool) : FrameReq := ⟨8#18, 0#9, 3#16, 9#32, ⟨0, by decide⟩, 0#11, 0#10, 0#8, auth⟩

/-- A class whose stream has its home on device 8, and a span class of this home whose cap-sized pages lie on device 8. -/
def classFar : KvClass := { class1 with streams := [{ stream1 with home := 8#18 }] }
def classSpan : KvClass := { class1 with span := true, spanFirst := 8#18, spanCount := 1 }

/-- KvFrames: a frame asked for by a source not authenticated; at the home, one that is taken and one for which there is no
pool; at another device the same; at the home a page that a span device is asked for. -/
theorem witness_frames :
    (frameReq false).authenticated = false ∧
    (∀ c ∈ [class1, classFar], ∀ b ∈ [true, false],
      let d := if b then kvDevOf c AttnS.reset else { kvDevOf c AttnS.reset with mem := MemS.reset }
      let st := c.streams.headD stream1
      d.reg (key 0x8020 4) ≠ 0 ∧ d.kvClass? 0 0 = some c ∧ c.streams[0]? = some st ∧ c.askOrder st 0 = [st.home] ∧
        decide (st.home = d.fab.coord) = decide (c = class1) ∧
        d.lentUnits + st.frameBytes (c.pageTokens 0) / 4096 ≤ d.reg (key 0x8020 5) ∧
        (d.takeFrame pageFor0 c st (homeFirst st.homeCluster) (some st.homeCluster)).isSome = b ∧
        (d.takeFrame pageFor0 c st (List.range 16) none).isSome = b) ∧
    (let d := kvDevOf classSpan AttnS.reset
     d.kvClass? 0 0 = some classSpan ∧ classSpan.askOrder stream1 4 = 8#18 :: [] ∧ 8#18 ≠ d.fab.coord ∧ stream1.home = d.fab.coord) := by
  and_intros <;> decide +kernel

/-- A page asked of device 8 for a request of device `o`. -/
def farPage (o : Coord) (p : BitVec 11) : FarPage := ⟨⟨o, 0, 0, 0, 0, p, 0, 0, true⟩, 8#18, .waiting⟩

/-- An answer to a page asked for: of this home's stream, for a request of this device and of another; of a stream whose home is
elsewhere; a refusal of the last device; a request whose descriptors are gone; a frame held and one releasing. -/
theorem witness_frames_end :
    (∀ x ∈ [(class1, 0#18), (class1, 16#18), (classFar, 0#18)],
      let d := kvDevOf x.1 { AttnS.reset with asked := [farPage x.2 0] }
      let st := x.1.streams.headD stream1
      d.askedFor 0 0 0 = some (farPage x.2 0) ∧ d.kvClass? 0 0 = some x.1 ∧ x.1.streams[0]? = some st ∧
        decide (st.home = d.fab.coord) = decide (x.1 = class1) ∧ (d.freePage st.homeCluster).isSome = true ∧
        (((d.askOrder x.1 st 0).dropWhile (fun y => decide (y ≠ 8#18))).drop 1 = []) ∧ 16#18 ≠ d.fab.coord) ∧
    (let d := kvDev { attnS Attn.reset [(0, frame0 false)] with asked := [farPage 0#18 0] }
     d.descLive 0#18 0 = false ∧ 0#18 = d.fab.coord ∧ (d.req 0).live = false) ∧
    (∀ b ∈ [true, false], Tbl.find? (kvDev (attnS Attn.reset [(0, frame0 b)])).attn.frames (frameKey 0 0 0) = some (frame0 b)) := by
  and_intros <;> decide +kernel

/-- The worked examples of R180: s0 = 4 and cap = 16. -/
theorem test_pages : let c : KvClass := { class1 with s0 := 4, cap := 16 }
    c.s0 ≤ c.cap ∧ c.pageOf 1000 = (5, 504) ∧ c.pageOf 100000 = (12, 34480) ∧ c.pageOf 4194303 = (75, 15) := by decide +kernel

/-! ### Ports -/

def portOf (st : Nat) : Port := { Port.reset with st := st, credits := startCredits }
def fabDev (f : FabS) : Device := { kDev with fab := f }
def portDev (p : Nat) (x : Port) (written : Bool) : Device := fabDev { FabS.reset with ports := [(p, x)], written := written }

/-- A flit: type, channel, class, first and last, sequence, the payload's words. -/
def flit (type chan seq : Nat) (last : Bool) (ws : List Nat) : Flit :=
  sealFlit (type + chan * 8 + 512 + (if last then 1024 else 0) + seq * 2048) 0
    ((ws ++ List.replicate (59 - ws.length) 0).map (fun w => BitVec.ofNat 32 w))

theorem sum_crc (f : Flit) (c : Word) : ({ f with crc := c } : Flit).sum = f.sum := rfl

theorem seal_intact (link mask : Nat) (ws : List Word) (hn : ws.length = 59) (ht : bits (BitVec.ofNat 64 link).toNat 2 0 ≤ 4) :
    (sealFlit link mask ws).intact = true := by
  have h : (sealFlit link mask ws).crc = (sealFlit link mask ws).sum := (sum_crc _ _).symm
  unfold Flit.intact
  rw [decide_eq_true h]
  simp only [Bool.and_eq_true, decide_eq_true_eq]
  exact ⟨⟨hn, trivial⟩, ht⟩

/-- PortFlits: a flit cut short; the expected first flit, a whole packet and a part; one out of sequence; retry
requests, idle flits and hellos. -/
theorem witness_flits :
    (let f : Flit := { flit 1 0 0 true [] with payload := [] }
     f.intact = false ∧ 2 ≤ (portOf 3).st ∧ (portOf 3).st ≤ 4) ∧
    (∀ b ∈ [true, false], let f := flit 1 0 0 b [0, 0, 0, 0]
      f.type = 1 ∧ f.seq = (portOf 3).rxSeq ∧ f.isFirst = true ∧ f.isLast = b) ∧
    (flit 1 0 5 true []).seq ≠ (portOf 3).rxSeq ∧ (portOf 3).asked = false ∧ { portOf 3 with asked := true }.asked = true ∧
    (∀ t ∈ [0, 2, 4], (flit t 0 0 false []).type = t ∧ (portOf 3).waiting = 0) := by
  decide +kernel

theorem witness_intact (t seq : Nat) (last : Bool) (h : t ∈ [0, 1, 2, 4]) (ws : List Nat) (hw : ws.length ≤ 59) :
    (flit t 0 seq last ws).intact = true := by
  refine seal_intact _ _ _ (by simp; omega) ?_
  unfold bits
  rw [BitVec.toNat_ofNat]
  simp only [List.mem_cons, List.not_mem_nil, or_false] at h
  rcases h with rfl | rfl | rfl | rfl <;> cases last <;> simp <;> omega

/-- PortFlits: an expected flit of a class that is not listed, and of one that is with the shared rest free and used up. -/
theorem witness_flit_credit :
    (∀ c ∈ [12, 15], let f := sealFlit (1 + c * 32 + 1536) 0 (List.replicate 59 0#32)
      f.type = 1 ∧ f.cls = c ∧ f.isFirst = true ∧ f.isLast = true ∧ f.seq = (portOf 3).rxSeq) ∧
    (∀ n ∈ [0, rxShared 0 0], let x := { portOf 3 with shared := [(0, n)] }
      decide (Tbl.get 0 x.shared (flit 1 0 0 true []).chan < rxShared 0 (flit 1 0 0 true []).chan) = decide (n = 0)) ∧
    0 < rxShared 0 0 ∧ (flit 1 0 0 true []).cls = 0 := by decide +kernel

/-- Packets: one not whole, a multicast on a channel that has none and on one that has, one for this device on a channel in
sequence and on another, one to forward with and without hops left. -/
def pkt (dest mcast hops : Nat) (n : Nat) : Flit := flit 1 2 0 true [dest + mcast * 2 ^ 18 + hops * 2 ^ 26, 0, 0, n]

theorem witness_packets :
    packetWhole [pkt 0 0 1 100] = false ∧ (packetOf [pkt 0 0 1 100]).2 = false ∧
    (∀ x ∈ [(0, 1, 1), (0, 0, 1), (8, 0, 0), (8, 0, 1)], let f := pkt x.1 x.2.1 x.2.2 54
      let k := (packetOf [f]).1
      packetWhole [f] = true ∧ (packetOf [f]).2 = false ∧ (portDev 0 (portOf 3) true).isHostPort 0 = false ∧
        k.mcast = decide (x.2.1 = 1) ∧ k.words.length ≤ 1024 ∧ cSlot k.dest < 4 ∧ k.hops = x.2.2 ∧
        (x.2.1 = 0 → decide ((portDev 0 (portOf 3) true).exitFor f.chan f.cls (k.flow.toNat % 2) k.dest = .here) = decide (x.1 = 0)))
    := by decide +kernel

/-- Hellos: a side not written, the expected neighbour and another. -/
def hello (c np : Nat) (written : Bool) : Flit := flit 2 0 0 false [c + (if written then 2 ^ 18 else 0) + np * 2 ^ 19]

theorem witness_hello :
    (∀ x ∈ [(1, false, true), (1, true, true), (2, true, false)], let d := portDev 0 (portOf 2) true
      let w := ((hello x.1 0 x.2.1).payload.getD 0 0#32).toNat
      bit w 22 = false ∧ bit w 18 = x.2.1 ∧ d.fab.written = true ∧
        d.helloMatches 0 (BitVec.ofNat 18 (bits w 17 0)) (bits w 21 19) = x.2.2) := by decide +kernel

/-- PortEvents: a port to train, one training, one up, too many retries and few, a drain that has ended. -/
theorem witness_port_events :
    (let d := portDev 0 (portOf 1) true
     (d.port 0).enabled = true ∧ (d.port 0).st ≤ 1 ∧ d.fabricSlot = true ∧ d.clk.refOk = true ∧ (d.port 0).st = 1) ∧
    (∀ n ∈ [0, 1000], let d := portDev 0 { portOf 3 with retries := List.replicate n 0 } true
      decide (d.reg (key 0x4001 1) < (((d.port 0).retries.filter (fun t => decide (d.clk.up - t < 1000000))).length)) =
        decide (n = 1000)) ∧
    (let x := { portOf 3 with draining := true }; x.draining = true ∧ x.retry = [] ∧ x.waiting = 0) := by decide +kernel

theorem witness_port_records :
    ∀ v ∈ [List.replicate 128 0#8, List.replicate 128 0xFF#8],
      passes 0x4010 0 rulePorts (req0 v) kDev ∧ v.length = 128 ∧ recordsOk 8 16 v txOk = decide (v.getD 0 0 = 0#8) := by
  intro v hv
  exact ⟨writes_of (by revert v hv; decide +kernel), by revert v hv; decide +kernel⟩

/-- A coordinate of another slot, one while a remote window stands, and one that is taken. -/
theorem witness_coordinate :
    ∀ x ∈ [(1, kDev, 0), (8, memDev { MemS.reset with handles := [(1, ⟨0, 0, 0, 8, 5, 128#11⟩)] }, 1), (8, kDev, 2)],
      passes 0x4000 1 ruleCoordinate (req0 (leBytes 4 x.1)) x.2.1 ∧ scalarFault (rowAt 0x4000 1) (leBytes 4 x.1) = none ∧
        (let e := after 0x4000 1 (req0 (leBytes 4 x.1)) x.2.1
         let c : Coord := BitVec.ofNat 18 x.1
         x.2.2 = if cSlot c ≠ e.fab.slot.toNat ∨ 4 ≤ cSlot c then 0 else if e.coordBusy then 1 else 2) := by
  intro x hx
  exact ⟨writes_of (by revert x hx; decide +kernel), by revert x hx; decide +kernel⟩

/-! ### Services of the fabric -/

def pkt0 (seq : Nat) : Packet := ⟨0#18, false, 0, 1, 8#18, 0#9, false, 0#16, seq, 0, []⟩
def reord (held : List HeldPkt) : Reorder := ⟨8#18, 1, 0#16, 5, held, 0⟩
def reordDev (held : List HeldPkt) : Device := fabDev { FabS.reset with reorder := [reord held] }

/-- FabricServices: a packet in order, an old one, one ahead with room and without; holds that end. -/
theorem witness_reorder :
    kDev.reorder? 8#18 1 0#16 = none ∧ (reordDev []).reorder? 8#18 1 0#16 = some (reord []) ∧
    (reord []).ahead 5 = 0 ∧ 32768 ≤ (reord []).ahead 4 ∧ (reord []).ahead 7 ≠ 0 ∧ (reord []).ahead 7 < 32768 ∧
    (∀ n ∈ [0, 64], let hs := (List.range n).map (fun i => (⟨pkt0 (10 + i), 0, 0⟩ : HeldPkt))
      let v := (reordDev hs).putReorder { reord hs with held := hs ++ [⟨pkt0 7, 0, 0⟩], used := 0 }
      (∀ h ∈ hs, h.pkt.seq ≠ 7) ∧ decide (v.heldCount < 64) = decide (n = 0) ∧ v.oldestGap.isSome = true) ∧
    (reordDev [⟨pkt0 7, 0, 0⟩]).reorder? 8#18 1 0#16 = some (reord [⟨pkt0 7, 0, 0⟩]) := by decide +kernel

/-- Notices and probes: a device in scope, one that is not routed, one routed with no echo out and one with. -/
theorem witness_probes :
    kDev.inScope 1#18 0 = true ∧ kDev.routed 1#18 = false ∧ 1#18 ≠ kDev.fab.coord ∧
    (portDev 0 (portOf 3) true).routed 1#18 = true ∧ (portDev 0 (portOf 3) true).fab.echoes = [] ∧
    (let d := fabDev { FabS.reset with echoes := [(1#18, 0)] }
     d.fab.echoes.find? (fun (e : Coord × Nat) => decide (e.1 = 1#18)) = some (1#18, 0)) := by decide +kernel

/-- Time: up ports that lead to the parent and that do not; a device written and stepped or not, with and without requests. -/
theorem witness_time :
    (∀ b ∈ [true, false], let d := fabDev { FabS.reset with coord := 1#18, ports := [(0, portOf 3), (1, portOf 3)], written := b }
      (d.port 0).st = 3 ∧ ((d.modPort 0 (fun x => { x with lastFlit := d.clk.up })).parentPort = some 0) ∧
        (d.modPort 1 (fun x => { x with lastFlit := d.clk.up })).parentPort ≠ some 1 ∧ d.fab.written = b ∧ d.fab.stepped = false ∧
        d.anyLive = false ∧ d.fab.locked = false) := by decide +kernel

def objDev (y : SyncObj) (ws : List Waiter) : Device :=
  { kDev with sync := { kDev.sync with objs := [(0, y)], waiters := ws, remote := [⟨3, 0, 1, 8#18, .retry 0, some 5⟩] } }
def waiter0 : Waiter := ⟨0, false, 0#32, 0, none, 8#18, 0⟩

/-- Operations on an object: of another tenant; an add, a wait met, one that waits, one with no room, a barrier's bad count. -/
theorem witness_sync_ops :
    (∀ t ∈ [0, 1], Tbl.find? (objDev { SyncObj.zero with tenant := t } []).sync.objs 0 = some { SyncObj.zero with tenant := t }) ∧
    (∀ x ∈ [(0, 1#32, [], SyncRes.done), (1, 0#32, [], .done), (1, 5#32, [], .waiting), (1, 5#32, List.replicate 4096 waiter0, .full),
            (2, 0#32, [], .fault), (2, 3#32, [], .waiting)],
      ((objDev SyncObj.zero x.2.2.1).syncApply 0 x.1 x.2.1 waiter0).1 = x.2.2.2) ∧
    ((objDev SyncObj.zero []).remoteOp? 3).map (fun y => y.retryAt) = some (some 5) := by decide +kernel

/-! ### Tenants, contexts, keys and bindings -/

/-- Tenancy: a tenant to define; tenants not defined, busy and free to undefine. -/
theorem witness_define : passes 0x5001 0 ruleDefineTenant (req0 (leBytes 2 3)) kDev ∧ scalarFault (rowAt 0x5001 0) (leBytes 2 3) = none :=
  ⟨writes_of (by decide +kernel), by decide +kernel⟩

theorem witness_undefine :
    ∀ x ∈ [(3, kDev, 0), (1, { kDev with dict := { kDev.dict with contexts := [(0, (1, 0))] } }, 1), (1, kDev, 2)],
      passes 0x5002 0 ruleUndefineTenant (req0 (leBytes 2 x.1)) x.2.1 ∧ scalarFault (rowAt 0x5002 0) (leBytes 2 x.1) = none ∧
        (let e := after 0x5002 0 (req0 (leBytes 2 x.1)) x.2.1
         x.2.2 = if e.tenantDefined x.1 = false then 0 else if e.tenantBusy x.1 then 1 else 2) := by
  intro x hx
  exact ⟨writes_of (by revert x hx; decide +kernel), by revert x hx; decide +kernel⟩

def ctxDev (cs : Tbl (Nat × Nat)) (l : Limits) (m : MemS) : Device :=
  { kDev with dict := { kDev.dict with contexts := cs }, mem := { m with limits := [(1, l)] } }
def bigLim : Limits := ⟨99, 9999, 9, 9, 4000, 9⟩
def allCtx : Tbl (Nat × Nat) := (List.range 2048).map (fun i => (i, (0, 0)))

/-- Contexts: no tenant, no quota, no room for the table, a context made, none left. -/
theorem witness_contexts :
    (∀ x ∈ [(3, ctxDev [] bigLim MemS.reset, 0), (1, ctxDev [] { bigLim with contexts := 0 } MemS.reset, 1),
            (1, { ctxDev [] bigLim MemS.reset with clk := { upClk with clusters := [] } }, 2), (1, ctxDev [] bigLim MemS.reset, 3)],
      passes 0x5004 0 ruleCreateContext (req0 (leBytes 2 x.1)) x.2.1 ∧ scalarFault (rowAt 0x5004 0) (leBytes 2 x.1) = none ∧
        (let e := after 0x5004 0 (req0 (leBytes 2 x.1)) x.2.1
         lowestFree (Tbl.keys e.dict.contexts) 2048 0 = some 0 ∧
         x.2.2 = if e.tenantDefined x.1 = false then 0 else if (e.limits x.1).contexts ≤ e.contextUse x.1 then 1
           else if e.allocTable 0 = none then 2 else 3)) := by
  intro x hx
  exact ⟨writes_of (by revert x hx; decide +kernel), by revert x hx; decide +kernel⟩

theorem witness_contexts_full : lowestFree (Tbl.keys allCtx) 2048 0 = none := by
  refine no_free _ _ _ (fun j _ h => ?_)
  unfold Tbl.keys allCtx
  rw [List.map_map]
  exact List.mem_map.2 ⟨j, List.mem_range.2 (by omega), rfl⟩

theorem witness_release_context :
    ∀ x ∈ [(ctxDev [] bigLim MemS.reset, 0), ({ ctxDev [(0, (0, 5))] bigLim MemS.reset with serv := (servDev [(0, queued)] []).serv }, 1),
           (ctxDev [(0, (0, 5))] bigLim MemS.reset, 2)],
      passes 0x5005 0 ruleReleaseContext (req0 (leBytes 2 0)) x.1 ∧ scalarFault (rowAt 0x5005 0) (leBytes 2 0) = none ∧
        (let e := after 0x5005 0 (req0 (leBytes 2 0)) x.1
         let c := (Tbl.find? e.dict.contexts 0).getD (0, 0)
         x.2 = if Tbl.find? e.dict.contexts 0 = none then 0
           else if List.any e.serv.reqs (fun (q : Nat × ReqEnt) => q.2.live && decide (q.2.context = 0)) || e.contextBound c.2 then 1 else 2) := by
  intro x hx
  exact ⟨writes_of (by revert x hx; decide +kernel), by revert x hx; decide +kernel⟩

/-- A key for a tenant and a source (R338). -/
def keyFor (t src : Nat) : List Byte := leBytes 4 t ++ leBytes 4 src ++ leBytes 8 0 ++ List.replicate 32 1#8
def moreKeys (n : Nat) : Device :=
  { kDev with dict := { kDev.dict with
      keys := keysT ++ (List.range n).map (fun i => (3 + i, (⟨1, BitVec.ofNat 18 (16 + i), key0, 0, []⟩ : KeySlot))) } }

/-- Keys: no such tenant, a slot replaced, 16 taken by the tenant, a new slot; removals; claims. -/
theorem witness_keys :
    (∀ x ∈ [(3, 8, kDev, 0), (1, 8, kDev, 1), (1, 9, moreKeys 15, 2), (1, 9, kDev, 3)],
      passes 0x5010 0 ruleKeyInstall (req0 (keyFor x.1 x.2.1)) x.2.2.1 ∧ (keyFor x.1 x.2.1).length = 48 ∧
        (let e := after 0x5010 0 (req0 (keyFor x.1 x.2.1)) x.2.2.1
         let src : Coord := BitVec.ofNat 18 x.2.1
         (lowestFree (Tbl.keys e.dict.keys) 1024 0).isSome = true ∧
         x.2.2.2 = if e.tenantDefined x.1 = false then 0 else if e.keySlot? x.1 src ≠ none then 1
           else if 16 ≤ e.slotUse x.1 then 2 else 3)) ∧
    (∀ x ∈ [(0, 0x3FFFF, 0), (1, 9, 1), (1, 8, 2)], let v := leBytes 4 x.1 ++ leBytes 4 x.2.1
      passes 0x5011 0 ruleKeyRemove (req0 v) kDev ∧ v.length = 8 ∧
        (let e := after 0x5011 0 (req0 v) kDev
         let src : Coord := BitVec.ofNat 18 x.2.1
         x.2.2 = if x.1 = 0 ∧ src = 0x3FFFF#18 then 0 else if e.keySlot? x.1 src = none then 1 else 2)) := by
  refine ⟨fun x hx => ⟨writes_of ?_, ?_⟩, fun x hx => ⟨writes_of ?_, ?_⟩⟩ <;> (revert x hx; decide +kernel)

def fullKeys : Tbl KeySlot := (List.range 1024).map (fun i => (i, (⟨1, BitVec.ofNat 18 i, key0, 0, []⟩ : KeySlot)))

theorem witness_keys_full : lowestFree (Tbl.keys fullKeys) 1024 0 = none := by
  refine no_free _ _ _ (fun j _ h => ?_)
  unfold Tbl.keys fullKeys
  rw [List.map_map]
  exact List.mem_map.2 ⟨j, List.mem_range.2 (by omega), rfl⟩

/-- The claim of the first key, with the slot empty and taken, and its tenant defined and not; and the acknowledged sequence. -/
theorem witness_claim :
    (let r := { req0 (List.replicate 32 1#8) with keyed := false }
     kDev.tenantDefined r.tenant.toNat = true ∧ kDev.tenantDefined ({ r with tenant := 5#9 } : Req).tenant.toNat = false ∧
     r.carrier = .sideband ∧ reqFault r = none ∧ r.offset = 0#32 ∧ r.total = 32#32 ∧ r.payload.length = 32 ∧
      Device.reset.transfer? r = none ∧ Device.reset.keySlot? 0 0x3FFFF#18 = none ∧ kDev.keySlot? 0 0x3FFFF#18 ≠ none ∧
      kDev.dict.transfers = [] ∧ lowestFree (Tbl.keys Device.reset.dict.keys) 1024 0 = some 0) := by decide +kernel

theorem witness_ack : passes 0x5032 0 ruleAck (req0 (leBytes 4 1)) kDev ∧ scalarFault (rowAt 0x5032 0) (leBytes 4 1) = none :=
  ⟨writes_of (by decide +kernel), by decide +kernel⟩

/-- A binding of context 0 and a virtual ID: bit 23 alias, bit 24 new; device and object. -/
def bindOf (vid a n obj : Nat) : List Byte := leBytes 4 (vid * 2 ^ 11 + a * 2 ^ 23 + n * 2 ^ 24) ++ leBytes 4 8 ++ leBytes 4 obj ++ leBytes 4 7
/-- Context 0 of tenant 0 whose table, in handle 1, binds virtual ID 1 to object 0 and virtual ID 2 to alias 0. -/
def bindDev (sync : Nat) (y : SyncObj) (ws : List Waiter) : Device :=
  let cells := (leBytes 4 (transWord false 0).toNat ++ leBytes 4 (transWord true 0).toNat).zipIdx.map (fun (b : Byte × Nat) =>
    ((⟨0, 0, 0, 0, 256, 3#11⟩ : Handle).addr (4 + b.2), b.1))
  { kDev with
    dict := { kDev.dict with contexts := [(0, (0, 1))] }
    mem := { MemS.reset with
      m := ⟨cells.filter (fun c => c.2 ≠ 0#8), [], []⟩
      handles := [(1, ⟨0, 0, 0, 0, 256, 3#11⟩)]
      limits := [(0, { bigLim with sync := sync })] }
    sync := { kDev.sync with objs := [(0, y)], aliases := [(0, (8#18, 5))], waiters := ws } }

/-- Bindings: both kinds at once, no context, an ID that is bound, no quota, a new object, an alias, an object of another tenant
and of this one. -/
theorem witness_bind :
    ∀ x ∈ [(bindOf 3 1 1 0, bindDev 9 SyncObj.zero [], 0), (bindOf 3 0 0 0, kDev, 1), (bindOf 1 0 0 0, bindDev 9 SyncObj.zero [], 2),
           (bindOf 3 0 1 0, bindDev 1 SyncObj.zero [], 3), (bindOf 3 0 1 0, bindDev 9 SyncObj.zero [], 4),
           (bindOf 3 1 0 0, bindDev 9 SyncObj.zero [], 5), (bindOf 3 0 0 0, bindDev 9 SyncObj.zero [], 6),
           (bindOf 3 0 0 0, bindDev 9 { SyncObj.zero with tenant := 1 } [], 7)],
      passes 0xB001 0 ruleBind (req0 x.1) x.2.1 ∧ x.1.length = 16 ∧
        (let e := after 0xB001 0 (req0 x.1) x.2.1
         let w := wordAt x.1 0
         let f := (e.translate 0 (bits w 22 11)).2
         bits w 10 0 = 0 ∧
         x.2.2 = if bit w 23 && bit w 24 then 0 else if Tbl.find? e.dict.contexts 0 = none then 1
           else if (e.translate 0 (bits w 22 11)).1 ≠ none then 2
           else if bit w 24 then (if (f.limits 0).sync ≤ f.objUse 0 then 3 else if lowestFree (Tbl.keys f.sync.objs) 16384 0 = none then 9 else 4)
           else if bit w 23 then (if lowestFree (Tbl.keys f.sync.aliases) 4096 0 = none then 9 else 5)
           else if (Tbl.find? f.sync.objs (bits (wordAt x.1 2) 13 0)).map (fun y => y.tenant) = some 0 then 6 else 7) := by
  intro x hx
  exact ⟨writes_of (by revert x hx; decide +kernel), by revert x hx; decide +kernel⟩

def home1 : SyncObj := { SyncObj.zero with context := 0, vid := 1 }

/-- Unbindings: no context, no binding, an alias, an object with a waiter, its home binding, another binding. -/
theorem witness_unbind :
    ∀ x ∈ [(3, kDev, 0), (3, bindDev 9 home1 [], 1), (2, bindDev 9 home1 [], 2), (1, bindDev 9 home1 [waiter0], 3), (1, bindDev 9 home1 [], 4),
           (1, bindDev 9 { home1 with vid := 5 } [], 5)],
      passes 0xB002 0 ruleUnbind (req0 (leBytes 4 x.1)) x.2.1 ∧ scalarFault (rowAt 0xB002 0) (leBytes 4 x.1) = none ∧
        (let e := after 0xB002 0 (req0 (leBytes 4 x.1)) x.2.1
         let t := e.readH 1 (4 * x.1) 1
         x.2.2 = if Tbl.find? e.dict.contexts 0 = none then 0 else match t.2.targetOf (t.1.headD ⟨0#32, true⟩) with
           | none => 1
           | some (.there _ _) => 2
           | some (.here n) => if t.2.sync.waiters.any (fun y => decide (y.obj = n)) then 3 else
               if (Tbl.find? t.2.sync.objs n).any (fun y => decide (y.context = 0 ∧ y.vid = x.1)) then 4 else 5) := by
  intro x hx
  exact ⟨writes_of (by revert x hx; decide +kernel), by revert x hx; decide +kernel⟩

/-- Hand-sets: no object, a lost one, one that stands, with and without each of the two bits. -/
theorem witness_hand_set :
    ∀ x ∈ [(kDev, 0), (bindDev 9 { home1 with lost := true } [], 0), (bindDev 9 { home1 with barrier := 3 } [], 1)],
      ∀ b ∈ [0, 65536, 131072], let v := leBytes 4 b ++ leBytes 12 0
        passes 0xB012 0 ruleHandSet (req0 v) x.1 ∧ v.length = 16 ∧
          (let e := after 0xB012 0 (req0 v) x.1
           x.2 = if (Tbl.find? e.sync.objs 0).any (fun y => !y.lost) then 1 else 0) := by
  intro x hx b hb
  exact ⟨writes_of (by revert b hb; revert x hx; decide +kernel), by revert b hb; revert x hx; decide +kernel⟩

/-! ### Images, attestation, diagnostics and packs -/

/-- An envelope of a kind and version around a payload, its signature zeros. -/
def envOf (kind version : Nat) (p : List Byte) : List Byte :=
  leBytes 4 (0x7A44 + kind * 2 ^ 16 + 2 ^ 24) ++ leBytes 4 version ++ leBytes 4 p.length ++ leBytes 4 0 ++ p ++ List.replicate 3604 0#8

def secDev (x : SecS) : Device := { kDev with sec := x }
def img7 : List Byte := envOf 1 7 [1#8]

/-- Images: one too long, one while another is verified, one taken. -/
theorem witness_image_load :
    ends 0x1020 0 ruleImageLoad 4197928 kDev ∧
    (∀ x ∈ [(secDev { SecS.reset with verifying := some (img7, none) }, false), (kDev, true)],
      passes 0x1020 0 ruleImageLoad (req0 [1#8]) x.1 ∧ decide ((after 0x1020 0 (req0 [1#8]) x.1).sec.verifying = none) = x.2) :=
  ⟨ends_of (by decide +kernel) (by decide), fun x hx => ⟨writes_of (by revert x hx; decide +kernel), by revert x hx; decide +kernel⟩⟩

/-- Pulls: nothing runs and port 3 is asked, with ports up beyond it and none; images under verification of right and wrong form, of a
running block and of one that runs none. -/
theorem witness_images :
    (let d := secDev { SecS.reset with pullPort := some 3 }
     d.sec.running = [] ∧ d.sec.pullPort = some 3 ∧ d.sec.verifying = none ∧ d.nextPull 0 = none ∧ (portDev 5 (portOf 3) true).nextPull 0 = some 5) ∧
    (∀ run ∈ [[], img7], let d := secDev { SecS.reset with verifying := some ([1#8], none), running := run }
      d.sec.verifying = some ([1#8], none) ∧ d.envFault 1 [1#8] = some 1) ∧
    envForm 1 img7 = true ∧ envVersion img7 = 7 := by decide +kernel

/-- With a signature that verifies, the image is good from its floor on; without, it is rejected for the signature. -/
theorem witness_image_good (h : envSigned img7 = true) :
    (secDev { SecS.reset with floor := 7 }).envFault 1 img7 = none ∧ (secDev { SecS.reset with floor := 8 }).envFault 1 img7 = some 3 := by
  have f : envForm 1 img7 = true := by decide +kernel
  have v : envVersion img7 = 7 := by decide +kernel
  constructor <;> (unfold Device.envFault; rw [f, h, v]; decide)

theorem witness_image_unsigned (h : envSigned img7 = false) : kDev.envFault 1 img7 = some 2 := by
  have f : envForm 1 img7 = true := by decide +kernel
  unfold Device.envFault; rw [f, h]; decide

/-- RAISE_FLOOR without an image, with one below the floor and with one at it. -/
theorem witness_raise_floor :
    ∀ x ∈ [(SecS.reset, 0), ({ SecS.reset with running := img7, floor := 8 }, 1), ({ SecS.reset with running := img7, floor := 7 }, 2)],
      passes 0x1010 6 ruleRaiseFloor (req0 [1#8]) (secDev x.1) ∧ scalarFault (rowAt 0x1010 6) [1#8] = none ∧
        (let e := after 0x1010 6 (req0 [1#8]) (secDev x.1)
         x.2 = if e.sec.running = [] then 0 else if e.sec.imageVersion < e.sec.floor then 1 else 2) := by
  intro x hx
  exact ⟨writes_of (by revert x hx; decide +kernel), by revert x hx; decide +kernel⟩

/-- The attestation's set-up at the last leaf and past it; requests before it, with the bottom leaves used, and with some left. -/
theorem witness_attestation :
    (∀ q ∈ [32767, 32768], let d := secDev { SecS.reset with leafCounter := q }; d.sec.attReady = false ∧ d.sec.attOff = false) ∧
    (∀ x ∈ [(SecS.reset, 0), ({ SecS.reset with attReady := true, bottom := some 0, leaves := 1024 }, 1),
            ({ SecS.reset with attReady := true, bottom := some 0, leaves := 1023 }, 2)],
      passes 0x1030 0 ruleAttestation (req0 (List.replicate 32 1#8)) (secDev x.1) ∧
        (let e := after 0x1030 0 (req0 (List.replicate 32 1#8)) (secDev x.1)
         x.2 = if e.sec.attReady = false then 0 else if 1024 ≤ e.sec.leaves then 1 else 2)) := by
  refine ⟨by decide +kernel, fun x hx => ⟨writes_of ?_, ?_⟩⟩ <;> (revert x hx; decide +kernel)

/-- Unlocking: an envelope of the wrong kind; with a signature that verifies, one that names another payload. -/
theorem witness_unlock :
    passes 0x1022 0 ruleUnlock (req0 [1#8]) kDev ∧ (after 0x1022 0 (req0 [1#8]) kDev).envFault 3 [1#8] = some 1 ∧
    (after 0x1022 0 (req0 [1#8]) kDev).sec.bottom = none :=
  ⟨writes_of (by decide +kernel), by decide +kernel⟩

def unlockImg (g : Nat) : List Byte :=
  envOf 3 0 (leBytes 8 Config.deviceId.toNat ++ sha256 (leBytes 56 ({ SecS.reset with bottom := some g }).bottomKey.toNat))

theorem witness_scan_tile : passes 0xA000 6 ruleScanTile (req0 [1#8]) kDev ∧ scalarFault (rowAt 0xA000 6) [1#8] = none :=
  ⟨writes_of (by decide +kernel), by decide +kernel⟩

/-- A pack of one slice with a program of one NOP, its result range behind the program. -/
def packB (ident version regLen : Nat) : List Byte :=
  leBytes 4 (ident + 65536) ++ leBytes 4 version ++ leBytes 4 0xFF ++ leBytes 20 0 ++
  leBytes 8 0 ++ leBytes 4 0 ++ leBytes 4 regLen ++ leBytes 4 1 ++ leBytes 4 1 ++ leBytes 4 96 ++ leBytes 4 1 ++ leBytes 32 0 ++
  leBytes 16 (mkWord 0 0 []).toNat

def onePack (removed : Bool) : Device := { kDev with rel := { RelS.reset with packs := [⟨1, 1, 255, packB 1 1 2, removed, []⟩] } }

/-- Packs: an envelope of the wrong form; a pack that is good, one with no place, one too old, a bad one; a removal, with a pack gone
and one that stays. -/
theorem witness_packs :
    (∃ v e, (withDev kDev).takes 0xA020 0 rulePackInstall (sign 2 0xA020 0 (req0 [1#8])) (rowAt 0xA020 0) v e ∧ e.envFault 2 v = some 1) ∧
    kDev.packFault (packB 1 1 2) = none ∧ (kDev.placePacks (packB 1 1 2) kDev.readyClusters).isSome = true ∧
    (let d := memDev { MemS.reset with handles := [(2, ⟨0, 0, 13, 0, 524288, 3#11⟩), (3, ⟨0, 0, 14, 0, 524288, 3#11⟩),
        (4, ⟨0, 0, 15, 0, 524288, 3#11⟩)] }
     (d.placePacks (packB 1 1 2) d.readyClusters).isNone = true) ∧
    (onePack false).packFault (packB 1 1 2) = some 0x13 ∧ (onePack false).packFault (packB 1 2 2) = none ∧
    kDev.packFault [] = some 0x10 ∧ kDev.packFault (packB 1 1 5000) = some 0x10 ∧
    passes 0xA022 0 rulePackRemove (req0 [1#8, 0#8]) (onePack false) ∧ scalarFault (rowAt 0xA022 0) [1#8, 0#8] = none ∧
    (onePack true).dropPacks.rel.packs = [] ∧ ((onePack false).dropPacks.rel.packs).length = 1 := by
  refine ⟨⟨_, _, takes_of (by decide +kernel), by decide +kernel⟩, ?_, ?_, ?_, ?_, ?_, ?_, ?_, writes_of (by decide +kernel), by decide +kernel⟩ <;>
    decide +kernel

/-! ### Passes, core health and replica sets -/

def relDev (h : Health) (runs : Tbl SliceRun) (ps : List Pack) : Device :=
  { coreDev ⟨Core.reset, Seq.reset, CoreAux.reset⟩ with
    dict := kDev.dict, rel := { RelS.reset with health := [(0, h)], runs := runs, packs := ps } }

def pack1 : Pack := ⟨1, 1, 255, packB 1 1 2, false, []⟩
def slice1 : SliceId := .pack 1 1 0

/-- A pass that is due, with one open and none; one overdue at its time; one whose spacing runs; slices of both kinds in progress. -/
theorem witness_passes :
    (∀ op ∈ [none, some 5], let d := relDev { Health.reset with passDue := some 7, openAt := op } [] [pack1]
      (d.health 0).passDue = some 7 ∧ d.testable 0 = true ∧ d.passSlices 0 = slice1 :: (List.range 8).map SliceId.scan) ∧
    (let d := relDev { Health.reset with openAt := some 5, slices := [slice1] } [] [pack1]
     (d.health 0).openAt = some 5 ∧ (d.health 0).overdue = false) ∧
    (let d := relDev { Health.reset with openAt := some 5, overdue := true, spacing := 9 } [] []
     (d.health 0).openAt ≠ none ∧ (d.health 0).overdue = true ∧ (d.health 0).reserved = false) ∧
    (∀ q ∈ [SliceRun.mk slice1 9 false 0 false, ⟨slice1, 9, true, 0, true⟩],
      let e := (relDev { Health.reset with openAt := some 5, slices := [slice1] } [(0, q)] [pack1]).takeEntries 0
      (Tbl.find? e.rel.runs 0).map (fun y => y.slice) = some slice1 ∧ (Tbl.find? e.rel.runs 0).map (fun y => y.started) = some true ∧
        e.sliceRec? slice1 ≠ none ∧ (e.pack? 1 1).isSome = true) ∧
    (let d := relDev { Health.reset with openAt := some 5 } [(0, ⟨.scan 3, 9, false, 0, true⟩)] []
     Tbl.find? d.rel.runs 0 = some ⟨.scan 3, 9, false, 0, true⟩) := by decide +kernel

/-- A slice that waits because its region is taken. -/
theorem witness_slice_waits :
    let q : SliceRun := ⟨slice1, 9, false, 0, false⟩
    let d0 := relDev { Health.reset with openAt := some 5, slices := [slice1] } [(0, q)] [pack1]
    let d := d0.modCore 0 (fun y => { y with seq := { y.seq with
      board := [⟨3, ⟨false, rowAddr 0 0 0, 64, true, true⟩, 0, 0, 1, 0, none⟩] } })
    (Tbl.find? (d.takeEntries 0).rel.runs 0).map (fun y => y.started) = some false := by decide +kernel

/-- Flags: a slice under retest alone and with another of its kind; a failure with the trigger, in a retest, without it, once retired. -/
theorem witness_flags :
    (∀ z ∈ ({ Health.reset with retest := [slice1], flags := 17#5 }).retest, z = slice1) ∧
    slice1 ∉ Health.reset.retest ∧ slice1 ∈ ({ Health.reset with retest := [slice1, .scan 0] }).retest ∧
    (∀ l ∈ [[], [slice1]], let h := { Health.reset with news := l }; h.news = l ∧ h.noEngine = false ∧ h.badWords.length < 2) ∧
    (∀ x ∈ [(Health.reset, 3, 0), ({ Health.reset with retest := [slice1] }, 3, 1), ({ Health.reset with retired := true }, 3, 2),
            (Health.reset, 0, 2)],
      let d := relDev x.1 [] [pack1]
      let e := { d with regs := Tbl.put d.regs (key 0xA050 1) x.2.1 }
      x.2.2 = if e.trigger slice1.kind = false ∨ (e.health 0).retired = true then 2
        else if e.reg (key 0xA050 2) ≠ 0 ∧ slice1 ∉ (e.health 0).retest then 0 else 1) := by decide +kernel

/-- CORE_HEALTH_WRITE of 208 records from a neighbour; a core that may stop. -/
theorem witness_core_health :
    passes 0xA060 0 ruleCoreHealth (reqT 0 (List.replicate 3328 1#8)) kDev ∧ (List.replicate 3328 1#8).length = 3328 ∧
    (relDev { Health.reset with enabled := false } [] []).mayStop 0 = true :=
  ⟨writes_of (by decide +kernel), by rw [List.length_replicate], by decide +kernel⟩

def repDev (x : Replica) : Device :=
  { relDev Health.reset [] [] with
    rel := { RelS.reset with replicas := [(0, x)] }, fab := { FabS.reset with coord := 5#18 },
    serv := { ServS.reset with roundCount := [(0, 1000000)] } }
def rep3 : Replica := { Replica.reset with members := [5#18, 8#18, 9#18], enabled := true }
def voteOf (c : Coord) (b : Byte) : DigestMsg := ⟨c, 0#32, 0#64, [(0, [b])]⟩

/-- Scans: one due, one under way, a member's digests; all agree, a minority, and a majority this member is in. -/
theorem witness_replicas :
    (let d := repDev rep3
     d.scans 0 = true ∧ (d.replica 0).scanning = none ∧
      (d.replica 0).roundsAt + d.reg (key 0xA040 1) ≤ Tbl.get 0 d.serv.roundCount 0 ∧
      8#18 ∈ (d.replica 0).members ∧ 8#18 ≠ d.fab.coord) ∧
    (repDev { rep3 with scanning := some 4 }).replica 0 = { rep3 with scanning := some 4 } ∧
    (∀ x ∈ [([1#8], true), ([2#8], false)],
      let e := repDev { rep3 with latest := [voteOf 8#18 1#8, voteOf 9#18 1#8] }
      e.allLocal 0 0 = false ∧ decide (∀ v ∈ e.compared 0 0, v = x.1) = x.2 ∧
      (x.2 = false → 2 * votes (x.1 :: e.compared 0 0) x.1 ≤ (e.compared 0 0).length + 1 ∧
        ∃ v ∈ e.compared 0 0, (e.compared 0 0).length + 1 < 2 * votes (x.1 :: e.compared 0 0) v)) ∧
    (let d := repDev rep3
     let e := { d with cast := { d.cast with insts := [(0, { oneInst with maq := some maq0, digests := [(0, [1#8])] })] } }
     Tbl.find? (e.inst 0).digests 0 = some [1#8]) := by decide +kernel

/-! ### Telemetry, thermal model and governor -/

def pwrDev (p : PwrS) : Device := { kDev with pwr := p }
def adc (e : Fin 16) (urgent : Bool) : AdcCodes := ⟨e, 0, 0, 0, 0, urgent, false, 0#64⟩
/-- The latest codes with the four diodes at a temperature in °C. -/
def diodes (t : Nat) : Tbl Nat := (List.range 4).map (fun f => (10 + f, 1024 + 16 * t))
def seeded : PwrS := { PwrS.reset with seed := some [0#32, 0#32, 0#32, 0#32], latest := diodes 60 }

/-- Deliveries that are due: of the position, the last of the sequence, urgent; ones that are not. -/
theorem witness_delivery :
    (PwrS.reset).due (adc 0 false) = true ∧ (PwrS.reset).due (adc 1 false) = false ∧ (PwrS.reset).due (adc 0 true) = false ∧
    ({ PwrS.reset with position := 3 }).due (adc 3 false) = true ∧ 3 + 1 ≥ ctlLen PwrS.reset.ctl ∧
    ({ PwrS.reset with urgent := [2] }).due (adc 2 true) = true ∧ (PwrS.reset).powerEntry = some 0 ∧
    entOk (PwrS.reset.seq.getD 0 0) = true ∧ (∀ a < 4, entChan (PwrS.reset.seq.getD 0 0) a ≤ 13) ∧
    (∀ a < 4, entChan (PwrS.reset.seq.getD 0 0) a ≠ 13) := by decide +kernel

/-- The wrap with and without a written sequence; the model seeded, not yet and ready to be; diodes cool, hot and at 125 °C. -/
theorem witness_diodes :
    (PwrS.reset.seqPend = none ∧ PwrS.reset.ctlPend = none ∧ ({ PwrS.reset with ctlPend := some 0 }).ctlPend ≠ none) ∧
    ((pwrDev seeded).pwr.seed ≠ none ∧ Tbl.find? (pwrDev PwrS.reset).pwr.latest 10 = none ∧
      (∀ f < 4, Tbl.find? (pwrDev { PwrS.reset with latest := diodes 60 }).pwr.latest (10 + f) ≠ none)) ∧
    (∀ f < 4, f32Le 0x42FA0000#32 ((pwrDev seeded).diode f) = false) ∧
    (entChan 0xFFBA 0 = 10 ∧ f32Le 0x42FA0000#32 ((pwrDev { PwrS.reset with latest := diodes 125 }).diode 0) = true ∧
      f32Le 0x42FA0000#32 ((pwrDev { PwrS.reset with latest := [(10, 3023)] }).diode 0) = false) := by decide +kernel

/-- The power check: within its store of 4 J, at the full store, at none, leaving the full pause, and at three quarters. -/
theorem witness_power_check :
    ∀ x ∈ [(0x3F800000#32, false, 0), (0x42C80000#32, false, 1), (0#32, false, 2), (0#32, true, 3), (0x40400000#32, false, 4)],
      let p := { PwrS.reset with energy := x.1, full := x.2.1, latest := [(0, 3000), (1, 0)], checkAt := some 0 }
      let e := pwrDev p
      let sus : F32 := BitVec.ofNat 32 (e.reg (key 0x2000 1))
      let bmax := f32Mul (f32Sub (BitVec.ofNat 32 (e.reg (key 0x2000 2))) sus) (f32Div (f32OfInt (e.reg (key 0x2000 3))) (f32OfInt 1000))
      let b := f32MinOp bmax (f32MaxOp 0#32 (f32Add e.pwr.energy (f32Mul (f32Sub e.pin sus) 0#32)))
      let leave := e.pwr.full && f32Le b (f32Mul bmax 0x3F000000#32) && f32Le e.pin sus
      x.2.2 = if e.powerCheck.pwr.full then 1 else if leave then 3
        else if f32Le (f32Mul 0x3F400000#32 bmax) b then 4 else if f32IsZero b then 2 else 0 := by decide +kernel

theorem witness_model :
    (pwrDev PwrS.reset).pwr.seed = none ∧ (pwrDev seeded).pwr.seed ≠ none ∧ (pwrDev seeded).pwr.converged = false ∧
    (pwrDev { seeded with converged := true }).pwr.converged = true ∧ (pwrDev seeded).pwr.fast = false := by decide +kernel

/-- The governor's thermal part: a cluster over its limit, one more than a kelvin below it, and one between, where the model's read
value is what the diode gives. -/
theorem witness_governor :
    (∀ n ∈ [0, 1, 2, 3, 4, 5], let p := { PwrS.reset with urgent := (List.range n).take 4 }
      decide (n ∈ p.urgent) = false ∧ (n ≥ 4 → 4 ≤ p.urgent.length)) ∧
    (∀ x ∈ [(96, 0), (93, 1), (95, 2)], let p := { seeded with converged := true, nodes := (List.range 64).map (fun n => (n, f32OfInt x.1)) }
      let e := { pwrDev p with regs := Tbl.put (pwrDev p).regs (key 0x2030 1) 0x42BE0000 }
      let y := f32Sub (e.clusterTemp 0) (BitVec.ofNat 32 (e.reg (key 0x2030 1)))
      x.2 = if f32Lt 0#32 y then 0 else if f32Lt y 0xBF800000#32 then 1 else 2) := by decide +kernel

/-- The anchor: a node that agrees with its diode and one 10 K off. -/
theorem witness_anchor :
    ∀ x ∈ [(60, false), (50, true)], let e := pwrDev { seeded with nodes := [(2, f32OfInt x.1)] }
      let y := f32Sub (e.diode 0) (Tbl.get 0#32 e.pwr.nodes (12 * 0 + 2))
      f32Lt (BitVec.ofNat 32 (e.reg (key 0x2030 5))) (f32Abs y) = x.2 := by decide +kernel

def seqBytes (l : List Nat) : List Byte := l.flatMap (leBytes 4)

/-- The sequence and its control word, good and bad; an urgent request. -/
theorem witness_sequence :
    (∀ x ∈ [(seqDefault, 0), (0x0410 :: seqDefault.drop 1, 1), (seqDefault.drop 1 ++ [0xFFFF], 1)], let v := seqBytes x.1
      passes 0x2020 2 ruleSequence (req0 v) kDev ∧ v.length = 64 ∧
        (let es := (List.range 16).map (fun i => bits (wordAt v i) 15 0)
         x.2 = if es.all entOk && seqCovers es (after 0x2020 2 (req0 v) kDev).pwr.ctlNext then 0 else 1)) ∧
    (∀ x ∈ [(0x283, 0), (0x2A3, 1), (0xA03, 1), (0x282, 1)], let v := leBytes 4 x.1
      passes 0x2020 1 ruleSeqControl (req0 v) kDev ∧ scalarFault (rowAt 0x2020 1) v = none ∧
        (let k := ofLe v % 2 ^ 12
         x.2 = if bits k 5 4 ≤ 1 ∧ bits k 11 6 ≤ 39 ∧ seqCovers (after 0x2020 1 (req0 v) kDev).pwr.seqNext k = true then 0 else 1)) ∧
    passes 0x2020 5 ruleUrgent (req0 [1#8]) kDev ∧ scalarFault (rowAt 0x2020 5) [1#8] = none := by
  refine ⟨fun x hx => ⟨writes_of ?_, ?_⟩, fun x hx => ⟨writes_of ?_, ?_⟩, writes_of ?_, ?_⟩ <;>
    first | (revert x hx; decide +kernel) | decide +kernel

/-- A hint record of an engine: word 0 as Tab. 3.5 has it, zeros after it. -/
def hintWord (i : Nat) : Nat := i / 33 / 12 + i / 33 % 12 * 16 + i % 33 * 256
def hintRecB (i : Nat) : List Byte := leBytes 4 (hintWord i) ++ List.replicate 844 0#8

theorem leBytes4_length (v : Nat) : (leBytes 4 v).length = 4 := rfl

theorem hintRecB_length (i : Nat) : (hintRecB i).length = 848 := by
  simp only [hintRecB, List.length_append, leBytes4_length, List.length_replicate]

theorem chunksOf_map (k : Nat) (h : 0 < k) (f : Nat → List Byte) (hf : ∀ i, (f i).length = k) :
    ∀ l : List Nat, ∀ rest : List Byte, chunksOf k l.length (l.flatMap f ++ rest) = l.map f := by
  intro l
  induction l with
  | nil => intro rest; rfl
  | cons i is ih =>
    intro rest
    have e : (i :: is).flatMap f ++ rest = f i ++ (is.flatMap f ++ rest) := by rw [List.flatMap_cons, List.append_assoc]
    rw [e]
    cases hx : f i ++ (is.flatMap f ++ rest) with
    | nil => have := congrArg List.length hx; rw [List.length_append, hf] at this; simp at this; omega
    | cons b bs =>
      show List.take k (b :: bs) :: chunksOf k is.length (List.drop k (b :: bs)) = _
      rw [← hx, List.take_left' (hf i), List.drop_left' (hf i), ih, List.map_cons]

/-- Behind its first word a record of zeros reads as zeros. -/
theorem hintRecB_zero (i j : Nat) : wordAt (hintRecB i) (j + 1) = 0 := by
  have e : (hintRecB i).drop (4 * (j + 1)) = List.replicate (844 - 4 * j) 0#8 := by
    have h : (leBytes 4 (hintWord i)).drop (4 * (j + 1)) = [] :=
      List.drop_eq_nil_of_le (by rw [leBytes4_length]; omega)
    rw [hintRecB, List.drop_append, h, leBytes4_length, List.nil_append, List.drop_replicate]
    congr 1
  show ofLe (bytesAt (hintRecB i) (4 * (j + 1)) 4) = 0
  simp only [bytesAt, e, List.take_replicate, List.length_replicate, List.replicate_append_replicate]
  rw [show min 4 (844 - 4 * j) + (4 - min 4 (844 - 4 * j)) = 4 from by omega]
  rfl

theorem hintRecB_ok (i : Nat) (h : i < 6336) :
    hintRecOk i ((List.range hintWords).map (fun j => wordAt (hintRecB i) j)) = true := by
  have g : ∀ x < 16, ∀ y < 12, ∀ z < 33, let n := x + y * 16 + z * 256
      bits n 3 0 = x ∧ bits n 7 4 = y ∧ bits n 13 8 = z ∧ bits n 20 19 ≠ 3 ∧ bits n 22 21 ≠ 3 := by decide +kernel
  obtain ⟨k1, k2, k3, k4, k5⟩ := g (i / 33 / 12) (by omega) (i / 33 % 12) (by omega) (i % 33) (by omega)
  rw [← show hintWord i = i / 33 / 12 + i / 33 % 12 * 16 + i % 33 * 256 from rfl] at k1 k2 k3 k4 k5
  have k6 : ofLe (leBytes 4 (hintWord i)) = hintWord i := by
    have : hintWord i < 2 ^ 14 := by simp only [hintWord]; omega
    simp only [leBytes, ofLe, BitVec.toNat_ofNat]; omega
  have e : (List.range hintWords).map (fun j => wordAt (hintRecB i) j) = hintWord i :: List.replicate 211 0 := by
    rw [show hintWords = 211 + 1 from rfl, List.range_succ_eq_map, List.map_cons, List.map_map]
    refine List.cons_eq_cons.2 ⟨?_, ?_⟩
    · refine Eq.trans ?_ k6
      show ofLe (bytesAt (hintRecB i) 0 4) = _
      rw [bytesAt, List.drop_zero, hintRecB, List.take_left' (leBytes4_length _)]
      simp only [leBytes4_length, Nat.sub_self, List.replicate_zero, List.append_nil]
    · refine (List.map_congr_left (g := fun _ => 0) (fun j _ => hintRecB_zero i j)).trans ?_
      rw [List.map_const', List.length_range]
  rw [e]
  unfold hintRecOk
  simp only [List.getD_cons_zero, k1, k2, k3, k4, k5, ne_eq, not_false_eq_true, and_self, decide_true, Bool.true_and]
  rw [List.all_eq_true]
  intro p hp
  unfold hintCopy
  rw [show 131 + p / 16 = (130 + p / 16) + 1 from by omega, List.getD_cons_succ]
  have z : ∀ n, (List.replicate 211 0).getD n 0 = 0 := by
    intro n; rw [List.getD_eq_getElem?_getD, List.getElem?_replicate]; split <;> rfl
  rw [z]
  simp [bits]

/-- The revisit period; hints that are empty, too short, whole with records that are not listed, and whole. -/
theorem witness_hints :
    passes 0x9000 1 ruleRevisit (req0 (leBytes 4 60)) kDev ∧ scalarFault (rowAt 0x9000 1) (leBytes 4 60) = none ∧
    (∀ p ∈ [[], [1#8]], passes 0x9011 0 ruleHint (req0 p) kDev) ∧ ends 0x9011 0 ruleHint hintSize kDev ∧
    hintRecOk 1 ((List.range hintWords).map (fun i => wordAt (List.replicate 848 0#8) i)) = false := by
  refine ⟨writes_of (by decide +kernel), by decide +kernel, fun p hp => writes_of ?_, ends_of (by decide +kernel) (by decide),
    by decide +kernel⟩
  revert p hp; decide +kernel

/-- A hint whose records are all listed, and the same without its last 4 bytes. -/
def hintAll : List Byte := (List.range 6336).flatMap hintRecB
def hintCut : List Byte := (List.range 6335).flatMap hintRecB ++ (leBytes 4 (hintWord 6335) ++ List.replicate 840 0#8)

theorem hint_length (n : Nat) : ((List.range n).flatMap hintRecB).length = n * 848 := by
  rw [List.length_flatMap]
  simp only [hintRecB_length, List.map_const', List.length_range, List.sum_replicate_nat]

theorem witness_hint_whole :
    endsWith 0x9011 0 ruleHint hintCut hintSize kDev ∧
    hintCut ++ List.replicate 4 0#8 = hintAll ∧ hintAll.length = hintSize ∧
    ((chunksOf (4 * hintWords) 6336 hintAll).zipIdx).all
      (fun x => hintRecOk x.2 ((List.range hintWords).map (fun i => wordAt x.1 i))) = true := by
  have hc : chunksOf (4 * hintWords) 6336 hintAll = (List.range 6336).map hintRecB := by
    have := chunksOf_map 848 (by decide) hintRecB hintRecB_length (List.range 6336) []
    rw [List.append_nil, List.length_range] at this
    exact this
  have hr : leBytes 4 (hintWord 6335) ++ List.replicate 840 0#8 ++ List.replicate 4 0#8 = hintRecB 6335 := by
    rw [List.append_assoc, List.replicate_append_replicate, hintRecB]
  refine ⟨endsWith_of (by decide +kernel) ?_ (by decide), ?_, hint_length 6336, ?_⟩
  · simp only [hintCut, List.length_append, hint_length, leBytes4_length, List.length_replicate, hintSize]
  · unfold hintCut hintAll
    rw [List.append_assoc, hr, show (6336 : Nat) = 6335 + 1 from rfl, List.range_succ (n := 6335), List.flatMap_append,
      List.flatMap_singleton]
  · rw [hc, List.all_eq_true]
    intro x hx
    rw [List.mem_zipIdx_iff_getElem?] at hx
    obtain ⟨hi, hx⟩ := List.getElem?_eq_some_iff.1 hx
    rw [List.length_map, List.length_range] at hi
    rw [List.getElem_map, List.getElem_range] at hx
    rw [← hx]; exact hintRecB_ok _ hi

/-! ### The supply, resets and bring-up -/

def clkDev (c : Cluster) (y : ClkS) : Device := { kDev with clk := { y with clusters := [(0, c)] } }

/-- Reference loss or return, PS_SYNC, the input: each state that the commands ask for. -/
theorem witness_supply :
    (∀ x ∈ [(1000, false, true), (832, false, false), (1251, false, false), (1000, true, false)],
      let d := { kDev with pwr := { PwrS.reset with locked := x.2.1 } }
      let p := if d.reg (key 0x2010 1) = 1 then 1000000 / d.reg (key 0x2010 2) else x.1
      decide (833 ≤ p ∧ p ≤ 1250 ∧ d.pwr.locked = false) = x.2.2) ∧
    kDev.pwr.lost = false ∧ ({ kDev with pwr := { PwrS.reset with lost := true } }).pwr.lost = true ∧
    (⟨5#3, 0#3⟩ : Straps).openLands = 0#3 ∧ (withDev kDev).alive = true ∧ (withDev kDev).sup.standby = true := by decide +kernel

/-- A device reset; cluster resets, with one under way and none. -/
theorem witness_resets :
    passes 0x3001 1 (ruleDeviceReset (some ⟨5#3, 0#3⟩)) (req0 [1#8]) kDev ∧ scalarFault (rowAt 0x3001 1) [1#8] = none ∧
    (∀ x ∈ [(0#16, true), (1#16, false)], let d := clkDev { Cluster.reset with st := 4 } { upClk with resetting := x.1 }
      passes 0x3001 2 ruleClusterReset (req0 (leBytes 4 1)) d ∧ scalarFault (rowAt 0x3001 2) (leBytes 4 1) = none ∧
        decide ((after 0x3001 2 (req0 (leBytes 4 1)) d).clk.resetting &&& BitVec.ofNat 16 (ofLe (leBytes 4 1)) = 0#16) = x.2) ∧
    passes 0x3002 0 ruleClusterRecords (req0 (List.replicate 256 0#8)) kDev := by
  refine ⟨writes_of (by decide +kernel), by decide +kernel, fun x hx => ?_, writes_of (by decide +kernel)⟩
  simp only [List.mem_cons, List.not_mem_nil, or_false] at hx
  rcases hx with rfl | rfl <;> exact ⟨writes_of (by decide +kernel), by decide +kernel, by decide +kernel⟩

/-- A cluster that has drained and one that has not; clusters that may park, may not, and are parked. -/
theorem witness_parking :
    (∀ en ∈ [false, true], let d := { clkDev { Cluster.reset with st := 4 } { upClk with draining := 1#16 } with
        rel := { RelS.reset with health := (List.range 13).map (fun i => (i, { Health.reset with enabled := en })) } }
      d.clk.draining.getLsbD 0 = true ∧ d.drainedCluster 0 = !en) ∧
    (∀ x ∈ [(4, true, true), (4, false, false), (5, true, false)], let d := clkDev { Cluster.reset with st := x.1, park := x.2.1 } upClk
      decide ((d.cluster 0).st = 4 ∧ (d.cluster 0).park = true ∧ d.clusterIdle 0 = true) = x.2.2) := by decide +kernel

/-! ### Crossings and bring-up -/

/-- Crossings of each kind and no crossing; their phases; words held that a flush ends. -/
theorem witness_crossings :
    [0, 31, 32, 35, 36, 40, 47, 48, 64, 79, 80, 143, 144].map crossingKind =
      [some 0, some 0, some 1, some 1, none, some 1, some 1, none, some 2, some 2, some 3, some 3, none] ∧
    (kDev.crossing 0).phase = 0 ∧ (kDev.crossing 0).sink = false ∧ (kDev.crossing 0).back = [] ∧
    ((kDev.flushCrossing 0 1).crossing 0).phase = 1 ∧ ((kDev.flushCrossing 0 1).crossing 0).sink = true ∧
    ((kDev.setCrossing 0 ⟨0, false, [], [(7#32, false, 2)]⟩).crossing 0).back = [] ++ [(7#32, false, 2)] := by decide +kernel

/-- The reference there and gone; rails that may ramp and, at 100 °C, may not; a central block that may start. -/
theorem witness_bring_up :
    (∀ b ∈ [true, false], ({ kDev with clk := { upClk with refOk := b } }).clk.refOk = b) ∧
    (∀ x ∈ [(60, true), (100, false)], (pwrDev { PwrS.reset with latest := diodes x.1 }).mayRamp = x.2) ∧
    (let d := pwrDev { PwrS.reset with pgood := true }
     d.pwr.pgood = true ∧ d.clk.refOk = true ∧ d.clk.ready.getLsbD 3 = true) := by decide +kernel

def test0 (tiles : BitVec 3) (attn : Bool) : ClusterTest := ⟨⟨0, by decide⟩, 0#12, tiles, attn, []⟩

/-- A wave's clusters: off, ready, with no test, with failing tiles, a failing attention core, and none failing. -/
theorem witness_waves :
    (∀ x ∈ [(0, true), (1, true), (6, true), (4, false), (7, false)], let e := clkDev { Cluster.reset with st := x.1 } upClk
      decide ((e.cluster 0).st = 0 ∨ (e.cluster 0).st = 1 ∨ (e.cluster 0).st = 6) = x.2 ∧
        (e.setDetours (e.mem.detours.filter (fun z => !decide (256 ≤ z.1 ∧ (clusterTiles 0).contains (z.1 - 256) = true)))).routerBad
          0 = false) ∧
    (∀ t ∈ [test0 1#3 false, test0 0#3 true, test0 0#3 false], [t].find? (fun t => decide (t.cluster.val = 0)) = some t) ∧
    (∀ n ∈ [1, 3], ((clkDev { Cluster.reset with st := n } upClk).cluster 0).st = n) := by decide +kernel

/-! ### Sideband and TAP -/

/-- The TAP with and without power, locked and unlocked. -/
theorem witness_tap :
    (withDev kDev).sup.standby = true ∧ ({ State.reset with sup := ⟨false, false⟩ }).sup.standby = false ∧ kDev.sec.unlocked = false ∧
    (secDev { SecS.reset with unlocked := true }).sec.unlocked = true := by decide +kernel

/-- Worked example of R423: the code of stepping 1. -/
theorem test_idcode : 0x1614495B % 2 = 1 ∧ 0x1614495B / 2 % 2 ^ 11 = 0x4AD ∧ 0x1614495B / 2 ^ 12 % 2 ^ 16 = 0x6144 ∧ 0x1614495B / 2 ^ 28 = 1 := by
  decide

/-! ### Worked examples of the spec -/

/-- 2.9: plane 0 direct, plane 1 complement. -/
theorem test_segments :
    segResult (2 ^ 50 - 1) (2 ^ 98 - 2 ^ 28) false none = ⟨22, none, 22⟩ ∧
    segResult (2 ^ 90 - 1) (2 ^ 99 - 2 ^ 29) false none = ⟨61, none, 9⟩ := by decide +kernel

/-- 3: the live attempt on column 300: the gain errors of copies L0 and L1, the offset of instance I2. -/
theorem test_attempt :
    gainErr ⟨72, 334⟩ 5 21 = some 0x3CC00000#32 ∧ gainErr ⟨73, 330⟩ 5 21 = some 0x3B800000#32 ∧ offset32 ⟨73, 330⟩ 5 21 = 3 := by
  decide +kernel

/-- Tab. 4.3. -/
theorem test_scale_codes :
    [0x00#8, 0x0F#8, 0x10#8, 0x14#8, 0x1C#8, 0x24#8, 0x80#8, 0xFF#8].map blockMult = [16, 31, 32, 40, 56, 80, 4096, 1015808] := by decide

def exVector : List F32 :=
  (List.range 96).map (fun j => ((Tbl.find? [(3, 0x3F570A3D#32), (5, 0xBE99999A#32), (7, 0x41180000#32), (33, 0x40466666#32),
    (40, 0xC1440000#32), (41, 0x40E00000#32), (64, 0x3E4CCCCD#32), (70, 0x40D00000#32), (90, 0xC1A00000#32)] j).getD 0#32))

/-- 4: one P4 burst: header, scales, nibbles and outlier slots. -/
theorem test_p4_burst :
    let o := packP4 exVector true 0x40C00000#32
    [0, 1, 18, 35, 3, 4, 19, 39].map (fun i => o.bytes.getD i 0#8) =
      [0x65#8, 0x7C#8, 0x7E#8, 0x7A#8, 0x70#8, 0xE0#8, 0x60#8, 0x07#8] ∧
    o.bytes.drop 52 = [0x5A#8, 0xA0#8, 0xC1#8, 0x28#8, 0x44#8, 0xC1#8, 0x07#8, 0x18#8, 0x41#8, 0x29#8, 0xE0#8, 0x40#8] ∧ o.ovr = 1 := by
  decide +kernel

/-- 4: its alignment at B = 4 and B = 8. -/
theorem test_alignment :
    [alignVal 7 124 126 4 true, alignVal (-2) 124 126 4 true, alignVal 7 122 126 4 true, alignVal 7 124 122 8 true, alignVal (-2) 124 122 8 true,
     alignVal 6 126 122 8 true, alignVal 7 122 122 8 true] = [2, 0, 0, 28, -8, 96, 7] := by decide

/-- 4: the norm watch with mu 2.00, sigma 0.05, k 4 and α = 2^−8. -/
theorem test_norm_watch :
    let x := { LayerRec.zero with mu := 0x40000000#32, sigma := 0x3D4CCCCD#32, samples := 64 }
    let y := x.sample 0x4013D70A#32 0x40800000#32 0#32 0#32 64 8
    (y.2 = true ∧ y.1.mu = x.mu ∧ y.1.sigma = x.sigma) ∧
    (x.sample 0x40028F5C#32 0x40800000#32 0#32 0#32 64 8).2 = false ∧
    (x.sample 0x40028F5C#32 0x40800000#32 0#32 0#32 64 8).1.mu = 0x4000028F#32 := by decide +kernel

/-- 6: the EVAL that is assembled. -/
theorem test_eval_word :
    let w : StepWord := 0x0003802A618100000004130010400440#128
    wClass w = 1 ∧ wOp w = 0 ∧ wDelay w = 1 ∧ w.getLsbD 22 = true ∧ fld w 33 27 = 2 ∧ fld w 52 40 = 0x413 ∧ fld w 68 53 = 0 ∧ fld w 86 79 = 2 ∧
      fld w 89 87 = 3 ∧ fld w 92 90 = 0 ∧ fld w 95 93 = 3 ∧ fld w 98 96 = 2 ∧ fld w 110 99 = 5 ∧ fld w 123 111 = 7 ∧
      listedWord w 1 0 = true ∧ evalListed w = true ∧ evalPlanes w = [0, 1, 2, 3] := by decide +kernel

/-- 6: EVALT with w = 70, p = 100 and T = 50: one comparison, at 21. -/
theorem test_evalt :
    [20, 21].map (fun k => evaltBit (2 ^ 100 - 1) (2 ^ 70 - 1) 50 false (some k)) = [(some true, true), (some false, true)] := by decide +kernel

/-- 1: cluster 13 holds tiles (14, 11), (14, 10) and (13, 9). -/
theorem test_tiles : tileCluster 14 11 = 13 ∧ tileCluster 14 10 = 13 ∧ tileCluster 13 9 = 13 := by decide

/-- 1: of cluster 13, core 7 stands on tile (14, 11), the attention core on (14, 10) and memory tile M0 on (13, 9). -/
theorem test_units : unitTile 13 7 = 14 + 16 * 11 ∧ unitTile 13 12 = 14 + 16 * 10 ∧ unitTile 13 13 = 13 + 16 * 9 := by decide

/-- R13: a field's own link; while it is unusable the next clockwise; none. -/
theorem test_mgmt_link :
    let at_ := fun (bad : List Nat) => ({ Device.reset with clk := { ClkS.reset with
      crossings := bad.map (fun f => (32 + f, ⟨1, true, [], []⟩)) } } : Device)
    (List.range 4).map ((at_ []).mgmtLink ·) = [some 0, some 1, some 2, some 3] ∧
    (at_ [1]).mgmtLink 1 = some 3 ∧ (at_ [1, 3]).mgmtLink 1 = some 2 ∧ (at_ [0, 1, 2, 3]).mgmtLink 1 = none := by decide +kernel

/-- R325: the header of a sideband frame: EtherType 88B5h behind the two addresses, the high byte first. -/
theorem test_side_frame : sideFrame 0xFFFFFFFFFFFF 0x020000000007 [1#8] =
    List.replicate 6 0xFF#8 ++ [2, 0, 0, 0, 0, 7, 0x88, 0xB5, 1] := by decide

/-- XXH64 of no byte, and of a text of 39 bytes, as its description publishes them. -/
theorem test_xxh64 : xxh64 [] = 0xEF46DB3751D8E999#64 ∧
    xxh64 ("Nobody inspects the spammish repetition".toList.map (fun c => BitVec.ofNat 8 c.toNat)) = 0xFBCEA83C8A378BF1#64 := by
  decide +kernel

/-- R91: a program that evaluates under the grid of 1 × 32 with n_e at 512 and at 128, and one that sets 2 × 16 before. -/
theorem test_grids :
    gridsOk 512 [mkWord 0 1 [], mkWord 1 0 []] [] true = false ∧ gridsOk 128 [mkWord 0 1 [], mkWord 1 0 []] [] true = true ∧
    gridsOk 512 [mkWord 0 1 [], mkWord 0 3 [(1, 40), (4, 43)], mkWord 1 0 []] [] true = true := by decide +kernel

def atCoord (c : Coord) : Device :=
  let ps := (List.range 8).map (fun p => (p, portOf 3))
  { kDev with fab := { FabS.reset with coord := c, written := true, ports := ps } }

/-- 12: the route of the example: C1 three times, B2, X0, C1 three times, B1, and home. -/
theorem test_route :
    ([(2, 6, 3), (2, 5, 3), (2, 4, 3), (2, 3, 3), (2, 3, 0), (9, 4, 0), (9, 3, 0), (9, 2, 0), (9, 1, 0), (9, 1, 2)].map (fun x =>
      (atCoord (mkCoord 0 x.1 x.2.1 x.2.2)).exitFor 1 0 0 (mkCoord 0 9 1 2))) =
      [.port 5, .port 5, .port 5, .port 2, .port 6, .port 5, .port 5, .port 5, .port 1, .here] := by decide +kernel

/-- 12: with X0 of rack index 12 down, by way of index 13. -/
theorem test_failed_gateway :
    ([(2, 6, 3), (2, 3, 3), (2, 3, 1), (9, 4, 1), (9, 1, 1)].map (fun x =>
      let d := atCoord (mkCoord 0 x.1 x.2.1 x.2.2)
      ({ d with fab := { d.fab with down := [(mkCoord 0 2 3 0, 6)] } }).exitFor 1 0 0 (mkCoord 0 9 1 2))) =
      [.port 5, .port 1, .port 6, .port 5, .port 2] := by decide +kernel

/-- 17: the correction of a code. -/
theorem test_correction : correct (0xFFF8 + 655 * 65536) 2000 = (2019, false) := by decide +kernel

/-- 17: the governor's steps at e = 0.4, 1.2, 0.9 and 0.2. -/
theorem test_governor :
    [0x3ECCCCCD#32, 0x3F99999A#32, 0x3F666666#32, 0x3E4CCCCD#32].map (fun e => f32Ceil (f32Mul (f32OfInt 16) e)) = [7, 20, 15, 4] := by
  decide +kernel

/-! ### Ill-formed commands: each check of WellFormed refuses one -/

def c0 : CoreIx := ⟨0, by decide⟩
def k0 : ClusterIx := ⟨0, by decide⟩
def rd0 (pass count : Nat) : Reading := ⟨0, 0, false, pass, some count, 0#39⟩
def col0 (n m : Nat) : ColMeas := ⟨0, List.replicate n (⟨0, 0⟩, ⟨0, 0⟩), List.replicate m (⟨0, 0⟩, ⟨0, 0⟩)⟩
def att0 (n m k : Nat) : Attempt := ⟨[col0 n m], [], [rd0 0 k], []⟩
def ref0 (bursts : Nat) : RefStep := ⟨0, 0, .layer, [⟨0, 1, 0, bursts⟩], 1, 0⟩
def ask0 (n lo hi : Nat) : PageReq :=
  ⟨0, k0, 0, 0, 0, 0, 0, 0, 0, [⟨List.replicate n f32One, lo, hi⟩], f32One, 1, 1, 2, []⟩

theorem wf_step_word : (Instr.nop c0 (mkWord 0 1 [])).wf = false ∧ (Instr.sample c0 (mkWord 8 2 [])).wf = false ∧ (Instr.nop c0 (mkWord 0 0 [])).wf = true := by
  decide

theorem wf_readings : (Instr.eval c0 (mkWord 1 0 []) [rd0 0 66]).wf = false ∧ (Instr.eval c0 (mkWord 1 0 []) [rd0 8 0]).wf = false ∧
    (Instr.calProbe c0 0 false [rd0 0 66]).wf = false ∧ (Instr.eval c0 (mkWord 1 0 []) [rd0 7 65]).wf = true := by decide

theorem wf_request : (Instr.cancel { req0 [] with payload := List.replicate 65536 0#8 }).wf = false := by
  show decide ((List.replicate 65536 0#8).length < 65536) = false
  rw [List.length_replicate]; decide

theorem wf_attempt : (Instr.selectionAttemptDone c0 0 (att0 2 4 0)).wf = false ∧ (Instr.selectionAttemptDone c0 0 (att0 3 3 0)).wf = false ∧
    (Instr.selectionAttemptDone c0 0 (att0 3 4 66)).wf = false ∧ (Instr.selectionAttemptDone c0 0 (att0 3 4 65)).wf = true := by decide

theorem wf_reference_step : (Instr.referenceStep k0 (ref0 256)).wf = false ∧ (Instr.referenceStep k0 (ref0 255)).wf = true := by decide

theorem wf_pages : (Instr.pageRequest k0 (ask0 1 0 0)).wf = false ∧ (Instr.pageRequest k0 (ask0 2 1 0)).wf = false ∧
    (Instr.pageRequest k0 (ask0 2 0 0)).wf = true ∧
    (Instr.pagePartialReceive k0 ⟨0, 0, 0, 0, false, false, [⟨0#32, 0#32, [0#32], [], false⟩]⟩).wf = false ∧
    (Instr.frameZeroDone k0 0 (2 ^ 19)).wf = false ∧ (Instr.combineWindowClose k0 0 (2 ^ 19)).wf = false := by decide

theorem wf_pause : (Instr.pauseRequest ⟨0, by decide⟩ 0).wf = false ∧ (Instr.pauseRequest ⟨0, by decide⟩ 1).wf = true := by decide

theorem wf_flits : (Instr.packetReceive 0 []).wf = false ∧ (Instr.multicastReceive 0 []).wf = false ∧
    (Instr.helloReceive 0 ⟨1, 0, List.replicate 59 0#32, 0#32⟩).wf = false ∧ (Instr.helloReceive 0 ⟨2, 0, List.replicate 58 0#32, 0#32⟩).wf = false ∧
    (Instr.helloReceive 0 ⟨2, 1#64 <<< 59, List.replicate 59 0#32, 0#32⟩).wf = false ∧
    (Instr.helloReceive 0 ⟨2, 0, List.replicate 59 0#32, 0#32⟩).wf = true ∧ (Instr.retryRequest 0 ⟨2, 0, [], 0#32⟩).wf = false ∧
    (Instr.idleFlitReceive 0 ⟨1, 0, List.replicate 59 0#32, 0#32⟩).wf = false := by decide

theorem wf_maquette :
    (Instr.castOpen (req0 []) { extra0 with regions := [⟨0, k0, 0, 1, []⟩] }).wf = false := by decide

theorem wf_bring_up :
    (Instr.clusterWave 0 [⟨k0, 0#12, 0#3, false, [(396, att0 3 4 0)]⟩]).wf = false ∧ (Instr.crossingReady 144).wf = false ∧
    (Instr.crossingReady 143).wf = true ∧ (Instr.thermalModelUpdate []).wf = false ∧
    (Instr.thermalModelUpdate (List.replicate 48 [0, 0, 0, 0])).wf = false ∧
    (Instr.thermalModelUpdate (List.replicate 48 [0, 0, 0, 0, 0])).wf = true ∧
    (Instr.replicaDigestReceive 0 ⟨8#18, 0, 0, [(0, [1#8])]⟩).wf = false := by decide

theorem wf_image_pull : (Instr.imagePullResponse 0 (List.replicate 4197925 0#8)).wf = false := by
  show decide ((List.replicate 4197925 0#8).length ≤ 4197924) = false
  rw [List.length_replicate]; decide

/-! ### The hint (R53) -/

/-- A record that hints copy L2 for column 0, instances I3 and I1 for its segments (Tab. 3.5). -/
def hintRec : List Nat := (List.range 212).map (fun i => if i = 1 then 7 else if i = 131 then 2 else 0)

/-- An attempt on column 0 with the hinted elements alone: sums 248 and 888 at 16 and 56 rows are without offset. -/
def hintAttempt (bad : List (Fin 1040)) : Attempt :=
  let m : ColMeas := ⟨0, [(⟨248, 888⟩, ⟨248, 888⟩)], [(⟨248, 888⟩, ⟨248, 888⟩)]⟩
  ⟨[m], [m], [], bad⟩

/-- R53: agreement and a passed sweep accept the hinted selection; a failed sweep refers the column to R51. -/
theorem test_hint :
    ((hintTry hintRec 0x3DCCCCCD#32 0 [hintAttempt []]).map (fun x => x.map (fun p => (p.copy, p.i0, p.i1)))) =
      some (some (2, 3, 1)) ∧
    ((hintTry hintRec 0x3DCCCCCD#32 0 [hintAttempt [0]]).map (fun x => x.isSome)) = some false := by decide +kernel

end Sys2Proof.Tests
end

section
/-!
SUPPORT. The 1-bits that two sets of rows share: a plane and a column-segment's stored bits (R31).
-/
namespace Sys2Proof.Machine

/-! ### The rows that two sets share -/

/-- The count of shared rows that the statements write out, up to any row. -/
theorem ones_and_eq_countP (n x y : Nat) :
    ones n (x &&& y) = (List.range n).countP (fun i => x.testBit i && y.testBit i) := by
  induction n with
  | zero => rfl
  | succ n ih => rw [List.range_succ, List.countP_append, List.countP_singleton, ones, ih, Nat.testBit_and]

theorem countP_both_eq_popc (x y : Nat) :
    (List.range 128).countP (fun i => x.testBit i && y.testBit i) = popc (x &&& y) := by
  rw [popc_eq, ones_and_eq_countP]

theorem and_all128 {x : Nat} (hx : x < 2 ^ 128) : x &&& all128 = x :=
  Nat.and_two_pow_sub_one_of_lt_two_pow hx

theorem popc_all128 : popc all128 = 128 := by decide +kernel

theorem popc_and_le_left (x b : Nat) : popc (x &&& b) ≤ popc x := by
  rw [Nat.and_comm, popc_eq, popc_eq]
  exact ones_and_le 128 b x

theorem popc_and_le_right (x b : Nat) : popc (x &&& b) ≤ popc b := by
  rw [popc_eq, popc_eq]
  exact ones_and_le 128 x b

/-- A row that holds a 1 is either in the set or outside it: the identity behind complement evaluation. -/
theorem popc_and_add_compl {x : Nat} (hx : x < 2 ^ 128) (b : Nat) :
    popc (x &&& b) + popc ((all128 - x) &&& b) = popc b := by
  rw [popc_eq, popc_eq, popc_eq]
  exact (ones_split 128 x b).resolve_right (by omega)

theorem popc_add_compl {x : Nat} (hx : x < 2 ^ 128) : popc x + popc (all128 - x) = 128 := by
  have h := popc_and_add_compl hx all128
  rwa [and_all128 hx, and_all128 (by unfold all128; omega), popc_all128] at h

/-- Two sets of rows overlap at least where 128 rows are too few for both. -/
theorem popc_add_le {x : Nat} (hx : x < 2 ^ 128) (b : Nat) : popc x + popc b ≤ popc (x &&& b) + 128 := by
  have hsplit := popc_and_add_compl hx b
  have hout := popc_and_le_left (all128 - x) b
  have hrows := popc_add_compl hx
  omega

/-! ### The kind of a segment and the rows it drives -/

theorem segKind_zero {plane : Nat} (h : popc plane = 0) : segKind plane = .zero := by
  simp [segKind, h]

theorem segKind_full {plane : Nat} (h : popc plane = 128) : segKind plane = .full := by
  simp [segKind, h]

theorem segKind_direct {plane : Nat} (h0 : popc plane ≠ 0) (h : popc plane ≤ 64) : segKind plane = .direct := by
  simp [segKind, h0, h, show popc plane ≠ 128 by omega]

theorem segKind_complement {plane : Nat} (h : 64 < popc plane) (h1 : popc plane ≠ 128) :
    segKind plane = .complement := by
  simp [segKind, h1, show popc plane ≠ 0 by omega, show ¬ popc plane ≤ 64 by omega]

theorem driven_direct {plane : Nat} (h0 : popc plane ≠ 0) (h : popc plane ≤ 64) : driven plane = plane := by
  simp only [driven, segKind_direct h0 h]

theorem driven_complement {plane : Nat} (h : 64 < popc plane) (h1 : popc plane ≠ 128) :
    driven plane = all128 - plane := by
  simp only [driven, segKind_complement h h1]

section Converting
variable {plane : Nat} (hx : plane < 2 ^ 128) (h0 : popc plane ≠ 0) (h1 : popc plane ≠ 128)
include hx h0 h1

/-- A converting segment drives the smaller half of its rows. -/
theorem popc_driven : popc (driven plane) = min (popc plane) (128 - popc plane) := by
  by_cases h : popc plane ≤ 64
  · rw [driven_direct h0 h]
    omega
  · rw [driven_complement (by omega) h1]
    have := popc_add_compl hx
    omega

theorem driven_lt : driven plane < 2 ^ 128 := by
  by_cases h : popc plane ≤ 64
  · rwa [driven_direct h0 h]
  · rw [driven_complement (by omega) h1]
    unfold all128
    omega

/-- The exact count of a conversion is in the converter's range and within both bounds of R31. -/
theorem drivenCount_bounds (b : Nat) :
    popc (driven plane &&& b) ≤ 64 ∧
      min (popc plane) (128 - popc plane) + popc b ≤ popc (driven plane &&& b) + 128 ∧
      popc (driven plane &&& b) ≤ min (min (popc plane) (128 - popc plane)) (popc b) := by
  have hn := popc_driven hx h0 h1
  have hlo := popc_add_le (driven_lt hx h0 h1) b
  have hleft := popc_and_le_left (driven plane) b
  have hright := popc_and_le_right (driven plane) b
  omega

/-- What R31 makes of the exact count is the number of the plane's own rows that hold a 1. -/
theorem popc_and_eq_of_driven (b : Nat) :
    popc (plane &&& b) =
      if popc plane ≤ 64 then popc (driven plane &&& b) else popc b - popc (driven plane &&& b) := by
  by_cases h : popc plane ≤ 64
  · rw [if_pos h, driven_direct h0 h]
  · rw [if_neg h, driven_complement (by omega) h1]
    have := popc_and_add_compl hx b
    omega

end Converting

theorem popc_and_of_zero {plane : Nat} (b : Nat) (h : popc plane = 0) : popc (plane &&& b) = 0 :=
  Nat.le_zero.mp (h ▸ popc_and_le_left plane b)

theorem popc_and_of_full {plane : Nat} (hx : plane < 2 ^ 128) (b : Nat) (h : popc plane = 128) :
    popc (plane &&& b) = popc b := by
  have hle := popc_and_le_right plane b
  have hge := popc_add_le hx b
  omega

/-! ### The segment result (R31) -/

theorem segResult_zero {plane : Nat} (h : popc plane = 0) (b : Nat) (bad : Bool) (ans : Option Nat) :
    segResult plane b bad ans = ⟨0, none, 0⟩ := by
  simp only [segResult, segKind_zero h]

theorem segResult_full {plane : Nat} (h : popc plane = 128) (b : Nat) (ans : Option Nat) :
    segResult plane b false ans = ⟨popc b, none, 0⟩ := by
  simp [segResult, segKind_full h]

/-- A segment with rows whose weight count is invalid faults (R35). -/
theorem segResult_invalid {plane : Nat} (h0 : popc plane ≠ 0) (b : Nat) (ans : Option Nat) :
    (segResult plane b true ans).fault = some 3 ∧ (segResult plane b true ans).v = 0 := by
  by_cases h1 : popc plane = 128
  · simp [segResult, segKind_full h1]
  · by_cases h : popc plane ≤ 64
    · simp [segResult, segKind_direct h0 h]
    · simp [segResult, segKind_complement (by omega) h1]

/-- A converting segment in one equation: its count is judged by the two bounds and kept or taken from the weight count. -/
theorem segResult_converting {plane : Nat} (hx : plane < 2 ^ 128) (h0 : popc plane ≠ 0) (h1 : popc plane ≠ 128)
    (b : Nat) (ans : Option Nat) :
    segResult plane b false ans =
      let n := min (popc plane) (128 - popc plane)
      let k := ans.getD (popc (driven plane &&& b))
      if 65 ≤ k then ⟨0, some 1, k⟩
      else if k + 128 < n + popc b ∨ min n (popc b) < k then ⟨0, some 2, k⟩
      else ⟨if popc plane ≤ 64 then k else popc b - k, none, k⟩ := by
  have hlo : ∀ n k : Nat, k < n + popc b - 128 ↔ k + 128 < n + popc b := fun n k => by omega
  by_cases h : popc plane ≤ 64
  · simp [segResult, segKind_direct h0 h, popc_driven hx h0 h1, hlo, h]
  · simp [segResult, segKind_complement (by omega : 64 < popc plane) h1, popc_driven hx h0 h1, hlo, h]

/-- Without an answer that departs from the exact one, every kind of plane gives the exact count without a fault. -/
theorem segResult_exact {plane : Nat} (hx : plane < 2 ^ 128) (b : Nat) :
    (segResult plane b false none).v = popc (plane &&& b) ∧ (segResult plane b false none).fault = none := by
  by_cases h0 : popc plane = 0
  · simp [segResult_zero h0, popc_and_of_zero b h0]
  by_cases h1 : popc plane = 128
  · simp [segResult_full h1, popc_and_of_full hx b h1]
  obtain ⟨hrange, hlo, hhi⟩ := drivenCount_bounds hx h0 h1 b
  rw [segResult_converting hx h0 h1, popc_and_eq_of_driven hx h0 h1]
  simp only [Option.getD_none]
  rw [if_neg (by omega), if_neg (by omega)]
  exact ⟨rfl, rfl⟩

/-! ### The threshold bit (R37) -/

/-- The comparison of a direct segment: each row of Tab. 2.5 gives `T ≤ k` for a count within the bounds. -/
theorem evaltBit_direct {plane b : Nat} (T k : Nat) (h0 : popc plane ≠ 0) (h : popc plane ≤ 64)
    (hlo : popc (driven plane) + popc b ≤ k + 128) (hhi : k ≤ min (popc (driven plane)) (popc b)) :
    (evaltBit plane b T false (some k)).1 = some (decide (T ≤ k)) := by
  simp only [evaltBit, segKind_direct h0 h, Bool.false_eq_true, if_false, if_true, Option.getD_some]
  split
  next hle => simp only [show T ≤ k by omega, decide_true]
  next =>
    split
    next hgt => simp only [show ¬ T ≤ k by omega, decide_false]
    next => rfl

/-- The comparison of a complement segment, whose result is `popc b - k`. -/
theorem evaltBit_complement {plane b : Nat} (T k : Nat) (h : 64 < popc plane) (h1 : popc plane ≠ 128)
    (hlo : popc (driven plane) + popc b ≤ k + 128) (hhi : k ≤ min (popc (driven plane)) (popc b)) :
    (evaltBit plane b T false (some k)).1 = some (decide (T ≤ popc b - k)) := by
  simp only [evaltBit, segKind_complement h h1, Bool.false_eq_true, reduceCtorEq, if_false, Option.getD_some]
  split
  next hlt => simp only [show ¬ T ≤ popc b - k by omega, decide_false]
  next =>
    split
    next hle => simp only [show T ≤ popc b - k by omega, decide_true]
    next => simp only [show k < popc b - T + 1 ↔ T ≤ popc b - k by omega]

/-- Without an answer of its own a converting segment compares the exact count. -/
theorem evaltBit_none {plane : Nat} (b T : Nat) :
    evaltBit plane b T false none = evaltBit plane b T false (some (popc (driven plane &&& b))) := rfl

theorem evaltBit_exact {plane : Nat} (hx : plane < 2 ^ 128) (b T : Nat) :
    (evaltBit plane b T false none).1 = some (decide (T ≤ popc (plane &&& b))) := by
  by_cases h0 : popc plane = 0
  · simp [evaltBit, segKind_zero h0, popc_and_of_zero b h0]
  by_cases h1 : popc plane = 128
  · simp [evaltBit, segKind_full h1, popc_and_of_full hx b h1]
  obtain ⟨-, hlo, hhi⟩ := drivenCount_bounds hx h0 h1 b
  rw [← popc_driven hx h0 h1] at hlo hhi
  rw [evaltBit_none, popc_and_eq_of_driven hx h0 h1]
  by_cases h : popc plane ≤ 64
  · rw [if_pos h, evaltBit_direct T _ h0 h hlo hhi]
  · rw [if_neg h, evaltBit_complement T _ (by omega) h1 hlo hhi]

/-! ### The probe (R38) -/

/-- Exact counts of two halves of 64 rows pass: they sum to the weight count, and neither half holds more than 64. -/
theorem probeSeg_exact {x : Nat} (hx : x < 2 ^ 128) (h : popc x = 64) (b : Nat) :
    probeSeg x b false none none = some true := by
  have hsum := popc_and_add_compl hx b
  have hrows := popc_add_compl hx
  have hX := popc_and_le_left x b
  have hY := popc_and_le_left (all128 - x) b
  simp only [probeSeg, Bool.false_eq_true, if_false, Option.getD_none, Option.some.injEq, decide_eq_true_eq]
  omega

/-! ### The statement -/

/-- Settles O30: by kind of the plane, from the bounds and the complement identity of the counts of shared rows. -/
theorem segmentCounts : Obligations.SegmentCounts := by
  unfold Obligations.SegmentCounts
  intro both all plane b hx hb p w n
  have hboth : ∀ x y, both x y = popc (x &&& y) := countP_both_eq_popc
  have hp : p = popc plane := (hboth plane all).trans (congrArg popc (and_all128 hx))
  have hw : w = popc b := (hboth b all).trans (congrArg popc (and_all128 hb))
  have hn : n = min (popc plane) (128 - popc plane) := by rw [← hp]
  obtain ⟨hexact, hnone⟩ := segResult_exact hx b
  rw [hn, hp, hw, hboth]
  refine ⟨hexact, hnone, fun x a => ⟨(segResult_zero · b x a), (segResult_full · b a)⟩, ?converting,
    fun a h0 => segResult_invalid h0 b a, fun T _ => evaltBit_exact hx b T, (probeSeg_exact hx · b)⟩
  case converting =>
    intro k h0 h1
    rw [segResult_converting hx h0 h1]
    simp only [Option.getD_some]
    refine ⟨fun hover => ?_, fun hrange hout => ?_, fun hrange hlo hhi => ?_⟩
    · rw [if_pos hover]
      exact ⟨rfl, rfl⟩
    · rw [if_neg (by omega), if_pos hout]
      exact ⟨rfl, rfl⟩
    · rw [if_neg (by omega), if_neg (by omega)]
      exact ⟨rfl, rfl⟩

end Sys2Proof.Machine
end

section
/-!
SUPPORT. What a keyed WRITE answers with whose rule is known, and what a key of a sparse table holds after a write.
-/
namespace Sys2Proof.Machine

/-! ### Answers of keyed WRITEs (R327) -/

/-- A WRITE whose rule takes a scalar: a value in range is answered with what the rule makes of it. -/
theorem valued_wrote {s : State} {i j : Nat} {rule : WriteRule} {run : Device → Req → Nat → Answer} {r : Req}
    {o : ObjRow} {c : Instr} (hw : s.writes i j rule r o) (hf : scalarFault o r.payload = none)
    (hrun : rule.run = valued (key i j) run) (hrow : objRow? (key i j) = writeRow? i j)
    (hc : exec c s = s.lift (fun d => d.write i j rule r)) ⦃st : Nat⦄ ⦃p : List Byte⦄ ⦃u : Device⦄
    (ha : run (s.dev.counted i o r) r (ofLe r.payload) = ⟨st, p, u⟩) (hst : st ≠ 0x100 := by decide) :
    exec c s = s.wrote i j o r st p u :=
  writes_eq hw hc (by rw [hrun, valued_run hw hrow hf, ha]) hst

/-- The same for a rule that takes a value of a fixed size. -/
theorem sized_wrote {s : State} {i j n : Nat} {rule : WriteRule} {run : Device → Req → List Byte → Answer} {r : Req}
    {o : ObjRow} {c : Instr} (hw : s.writes i j rule r o) (hn : r.payload.length = n)
    (hrun : rule.run = sized n run) (hc : exec c s = s.lift (fun d => d.write i j rule r))
    ⦃st : Nat⦄ ⦃p : List Byte⦄ ⦃u : Device⦄ (ha : run (s.dev.counted i o r) r r.payload = ⟨st, p, u⟩)
    (hst : st ≠ 0x100 := by decide) : exec c s = s.wrote i j o r st p u :=
  writes_eq hw hc (by rw [hrun, sized_run hn, ha]) hst

/-! ### Keys of sparse tables -/

theorem Tbl.mem_put {α : Type} {m : Tbl α} {k : Nat} {v : α} {e : Nat × α} (h : e ∈ Tbl.put m k v) :
    e = (k, v) ∨ e ∈ m := by
  induction m with
  | nil => exact .inl (List.mem_singleton.mp h)
  | cons a m ih =>
    obtain ⟨k', v'⟩ := a
    unfold Tbl.put at h
    split at h
    · exact List.mem_cons.mp h
    · split at h
      · exact (List.mem_cons.mp h).imp_right (List.mem_cons_of_mem _)
      · obtain rfl | h := List.mem_cons.mp h
        · exact .inr List.mem_cons_self
        · exact (ih h).imp_right (List.mem_cons_of_mem _)

theorem Tbl.ne_of_mem_del {α : Type} {m : Tbl α} {k : Nat} {e : Nat × α} (h : e ∈ Tbl.del m k) : e.1 ≠ k := by
  induction m with
  | nil => cases h
  | cons a m ih =>
    obtain ⟨k', v'⟩ := a
    by_cases heq : k' = k
    · exact ih (by simpa [Tbl.del, heq] using h)
    · obtain rfl | h : e = (k', v') ∨ e ∈ Tbl.del m k := by simpa [Tbl.del, heq] using h
      · exact heq
      · exact ih h

/-- Every number below the lowest free one is taken. -/
theorem Tbl.find?_lowestFree {α : Type} {m : Tbl α} {n c : Nat} (h : lowestFree (Tbl.keys m) n 0 = some c) :
    Tbl.find? m c = none ∧ ∀ j, j < c → Tbl.find? m j ≠ none := by
  obtain ⟨-, hfree, htaken⟩ := lowestFree_spec _ n 0 c h
  refine ⟨(Tbl.find?_eq_none m c).mpr hfree, fun j hj hnone => ?_⟩
  have hnot := (Tbl.find?_eq_none m j).mp hnone
  rw [htaken j (Nat.zero_le j) hj] at hnot
  cases hnot

end Sys2Proof.Machine
end

section
/-!
SUPPORT. Key slots and tenants (R330, R336, R338): an aborted transfer and a removed slot bring no slot in, so a tenant that is
undefined keeps none.
-/
namespace Sys2Proof.Machine

/-! ### Slots that aborts and removals leave -/

/-- Every slot of `e` stands in `d` under the same number for the same tenant; the scratchpad and the tenants stay. -/
structure NoNewSlot (d e : Device) : Prop where
  slots : ∀ k ∈ e.dict.keys, ∃ k' ∈ d.dict.keys, k'.1 = k.1 ∧ k'.2.tenant = k.2.tenant
  mem : e.mem = d.mem
  tenants : e.dict.tenants = d.dict.tenants

theorem NoNewSlot.of_subset {d e : Device} (h : ∀ k ∈ e.dict.keys, k ∈ d.dict.keys) (hm : e.mem = d.mem)
    (ht : e.dict.tenants = d.dict.tenants) : NoNewSlot d e :=
  ⟨fun k hk => ⟨k, h k hk, rfl, rfl⟩, hm, ht⟩

theorem NoNewSlot.refl (d : Device) : NoNewSlot d d := .of_subset (fun _ => id) rfl rfl

theorem NoNewSlot.trans {d e g : Device} (h : NoNewSlot d e) (k : NoNewSlot e g) : NoNewSlot d g where
  slots x hx := by
    obtain ⟨y, hy, hix, hten⟩ := k.slots x hx
    obtain ⟨z, hz, hix', hten'⟩ := h.slots y hy
    exact ⟨z, hz, hix'.trans hix, hten'.trans hten⟩
  mem := k.mem.trans h.mem
  tenants := k.tenants.trans h.tenants

theorem NoNewSlot.foldl {α : Type} {f : Device → α → Device} (h : ∀ d a, NoNewSlot d (f d a)) (l : List α) (d : Device) :
    NoNewSlot d (l.foldl f d) := by
  induction l generalizing d with
  | nil => exact .refl d
  | cons a l ih => exact (h d a).trans (ih _)

/-- A slot that is found is rewritten in place for its tenant. -/
theorem NoNewSlot.putSlot {d : Device} {t : Nat} {src : Coord} {x : Nat × KeySlot} (hx : d.keySlot? t src = some x)
    {y : KeySlot} (hy : y.tenant = x.2.tenant) : NoNewSlot d (d.putSlot x.1 y) where
  slots k hk := by
    obtain rfl | hk := Tbl.mem_put hk
    · exact ⟨x, List.mem_of_find?_eq_some hx, rfl, hy.symm⟩
    · exact ⟨k, hk, rfl, rfl⟩
  mem := rfl
  tenants := rfl

theorem NoNewSlot.abortTransfer (d : Device) (t : Transfer) : NoNewSlot d (d.abortTransfer t) := by
  have hdrop : NoNewSlot d ((d.dropTransfer t.tenant t.source t.tag).bump (key 0x5020 5) 1) :=
    .of_subset (fun _ => id) rfl rfl
  unfold Device.abortTransfer
  dsimp only
  split
  · exact .of_subset (fun _ => id) rfl rfl
  · split
    · exact hdrop
    next x hx => exact hdrop.trans (.putSlot hx rfl)

theorem NoNewSlot.dropSlotTransfers (d : Device) (t : Nat) (src : Coord) : NoNewSlot d (d.dropSlotTransfers t src) :=
  .foldl NoNewSlot.abortTransfer _ d

theorem NoNewSlot.dropSlot (d : Device) (i : Nat) (x : KeySlot) : NoNewSlot d (d.dropSlot i x) :=
  (NoNewSlot.dropSlotTransfers d x.tenant x.source).trans (.of_subset (fun _ hk => Tbl.del_subset _ hk) rfl rfl)

/-- A removed slot does not stand any more. -/
theorem Device.dropSlot_slots (d : Device) (i : Nat) (x : KeySlot) : ∀ k ∈ (d.dropSlot i x).dict.keys, k.1 ≠ i :=
  fun _ hk => Tbl.ne_of_mem_del hk

/-- Of several removed slots none stands any more. -/
theorem Device.dropSlots_slots (l : List (Nat × KeySlot)) (d : Device) :
    ∀ k ∈ (l.foldl (fun d e => d.dropSlot e.1 e.2) d).dict.keys, k.1 ∉ l.map Prod.fst := by
  induction l generalizing d with
  | nil => exact fun _ _ => List.not_mem_nil
  | cons a l ih =>
    intro k hk
    obtain ⟨k', hk', hix, -⟩ := (NoNewSlot.foldl (fun d e => NoNewSlot.dropSlot d e.1 e.2) l (d.dropSlot a.1 a.2)).slots k hk
    have hhead : k.1 ≠ a.1 := hix ▸ Device.dropSlot_slots d a.1 a.2 k' hk'
    simpa [hhead] using ih (d.dropSlot a.1 a.2) k hk

/-! ### The reset of a tenant (R336) -/

/-- The key slots of a tenant, with their numbers. -/
def Device.tenantSlots (d : Device) (t : Nat) : List (Nat × KeySlot) :=
  d.dict.keys.filter (fun e => decide (e.2.tenant = t))

/-- The reset removes the tenant's slots one after the other. -/
theorem Device.resetTenant_keys (d : Device) (t : Nat) :
    (d.resetTenant t).dict.keys = ((d.tenantSlots t).foldl (fun (d : Device) e => d.dropSlot e.1 e.2) d).dict.keys := rfl

theorem NoNewSlot.dropTenantSlots (d : Device) (t : Nat) :
    NoNewSlot d ((d.tenantSlots t).foldl (fun (d : Device) e => d.dropSlot e.1 e.2) d) :=
  .foldl (fun d (e : Nat × KeySlot) => NoNewSlot.dropSlot d e.1 e.2) _ d

/-- No key slot of the tenant is left. -/
theorem Device.resetTenant_slots (d : Device) (t : Nat) : ∀ k ∈ (d.resetTenant t).dict.keys, k.2.tenant ≠ t := by
  intro k hk hten
  rw [Device.resetTenant_keys] at hk
  obtain ⟨k', hk', hix, hten'⟩ := (NoNewSlot.dropTenantSlots d t).slots k hk
  have hmine : k' ∈ d.tenantSlots t := List.mem_filter.mpr ⟨hk', by simp [hten', hten]⟩
  exact Device.dropSlots_slots _ d k hk (hix ▸ List.mem_map_of_mem hmine)

theorem Device.resetTenant_subs (d : Device) (t : Nat) : ∀ k ∈ (d.resetTenant t).dict.subs, k.2.2 ≠ t :=
  fun _ hk => of_decide_eq_true (List.mem_filter.mp hk).2

theorem Device.resetTenant_tenants (d : Device) (t : Nat) : (d.resetTenant t).dict.tenants = d.dict.tenants :=
  (NoNewSlot.dropTenantSlots d t).tenants

theorem Device.resetTenant_m (d : Device) (t : Nat) : (d.resetTenant t).mem.m = d.mem.m :=
  (congrArg MemS.m (NoNewSlot.dropTenantSlots d t).mem :)

/-! ### Installed keys (R338) -/

/-- An installed key stands in its slot with its counter and an empty window. -/
theorem Device.setKey_slot (d : Device) (i t c : Nat) (src : Coord) (k : List Byte) :
    Tbl.find? (d.setKey i t src k c).dict.keys i = some ⟨t, src, k, c, []⟩ :=
  Tbl.find?_put_same _ _ _

/-- A removed slot's number is free. -/
theorem Device.dropSlot_free (d : Device) (i : Nat) (x : KeySlot) : Tbl.find? (d.dropSlot i x).dict.keys i = none :=
  Tbl.find?_del_same _ _

/-! ### Translation tables (R312, R161) -/

/-- A new Reserve handle leaves the dictionary alone. -/
theorem Device.allocReserve_dict {d : Device} {k n : Nat} {x : Nat × Device} (h : d.allocReserve k n = some x) :
    x.2.dict = d.dict := by
  unfold Device.allocReserve Device.alloc at h
  dsimp only at h
  split at h
  next y hy =>
    cases h
    split at hy
    · cases hy
    · split at hy
      · cases hy
        rfl
      · cases hy
  next => cases h

theorem Device.allocTable_dict {d : Device} {c : Nat} {x : Nat × Device} (h : d.allocTable c = some x) :
    x.2.dict = d.dict := by
  unfold Device.allocTable at h
  split at h
  · cases h
  · exact Device.allocReserve_dict h

end Sys2Proof.Machine
end

section
/-!
SUPPORT. What the rules of tenants, contexts, keys, bindings and hand-sets answer, one equation per outcome (R312, R314, R317,
R336–R339, R343).
-/
namespace Sys2Proof.Machine

variable {d : Device} {r : Req}

/-! ### Tenants (R336) -/

theorem runDefine_spec (d : Device) (r : Req) (x : Nat) :
    ∃ u, runDefine d r x = done u ∧ ∀ t, u.tenantDefined t = (decide (t = x) || d.tenantDefined t) := by
  refine ⟨_, rfl, fun t => ?_⟩
  by_cases hin : d.dict.tenants.contains x = true
  · rw [if_pos hin]
    by_cases ht : t = x
    · subst ht
      simp [Device.tenantDefined, List.contains_iff_mem.mp hin]
    · simp [ht]
  · rw [if_neg hin, Bool.eq_iff_iff]
    simp only [Device.tenantDefined, List.contains_iff_mem, Bool.or_eq_true, decide_eq_true_eq, List.mem_append,
      List.mem_singleton]
    rw [← or_assoc, or_comm]

theorem runUndefine_undefined {x : Nat} (h : d.tenantDefined x = false) : runUndefine d r x = refuse d dInvalid := by
  simp [runUndefine, h]

theorem runUndefine_busy {x : Nat} (h : d.tenantDefined x = true) (hb : d.tenantBusy x = true) :
    runUndefine d r x = refuse d dBusy := by
  simp [runUndefine, h, hb]

/-- The block with a tenant undefined: what it held is back at its defaults, and it is not listed. -/
def Device.withoutTenant (d : Device) (t : Nat) : Device :=
  let e := d.resetTenant t
  { e with dict := { e.dict with tenants := e.dict.tenants.filter (fun y => decide (y ≠ t)) } }

theorem Device.withoutTenant_defined (d : Device) (x t : Nat) :
    (d.withoutTenant x).tenantDefined t = (decide (t = 0 ∨ t ≠ x) && d.tenantDefined t) := by
  rw [Bool.eq_iff_iff]
  simp only [Device.tenantDefined, Device.withoutTenant, Device.resetTenant_tenants, List.contains_iff_mem,
    Bool.or_eq_true, Bool.and_eq_true, decide_eq_true_eq, List.mem_filter]
  rw [or_and_left, and_comm]

theorem runUndefine_free {x : Nat} (h : d.tenantDefined x = true) (hb : d.tenantBusy x = false) :
    runUndefine d r x = done (d.withoutTenant x) := by
  simp [runUndefine, h, hb, Device.withoutTenant]

/-! ### Contexts (R312, R337) -/

theorem runCreateContext_undefined {x : Nat} (h : d.tenantDefined x = false) :
    runCreateContext d r x = refuse d dInvalid := by
  simp [runCreateContext, h]

theorem runCreateContext_quota {x : Nat} (h : d.tenantDefined x = true) (hq : (d.limits x).contexts ≤ d.contextUse x) :
    runCreateContext d r x = refuse d dQuota := by
  simp [runCreateContext, h, hq]

section Room
variable {x : Nat} (h : d.tenantDefined x = true) (hq : d.contextUse x < (d.limits x).contexts)
include h hq

theorem runCreateContext_full (hc : lowestFree (Tbl.keys d.dict.contexts) 2048 0 = none) :
    runCreateContext d r x = refuse d dSpace := by
  simp [runCreateContext, h, Nat.not_le.mpr hq, hc]

theorem runCreateContext_noTable {c : Nat} (hc : lowestFree (Tbl.keys d.dict.contexts) 2048 0 = some c)
    (ht : d.allocTable c = none) : runCreateContext d r x = refuse d dSpace := by
  simp [runCreateContext, h, Nat.not_le.mpr hq, hc, ht]

/-- The lowest free context is taken with the new table; every other one stays. -/
theorem runCreateContext_made {c : Nat} (hc : lowestFree (Tbl.keys d.dict.contexts) 2048 0 = some c)
    {t : Nat × Device} (ht : d.allocTable c = some t) :
    ∃ u, runCreateContext d r x = ⟨dOk, leBytes 2 c, u⟩ ∧ Tbl.find? u.dict.contexts c = some (x, t.1) ∧
      ∀ c', c' ≠ c → Tbl.find? u.dict.contexts c' = Tbl.find? d.dict.contexts c' := by
  refine ⟨_, by simp only [runCreateContext, h, ge_iff_le, Nat.not_le.mpr hq, hc, ht, Bool.true_eq_false, if_false]; rfl,
    Tbl.find?_put_same _ _ _, fun c' hne => ?_⟩
  rw [← Device.allocTable_dict ht]
  exact Tbl.find?_put_other _ _ hne

end Room

theorem runReleaseContext_none {x : Nat} (h : Tbl.find? d.dict.contexts x = none) :
    runReleaseContext d r x = refuse d dInvalid := by
  simp [runReleaseContext, h]

/-- A context is in use: a live request names it, or its table holds a binding. -/
def Device.contextBusy (d : Device) (x table : Nat) : Bool :=
  List.any d.serv.reqs (fun (q : Nat × ReqEnt) => q.2.live && decide (q.2.context = x)) || d.contextBound table

theorem runReleaseContext_busy {x : Nat} {c : Nat × Nat} (h : Tbl.find? d.dict.contexts x = some c)
    (hb : d.contextBusy x c.2 = true) : runReleaseContext d r x = refuse d dBusy := by
  simp only [runReleaseContext, h]
  exact if_pos hb

/-- The block with a context released: its table's handle turns Releasing. -/
def Device.withoutContext (d : Device) (x table : Nat) : Device :=
  let e := d.startRelease table
  { e with dict := { e.dict with contexts := Tbl.del e.dict.contexts x } }

theorem Device.withoutContext_free (d : Device) (x table : Nat) :
    Tbl.find? (d.withoutContext x table).dict.contexts x = none :=
  Tbl.find?_del_same _ _

theorem runReleaseContext_free {x : Nat} {c : Nat × Nat} (h : Tbl.find? d.dict.contexts x = some c)
    (hb : d.contextBusy x c.2 = false) : runReleaseContext d r x = done (d.withoutContext x c.2) := by
  simp only [runReleaseContext, h]
  exact if_neg (Bool.not_eq_true _ ▸ hb)

/-! ### Keys (R338, R339) -/

section Install
variable {v : List Byte}

theorem runKeyInstall_undefined (h : d.tenantDefined (bits (wordAt v 0) 8 0) = false) :
    runKeyInstall d r v = refuse d dInvalid := by
  simp [runKeyInstall, h]

variable (h : d.tenantDefined (bits (wordAt v 0) 8 0) = true)
include h

/-- A slot of the tenant and source is replaced. -/
theorem runKeyInstall_replaced {k : Nat × KeySlot}
    (hk : d.keySlot? (bits (wordAt v 0) 8 0) (BitVec.ofNat 18 (wordAt v 1)) = some k) :
    runKeyInstall d r v =
      done (d.setKey k.1 (bits (wordAt v 0) 8 0) (BitVec.ofNat 18 (wordAt v 1)) (bytesAt v 16 32) (leAt v 8 8)) := by
  simp [runKeyInstall, h, hk]

variable (hk : d.keySlot? (bits (wordAt v 0) 8 0) (BitVec.ofNat 18 (wordAt v 1)) = none)
include hk

theorem runKeyInstall_quota (hq : 16 ≤ d.slotUse (bits (wordAt v 0) 8 0)) : runKeyInstall d r v = refuse d dQuota := by
  simp [runKeyInstall, h, hk, hq]

theorem runKeyInstall_new (hq : d.slotUse (bits (wordAt v 0) 8 0) < 16) {i : Nat}
    (hi : lowestFree (Tbl.keys d.dict.keys) 1024 0 = some i) :
    runKeyInstall d r v =
      done (d.setKey i (bits (wordAt v 0) 8 0) (BitVec.ofNat 18 (wordAt v 1)) (bytesAt v 16 32) (leAt v 8 8)) := by
  simp [runKeyInstall, h, hk, Nat.not_le.mpr hq, hi]

theorem runKeyInstall_full (hq : d.slotUse (bits (wordAt v 0) 8 0) < 16)
    (hi : lowestFree (Tbl.keys d.dict.keys) 1024 0 = none) : runKeyInstall d r v = refuse d dSpace := by
  simp [runKeyInstall, h, hk, Nat.not_le.mpr hq, hi]

end Install

section Remove
variable {v : List Byte}

/-- The key of tenant 0 over the sideband is never removed. -/
theorem runKeyRemove_denied (ht : bits (wordAt v 0) 8 0 = 0)
    (hsrc : (BitVec.ofNat 18 (wordAt v 1) : Coord) = 0x3FFFF#18) : runKeyRemove d r v = refuse d dDenied :=
  if_pos ⟨ht, hsrc⟩

variable (h : ¬ (bits (wordAt v 0) 8 0 = 0 ∧ (BitVec.ofNat 18 (wordAt v 1) : Coord) = 0x3FFFF#18))
include h

theorem runKeyRemove_none (hk : d.keySlot? (bits (wordAt v 0) 8 0) (BitVec.ofNat 18 (wordAt v 1)) = none) :
    runKeyRemove d r v = refuse d dInvalid := by
  simp [runKeyRemove, sideSource, h, hk]

theorem runKeyRemove_slot {k : Nat × KeySlot}
    (hk : d.keySlot? (bits (wordAt v 0) 8 0) (BitVec.ofNat 18 (wordAt v 1)) = some k) :
    runKeyRemove d r v = done (d.dropSlot k.1 k.2) := by
  simp [runKeyRemove, sideSource, h, hk]

end Remove

/-! ### The key claim (R339) -/

theorem runKeyClaim_taken {v : List Byte} {k : Nat × KeySlot} (hk : d.keySlot? 0 0x3FFFF#18 = some k) :
    runKeyClaim d r v = refuse d dBusy := by
  simp [runKeyClaim, sideSource, hk]

theorem runKeyClaim_empty {v : List Byte} (hk : d.keySlot? 0 0x3FFFF#18 = none) {i : Nat}
    (hi : lowestFree (Tbl.keys d.dict.keys) 1024 0 = some i) :
    runKeyClaim d r v = done (d.setKey i 0 0x3FFFF#18 v 0) := by
  simp [runKeyClaim, sideSource, hk, hi]

/-- The row of the key claim (Tab. 20.2): 32 B, write-only without a counter. -/
def claimRow : ObjRow := ⟨0x501300, 9, 3, 32, 0, 0, 0, false⟩

theorem objAt?_claim : objAt? 0x5013 0 = some claimRow := by decide +kernel

section Claim
variable (hside : r.carrier = .sideband) (hkey : r.keyed = false) (hfault : reqFault r = none)
include hside hkey hfault

/-- An unkeyed WRITE of the key claim over the sideband asks only for a defined tenant before step 5. -/
theorem write_claim : d.write 0x5013 0 ruleKeyClaim r =
    if d.tenantDefined r.tenant.toNat then d.writeOpen r 0x5013 0 claimRow ruleKeyClaim
    else d.respond r 2 0x5013 0 dInvalid false 0 [] := by
  have hten : reqTenantOk r = true := by simp [reqTenantOk, reqSide, hside]
  simp [Device.write, hten, hfault, objAt?_claim, claimRow, hkey, reqSide, hside, ruleKeyClaim, WriteRule.plain]

/-- A claim of 32 B in one segment is executed at once and answered without a key. -/
theorem write_claim_whole (hten : d.tenantDefined r.tenant.toNat = true) (hopen : d.transfer? r = none)
    (hoff : r.offset = 0#32) (htot : r.total = 32#32) (hlen : r.payload.length = 32) {st : Nat} {p : List Byte} {u : Device}
    (ha : runKeyClaim d r r.payload = ⟨st, p, u⟩) (hst : st ≠ dPending := by decide) :
    d.write 0x5013 0 ruleKeyClaim r = u.finishWrite none r 0x5013 0 false st p := by
  have hrun : ruleKeyClaim.run d r r.payload = ⟨st, p, u⟩ := (sized_run hlen).trans ha
  rw [write_claim hside hkey hfault, if_pos hten]
  simp [Device.writeOpen, Device.beginWrite, Device.execute, hopen, hoff, htot, hlen, claimRow, hrun, hst,
    Device.answerKey, hkey]

end Claim

/-! ### The acknowledged sequence (R343) -/

/-- A record of the log is unacknowledged where its number lies ahead of the acknowledged one by less than half the range. -/
theorem runAck_spec (d : Device) (r : Req) (x : Nat) :
    ∃ u, runAck d r x = done u ∧ u.dict.ack = some x ∧
      (u.alertLow = true ↔ ∃ l ∈ d.dict.log, 1 ≤ (l.1 + 2 ^ 32 - x) % 2 ^ 32 ∧ (l.1 + 2 ^ 32 - x) % 2 ^ 32 < 2 ^ 31) := by
  refine ⟨_, rfl, rfl, ?_⟩
  simp only [Device.alertLow, unacked, List.any_eq_true, decide_eq_true_eq]
  refine exists_congr fun l => and_congr_right fun _ => and_congr_right fun _ => ?_
  omega

/-! ### Bindings (R314) -/

theorem runBind_both {v : List Byte} (ha : bit (wordAt v 0) 23 = true) (hn : bit (wordAt v 0) 24 = true) :
    runBind d r v = refuse d dInvalid := by
  simp [runBind, ha, hn]

section Bind
variable {v : List Byte}

section One
variable (hone : ¬ (bit (wordAt v 0) 23 = true ∧ bit (wordAt v 0) 24 = true))
include hone

theorem runBind_noContext (h : Tbl.find? d.dict.contexts (bits (wordAt v 0) 10 0) = none) :
    runBind d r v = refuse d dInvalid := by
  simp [runBind, hone, h]

/-- The virtual ID is bound already. -/
theorem runBind_bound {c : Nat × Nat} (h : Tbl.find? d.dict.contexts (bits (wordAt v 0) 10 0) = some c)
    (ht : (d.translate (bits (wordAt v 0) 10 0) (bits (wordAt v 0) 22 11)).1 ≠ none) :
    runBind d r v = refuse (d.translate (bits (wordAt v 0) 10 0) (bits (wordAt v 0) 22 11)).2 dBusy := by
  simp [runBind, hone, h, Option.isSome_iff_ne_none.mpr ht]

end One

variable {ctx vid : Nat} (hctx : bits (wordAt v 0) 10 0 = ctx) (hvid : bits (wordAt v 0) 22 11 = vid)
  {c : Nat × Nat} (h : Tbl.find? d.dict.contexts ctx = some c)
  {f : Device} (hf : (d.translate ctx vid).2 = f) (ht : (d.translate ctx vid).1 = none)
include hctx hvid h hf ht

section New
variable (ha : bit (wordAt v 0) 23 = false) (hn : bit (wordAt v 0) 24 = true)
include ha hn

theorem runBind_quota (hq : (f.limits c.1).sync ≤ f.objUse c.1) : runBind d r v = refuse f dQuota := by
  simp [runBind, hctx, hvid, h, hf, ht, ha, hn, hq]

/-- A new object takes the lowest free number, with this binding as its home. -/
theorem runBind_new (hq : f.objUse c.1 < (f.limits c.1).sync) {n : Nat}
    (hi : lowestFree (Tbl.keys f.sync.objs) 16384 0 = some n) :
    runBind d r v = ⟨dOk, leBytes 2 n, (f.putObj n { SyncObj.zero with
      value := BitVec.ofNat 32 (wordAt v 3), tenant := c.1, context := ctx, vid := vid }).setEntry ctx vid
        (transWord false n)⟩ := by
  simp [runBind, hctx, hvid, h, hf, ht, ha, hn, Nat.not_le.mpr hq, hi]

end New

variable (hn : bit (wordAt v 0) 24 = false)
include hn

/-- The binding of another device's object takes the lowest free number. -/
theorem runBind_alias (ha : bit (wordAt v 0) 23 = true) {a : Nat}
    (hi : lowestFree (Tbl.keys f.sync.aliases) 4096 0 = some a) :
    runBind d r v = ⟨dOk, leBytes 2 a, (f.setSync { f.sync with
      aliases := Tbl.put f.sync.aliases a ((BitVec.ofNat 18 (wordAt v 1) : Coord), bits (wordAt v 2) 13 0) }).setEntry
        ctx vid (transWord true a)⟩ := by
  simp [runBind, hctx, hvid, h, hf, ht, ha, hn, hi]

variable (ha : bit (wordAt v 0) 23 = false)
include ha

theorem runBind_object {y : SyncObj} (hy : Tbl.find? f.sync.objs (bits (wordAt v 2) 13 0) = some y)
    (hten : y.tenant = c.1) :
    runBind d r v = ⟨dOk, leBytes 2 (bits (wordAt v 2) 13 0),
      f.setEntry ctx vid (transWord false (bits (wordAt v 2) 13 0))⟩ := by
  simp [runBind, hctx, hvid, h, hf, ht, ha, hn, hy, hten]

theorem runBind_denied (hy : ∀ y, Tbl.find? f.sync.objs (bits (wordAt v 2) 13 0) = some y → y.tenant ≠ c.1) :
    runBind d r v = refuse f dDenied := by
  cases hobj : Tbl.find? f.sync.objs (bits (wordAt v 2) 13 0) with
  | none => simp [runBind, hctx, hvid, h, hf, ht, ha, hn, hobj]
  | some y => simp [runBind, hctx, hvid, h, hf, ht, ha, hn, hobj, hy y hobj]

end Bind

/-! ### Unbindings (R314) -/

theorem runUnbind_noContext {x : Nat} (h : Tbl.find? d.dict.contexts (bits x 22 12) = none) :
    runUnbind d r x = refuse d dInvalid := by
  simp [runUnbind, h]

section Unbind
variable {x ctx vid : Nat} (hctx : bits x 22 12 = ctx) (hvid : bits x 11 0 = vid)
  {c : Nat × Nat} (h : Tbl.find? d.dict.contexts ctx = some c)
  {f : Device} (hf : (d.readH c.2 (4 * vid) 1).2 = f)
  {word : RWord} (hword : (d.readH c.2 (4 * vid) 1).1.headD ⟨0#32, true⟩ = word)
include hctx hvid h hf hword

theorem runUnbind_unbound (ht : f.targetOf word = none) : runUnbind d r x = refuse f dInvalid := by
  simp only [runUnbind, hctx, hvid, h, hf, hword, ht]

theorem runUnbind_alias {dev : Coord} {n : Nat} (ht : f.targetOf word = some (.there dev n)) :
    runUnbind d r x = done ((f.setSync { f.sync with
      aliases := Tbl.del f.sync.aliases (word.w.toNat % 16384) }).setEntry ctx vid 0#32) := by
  simp only [runUnbind, hctx, hvid, h, hf, hword, ht]

variable {n : Nat} (ht : f.targetOf word = some (.here n))
include ht

theorem runUnbind_waited (hwait : ∃ y ∈ f.sync.waiters, y.obj = n) : runUnbind d r x = refuse f dBusy := by
  have hany : f.sync.waiters.any (fun y => decide (y.obj = n)) = true := by simpa using hwait
  simp only [runUnbind, hctx, hvid, h, hf, hword, ht, hany, if_true]

/-- Without a waiter the entry is cleared; the home binding frees its object with it. -/
theorem runUnbind_object (hwait : ∀ y ∈ f.sync.waiters, y.obj ≠ n) {y : SyncObj} (hy : Tbl.find? f.sync.objs n = some y) :
    runUnbind d r x = done ((if y.context = ctx ∧ y.vid = vid then f.setSync { f.sync with objs := Tbl.del f.sync.objs n }
      else f).setEntry ctx vid 0#32) := by
  have hany : f.sync.waiters.any (fun y => decide (y.obj = n)) = false := by simpa using hwait
  simp only [runUnbind, hctx, hvid, h, hf, hword, ht, hany, Bool.false_eq_true, if_false, hy]

end Unbind

/-! ### Hand-sets (R317) -/

theorem runHandSet_none {v : List Byte} (h : Tbl.find? d.sync.objs (bits (wordAt v 0) 13 0) = none) :
    runHandSet d r v = refuse d dInvalid := by
  simp [runHandSet, h]

section HandSet
variable {v : List Byte} {y : SyncObj} (h : Tbl.find? d.sync.objs (bits (wordAt v 0) 13 0) = some y)
include h

theorem runHandSet_lost (hlost : y.lost = true) : runHandSet d r v = refuse d dInvalid := by
  simp [runHandSet, h, hlost]

theorem runHandSet_set (hlost : y.lost = false) :
    runHandSet d r v = done (((d.handSet (bits (wordAt v 0) 13 0) (bit (wordAt v 0) 16) (bit (wordAt v 0) 17)
      (BitVec.ofNat 32 (wordAt v 1))).err { cls := 7, tenant := y.tenant, loc := bits (wordAt v 0) 13 0 } 0x10
        (if bit (wordAt v 0) 16 then 0 else 1)).bump (key 0xB030 4) 1) := by
  simp [runHandSet, h, hlost]

end HandSet

theorem Device.handSet_neither {n : Nat} {y : SyncObj} (h : Tbl.find? d.sync.objs n = some y) (a : Word) :
    d.handSet n false false a = d := by
  simp [Device.handSet, h]

/-- A release alone releases the open generation. -/
theorem Device.handSet_release {n : Nat} {y : SyncObj} (h : Tbl.find? d.sync.objs n = some y) (hb : y.barrier ≠ 0) (a : Word) :
    d.handSet n false true a = d.releaseGen n y := by
  simp [Device.handSet, h, hb]

end Sys2Proof.Machine
end

section
/-!
SUPPORT. The statement on tenants, contexts, keys, bindings and hand-sets, from the equations of their rules.
-/
namespace Sys2Proof.Machine

/-- Settles O54: each write that passes is answered with what its rule makes of the block, outcome by outcome. -/
theorem tenancy : Obligations.Tenancy := by
  unfold Obligations.Tenancy
  intro r s o v w x
  refine ⟨?define, ?undefine, ?createContext, ?releaseContext, ?keyInstall, ?setKey, ?keyRemove, ?keyClaim, ?ack, ?bind,
    ?unbind, ?handSet⟩
  case define =>
    intro hw hf e
    obtain ⟨u, hrun, hdef⟩ := runDefine_spec e r x
    exact ⟨u, valued_wrote hw hf rfl (by decide +kernel) rfl hrun, hdef⟩
  case undefine =>
    intro hw hf e
    have say := valued_wrote (c := .undefineTenant r) hw hf rfl (by decide +kernel) rfl
    exact ⟨fun h => say (runUndefine_undefined h), fun h hb => say (runUndefine_busy h hb),
      fun h hb => ⟨_, say (runUndefine_free h hb), e.withoutTenant_defined x, e.resetTenant_slots x, e.resetTenant_subs x,
        e.resetTenant_m x⟩⟩
  case createContext =>
    intro hw hf e answer
    have say := valued_wrote (c := .createContext r) hw hf rfl (by decide +kernel) rfl
    refine ⟨fun h => say (runCreateContext_undefined h), fun h hq => say (runCreateContext_quota h hq),
      fun h hq => ⟨fun c hc => ⟨fun ht => say (runCreateContext_noTable h hq hc ht), fun t ht => ?_⟩,
        fun hc => say (runCreateContext_full h hq hc)⟩⟩
    obtain ⟨u, hrun, hnew, hold⟩ := runCreateContext_made (r := r) h hq hc ht
    exact ⟨u, say hrun, hnew, hold, Tbl.find?_lowestFree hc⟩
  case releaseContext =>
    intro hw hf e
    have say := valued_wrote (c := .releaseContext r) hw hf rfl (by decide +kernel) rfl
    exact ⟨fun h => say (runReleaseContext_none h), fun c h => ⟨fun hb => say (runReleaseContext_busy h hb),
      fun hb => ⟨_, say (runReleaseContext_free h hb), e.withoutContext_free x c.2, rfl⟩⟩⟩
  case keyInstall =>
    intro hw hn e answer t src put
    have say := sized_wrote (c := .keyInstall r) hw hn rfl rfl
    exact ⟨fun h => say (runKeyInstall_undefined h), fun h => ⟨fun k hk => say (runKeyInstall_replaced h hk),
      fun hk hq => say (runKeyInstall_quota h hk hq), fun hk hq => ⟨fun i hi => say (runKeyInstall_new h hk hq hi),
        fun hi => say (runKeyInstall_full h hk hq hi)⟩⟩⟩
  case setKey => exact fun e i t c src k _ => e.setKey_slot i t c src k
  case keyRemove =>
    intro hw hn e t src
    have say := sized_wrote (c := .keyRemove r) hw hn rfl rfl
    exact ⟨fun ht hsrc => say (runKeyRemove_denied ht hsrc), fun h => ⟨fun hk => say (runKeyRemove_none h hk),
      fun k hk => ⟨_, say (runKeyRemove_slot h hk), e.dropSlot_free k.1 k.2⟩⟩⟩
  case keyClaim =>
    intro halive hside hkey hfault hopen hoff htot hlen d known
    rw [lift_goes (o := exec (.keyClaim r) s) (f := fun d => d.write 0x5013 0 ruleKeyClaim r) halive rfl]
    refine ⟨fun hten => congrArg s.goes ?_, fun hten k hk => congrArg s.goes ?_, fun hten hk i hi => congrArg s.goes ?_⟩
    · exact (write_claim hside hkey hfault).trans (if_neg (Bool.not_eq_true _ ▸ hten))
    · exact write_claim_whole hside hkey hfault hten hopen hoff htot hlen (runKeyClaim_taken hk)
    · exact write_claim_whole hside hkey hfault hten hopen hoff htot hlen (runKeyClaim_empty hk hi)
  case ack =>
    intro hw hf e
    obtain ⟨u, hrun, hack, halert⟩ := runAck_spec e r x
    exact ⟨u, valued_wrote hw hf rfl (by decide +kernel) rfl hrun, hack, halert⟩
  case bind =>
    intro hw hn e answer ctx vid
    have say := sized_wrote (c := .bind r) hw hn rfl rfl
    refine ⟨fun ha hnew => say (runBind_both ha hnew), fun hone => ⟨fun h => say (runBind_noContext hone h),
      fun c h => ⟨fun ht => say (runBind_bound hone h ht), fun ht => ⟨?quota, ?new, ?remote, ?object⟩⟩⟩⟩
    case quota =>
      intro hnew hq
      have ha : bit (w 0) 23 = false := by simpa [hnew] using hone
      exact say (runBind_quota rfl rfl h rfl ht ha hnew hq)
    case new =>
      intro hnew hq n hi
      have ha : bit (w 0) 23 = false := by simpa [hnew] using hone
      exact say (runBind_new rfl rfl h rfl ht ha hnew hq hi)
    case remote =>
      intro ha a hi
      have hnew : bit (w 0) 24 = false := by simpa [ha] using hone
      exact say (runBind_alias rfl rfl h rfl ht hnew ha hi)
    case object =>
      intro ha hnew n
      exact ⟨fun y hy hten => say (runBind_object rfl rfl h rfl ht hnew ha hy hten),
        fun hy => say (runBind_denied rfl rfl h rfl ht hnew ha hy)⟩
  case unbind =>
    intro hw hf e answer vid ctx
    have say := valued_wrote (c := .unbind r) hw hf rfl (by decide +kernel) rfl
    refine ⟨fun h => say (runUnbind_noContext h), fun c h => ⟨fun ht => say (runUnbind_unbound rfl rfl h rfl rfl ht),
      fun dev n ht => say (runUnbind_alias rfl rfl h rfl rfl ht), fun n ht =>
        ⟨fun hwait => say (runUnbind_waited rfl rfl h rfl rfl ht hwait), fun hwait y hy => ⟨fun hhome => ?_, fun hhome => ?_⟩⟩⟩⟩
    · exact say ((runUnbind_object rfl rfl h rfl rfl ht hwait hy).trans (by rw [if_pos hhome]; rfl))
    · exact say ((runUnbind_object rfl rfl h rfl rfl ht hwait hy).trans (by rw [if_neg hhome]; rfl))
  case handSet =>
    intro hw hn e n
    have say := sized_wrote (c := .handSet r) hw hn rfl rfl
    refine ⟨?refused, fun y hy hlost => ⟨say (runHandSet_set hy hlost), fun hset hrel => ?neither, fun hset hrel hb => ?release⟩⟩
    case refused =>
      rintro (h | ⟨y, hy, hlost⟩)
      · exact say (runHandSet_none h)
      · exact say (runHandSet_lost hy hlost)
    case neither =>
      rw [hset, hrel]
      exact Device.handSet_neither hy _
    case release =>
      rw [hset, hrel]
      exact Device.handSet_release hy hb _

end Sys2Proof.Machine
end

section
/-!
SUPPORT. What sparse tables hold after writes of several keys, after entries are left out, and after every entry is mapped.
-/
namespace Sys2Proof.Machine

variable {α : Type}

/-- Each of some keys, none named twice, is updated once from what it held. -/
theorem Tbl.get_foldl_update [DecidableEq α] (d : α) (g : Nat → α → α) {l : List Nat} (hl : l.Nodup) (t : Tbl α) (n : Nat) :
    Tbl.get d (l.foldl (fun t i => Tbl.set d t i (g i (Tbl.get d t i))) t) n =
      if n ∈ l then g n (Tbl.get d t n) else Tbl.get d t n := by
  induction l generalizing t with
  | nil => simp
  | cons a l ih =>
    obtain ⟨ha, hl⟩ := List.nodup_cons.mp hl
    rw [List.foldl_cons, ih hl]
    by_cases hn : n = a
    · subst hn
      simp [ha]
    · simp [hn, Tbl.get_set_other _ _ _ hn]

/-- A key below `n` after the keys below `n` are written in turn. -/
theorem Tbl.get_foldl_range [DecidableEq α] (d : α) (f : Nat → α) (t : Tbl α) {n i : Nat} (h : i < n) :
    Tbl.get d ((List.range n).foldl (fun t i => Tbl.set d t i (f i)) t) i = f i := by
  rw [Tbl.get_foldl_update d (fun i _ => f i) List.nodup_range, if_pos (List.mem_range.mpr h)]

/-- A key that none of the writes names keeps what it held. -/
theorem Tbl.get_foldl_setIf_other [DecidableEq α] (d : α) (p : Nat → Prop) [DecidablePred p] (k : Nat → Nat) (v : Nat → α)
    (l : List Nat) (t : Tbl α) {n : Nat} (h : ∀ a ∈ l, p a → k a ≠ n) :
    Tbl.get d (l.foldl (fun t a => if p a then Tbl.set d t (k a) (v a) else t) t) n = Tbl.get d t n := by
  induction l generalizing t with
  | nil => rfl
  | cons a l ih =>
    rw [List.foldl_cons, ih _ (fun b hb => h b (List.mem_cons_of_mem a hb))]
    split
    · next hp => exact Tbl.get_set_other _ _ _ (h a List.mem_cons_self hp).symm
    · rfl

/-- A key that a write names holds the value written, where no other write names it. -/
theorem Tbl.get_foldl_setIf_same [DecidableEq α] (d : α) (p : Nat → Prop) [DecidablePred p] (k : Nat → Nat) (v : Nat → α)
    {l : List Nat} (hl : l.Nodup) (t : Tbl α) {a : Nat} (ha : a ∈ l) (hp : p a) (h : ∀ b ∈ l, p b → k b = k a → b = a) :
    Tbl.get d (l.foldl (fun t a => if p a then Tbl.set d t (k a) (v a) else t) t) (k a) = v a := by
  induction l generalizing t with
  | nil => cases ha
  | cons b l ih =>
    obtain ⟨hb, hl⟩ := List.nodup_cons.mp hl
    rw [List.foldl_cons]
    rcases List.mem_cons.mp ha with rfl | ha
    · rw [Tbl.get_foldl_setIf_other, if_pos hp, Tbl.get_set_same]
      intro c hc hpc hk
      exact hb (h c (List.mem_cons_of_mem a hc) hpc hk ▸ hc)
    · exact ih hl _ ha fun c hc => h c (List.mem_cons_of_mem b hc)

/-- What is listed once the entries of some keys are left out. -/
theorem Tbl.find?_filter (m : Tbl α) (p : Nat → Bool) (k : Nat) :
    Tbl.find? (m.filter (fun e => p e.1)) k = if p k = true then Tbl.find? m k else none := by
  induction m with
  | nil => simp [Tbl.find?]
  | cons e m ih =>
    obtain ⟨k', v⟩ := e
    by_cases hk : k' = k
    · subst hk
      by_cases hp : p k' = true
      · simp [hp, Tbl.find?]
      · simp [hp, ih]
    · by_cases hp : p k' = true <;> simp [hp, Tbl.find?, hk, ih]

/-- What is listed once every value is mapped. -/
theorem Tbl.find?_map (m : Tbl α) (f : α → α) (k : Nat) :
    Tbl.find? (m.map (fun e => (e.1, f e.2))) k = (Tbl.find? m k).map f := by
  induction m with
  | nil => rfl
  | cons e m ih =>
    obtain ⟨k', v⟩ := e
    by_cases hk : k' = k <;> simp [Tbl.find?, hk, ih]

/-- A scalar object just written. -/
theorem Device.reg_setReg_same (d : Device) (k v : Nat) : (d.setReg k v).reg k = v := by
  rw [Device.reg, ← Tbl.get_eq]
  exact Tbl.get_set_same _ _ _ _

end Sys2Proof.Machine
end

section
/-!
SUPPORT. A delivery of the telemetry (R384–R389): the corrected code, the result registers and latest codes, the wrap of the
sequence, and urgent requests.
-/
namespace Sys2Proof.Machine

/-! ### The corrected code (R388) -/

/-- Rounding to nearest even: the rest is at most half the divisor, and at half the quotient is even. -/
theorem divRoundEven_spec (n : Int) {d : Nat} (hd : 0 < d) :
    let y := divRoundEven n d
    let rest := n - y * d
    2 * rest ≤ d ∧ -(d : Int) ≤ 2 * rest ∧ (2 * rest = d ∨ 2 * rest = -(d : Int) → y % 2 = 0) := by
  have hdiv : (d : Int) * (n / d) + n % d = n := Int.mul_ediv_add_emod n d
  have hlo : 0 ≤ n % (d : Int) := Int.emod_nonneg n (by omega)
  have hhi : n % (d : Int) < d := Int.emod_lt_of_pos n (by omega)
  unfold divRoundEven
  generalize n / (d : Int) = q at *
  generalize n % (d : Int) = r at *
  rw [Int.mul_comm] at hdiv
  dsimp only
  split
  · rw [Int.add_mul, Int.one_mul]
    omega
  · omega

theorem clampInt_eq_max_min (y : Int) : clampInt 0 4095 y = max 0 (min y 4095) := by
  unfold clampInt
  split
  · omega
  · split <;> omega

/-- R388: the exact product of code and gain is rounded once, half to even, then clamped to 12 bits. -/
theorem correct_spec (corr x : Nat) :
    let o := (BitVec.ofNat 16 corr).toInt
    let g := (BitVec.ofNat 16 (corr / 65536)).toInt
    ∃ y : Int, let rest := (16 * (x : Int) + o) * (65536 + g) - y * 2 ^ 20
      rest ≤ 2 ^ 19 ∧ -(2 ^ 19) ≤ rest ∧ (rest = 2 ^ 19 ∨ rest = -(2 ^ 19) → y % 2 = 0) ∧
      correct corr x = ((max 0 (min y 4095)).toNat, decide (y < 0 ∨ 4095 < y ∨ x = 0 ∨ x = 4095)) := by
  intro o g
  have hy := divRoundEven_spec ((16 * (x : Int) + o) * (65536 + g)) (d := 2 ^ 20) (by decide)
  have hc : correct corr x = ((clampInt 0 4095 (divRoundEven ((16 * (x : Int) + o) * (65536 + g)) (2 ^ 20))).toNat,
      decide (clampInt 0 4095 (divRoundEven ((16 * (x : Int) + o) * (65536 + g)) (2 ^ 20)) ≠
        divRoundEven ((16 * (x : Int) + o) * (65536 + g)) (2 ^ 20) ∨ x = 0 ∨ x = 4095)) := rfl
  generalize divRoundEven ((16 * (x : Int) + o) * (65536 + g)) (2 ^ 20) = y at hy hc
  obtain ⟨hle, hge, htie⟩ := hy
  rw [show ((2 ^ 20 : Nat) : Int) = 2 ^ 20 from rfl] at hle hge htie
  refine ⟨y, by omega, by omega, fun h => htie (by omega), ?_⟩
  rw [hc, clampInt_eq_max_min]
  congr 2
  rw [eq_iff_iff, ← or_assoc (a := y < 0)]
  exact or_congr_left (by omega)

/-- Without a correction a code within 12 bits stays as it is. -/
theorem correct_zero {x : Nat} (hx : x ≤ 4095) : correct 0 x = (x, decide (x = 0 ∨ x = 4095)) := by
  obtain ⟨y, hle, hge, -, hc⟩ := correct_spec 0 x
  rw [show (BitVec.ofNat 16 0).toInt = 0 by decide] at hle hge
  obtain rfl : y = x := by omega
  rw [hc]
  congr 2
  · omega
  · rw [eq_iff_iff]
    omega

/-- A corrected code fits in 12 bits. -/
theorem correct_le (corr x : Nat) : (correct corr x).1 ≤ 4095 := by
  obtain ⟨y, -, -, -, hc⟩ := correct_spec corr x
  rw [hc]
  show (max 0 (min y 4095)).toNat ≤ 4095
  omega

/-- The low 12 bits of a half-word are its code. -/
theorem halfWord_mod {code : Nat} (h : code ≤ 4095) (sat : Bool) : halfWord code sat % 4096 = code := by
  cases sat <;> simp [halfWord] <;> omega

/-! ### Result registers and latest codes (R388, R389) -/

/-- The half-word that a delivery makes of converter `a`. -/
def PwrS.delivered (p : PwrS) (c : AdcCodes) (a : Nat) : Nat :=
  let ch := entChan (p.seq.getD c.entry.val 0xFFFF) a
  if ch > 13 then 0
  else
    let x := correct (Tbl.get 0 p.corr ch) (adcRaw c a)
    halfWord x.1 x.2

theorem PwrS.delivered_mod {p : PwrS} {c : AdcCodes} {a : Nat} (h : entChan (p.seq.getD c.entry.val 0xFFFF) a ≤ 13) :
    p.delivered c a % 4096 = (correct (Tbl.get 0 p.corr (entChan (p.seq.getD c.entry.val 0xFFFF) a)) (adcRaw c a)).1 := by
  unfold PwrS.delivered
  rw [if_neg (by omega)]
  exact halfWord_mod (correct_le _ _) _

theorem PwrS.deliver_latest (p : PwrS) (c : AdcCodes) :
    (p.deliver c).latest = (List.range 4).foldl (fun t a => if entChan (p.seq.getD c.entry.val 0xFFFF) a ≤ 13 then
      Tbl.set 0 t (entChan (p.seq.getD c.entry.val 0xFFFF) a) (p.delivered c a % 4096) else t) p.latest := rfl

theorem PwrS.deliver_results (p : PwrS) (c : AdcCodes) :
    (p.deliver c).results = Tbl.put p.results c.entry.val
      [p.delivered c 0 + p.delivered c 1 * 65536, p.delivered c 2 + p.delivered c 3 * 65536, c.sampled.toNat % 2 ^ 32,
        p.pass + (if c.urgent then 2 ^ 16 else 0) + (if c.late then 2 ^ 17 else 0)] := rfl

/-- A channel of an entry is wired to the converter that names it (R383). -/
theorem entOk_wired {w a : Nat} (hw : entOk w = true) (ha : a < 4) (hc : entChan w a ≤ 13) : chanAdc (entChan w a) = a := by
  have h := List.all_eq_true.mp hw a (List.mem_range.mpr ha)
  simp only [Bool.or_eq_true, Bool.and_eq_true, decide_eq_true_eq] at h
  omega

/-- The latest code of a channel that the entry names: no other converter of the entry names it. -/
theorem PwrS.deliver_latest_named {p : PwrS} {c : AdcCodes} (hw : entOk (p.seq.getD c.entry.val 0xFFFF) = true) {a : Nat}
    (ha : a < 4) (hc : entChan (p.seq.getD c.entry.val 0xFFFF) a ≤ 13) :
    Tbl.get 0 (p.deliver c).latest (entChan (p.seq.getD c.entry.val 0xFFFF) a) =
      (correct (Tbl.get 0 p.corr (entChan (p.seq.getD c.entry.val 0xFFFF) a)) (adcRaw c a)).1 := by
  rw [← PwrS.delivered_mod hc, PwrS.deliver_latest]
  refine Tbl.get_foldl_setIf_same 0 (fun a => entChan (p.seq.getD c.entry.val 0xFFFF) a ≤ 13) _ (fun a => p.delivered c a % 4096)
    List.nodup_range _ (List.mem_range.mpr ha) hc fun b hb hcb hba => ?_
  rw [← entOk_wired hw (List.mem_range.mp hb) hcb, hba, entOk_wired hw ha hc]

theorem PwrS.deliver_latest_other {p : PwrS} {c : AdcCodes} {ch : Nat}
    (h : ∀ a < 4, entChan (p.seq.getD c.entry.val 0xFFFF) a ≠ ch) :
    Tbl.get 0 (p.deliver c).latest ch = Tbl.get 0 p.latest ch := by
  rw [PwrS.deliver_latest]
  exact Tbl.get_foldl_setIf_other 0 _ _ _ _ _ fun a ha _ => h a (List.mem_range.mp ha)

/-! ### The wrap of the sequence (R385) -/

theorem PwrS.wrap_same {p : PwrS} (hs : p.seqPend = none) (hc : p.ctlPend = none) :
    p.wrap = { p with position := 0, pass := (p.pass + 1) % 65536 } := by
  simp [PwrS.wrap, hs, hc]

theorem PwrS.wrap_written {p : PwrS} (h : p.seqPend ≠ none ∨ p.ctlPend ≠ none) :
    p.wrap = { p with position := 0, pass := (p.pass + 1) % 65536, seq := p.seqNext, ctl := p.ctlNext, seqPend := none,
                      ctlPend := none, urgent := [], results := p.results.filter (fun e => decide (e.1 < ctlLen p.ctlNext)) } := by
  unfold PwrS.wrap
  exact (if_neg fun ⟨hs, hc⟩ =>
    h.elim (· (Option.isNone_iff_eq_none.mp hs)) (· (Option.isNone_iff_eq_none.mp hc))).trans rfl

theorem PwrS.wrap_spec (p : PwrS) :
    p.wrap.position = 0 ∧ p.wrap.pass = (p.pass + 1) % 65536 ∧ p.wrap.seq = p.seqNext ∧ p.wrap.ctl = p.ctlNext ∧
      p.wrap.seqPend = none ∧ p.wrap.ctlPend = none := by
  by_cases h : p.seqPend = none ∧ p.ctlPend = none
  · obtain ⟨hs, hc⟩ := h
    rw [PwrS.wrap_same hs hc]
    simp [PwrS.seqNext, PwrS.ctlNext, hs, hc]
  · rw [PwrS.wrap_written (Decidable.not_and_iff_not_or_not.mp h)]
    exact ⟨rfl, rfl, rfl, rfl, rfl, rfl⟩

/-! ### Urgent requests (R387) -/

theorem Device.urge_waiting {d : Device} {n : Nat} (h : n ∈ d.pwr.urgent) : d.urge n = (true, d) := by
  simp [Device.urge, h]

theorem Device.urge_full {d : Device} {n : Nat} (h : n ∉ d.pwr.urgent) (hl : 4 ≤ d.pwr.urgent.length) :
    d.urge n = (false, d.bump (key 0x2050 7) 1) := by
  simp [Device.urge, h, hl]

theorem Device.urge_taken {d : Device} {n : Nat} (h : n ∉ d.pwr.urgent) (hl : ¬ 4 ≤ d.pwr.urgent.length) :
    d.urge n = (true, d.setPwr { d.pwr with urgent := d.pwr.urgent ++ [n] }) := by
  simp [Device.urge, h, hl]

/-- Up to four requests wait, each once; only a fifth is refused, and it is counted. -/
theorem Device.urge_spec (e : Device) (n : Nat) :
    (e.urge n).2.pwr.urgent =
        (if n ∈ e.pwr.urgent ∨ 4 ≤ e.pwr.urgent.length then e.pwr.urgent else e.pwr.urgent ++ [n]) ∧
      (n ∉ e.pwr.urgent → 4 ≤ e.pwr.urgent.length → (e.urge n).1 = false ∧ (e.urge n).2 = e.bump (key 0x2050 7) 1) ∧
      ((e.urge n).1 = false → 4 ≤ e.pwr.urgent.length) := by
  by_cases hn : n ∈ e.pwr.urgent
  · rw [Device.urge_waiting hn]
    simp [hn]
  · by_cases hl : 4 ≤ e.pwr.urgent.length
    · rw [Device.urge_full hn hl]
      simp [hl]
    · rw [Device.urge_taken hn hl]
      simp [hn, hl, Device.setPwr]

end Sys2Proof.Machine
end

section
/-!
SUPPORT. What the readings drive: the seed of the model and the trips (R393, R398), the power check (R395), the governor (R396)
and the anchor (R394).
-/
namespace Sys2Proof.Machine

/-! ### The seed (R393) -/

/-- The seed from the four diodes, with the model's clocks set. -/
def Device.seeded (d : Device) : Device :=
  let ds := (List.range 4).map (fun f => d.diode f)
  let ns := (List.range 64).foldl (fun (t : Tbl F32) n => Tbl.set 0#32 t n (seedOf ds n)) []
  d.setPwr { d.pwr with seed := some ds, nodes := ns, seedAt := d.clk.up, updAt := d.clk.up, anchorAt := d.clk.up }

theorem Device.seedModel_waits {d : Device} (h : d.pwr.seed ≠ none ∨ ∃ f < 4, Tbl.find? d.pwr.latest (10 + f) = none) :
    d.seedModel = d := by
  unfold Device.seedModel
  rw [if_pos]
  rcases h with h | ⟨f, hf, h⟩
  · simp [Option.isSome_iff_ne_none.mpr h]
  · rw [Bool.or_eq_true, Bool.not_eq_true', List.all_eq_false]
    exact .inr ⟨f, List.mem_range.mpr hf, by simp [h]⟩

theorem Device.seedModel_ready {d : Device} (h : d.pwr.seed = none) (hd : ∀ f < 4, Tbl.find? d.pwr.latest (10 + f) ≠ none) :
    d.seedModel = d.seeded := by
  unfold Device.seedModel
  rw [if_neg]
  · rfl
  · have hall : (List.range 4).all (fun f => (Tbl.find? d.pwr.latest (10 + f)).isSome) = true :=
      List.all_eq_true.mpr fun f hf => Option.isSome_iff_ne_none.mpr (hd f (List.mem_range.mp hf))
    simp [h, hall]

theorem Device.seeded_nodes (d : Device) {n : Nat} (h : n < 64) :
    Tbl.get 0#32 d.seeded.pwr.nodes n = seedOf [d.diode 0, d.diode 1, d.diode 2, d.diode 3] n :=
  Tbl.get_foldl_range 0#32 (seedOf [d.diode 0, d.diode 1, d.diode 2, d.diode 3]) [] h

/-! ### The trip (R398) -/

theorem Device.railsOff_pwr (d : Device) (input : Nat) :
    (d.railsOff input).pwr = { d.pwr with rails := false, pgood := false, input := input } := by
  unfold Device.railsOff
  exact (Device.resetAll_spec _).2.1

theorem Device.thermTrip_latched {d : Device} (h : d.pwr.trip = true) (detail who : Nat) : d.thermTrip detail who = d := by
  simp [Device.thermTrip, h]

theorem Device.thermTrip_pwr {d : Device} (h : d.pwr.trip = false) (detail who : Nat) :
    (d.thermTrip detail who).pwr = { d.pwr with rails := false, pgood := false, input := 5, trip := true } := by
  unfold Device.thermTrip
  rw [if_neg (by simp [h])]
  dsimp only
  rw [Device.bump_pwr, (Calm.notify _ _ _ _ _ _ _ _).pwr, (Calm.err _ _ _ _).pwr]
  show { (d.railsOff 5).pwr with trip := true } = _
  rw [Device.railsOff_pwr]

/-- A diode trips only where the entry names it and it reads 125 °C or more. -/
theorem Device.tripDiodes_cool {d : Device} {w : Nat}
    (h : ∀ f < 4, entChan w f = 10 + f → f32Le 0x42FA0000#32 (d.diode f) = false) : d.tripDiodes w = d := by
  have hnone : (List.range 4).find? (fun f => decide (entChan w f = 10 + f) && f32Le 0x42FA0000#32 (d.diode f)) = none := by
    rw [List.find?_eq_none]
    intro f hf hhot
    rw [Bool.and_eq_true, decide_eq_true_eq] at hhot
    rw [h f (List.mem_range.mp hf) hhot.1] at hhot
    exact absurd hhot.2 (by simp)
  rw [Device.tripDiodes, hnone]

theorem Device.tripDiodes_hot {d : Device} {w f : Nat} (hf : f < 4) (hc : entChan w f = 10 + f)
    (hhot : f32Le 0x42FA0000#32 (d.diode f) = true) : ∃ who, d.tripDiodes w = d.thermTrip 1 who := by
  have hsome : ((List.range 4).find? (fun f => decide (entChan w f = 10 + f) && f32Le 0x42FA0000#32 (d.diode f))).isSome = true :=
    List.find?_isSome.mpr ⟨f, List.mem_range.mpr hf, by simp [hc, hhot]⟩
  obtain ⟨x, hx⟩ := Option.isSome_iff_exists.mp hsome
  exact ⟨64 + x, by rw [Device.tripDiodes, hx]⟩

theorem Device.tripDiodes_latched {d : Device} (h : d.pwr.trip = true) (w : Nat) : d.tripDiodes w = d := by
  unfold Device.tripDiodes
  split
  · exact Device.thermTrip_latched h _ _
  · rfl

/-! ### The power check (R395) -/

/-- The store of energy above the sustained limit, b_max. -/
def Device.energyMax (d : Device) : F32 :=
  f32Mul (f32Sub (BitVec.ofNat 32 (d.reg (key 0x2000 2))) (BitVec.ofNat 32 (d.reg (key 0x2000 1))))
    (f32Div (f32OfInt (d.reg (key 0x2000 3))) (f32OfInt 1000))

/-- What the store holds at a check, b. -/
def Device.energyNow (d : Device) : F32 :=
  f32MinOp d.energyMax (f32MaxOp 0#32 (f32Add d.pwr.energy (f32Mul (f32Sub d.pin (BitVec.ofNat 32 (d.reg (key 0x2000 1))))
    (f32Div (f32OfInt (match d.pwr.checkAt with | some t => d.clk.up - t | none => 0)) (f32OfInt 1000000000)))))

/-- A check finds a reason for a full pause. -/
def Device.beyondLimits (d : Device) : Bool :=
  f32Lt (BitVec.ofNat 32 (d.reg (key 0x2000 2))) d.pin || f32Lt (BitVec.ofNat 32 (d.reg (key 0x2000 4))) d.iin ||
    f32Eq d.energyNow d.energyMax

/-- A check ends a full pause, where nothing asks for one. -/
def Device.leavesFull (d : Device) : Bool :=
  d.pwr.full && f32Le d.energyNow (f32Mul d.energyMax 0x3F000000#32) && f32Le d.pin (BitVec.ofNat 32 (d.reg (key 0x2000 1)))

/-- The full pause after a check. -/
def Device.fullNext (d : Device) : Bool :=
  if (d.fullWhy d.energyNow d.energyMax).isSome then true else if d.leavesFull then false else d.pwr.full

/-- The fraction of the power check after it. -/
def Device.phiNext (d : Device) : Nat :=
  let phi0 := if (d.fullWhy d.energyNow d.energyMax).isNone && d.leavesFull then 128 else d.pwr.phiP
  if d.fullNext then 256
  else if f32Le (f32Mul 0x3F400000#32 d.energyMax) d.energyNow then min 240 (phi0 + 8)
  else if f32IsZero d.energyNow then phi0 - 2
  else phi0

/-- The power stage after a check. -/
def Device.checked (d : Device) : PwrS :=
  { d.pwr with energy := d.energyNow, full := d.fullNext, phiP := d.phiNext, checkAt := some d.clk.up }

theorem Device.fullWhy_isSome (d : Device) : (d.fullWhy d.energyNow d.energyMax).isSome = d.beyondLimits := by
  unfold Device.fullWhy Device.beyondLimits
  split
  · next h => simp [h]
  · next h =>
    split
    · next h2 => simp [h2]
    · next h2 => split <;> simp_all

theorem StageKeep.pauseAny (d : Device) (i q : Nat) : StageKeep d (d.pauseAny i q) := by
  unfold Device.pauseAny
  split
  · unfold Device.pauseAttn
    dsimp only
    split <;> exact .of_same rfl rfl
  · unfold Device.pauseCore
    dsimp only
    split
    · exact .refl d
    · exact .of_same rfl rfl

/-- The check writes the stage, records the start of a full pause, and asks the busy cores for pauses. -/
theorem Device.powerCheck_eq (d : Device) :
    d.powerCheck =
      let e := d.setPwr d.checked
      let f := if d.fullNext && !d.pwr.full then e.err { cls := 0 } 0x24 ((d.fullWhy d.energyNow d.energyMax).getD 0) else e
      if d.fullNext then
        (f.busyCores.foldl (fun d i => d.pauseAny i (2 * d.pwr.passNs * 13 / 10)) f).bump (key 0x2050 2) 1
      else f := rfl

theorem Device.powerCheck_pwr (d : Device) : d.powerCheck.pwr = d.checked := by
  rw [Device.powerCheck_eq]
  dsimp only
  have herr : ∀ n, (if d.fullNext && !d.pwr.full then (d.setPwr d.checked).err { cls := 0 } 0x24 n
      else d.setPwr d.checked).pwr = d.checked := by
    intro n
    split
    · exact (Calm.err _ _ _ _).pwr
    · rfl
  split
  · rw [Device.bump_pwr, (StageKeep.foldl (fun d i => StageKeep.pauseAny d i _) _ _).pwr, herr]
  · exact herr _

theorem Device.powerCheck_notFull {d : Device} (h : d.fullNext = false) : d.powerCheck = d.setPwr d.checked := by
  rw [Device.powerCheck_eq]
  simp [h]

theorem Device.fullNext_eq (d : Device) : d.fullNext = (d.beyondLimits || (d.pwr.full && !d.leavesFull)) := by
  rw [Device.fullNext, Device.fullWhy_isSome]
  cases d.beyondLimits <;> cases d.leavesFull <;> simp

theorem Device.phiNext_full {d : Device} (h : d.fullNext = true) : d.phiNext = 256 := by
  simp [Device.phiNext, h]

/-- Outside the full pause, and not just out of it, the fraction rises by 8 at three quarters of the store, falls by 2 at none. -/
theorem Device.phiNext_within {d : Device} (h : d.fullNext = false) (hl : d.leavesFull = false) :
    d.phiNext = if f32Le (f32Mul 0x3F400000#32 d.energyMax) d.energyNow then min 240 (d.pwr.phiP + 8)
      else if f32IsZero d.energyNow then d.pwr.phiP - 2 else d.pwr.phiP := by
  simp [Device.phiNext, h, hl]

/-! ### The governor's thermal part (R396) -/

/-- How far the hottest node of a cluster lies above the limit. -/
def Device.excess (d : Device) (k : Nat) : F32 := f32Sub (d.clusterTemp k) (BitVec.ofNat 32 (d.reg (key 0x2030 1)))

theorem Device.nextPhiT_eq (d : Device) (k : Nat) :
    d.nextPhiT k =
      if f32Lt 0#32 (d.excess k) then
        min (d.reg (key 0x2040 4)) (Tbl.get 0 d.pwr.phiT k + (f32Ceil (f32Mul (f32OfInt (d.reg (key 0x2040 2))) (d.excess k))).toNat)
      else if f32Lt (d.excess k) 0xBF800000#32 then Tbl.get 0 d.pwr.phiT k - d.reg (key 0x2040 3)
      else Tbl.get 0 d.pwr.phiT k := rfl

/-! ### The anchor (R394) -/

/-- How far a field's diode lies above the model's node beside it. -/
def Device.drift (d : Device) (k : Nat) : F32 := f32Sub (d.diode k) (Tbl.get 0#32 d.pwr.nodes (12 * k + 2))

theorem Device.anchorField_agrees {d : Device} {k : Nat}
    (h : f32Lt (BitVec.ofNat 32 (d.reg (key 0x2030 5))) (f32Abs (d.drift k)) = false) : d.anchorField k = d := by
  unfold Device.anchorField
  exact if_neg (by rw [show f32Sub _ _ = d.drift k from rfl, h]; decide)

/-- No field names a node twice. -/
theorem anchored_nodup {k : Nat} (h : k < 4) : (anchored k).Nodup := by
  revert k
  decide

/-- A field that has drifted is moved by the drift, recorded, announced and counted. -/
theorem Device.anchorField_drifts {d : Device} {k : Nat} (hk : k < 4)
    (h : f32Lt (BitVec.ofNat 32 (d.reg (key 0x2030 5))) (f32Abs (d.drift k)) = true) :
    ∃ (ns : Tbl F32) (m : Nat),
      (∀ n, Tbl.get 0#32 ns n = if n ∈ anchored k then f32Add (Tbl.get 0#32 d.pwr.nodes n) (d.drift k)
                                else Tbl.get 0#32 d.pwr.nodes n) ∧
      d.anchorField k = (((d.setPwr { d.pwr with nodes := ns }).err { cls := 0 } 0x21 k).notify 0x24 0 0x2030 6 k m).bump
        (key 0x2050 3) 1 :=
  ⟨_, _, fun n => Tbl.get_foldl_update 0#32 (fun _ v => f32Add v (d.drift k)) (anchored_nodup hk) _ n, if_pos h⟩

end Sys2Proof.Machine
end

section
/-!
SUPPORT. What the rules of the sequence, its control word, an urgent request, the revisit period and a hint answer (R385, R387,
R53, R61).
-/
namespace Sys2Proof.Machine

variable {d : Device} {r : Req} {v : List Byte}

/-! ### The sequence (R385) -/

/-- The 16 entries that a written value holds. -/
def seqEntries (v : List Byte) : List Nat := (List.range 16).map (fun i => bits (wordAt v i) 15 0)

theorem runSequence_done (hok : (seqEntries v).all entOk = true) (hc : seqCovers (seqEntries v) d.pwr.ctlNext = true) :
    runSequence d r v = done (d.setPwr { d.pwr with seqPend := some (seqEntries v) }) :=
  if_pos (by rw [Bool.and_eq_true]; exact ⟨hok, hc⟩)

theorem runSequence_refused (h : (seqEntries v).all entOk = false ∨ seqCovers (seqEntries v) d.pwr.ctlNext = false) :
    runSequence d r v = refuse d dInvalid :=
  if_neg (by rw [Bool.not_eq_true, Bool.and_eq_false_iff]; exact h)

theorem runSeqControl_done {x : Nat} (hm : bits (x % 2 ^ 12) 5 4 ≤ 1) (hs : bits (x % 2 ^ 12) 11 6 ≤ 39)
    (hc : seqCovers d.pwr.seqNext (x % 2 ^ 12) = true) :
    runSeqControl d r x = done (d.setPwr { d.pwr with ctlPend := some (x % 2 ^ 12) }) :=
  if_pos ⟨hm, hs, hc⟩

theorem runSeqControl_refused {x : Nat} (h : 1 < bits (x % 2 ^ 12) 5 4 ∨ 39 < bits (x % 2 ^ 12) 11 6 ∨
    seqCovers d.pwr.seqNext (x % 2 ^ 12) = false) : runSeqControl d r x = refuse d dInvalid := by
  refine if_neg fun ⟨hm, hs, hc⟩ => ?_
  rcases h with h | h | h
  · omega
  · omega
  · rw [hc] at h
    cases h

theorem runUrgent_eq (x : Nat) :
    runUrgent d r x = ⟨if (d.urge x).1 then 0x00 else 0x08, [], (d.urge x).2⟩ := by
  unfold runUrgent
  dsimp only
  split
  · rfl
  · rfl

/-- The object of a WRITE that is executed comes from the list of objects. -/
theorem writes_row {s : State} {i j : Nat} {rule : WriteRule} {o : ObjRow} (h : s.writes i j rule r o) :
    writeRow? i j = some o := by
  obtain ⟨-, ⟨⟨-, -, hrow, -⟩, -⟩, -⟩ := h
  exact hrow

/-! ### The revisit period (R61) -/

theorem Engine.mem_insertStale (e : Engine) (q x : Nat) (l : List Nat) : x ∈ e.insertStale q l ↔ x = q ∨ x ∈ l := by
  induction l with
  | nil => simp [Engine.insertStale]
  | cons y ys ih =>
    unfold Engine.insertStale
    split
    · simp
    · rw [List.mem_cons, ih, List.mem_cons]
      exact or_left_comm

theorem Engine.mem_addStale (e : Engine) (q x : Nat) : x ∈ (e.addStale q).stale ↔ x = q ∨ x ∈ e.stale := by
  unfold Engine.addStale
  split
  · next h =>
    rw [List.contains_iff_mem] at h
    exact ⟨.inr, fun hx => hx.elim (· ▸ h) id⟩
  · exact e.mem_insertStale q x e.stale

/-- Two engines differ in their stale groups at most. -/
def Engine.sameButStale (g h : Engine) : Prop := { h with stale := g.stale } = g

theorem Engine.sameButStale.trans {g h k : Engine} (a : g.sameButStale h) (b : h.sameButStale k) : g.sameButStale k := by
  unfold Engine.sameButStale at *
  rw [← b] at a
  exact a

theorem Engine.sameButStale.st {g h : Engine} (a : g.sameButStale h) : h.st = g.st := by
  have e : { h with stale := g.stale } = g := a
  exact (congrArg Engine.st e :)

/-- A group's age does not depend on which groups are stale. -/
theorem Engine.sameButStale.aged {g h : Engine} (a : g.sameButStale h) (q now period tenths : Nat) :
    h.aged q now period tenths = g.aged q now period tenths := by
  have e : { h with stale := g.stale } = g := a
  exact (congrArg (Engine.aged · q now period tenths) e :)

theorem Engine.sameButStale.addStale (g : Engine) (q : Nat) : g.sameButStale (g.addStale q) := by
  unfold Engine.addStale Engine.sameButStale
  split <;> rfl

/-- Those of some groups that are old enough join the stale ones of an active engine. -/
def Engine.ageStale (g : Engine) (now period : Nat) (qs : List Nat) : Engine :=
  qs.foldl (fun (g : Engine) q => if g.st = 0 ∧ g.aged q now period 8 = true then g.addStale q else g) g

theorem Engine.ageStale_spec (g : Engine) (now period : Nat) (qs : List Nat) :
    g.sameButStale (g.ageStale now period qs) ∧
      ∀ q, q ∈ (g.ageStale now period qs).stale ↔ q ∈ g.stale ∨ (q ∈ qs ∧ g.st = 0 ∧ g.aged q now period 8 = true) := by
  induction qs generalizing g with
  | nil => exact ⟨rfl, fun q => by simp [Engine.ageStale]⟩
  | cons a qs ih =>
    by_cases h : g.st = 0 ∧ g.aged a now period 8 = true
    · have hstep : g.ageStale now period (a :: qs) = (g.addStale a).ageStale now period qs := by
        simp only [Engine.ageStale, List.foldl_cons, if_pos h]
      have hsame := Engine.sameButStale.addStale g a
      obtain ⟨hs, hm⟩ := ih (g.addStale a)
      rw [hstep]
      refine ⟨hsame.trans hs, fun q => ?_⟩
      rw [hm, hsame.st, hsame.aged, Engine.mem_addStale, List.mem_cons]
      constructor
      · rintro ((rfl | hq) | hq)
        · exact .inr ⟨.inl rfl, h⟩
        · exact .inl hq
        · exact .inr ⟨.inr hq.1, hq.2⟩
      · rintro (hq | ⟨rfl | hq, h⟩)
        · exact .inl (.inr hq)
        · exact .inl (.inl rfl)
        · exact .inr ⟨hq, h⟩
    · have hstep : g.ageStale now period (a :: qs) = g.ageStale now period qs := by
        simp only [Engine.ageStale, List.foldl_cons, if_neg h]
      obtain ⟨hs, hm⟩ := ih g
      rw [hstep]
      refine ⟨hs, fun q => ?_⟩
      rw [hm, List.mem_cons]
      constructor
      · rintro (hq | hq)
        · exact .inl hq
        · exact .inr ⟨.inr hq.1, hq.2⟩
      · rintro (hq | ⟨rfl | hq, hq2⟩)
        · exact .inl hq
        · exact absurd hq2 h
        · exact .inr ⟨hq, hq2⟩

/-- The stale groups of an engine under a new period: fresh ones leave, aged ones join. -/
def Engine.restale (g : Engine) (now period : Nat) : Engine := (g.dropFresh now period).ageStale now period (List.range 64)

theorem Engine.restale_spec (g : Engine) (now period : Nat) :
    { g.restale now period with stale := g.stale } = g ∧
      ∀ q, q ∈ (g.restale now period).stale ↔ g.aged q now period 8 = true ∧ (q ∈ g.stale ∨ (q < 64 ∧ g.st = 0)) := by
  have hsame : g.sameButStale (g.dropFresh now period) := rfl
  obtain ⟨hs, hm⟩ := (g.dropFresh now period).ageStale_spec now period (List.range 64)
  refine ⟨hsame.trans hs, fun q => ?_⟩
  rw [Engine.restale, hm, hsame.st, hsame.aged, List.mem_range, Engine.dropFresh, List.mem_filter]
  constructor
  · rintro (⟨hq, hage⟩ | ⟨hq, hst, hage⟩)
    · exact ⟨hage, .inl hq⟩
    · exact ⟨hage, .inr ⟨hq, hst⟩⟩
  · rintro ⟨hage, hq | ⟨hq, hst⟩⟩
    · exact .inl ⟨hq, hage⟩
    · exact .inr ⟨hq, hst, hage⟩

/-- A slice reserved or started leaves the scalar objects and the engines alone. -/
theorem Device.reserveSlice_keeps (d : Device) (c : Nat) :
    (d.reserveSlice c).regs = d.regs ∧ (d.reserveSlice c).cim.engines = d.cim.engines := by
  unfold Device.reserveSlice
  split <;> exact ⟨rfl, rfl⟩

theorem Device.reserveSlices_keep (cs : List Nat) (d : Device) :
    (cs.foldl (fun d c => d.reserveSlice c) d).regs = d.regs ∧
      (cs.foldl (fun d c => d.reserveSlice c) d).cim.engines = d.cim.engines := by
  induction cs generalizing d with
  | nil => exact ⟨rfl, rfl⟩
  | cons c cs ih =>
    obtain ⟨hr, he⟩ := ih (d.reserveSlice c)
    obtain ⟨hr', he'⟩ := d.reserveSlice_keeps c
    exact ⟨hr.trans hr', he.trans he'⟩

/-- A scalar object of no policy holds a written value in its range. -/
theorem runScalar_done {k : Nat} {o : ObjRow} (ho : objRow? k = some o) (hf : scalarFault o v = none)
    (hp : policyKeys.contains k = false) : runScalar k d r v = done (d.setReg k (ofLe v)) := by
  rw [runScalar, ho]
  dsimp only
  rw [hf]
  dsimp only
  rw [hp]
  rfl

/-- The period is written, every engine's stale groups follow it, and slices that are due are reserved. -/
theorem runRevisit_done {o : ObjRow} (ho : objRow? (key 0x9000 1) = some o) (hf : scalarFault o v = none) :
    ∃ u, runRevisit d r v = done u ∧ u.reg (key 0x9000 1) = ofLe v ∧
      u.cim.engines = d.cim.engines.map (fun x => (x.1, x.2.restale d.clk.up (ofLe v))) := by
  have hrun := runScalar_done (d := d) (r := r) ho hf (by decide)
  have hreg := d.reg_setReg_same (key 0x9000 1) (ofLe v)
  unfold runRevisit
  rw [hrun]
  dsimp only [done]
  rw [if_neg (by decide), hreg]
  refine ⟨_, rfl, ?_, ?_⟩
  · rw [Device.reg, (Device.reserveSlices_keep _ _).1]
    exact hreg
  · exact (Device.reserveSlices_keep _ _).2

/-! ### The hint (R53) -/

/-- The block without a hint, and the status of the last one. -/
def Device.noHint (d : Device) (status : Nat) : Device := { d with cim := { d.cim with hint := [], hintStatus := status } }

/-- The records of a whole hint, each with its index. -/
def hintRecords (v : List Byte) : List (Nat × List Nat) :=
  (chunksOf (4 * hintWords) 6336 v).zipIdx.map (fun x => (x.2, (List.range hintWords).map (fun i => wordAt x.1 i)))

/-- A hint is held for the clusters that are not yet calibrated. -/
def Device.hinted (d : Device) (rs : List (Nat × List Nat)) : Device :=
  { d with cim := { d.cim with
      hint := (rs.filter (fun x => !(d.cluster (x.1 / 396)).calibrated)).map (fun x => (x.1, hintRec x.2)), hintStatus := 0 } }

theorem runHint_empty : runHint d r [] = done (d.noHint 0) := rfl

theorem runHint_size (h0 : v.length ≠ 0) (h : v.length ≠ hintSize) : runHint d r v = refuse (d.noHint 0x06) dInvalid :=
  (if_neg h0).trans (if_pos h)

theorem runHint_whole (h : v.length = hintSize) :
    runHint d r v = if (hintRecords v).all (fun x => hintRecOk x.1 x.2) then done (d.hinted (hintRecords v))
      else refuse (d.noHint 0x06) dInvalid :=
  (if_neg (by rw [h]; decide)).trans (if_neg (not_not_intro h))

theorem runHint_unlisted (h : v.length = hintSize) (hr : (hintRecords v).all (fun x => hintRecOk x.1 x.2) = false) :
    runHint d r v = refuse (d.noHint 0x06) dInvalid := by
  rw [runHint_whole h, hr]
  rfl

theorem runHint_listed (h : v.length = hintSize) (hr : (hintRecords v).all (fun x => hintRecOk x.1 x.2) = true) :
    runHint d r v = done (d.hinted (hintRecords v)) := by
  rw [runHint_whole h, if_pos hr]

theorem hintRecords_all (v : List Byte) :
    (hintRecords v).all (fun x => hintRecOk x.1 x.2) = ((chunksOf (4 * hintWords) 6336 v).zipIdx).all
      (fun x => hintRecOk x.2 ((List.range hintWords).map (fun i => wordAt x.1 i))) := by
  rw [hintRecords, List.all_map]
  rfl

theorem Device.hinted_records (d : Device) (v : List Byte) :
    d.hinted (hintRecords v) = { d with cim := { d.cim with
      hint := ((chunksOf (4 * hintWords) 6336 v).zipIdx.filter (fun x => !(d.cluster (x.2 / 396)).calibrated)).map
        (fun x => (x.2, hintRec ((List.range hintWords).map (fun i => wordAt x.1 i)))), hintStatus := 0 } } := by
  rw [Device.hinted, hintRecords, List.filter_map, List.map_map]
  rfl

end Sys2Proof.Machine
end

section
/-!
SUPPORT. The statement on telemetry, the governor, the calibration period and hints, from the equations of its operations and rules.
-/
namespace Sys2Proof.Machine

section
variable {s : State} {o : Host.Outcome State Fault Refusal} {waits : Device → Bool} {f : Device → Device}

/-- A command that waits for something finds nothing to do before it. -/
theorem lift_waits (ha : s.alive = true) (e : o = s.lift (fun d => if waits d then d else f d)) (h : waits s.dev = true) :
    o = s.goes s.dev := by
  rw [lift_goes ha e, if_pos h]

/-- Then it goes on with its effect. -/
theorem lift_acts (ha : s.alive = true) (e : o = s.lift (fun d => if waits d then d else f d)) (h : waits s.dev = false) :
    o = s.goes (f s.dev) := by
  rw [lift_goes ha e, if_neg (Bool.eq_false_iff.mp h)]

end

/-- Settles O57: each command of a running block goes on with what its operation makes of the block, and each operation is told
case by case. -/
theorem powerManagement : Obligations.PowerManagement := by
  unfold Obligations.PowerManagement
  intro c act r o s ha d
  refine ⟨?notDue, ?due, ?deliver, fun corr x => ⟨correct_spec corr x, correct_zero⟩, ?wrap, ?seed, ?trip, ?check, ?unseeded,
    ?update, ?governor, Device.urge_spec, ?unready, ?converged, ?unanchored, ?anchor, ?field, ?sequence, ?control, ?urgent,
    ?revisit, ?hint⟩
  case notDue =>
    intro h
    unfold exec execAdcDeliver
    exact lift_waits ha rfl ((Bool.not_eq_true' _).mpr h)
  case due =>
    intro h e w f g u
    unfold exec execAdcDeliver
    refine (lift_acts ha rfl ((Bool.not_eq_false' _).mpr h)).trans (congrArg s.goes ?_)
    simp only [decide_eq_true_eq]
    rfl
  case deliver =>
    intro p q w
    refine ⟨?_, fun n hn => Tbl.find?_put_other _ _ hn, rfl, rfl, fun hw a ha hc => PwrS.deliver_latest_named hw ha hc,
      fun ch h => PwrS.deliver_latest_other h⟩
    rw [PwrS.deliver_results, Tbl.find?_put_same]
    rfl
  case wrap =>
    intro p
    obtain ⟨hpos, hpass, hseq, hctl, hseqP, hctlP⟩ := p.wrap_spec
    refine ⟨hpos, hpass, hseq, hctl, hseqP, hctlP, fun hs hc => ?_, fun h => ?_⟩
    · rw [PwrS.wrap_same hs hc]
      exact ⟨rfl, rfl⟩
    · rw [PwrS.wrap_written h]
      refine ⟨rfl, fun n => (Tbl.find?_filter _ (fun k => decide (k < ctlLen p.ctlNext)) n).trans ?_⟩
      simp only [decide_eq_true_eq]
  case seed =>
    refine fun e => ⟨Device.seedModel_waits, fun h hd => ?_⟩
    rw [Device.seedModel_ready h hd]
    exact ⟨rfl, rfl, rfl, fun n hn => e.seeded_nodes hn⟩
  case trip =>
    refine fun e w => ⟨Device.tripDiodes_cool, fun h => Device.tripDiodes_latched h w, fun f hf hc hhot h => ?_⟩
    obtain ⟨who, hwho⟩ := Device.tripDiodes_hot hf hc hhot
    have hp := Device.thermTrip_pwr h 1 who
    rw [← hwho] at hp
    exact ⟨congrArg PwrS.trip hp, congrArg PwrS.rails hp, congrArg PwrS.pgood hp⟩
  case check =>
    intro e sus peak bmax dt b beyond leave p
    have hp : p = e.checked := e.powerCheck_pwr
    rw [hp]
    refine ⟨rfl, rfl, e.fullNext_eq, Device.phiNext_full, fun h h34 hl => ?_, fun h h34 h0 hl => ?_, Device.powerCheck_notFull⟩
    · exact (Device.phiNext_within h hl).trans (if_pos h34)
    · exact (Device.phiNext_within h hl).trans ((if_neg (Bool.eq_false_iff.mp h34)).trans (if_pos h0))
  case unseeded =>
    intro h
    unfold exec execThermalModelUpdate
    exact lift_waits ha rfl (Option.isNone_iff_eq_none.mpr h)
  case update =>
    intro h n e dt
    refine ⟨_, fun i hi => Tbl.get_foldl_range 0#32 _ [] hi, ?_⟩
    unfold exec execThermalModelUpdate
    exact lift_acts ha rfl (Option.isNone_eq_false_iff.mpr (Option.isSome_iff_ne_none.mpr h))
  case governor =>
    intro e k x
    have hx := e.nextPhiT_eq k
    refine ⟨fun hhot => hx.trans (if_pos hhot), fun hhot hcool => ?_, fun hhot hcool => ?_⟩
    · exact hx.trans ((if_neg (Bool.eq_false_iff.mp hhot)).trans (if_pos hcool))
    · exact hx.trans ((if_neg (Bool.eq_false_iff.mp hhot)).trans
        (if_neg (Bool.eq_false_iff.mp hcool)))
  case unready =>
    intro h
    unfold exec execModelConverged
    refine lift_waits ha rfl ?_
    rw [Bool.or_eq_true, Option.isNone_iff_eq_none]
    exact h
  case converged =>
    intro h hc e
    unfold exec execModelConverged
    refine lift_acts ha rfl ?_
    rw [Bool.or_eq_false_iff, Option.isNone_eq_false_iff, Option.isSome_iff_ne_none]
    exact ⟨h, hc⟩
  case unanchored =>
    intro h
    unfold exec execAnchorCheck
    exact lift_waits ha rfl (Option.isNone_iff_eq_none.mpr h)
  case anchor =>
    intro h e
    unfold exec execAnchorCheck
    exact lift_acts ha rfl (Option.isNone_eq_false_iff.mpr (Option.isSome_iff_ne_none.mpr h))
  case field =>
    exact fun e k => ⟨Device.anchorField_agrees, Device.anchorField_drifts⟩
  case sequence =>
    intro hw hn e es
    have say := sized_wrote (c := .sequenceWrite r) hw hn rfl rfl
    exact ⟨fun hok hc => say (runSequence_done hok hc), fun h => say (runSequence_refused h)⟩
  case control =>
    rintro x hw hf rfl e k
    have say := valued_wrote (c := .sequenceControlWrite r) hw hf rfl (by decide +kernel) rfl
    exact ⟨fun hm hs hc => say (runSeqControl_done hm hs hc), fun h => say (runSeqControl_refused h)⟩
  case urgent =>
    intro hw hf e u
    exact valued_wrote hw hf rfl (by decide +kernel) rfl (runUrgent_eq _) (by split <;> decide)
  case revisit =>
    intro hw hf
    have hrow : objRow? (key 0x9000 1) = some o :=
      (show objRow? (key 0x9000 1) = writeRow? 0x9000 1 by decide +kernel).trans (writes_row hw)
    obtain ⟨u, hrun, hreg, heng⟩ := runRevisit_done (d := s.dev.counted 0x9000 o r) (r := r) hrow hf
    refine ⟨u, writes_eq hw rfl hrun (by decide), hreg, fun n g hg => ?_⟩
    refine ⟨_, ?_, g.restale_spec (s.dev.counted 0x9000 o r).clk.up (ofLe r.payload)⟩
    rw [heng]
    exact (Tbl.find?_map _ (Engine.restale · _ _) n).trans (congrArg (Option.map _) hg)
  case hint =>
    intro v e hw
    have say := fun {st p u} => takes_eq (c := .redundancyHintWrite r) hw rfl (st := st) (p := p) (u := u)
    refine ⟨?_, fun h0 h => say (runHint_size (r := r) h0 h) (by decide), fun h => ⟨fun hr => ?_, fun hr => ?_⟩⟩
    · rintro rfl
      exact say (runHint_empty (r := r)) (by decide)
    · exact say (runHint_unlisted (r := r) h ((hintRecords_all v).trans hr)) (by decide)
    · rw [← Device.hinted_records]
      exact say (runHint_listed (r := r) h ((hintRecords_all v).trans hr)) (by decide)

end Sys2Proof.Machine
end

section
/-!
SUPPORT. The health records through the end of a request and the disabling of a core.
-/
namespace Sys2Proof.Machine

/-! ### The end of a request leaves the health records alone (R212) -/

theorem Device.health_foldl {α : Type} {f : Device → α → Device} (h : ∀ d a, (f d a).rel.health = d.rel.health)
    (l : List α) (d : Device) : (l.foldl f d).rel.health = d.rel.health := by
  induction l generalizing d with
  | nil => rfl
  | cons a l ih => exact (ih _).trans (h d a)

theorem Device.writeWords_health (d : Device) (wa : Nat) (ws : List RWord) : (d.writeWords wa ws).rel.health = d.rel.health := by
  induction ws generalizing d wa with
  | nil => rfl
  | cons x xs ih =>
    unfold Device.writeWords
    refine (ih _ _).trans ?_
    split <;> rfl

theorem Device.writeH_health (d : Device) (h o : Nat) (ws : List RWord) : (d.writeH h o ws).rel.health = d.rel.health := by
  unfold Device.writeH
  split
  · rfl
  · exact (Device.writeWords_health _ _ _).trans (Device.closeRows_health _ _ _)

theorem Device.startRelease_health (d : Device) (h : Nat) : (d.startRelease h).rel.health = d.rel.health := by
  unfold Device.startRelease
  split <;> rfl

theorem Device.freeVersion_health (d : Device) (v : Nat) : (d.freeVersion v).rel.health = d.rel.health := by
  unfold Device.freeVersion
  exact Device.health_foldl Device.startRelease_health _ d

theorem Device.unpin_health (d : Device) (v : Nat) : (d.unpin v).rel.health = d.rel.health := by
  unfold Device.unpin
  dsimp only
  split
  · rfl
  · split
    · exact Device.freeVersion_health _ _
    · rfl

theorem Device.countEnd_health (d : Device) (state status : Nat) (late : Bool) :
    (d.countEnd state status late).rel.health = d.rel.health := by
  unfold Device.countEnd
  dsimp only
  repeat' split
  all_goals rfl

theorem Device.endReq_health (d : Device) (slot state status : Nat) :
    (d.endReq slot state status).rel.health = d.rel.health := by
  unfold Device.endReq
  split
  · unfold Device.closeReq
    exact (Device.unpin_health _ _).trans ((Device.writeH_health _ _ _ _).trans (Device.countEnd_health d _ _ _))
  · rfl

/-! ### Disabling a core (R365) -/

theorem Device.fenceReq_health (d : Device) (slot : Nat) : (d.fenceReq slot).rel.health = d.rel.health := by
  unfold Device.fenceReq
  split
  · rfl
  · split
    · rfl
    · exact Device.endReq_health _ _ _ _

theorem Device.fenceCore_health (d : Device) (i : Nat) : (d.fenceCore i).rel.health = d.rel.health :=
  Device.health_foldl Device.fenceReq_health _ d

theorem Device.dropPacks_health (d : Device) : d.dropPacks.rel.health = d.rel.health := by
  unfold Device.dropPacks
  refine Device.health_foldl (fun d (p : Pack) => ?_) _ _
  exact Device.health_foldl (fun d (h : Nat × Nat) => d.startRelease_health h.2) p.handles d

theorem Device.health_setHealth_same (d : Device) (i : Nat) (x : Health) : (d.setHealth i x).health i = x :=
  Tbl.get_set_same _ _ _ _

/-- Under either Mode nothing but the record itself changes in the health records. -/
theorem Device.disableCore_health (d : Device) (i : Nat) (mode : Bool) :
    (d.disableCore i mode).rel.health = (d.setHealth i { (d.health i).closePass with enabled := false }).rel.health := by
  unfold Device.disableCore
  dsimp only
  split
  · exact (Device.fenceCore_health _ _).trans (Device.dropPacks_health _)
  · exact Device.dropPacks_health _

theorem Device.disableCore_disabled (d : Device) (i : Nat) (mode : Bool) : ((d.disableCore i mode).health i).enabled = false := by
  rw [Device.health, Device.disableCore_health]
  exact congrArg Health.enabled (d.health_setHealth_same i _)

end Sys2Proof.Machine
end

section
/-!
SUPPORT. What the operations of the supply, the straps and the resets make of the block (R380, R382, R407, R408, R419, R421).
-/
namespace Sys2Proof.Machine

/-! ### Power and resets of the whole device (R407, R419) -/

theorem Device.resetDomain_dark (d : Device) (p : PwrS) : (d.resetDomain p).dark :=
  ⟨rfl, rfl, rfl, rfl, rfl, rfl, rfl, rfl, rfl, rfl, rfl, rfl, rfl, rfl, rfl, rfl, rfl, rfl, rfl⟩

theorem Device.unpowered_dark (d : Device) : d.unpowered.dark :=
  ⟨rfl, rfl, rfl, rfl, rfl, rfl, rfl, rfl, rfl, rfl, rfl, rfl, rfl, rfl, rfl, rfl, rfl, rfl, rfl⟩

/-- With no land open the straps read as tied, and the coordinate follows the slot unless it has been written. -/
theorem Device.readStraps_tied (d : Device) {st : Straps} (h : st.openLands = 0#3) :
    (d.readStraps st).fab = { d.fab with
      slot := st.level, strapped := true,
      coord := if d.fab.written then d.fab.coord else mkCoord 0 0 0 st.level.toNat } := by
  unfold Device.readStraps
  simp only [if_pos h]

/-! ### The input and PS_SYNC (R380, R382) -/

theorem Device.resetAll_ready {d : Device} {n : Nat} (h : d.clk.ready.getLsbD n = false) :
    d.resetAll.clk.ready.getLsbD n = false := by
  obtain ⟨-, -, -, hready⟩ := d.resetAll_spec
  exact hready n h

theorem Device.railsOff_ready (d : Device) (input : Nat) : (d.railsOff input).clk.ready.getLsbD 2 = false := by
  unfold Device.railsOff
  refine Device.resetAll_ready ?_
  simp

theorem Device.railsOff_cluster (d : Device) (input : Nat) {j : Nat} (h : j < 16) :
    ((d.railsOff input).cluster j).st = 0 ∧ ((d.railsOff input).cluster j).park = (d.cluster j).park := by
  unfold Device.railsOff
  exact (Device.resetAll_spec _).1 j h

/-- The error record, the notification and the count of an input fault touch neither the power stage nor the clusters. -/
theorem StageKeep.inputFault (d : Device) (input detail : Nat) : StageKeep (d.railsOff input) (d.inputFault input detail) := by
  unfold Device.inputFault
  exact .of_calm ((Calm.err _ _ _ _).trans ((Calm.notify _ _ _ _ _ _ _ _).trans (Calm.bump _ _ _)))

theorem StageKeep.cluster {d e : Device} (h : StageKeep d e) (k : Nat) : e.cluster k = d.cluster k := by
  unfold Device.cluster
  rw [h.clusters]

theorem Device.inputFault_spec (d : Device) (input detail : Nat) :
    (d.inputFault input detail).pwr = { d.pwr with rails := false, pgood := false, input := input } ∧
    (d.inputFault input detail).clk.ready.getLsbD 2 = false ∧
    ∀ j < 16, ((d.inputFault input detail).cluster j).st = 0 ∧
      ((d.inputFault input detail).cluster j).park = (d.cluster j).park := by
  have keep := StageKeep.inputFault d input detail
  refine ⟨keep.pwr.trans (d.railsOff_pwr input), ?_, fun j hj => ?_⟩
  · rw [keep.ready]
    exact d.railsOff_ready input
  · rw [keep.cluster]
    exact d.railsOff_cluster input hj

/-- The period in ns that PS_SYNC locks to: that of 2010h.02 where the block drives the net itself, else the measured one. -/
def Device.syncPeriod (d : Device) (measured : Nat) : Nat :=
  if d.reg (key 0x2010 1) = 1 then 1000000 / d.reg (key 0x2010 2) else measured

/-- PS_SYNC found locked at a period, and announced. -/
def Device.syncLocked (d : Device) (period : Nat) : Device :=
  let e := d.setPwr { d.pwr with locked := true, lost := false, period := period }
  e.notify 0x22 0 0x2001 6 e.pwr.syncStatus

theorem Device.syncLocked_pwr (d : Device) (period : Nat) :
    (d.syncLocked period).pwr = { d.pwr with locked := true, lost := false, period := period } :=
  (Calm.notify _ _ _ _ _ _ _ _).pwr

/-- PS_SYNC found lost: the stage runs free at 1000 ns, an error is recorded and announced, and the loss counts. -/
def Device.syncLost (d : Device) (outOfRange : Bool) : Device :=
  let e := d.setPwr { d.pwr with locked := false, lost := true, period := 1000 }
  ((e.err stageAt 0x23 (if outOfRange then 1 else 0)).notify 0x22 0 0x2001 6 e.pwr.syncStatus).bump (key 0x2050 5) 1

theorem Device.syncLost_pwr (d : Device) (outOfRange : Bool) :
    (d.syncLost outOfRange).pwr = { d.pwr with locked := false, lost := true, period := 1000 } :=
  ((Calm.err _ _ _ _).trans (Calm.notify _ _ _ _ _ _ _ _)).pwr

theorem Device.syncLost_ctr (d : Device) (outOfRange : Bool) :
    (d.syncLost outOfRange).ctr (key 0x2050 5) = min (2 ^ 64 - 1) (d.ctr (key 0x2050 5) + 1) := by
  have hfar : farCtr (key 0x2050 5) := by decide
  unfold Device.syncLost
  dsimp only
  rw [Device.ctr_bump_same, Device.notify_ctr _ hfar, Device.err_ctr _ hfar]
  rfl

/-! ### Clusters (R408) -/

/-- A key that is dropped reads as the default. -/
theorem Tbl.get_dropKeys {α : Type} (d : α) (t : Tbl α) {p : Nat → Bool} {k : Nat} (h : p k = true) :
    Tbl.get d (dropKeys t p) k = d := by
  rw [Tbl.get_eq, dropKeys, Tbl.find?_filter t (fun k => !p k), h]
  rfl

/-- The cores of a cluster stand at their reset value after its reset. -/
theorem Device.resetCluster_core (d : Device) {j q : Nat} (st : Nat) (h : q / 12 = j) :
    (d.resetCluster j st).core q = CimCore.reset := by
  obtain ⟨-, -, -, -, -, hcores⟩ := d.resetCluster_spec j st
  rw [Device.core, hcores]
  exact Tbl.get_dropKeys _ _ (decide_eq_true h)

section
variable {d : Device} {r : Req} {x : Nat} {m : BitVec 16}

theorem runClusterReset_busy (h : d.clk.resetting &&& BitVec.ofNat 16 x ≠ 0#16) : runClusterReset d r x = refuse d dBusy :=
  if_pos h

/-- No named cluster is resetting: every core of the named clusters is disabled under the Mode. -/
theorem runClusterReset_done (h : d.clk.resetting &&& BitVec.ofNat 16 x = 0#16) :
    runClusterReset d r x = done (((List.range 16).filter (fun k => (BitVec.ofNat 16 x).getLsbD k)).foldl
      (fun d k => (List.range 13).foldl (fun d j => d.disableCore (k * 13 + j) (bit x 16)) d)
      (d.setClk { d.clk with resetting := d.clk.resetting ||| BitVec.ofNat 16 x,
                             draining := d.clk.draining ||| BitVec.ofNat 16 x })) :=
  if_neg (not_not_intro h)

end

end Sys2Proof.Machine
end

section
/-!
SUPPORT. The statement on the supply, the resets, the straps and parking, from the equations of its operations and rules.
-/
namespace Sys2Proof.Machine

section
variable {s : State} {o : Host.Outcome State Fault Refusal} {f : Device → Device}

/-- A command to the power stage of a running block goes on with its effect. -/
theorem liftStage_goes (ha : s.alive = true) (e : o = s.liftStage f) : o = s.goes (f s.dev) := by
  rw [State.alive, Bool.and_eq_true, Bool.not_eq_true'] at ha
  obtain ⟨hstandby, hrst⟩ := ha
  rw [e, State.liftStage_eq, hstandby, hrst]
  rfl

variable {p : Device → Bool}

/-- A command that asks for something acts where it holds. -/
theorem lift_met (ha : s.alive = true) (e : o = s.lift (fun d => if p d then f d else d)) (h : p s.dev = true) :
    o = s.goes (f s.dev) := by
  rw [lift_goes ha e, if_pos h]

/-- Where it does not hold, the command finds nothing to do. -/
theorem lift_unmet (ha : s.alive = true) (e : o = s.lift (fun d => if p d then f d else d)) (h : p s.dev = false) :
    o = s.goes s.dev := by
  rw [lift_goes ha e, if_neg (Bool.eq_false_iff.mp h)]

end

theorem exec_psSyncLock {s : State} {n : Nat} (ha : s.alive = true) :
    exec (.psSyncLock n) s = s.goes
      (if 833 ≤ s.dev.syncPeriod n ∧ s.dev.syncPeriod n ≤ 1250 ∧ s.dev.pwr.locked = false
        then s.dev.syncLocked (s.dev.syncPeriod n) else s.dev) := by
  unfold exec execPsSyncLock
  exact (liftStage_goes ha rfl).trans rfl

theorem exec_psSyncLoss {s : State} {b : Bool} (ha : s.alive = true) :
    exec (.psSyncLoss b) s = s.goes (if s.dev.pwr.lost then s.dev else s.dev.syncLost b) := by
  unfold exec execPsSyncLoss
  exact liftStage_goes ha rfl

/-- A device reset is answered under the key it came with, and then the whole device leaves reset (R407). -/
theorem exec_deviceReset {s : State} {r : Req} {o : ObjRow} {st : Straps}
    (hw : s.writes 0x3001 1 (ruleDeviceReset (some st)) r o) (hf : scalarFault o r.payload = none) :
    let e := s.dev.counted 0x3001 o r
    let a := e.finishWrite (e.answerKey r) r 0x3001 1 true 0x00 []
    exec (.deviceResetWrite r st) s = s.goes ((a.resetDomain a.pwr.kept).leaveReset st) := by
  intro e a
  have hrun : (ruleDeviceReset (some st)).run e r r.payload = runDeviceReset (some st) e r (ofLe r.payload) :=
    valued_run hw (by decide +kernel) hf
  obtain ⟨hpending, -⟩ := writes_run (c := .deviceResetWrite r st) hw rfl
  rw [show s.dev.counted 0x3001 o r = e from rfl, hrun] at hpending
  exact hpending rfl

/-- Settles O58: each command of the supply, the straps, the resets and parking goes on with what its operation makes of the
block, and each operation is told case by case. -/
theorem supplyAndResets : Obligations.SupplyAndResets := by
  unfold Obligations.SupplyAndResets
  intro k st n b r o s d i
  refine ⟨rfl, rfl, d.unpowered_dark, rfl, rfl, ?straps, rfl, ?domain, ⟨rfl, rfl, rfl⟩, ?release, fun ha =>
    ⟨liftStage_goes (f := fun d => d.inputFault 2 1) ha rfl, liftStage_goes (f := fun d => d.inputFault 3 2) ha rfl,
      liftStage_goes (f := fun d => d.inputFault 4 3) ha rfl, ?overvoltageClear,
      fun a x => d.inputFault_spec a x, ?lock, ?lostAlready, ?lost, exec_deviceReset, ?clusterReset,
      fun e j m => e.disableCore_disabled j m, ?drained, ?undrained, ?reset, ?records, ?park, ?stay, ?wake, ?awake⟩⟩
  case straps =>
    intro h f
    have hf : f = _ := d.readStraps_tied h
    rw [hf]
    exact ⟨rfl, rfl, rfl⟩
  case domain => exact fun p => ⟨d.resetDomain_dark p, rfl, rfl, rfl⟩
  case release =>
    intro e
    refine congrArg (fun e => Host.Outcome.next { s with sup := { s.sup with rstLow := false }, dev := e }) ?_
    simp only [e, Bool.and_eq_true]
    rfl
  case overvoltageClear =>
    unfold exec execOvervoltageClear
    exact liftStage_goes (f := fun d => if d.pwr.input = 3 then d.setPwr { d.pwr with input := 0 } else d) ha rfl
  case lock =>
    intro p hp
    have run := exec_psSyncLock (n := n) ha
    rw [← show p = s.dev.syncPeriod n from hp] at run
    refine ⟨fun hlo hhi hl => ⟨_, run.trans (congrArg s.goes (if_pos ⟨hlo, hhi, hl⟩)), d.syncLocked_pwr p⟩, fun h =>
      run.trans (congrArg s.goes (if_neg fun ⟨hlo, hhi, hl⟩ => ?_))⟩
    rcases h with h | h | h
    · omega
    · omega
    · exact Bool.eq_false_iff.mp hl h
  case lostAlready => exact fun h => (exec_psSyncLoss ha).trans (congrArg s.goes (if_pos h))
  case lost =>
    exact fun h => ⟨d.syncLost b, (exec_psSyncLoss ha).trans (congrArg s.goes (if_neg (Bool.eq_false_iff.mp h))),
      d.syncLost_pwr b, d.syncLost_ctr b⟩
  case clusterReset =>
    rintro m hw hf rfl e
    have say := valued_wrote (c := .clusterResetWrite r) hw hf rfl (by decide +kernel) rfl
    exact ⟨fun h => say (runClusterReset_busy h), fun h => say (runClusterReset_done h)⟩
  case drained =>
    intro hd hc e
    unfold exec execClusterResetDrained
    exact lift_met ha rfl (Bool.and_eq_true_iff.mpr ⟨hd, hc⟩)
  case undrained =>
    intro h
    unfold exec execClusterResetDrained
    exact lift_unmet ha rfl (Bool.and_eq_false_iff.mpr h)
  case reset =>
    intro e j x hj u c n
    obtain ⟨hown, hothers, hpwr, -⟩ := e.resetCluster_spec j x
    exact ⟨hown, hothers, fun q hq => e.resetCluster_core x hq, hpwr⟩
  case records =>
    intro hw hn
    exact sized_wrote hw hn rfl rfl rfl
  case park =>
    intro hst hp hi
    unfold exec execClusterPark
    refine lift_met ha rfl ?_
    rw [Bool.and_eq_true, Bool.and_eq_true, decide_eq_true_eq]
    exact ⟨⟨hst, hp⟩, hi⟩
  case stay =>
    intro h
    unfold exec execClusterPark
    refine lift_unmet ha rfl ?_
    rw [Bool.and_eq_false_iff, Bool.and_eq_false_iff, decide_eq_false_iff_not, or_assoc]
    exact h
  case wake =>
    intro h
    unfold exec execWakeRequest
    exact (lift_goes ha rfl).trans (congrArg s.goes (if_pos h))
  case awake =>
    intro h
    unfold exec execWakeRequest
    exact (lift_goes ha rfl).trans (congrArg s.goes (if_neg h))

end Sys2Proof.Machine
end

section
/-!
SUPPORT. The statements on the machine as a whole: the front command, idle time, the queue, the supply, the stops, and the
invariant of a block that does not act (Tab. 18.4, R407, R419, R423).
-/
namespace Sys2Proof.Machine

/-! ### What a command leaves of the queue and the supply -/

/-- A TAP_PRIVATE instruction stops behind an unlock, and otherwise is a BYPASS (R423). -/
theorem execTapPrivate_locked {s : State} (code : BitVec 8) (h : (s.dev.sec.unlocked && s.sup.standby) = false) :
    execTapPrivate code s = s.viaTap (fun d => d.bypass) := by
  rw [execTapPrivate, h]
  rfl

theorem execTapPrivate_unlocked {s : State} (code : BitVec 8) (h : (s.dev.sec.unlocked && s.sup.standby) = true) :
    execTapPrivate code s = .refused (.privateTap code.toNat) := by
  rw [execTapPrivate, h]
  rfl

/-- A TAP_PRIVATE instruction that goes on acts as BYPASS. -/
theorem execTapPrivate_next {s t : State} {code : BitVec 8} (h : execTapPrivate code s = .next t) :
    s.viaTap (fun d => d.bypass) = .next t := by
  cases hu : s.dev.sec.unlocked && s.sup.standby with
  | false => rwa [execTapPrivate_locked code hu] at h
  | true => rw [execTapPrivate_unlocked code hu] at h; cases h

/-- What a command changes besides the block: nothing, but for the four that move the supply or the reset pin. -/
theorem exec_next_frame {i : Instr} {s t : State} (h : exec i s = .next t) :
    t.pending = s.pending ∧ (movesSupply i = false → t.sup = s.sup) := by
  obtain ⟨f, e, -, -⟩ | ⟨f, e, -, -⟩ | ⟨f, e, -, -, -⟩ | e | e | e | ⟨st, e⟩ | ⟨st, e⟩ | ⟨code, e⟩ := exec_reach i s
  case tapPrivate =>
    cases execTapPrivate_next (e ▸ h)
    exact ⟨rfl, fun _ => rfl⟩
  case powerOn | standbyLoss | rstNAssert | rstNRelease =>
    cases e.symm.trans h
    exact ⟨rfl, fun hm => nomatch hm⟩
  all_goals
    cases e.symm.trans h
    exact ⟨rfl, fun _ => rfl⟩

/-- Settles O5: the queue is no part of what any command's effect is given. -/
theorem commandsKeepQueue : Obligations.CommandsKeepQueue := by
  unfold Obligations.CommandsKeepQueue
  exact fun i s t h => (exec_next_frame h).1

/-- Settles O6: each pin command by its own meaning, and every other one by the frame of a command that goes on. -/
theorem onlyPinsMoveSupply : Obligations.OnlyPinsMoveSupply := by
  unfold Obligations.OnlyPinsMoveSupply
  intro i s t h
  refine ⟨?powerOn, ?standbyLoss, ?rstNAssert, ?rstNRelease, ?others⟩
  case powerOn => rintro rfl; cases h; rfl
  case standbyLoss => rintro rfl; cases h; rfl
  case rstNAssert => rintro rfl; cases h; rfl
  case rstNRelease => rintro st rfl; cases h; rfl
  case others =>
    rintro ⟨hon, hloss, hassert, hrelease⟩
    refine (exec_next_frame h).2 ?_
    unfold movesSupply
    split
    · exact absurd rfl hon
    · exact absurd rfl hloss
    · exact absurd rfl hassert
    · exact absurd rfl (hrelease _)
    · rfl

/-- Settles O7: every way to reach the block goes on but the TAP_PRIVATE instructions, which stop behind an unlock. -/
theorem onlyPrivateTapStops : Obligations.OnlyPrivateTapStops := by
  unfold Obligations.OnlyPrivateTapStops
  intro i s
  obtain ⟨f, e, -, -⟩ | ⟨f, e, -, -⟩ | ⟨f, e, -, -, -⟩ | e | e | e | ⟨st, e⟩ | ⟨st, e⟩ | ⟨code, e⟩ := exec_reach i s
  case tapPrivate =>
    cases hu : s.dev.sec.unlocked && s.sup.standby with
    | false => exact .inl ⟨_, e.trans (execTapPrivate_locked code hu)⟩
    | true =>
      obtain ⟨hunlocked, hstandby⟩ := Bool.and_eq_true_iff.mp hu
      exact .inr ⟨code, rfl, hunlocked, hstandby, e.trans (execTapPrivate_unlocked code hu)⟩
  all_goals exact .inl ⟨_, e⟩

/-- Settles O8: a command that is not of the pins, the power stage or the TAP reaches the block through the running block. -/
theorem darkBlockKeepsState : Obligations.DarkBlockKeepsState := by
  unfold Obligations.DarkBlockKeepsState
  intro i s hdark hpins
  obtain ⟨f, e, -, -⟩ | ⟨f, e, hp, -⟩ | ⟨f, e, hp, -, -⟩ | e | e | e | ⟨st, e⟩ | ⟨st, e⟩ | ⟨code, e⟩ := exec_reach i s
  case lift => exact e.trans (State.lift_dark hdark f)
  case stage => rw [hp] at hpins; cases hpins
  case tap => rw [hp] at hpins; cases hpins
  all_goals cases hpins

/-! ### The invariant (Tab. 18.4, R419) -/

/-- A block that does not act lacks standby power or is held in reset. -/
theorem State.alive_eq_false {s : State} : s.alive = false ↔ s.sup.standby = false ∨ s.sup.rstLow = true := by
  rw [State.alive, Bool.and_eq_false_iff, Bool.not_eq_false']

theorem Device.dark_setPwr {d : Device} (h : d.dark) (p : PwrS) : Device.dark { d with pwr := p } := h

/-- Time that passes clears nothing and brings nothing back. -/
theorem Device.dark_advance {d : Device} (h : d.dark) (n : Nat) : (d.advance n).dark := by
  unfold Device.advance
  split
  · exact h
  · exact h

/-- The straps as read are named by no reset. -/
theorem Device.dark_readStraps {d : Device} (h : d.dark) (st : Straps) : (d.readStraps st).dark := by
  unfold Device.readStraps
  by_cases ho : st.openLands = 0#3
  · simp only [if_pos ho]
    exact h
  · simp only [if_neg ho]
    exact h

/-- One period of REFCLK keeps the invariant. -/
theorem tick_inv {s t : State} (hs : s.inv) (h : tick s = .next t) : t.inv := by
  cases h
  intro ht
  have hd : s.dev.dark := hs ht
  dsimp only
  split
  · exact Device.dark_advance hd 10
  · exact hd

/-- Every command keeps the invariant. -/
theorem exec_inv {i : Instr} {s t : State} (hs : s.inv) (h : exec i s = .next t) : t.inv := by
  intro ht
  obtain ⟨f, e, -, -⟩ | ⟨f, e, -, -⟩ | ⟨f, e, -, -, hf⟩ | e | e | e | ⟨st, e⟩ | ⟨st, e⟩ | ⟨code, e⟩ := exec_reach i s
  case lift =>
    cases e.symm.trans h
    have hd : s.alive = false := ht
    simpa [hd] using hs hd
  case stage =>
    cases e.symm.trans h
    have hd : s.dev.dark := hs ht
    dsimp only
    split
    · exact hd
    · next hon =>
      rcases State.alive_eq_false.mp (show s.alive = false from ht) with hoff | hlow
      · exact absurd (by rw [hoff]; rfl) hon
      · rw [if_pos hlow]
        exact Device.dark_setPwr hd _
  case tap =>
    cases e.symm.trans h
    have hd : s.dev.dark := hs ht
    dsimp only
    split
    · rw [hf]
      exact hd
    · exact hd
  case powerOn =>
    cases e.symm.trans h
    dsimp only
    split
    · next hon =>
      rcases State.alive_eq_false.mp ht with hoff | hlow
      · cases hoff
      · exact hs (State.alive_eq_false.mpr (.inr hlow))
    · exact s.dev.unpowered_dark
  case standbyLoss =>
    cases e.symm.trans h
    exact s.dev.unpowered_dark
  case rstNAssert =>
    cases e.symm.trans h
    dsimp only
    split
    · exact s.dev.resetDomain_dark _
    · next hoff => exact hs (State.alive_eq_false.mpr (.inl (Bool.eq_false_iff.mpr hoff)))
  case rstNRelease =>
    cases e.symm.trans h
    rcases State.alive_eq_false.mp ht with hoff | hlow
    · have hoff : s.sup.standby = false := hoff
      rw [hoff, Bool.and_false]
      exact hs (State.alive_eq_false.mpr (.inl hoff))
    · cases hlow
  case strapSample =>
    cases e.symm.trans h
    have hd : s.dev.dark := hs ht
    dsimp only
    split
    · exact hd
    · next hon =>
      rcases State.alive_eq_false.mp (show s.alive = false from ht) with hoff | hlow
      · exact absurd (.inl hoff) hon
      · rw [if_pos hlow]
        exact Device.dark_readStraps hd st
  case tapPrivate =>
    cases execTapPrivate_next (e ▸ h)
    have hd : s.dev.dark := hs ht
    dsimp only
    split
    · exact hd
    · exact hd

/-- Settles O4: a step is one period of REFCLK or one command, and each way a command reaches the block keeps a block that does
not act dark. -/
theorem stepKeepsInvariant : Obligations.StepKeepsInvariant := by
  unfold Obligations.StepKeepsInvariant
  intro s t hs h
  unfold step at h
  split at h
  · exact tick_inv hs h
  · next i rest _ => exact exec_inv (s := { s with pending := rest }) hs h

/-! ### The front command, idle time, reset -/

/-- Settles O1. -/
theorem stepRunsFrontCommand : Obligations.StepRunsFrontCommand := by
  unfold Obligations.StepRunsFrontCommand
  intro i rest s h
  rw [step, h]

theorem step_idle {s : State} (h : s.pending = []) : step s = tick s := by
  rw [step, h]

/-- Settles O2: an idle step is one period of REFCLK, which only a slew of the fabric time makes differ from 10 ns of both clocks. -/
theorem idleStepPassesTime : Obligations.IdleStepPassesTime := by
  unfold Obligations.IdleStepPassesTime
  intro s h
  rw [step_idle h]
  refine ⟨fun hoff => ?_, fun hon => ⟨?_, ?_, fun hslew => ?_⟩⟩
  · simp [tick, hoff]
  · simp [tick, hon]
  · unfold Device.advance
    split <;> rfl
  · rw [Device.advance, if_pos hslew]

/-- Settles O3: the block after reset acts, holds nothing that a reset clears, and its scratchpad is in canonical form. -/
theorem resetMeetsInvariant : Obligations.ResetMeetsInvariant := by
  unfold Obligations.ResetMeetsInvariant
  refine ⟨fun h => ?_, State.reset_alive, rfl, ?_, MemS.reset_wf⟩
  · rw [State.reset_alive] at h
    cases h
  · exact ⟨rfl, rfl, rfl, rfl, rfl, rfl, rfl, rfl, rfl, rfl, rfl, rfl, rfl, rfl, rfl, rfl, rfl, rfl, rfl⟩

end Sys2Proof.Machine
end

section
/-!
SUPPORT. Issue with nothing to wait for, the end of a step by an unlisted word, and the control words (R95, R96, R105, R117–R120).
-/
namespace Sys2Proof.Machine

/-! ### The block a word is issued in -/

/-- The block that the operands of the next word of core `c` are checked against: the word is fetched, and all that is visible
by its earliest cycle has landed (R95, R96). -/
def Device.comesUp (d : Device) (c : Nat) (w : StepWord) : Device :=
  (d.fetchWord c (d.core c).seq.word).2.landUpTo c ((d.core c).seq.prev + max 1 (wDelay w))

/-- Fetching and landing keep the sequencer's own fields. -/
theorem Device.comesUp_ctl (d : Device) (c : Nat) (w : StepWord) :
    ((d.comesUp c w).core c).seq.ctl = (d.core c).seq.ctl := by
  unfold Device.comesUp
  rw [(Device.landUpTo_spec _ c _).1, (Calm.fetchWord d c _).core]

/-- A word without a hold before it takes no pause when none is asked for. -/
theorem Seq.pauseFor_eq_none {q : Seq} {w : StepWord} (hw : q.wait = none) (hp : wPause w = false ∨ q.pause = none) :
    q.pauseFor w = none := by
  unfold Seq.pauseFor Seq.heldAs
  rw [hw]
  rcases hp with h | h
  · rw [if_neg (by rw [h]; decide)]
  · split
    · exact h
    · rfl

/-- A word of a running step whose encoding is listed, whose tags have signalled and that no pause precedes is judged by its
operands and the scoreboard in its earliest cycle. -/
theorem issue_eq_issueAt {d : Device} {c : Nat} {w : StepWord} {plan : Device → OpPlan} (hc : d.canIssue c = true)
    (hf : (d.fetchWord c (d.core c).seq.word).1 = .word) (hw : (d.core c).seq.wait = none)
    (hp : wPause w = false ∨ (d.core c).seq.pause = none)
    (ht : ∀ g ∈ waitTags (wWait w), ∃ u, ((d.core c).seq.tagSt g).signal = some u ∧
      u ≤ (d.core c).seq.prev + max 1 (wDelay w))
    (hl : (plan (d.comesUp c w)).listed = true) :
    d.issue c w plan = (d.comesUp c w).issueAt c w (plan (d.comesUp c w)) ((d.core c).seq.prev + max 1 (wDelay w)) 0 0 none := by
  have htags : ∀ ts : List Nat, (∀ g ∈ ts, g ∈ waitTags (wWait w)) →
      (d.core c).seq.afterTags ts ((d.core c).seq.prev + max 1 (wDelay w)) = (d.core c).seq.prev + max 1 (wDelay w) := by
    refine fun ts hts => afterTags_le _ _ _ fun g hg => ?_
    obtain ⟨u, hu, hle⟩ := ht g (hts g hg)
    rw [hu]
    exact hle
  have hnone : (waitTags (wWait w)).find? (fun t => decide (((d.core c).seq.tagSt t).signal = none)) = none := by
    refine List.find?_eq_none.mpr fun g hg => ?_
    obtain ⟨u, hu, -⟩ := ht g hg
    simp [hu]
  have hheld : (d.core c).seq.heldAs w = none := by
    unfold Seq.heldAs
    rw [hw]
  unfold Device.issue
  simp only [hc, hf, Fetched.fault, hnone, Seq.pauseFor_eq_none hw hp, hheld, Bool.not_true, Bool.false_eq_true, if_false]
  rw [show (d.fetchWord c (d.core c).seq.word).2.landUpTo c ((d.core c).seq.prev + max 1 (wDelay w)) = d.comesUp c w from rfl]
  simp only [hl, Bool.not_true, Bool.false_eq_true, if_false, Option.isSome_none, Option.getD_none, paidPause, Nat.add_zero]
  rw [htags _ (fun g hg => (List.mem_filter.mp hg).1), htags _ (fun g hg => hg), Nat.sub_self]
  rw [show (d.comesUp c w).landUpTo c ((d.core c).seq.prev + max 1 (wDelay w)) = d.comesUp c w from
    Device.landUpTo_idem _ _ _]

/-- Operands that pass, a free descriptor, no conflict and free units: the word issues in the cycle it is judged in. -/
theorem issueAt_free {d : Device} {c : Nat} {w : StepWord} {p : OpPlan} {t : Nat} (hf : p.fault = none)
    (hd : p.dma = false ∨ (d.core c).seq.descriptors < 16)
    (hb : boardHits (d.core c).seq.board (p.ranges.map (·.1)) t = [])
    (hr : ∀ r ∈ p.units.map (Resv.shift t), ∀ o ∈ (d.core c).seq.resv, o.overlaps r = false) :
    ∃ d', d.issueAt c w p t 0 0 none = (some t, d') := by
  have hdma : (p.dma && decide ((d.core c).seq.descriptors ≥ 16)) = false := by
    rcases hd with h | h
    · rw [h, Bool.false_and]
    · rw [decide_eq_false (by omega), Bool.and_false]
  have hwait : boardWait (d.core c).seq.board (p.ranges.map (·.1)) ((d.core c).seq.board.length + 1) t = .ok t := by
    rw [boardWait, hb]
  have hany : (p.units.map (Resv.shift t)).any (fun r => (d.core c).seq.resv.any (fun o => o.overlaps r)) = false := by
    simpa [List.any_eq_false] using hr
  unfold Device.issueAt
  simp only [hf, hdma, descriptorFrom, hwait, hany, Bool.false_eq_true, if_false]
  exact ⟨_, rfl⟩

/-- The descriptors in use are told by the operations of the queue alone. -/
theorem Seq.descriptors_congr {q r : Seq} (h : q.ops = r.ops) : q.descriptors = r.descriptors := by
  unfold Seq.descriptors
  rw [h]

/-- Settles O10: the word is judged in its earliest cycle, and nothing there holds it. -/
theorem plainWordIssues : Obligations.PlainWordIssues := by
  unfold Obligations.PlainWordIssues
  intro d c w plan q t f p hc hf hw hp ht hl hfault hdma hboard hunits
  obtain ⟨-, -, -, -, -, -, -, -, -, hboard', -, hresv, hops⟩ := ctl_eq (Device.comesUp_ctl d c w)
  rw [issue_eq_issueAt hc hf hw hp ht hl]
  refine issueAt_free hfault (hdma.imp_right fun h => ?_) ?_ ?_
  · rwa [Seq.descriptors_congr hops]
  · rwa [hboard']
  · rwa [hresv]

/-- A word that comes up with nothing to wait for issues. -/
theorem State.ready_issues {s : State} {c : CoreIx} {w : StepWord} {plan : Device → OpPlan} (h : s.ready c w plan) :
    ∃ t d, s.issues c w plan t d := by
  obtain ⟨ha, hc, hf, hw, hp, ht, hl, hfault, hdma, hboard, hunits⟩ := h
  obtain ⟨d', hd'⟩ := plainWordIssues s.dev c.val w plan hc hf hw hp ht hl hfault hdma hboard hunits
  exact ⟨_, d', ha, hd'⟩

/-- Settles O11: the fetched word is not listed, so the step ends in the word's earliest cycle, and a step that has ended
issues nothing. -/
theorem unlistedWordEndsStep : Obligations.UnlistedWordEndsStep := by
  unfold Obligations.UnlistedWordEndsStep
  intro d c w plan q t f hc hf hstatus hl
  have hstatus' : ((d.comesUp c w).core c).seq.status = 0 := by
    obtain ⟨-, -, -, -, -, -, hs, -⟩ := ctl_eq (Device.comesUp_ctl d c w)
    exact hs.trans hstatus
  obtain ⟨hended, hcode, hprev⟩ := endStep_core (d.comesUp c w) c stSchedule t 0 hstatus'
  refine ⟨(d.comesUp c w).endStep c stSchedule t 0, ?_, ?_, hcode, hended, hprev, endStep_ctr _ _ _ _⟩
  · have hl' : (!(plan (f.2.landUpTo c t)).listed) = true := by rw [hl]; rfl
    unfold Device.issue
    simp only [hc, show (d.fetchWord c (d.core c).seq.word).1 = .word from hf, Fetched.fault, Bool.not_true, Bool.false_eq_true,
      if_false]
    rw [if_pos hl']
    rfl
  · unfold Device.canIssue
    dsimp only
    rw [hended, Bool.not_true, Bool.and_false]

/-! ### Control words -/

/-- A change of core `c` leaves every other core and the scratchpad. -/
theorem sameOthers_modCore (d : Device) (c : Nat) (f : CimCore → CimCore) : sameOthers d (d.modCore c f) c :=
  ⟨fun _ h => Device.core_modCore_other d f h, rfl⟩

/-- LOOP's effect (R118, R120): counter `k` begins at 0 with count `n`, and with no iteration the body is passed over. -/
def Device.enterLoop (d : Device) (c k n : Nat) : Device :=
  let ws := d.progWords c
  d.modCore c (fun x =>
    let at_ := x.seq.word
    let next := if n = 0 then (afterEndloop (ws.drop at_) at_ 0).getD at_ else at_
    { x with
      regs := { x.regs with loops := Tbl.put x.regs.loops k ⟨0, n, at_, decide (n ≠ 0)⟩ },
      seq := { x.seq with word := next } })

/-- ENDLOOP's effect (R118, R120). -/
def Device.leaveLoop (d : Device) (c k : Nat) : Device :=
  d.modCore c (fun x =>
    let l := Tbl.get (⟨0, 0, 0, false⟩ : LoopCtr) x.regs.loops k
    let v := l.value + 1
    let again := l.active && decide (v < l.count)
    { x with
      regs := { x.regs with loops := Tbl.put x.regs.loops k ⟨v, l.count, l.body, again⟩ },
      seq := { x.seq with word := if again then l.body else x.seq.word } })

/-- A LOOP whose count stands in its table runs as one with that count. -/
theorem exec_loop {s : State} {c : CoreIx} {w : StepWord} {n t : Nat} {d : Device}
    (hn : (if w.getLsbD 42 then tableWord (s.dev.core c.val).seq.rows (fld w 58 43) else some (fld w 58 43)) = some n)
    (h : s.issues c w (fun _ => { listed := listedWord w 0 4, units := ⟨.sequencer, 0, 1⟩ ::
      (if w.getLsbD 42 then [⟨.loader, 0, 1⟩] else []), latency := 1 }) t d) :
    exec (.loop c w) s = s.goes (d.enterLoop c.val (fld w 41 40) n) := by
  unfold exec execLoop
  refine (lift_goes h.1 rfl).trans ?_
  dsimp only
  rw [hn]
  exact congrArg s.goes (by simp only [Device.run, Option.isNone_some, Bool.false_eq_true, if_false, h.2]; rfl)

/-- Settles O12: each word's effect on the block it issues in. -/
theorem controlWords : Obligations.ControlWords := by
  unfold Obligations.ControlWords
  intro c w s t d
  refine ⟨?nop, ?commit, ?grid, ?loop, ?endloop⟩
  case nop => exact fun h => run_issues h _
  case commit => exact fun h => run_issues h _
  case grid => exact fun h => run_issues h _
  case loop =>
    intro n hn h
    refine ⟨_, exec_loop hn h, ?_, ?_, ?_, sameOthers_modCore d _ _⟩
    · simp [Device.enterLoop, Tbl.get_put_same]
    · intro hne
      simp [Device.enterLoop, hne]
    · intro x h0 hx
      simp [Device.enterLoop, h0, hx]
  case endloop =>
    intro h
    refine ⟨d.leaveLoop c.val (fld w 41 40), run_issues h (fun _ d => d.leaveLoop c.val (fld w 41 40)), ?_, ?_, ?_, sameOthers_modCore d _ _⟩
    · simp [Device.leaveLoop, Tbl.get_put_same]
    · intro hact hlt
      simp [Device.leaveLoop, hact, hlt]
    · intro hno
      simp [Device.leaveLoop, hno]

end Sys2Proof.Machine
end

section
/-!
SUPPORT. The start of a step by its STEP word (R95, R110, R117, R190).
-/
namespace Sys2Proof.Machine

/-- A step's core at its STEP word: clean registers, a sequencer of its own, the plan taken (R110, R117). -/
def CimCore.begun (x : CimCore) (p : Plan) (rows : List LenRow) (t : Nat) : CimCore :=
  ⟨Core.atStep, { Seq.reset with
    phase := .running, plan := p, rows := rows, start := t, prev := t, done := t,
    pause := x.seq.pause, board := x.seq.board, ops := x.seq.ops, nextOp := x.seq.nextOp },
    { x.aux with plans := x.aux.plans.drop 1 }⟩

/-- The block at a STEP word: the core begun anew, the step queue empty, and the first word fetched. -/
def Device.stepBegun (d : Device) (c : Nat) : Fetched × Device :=
  let x := d.core c
  let p := x.aux.plans.head?.getD Plan.zero
  let t := max d.cyc x.seq.prev
  (((d.reachCyc t).setCore c (x.begun p (d.roundRows p.inst) t)).setQueue c []).fetchWord c 0

/-- Fetching the first word leaves the core as begun. -/
theorem Device.stepBegun_core (d : Device) (c : Nat) :
    (d.stepBegun c).2.core c = (d.core c).begun ((d.core c).aux.plans.head?.getD Plan.zero)
      (d.roundRows ((d.core c).aux.plans.head?.getD Plan.zero).inst) (max d.cyc (d.core c).seq.prev) := by
  unfold Device.stepBegun
  dsimp only
  rw [(Calm.fetchWord _ _ _).core, (Calm.setQueue _ _ _).core, Device.core_setCore_same]

/-- A step whose lists pass: the length table is loaded over the block its two reads leave. -/
theorem startStep_loads {d : Device} {c : Nat} {w : StepWord} (hl : listedWord w 0 1 = true)
    (hf : (d.stepBegun c).1 = .word)
    (h1 : (d.stepBegun c).2.checkFixed c (fld w 52 40) (64 * fld w 67 53) (2 * (fld w 103 96 + 1)) false = none)
    (h2 : (d.stepBegun c).2.checkFixed c (fld w 80 68) (64 * fld w 95 81) (4 * (4 + 4 * (fld w 103 96 + 1))) false = none) :
    let n := fld w 103 96 + 1
    let t := max d.cyc (d.core c).seq.prev
    let r1 := (d.stepBegun c).2.readH (fld w 52 40) (64 * fld w 67 53) ((n + 1) / 2)
    let r2 := r1.2.readH (fld w 80 68) (64 * fld w 95 81) (4 + 4 * n)
    let table := r2.1.map (fun y => y.w.toNat)
    let rows := lenRows ((List.range n).map (fun i => leAt (rwBytes r1.1) (2 * i) 2)) table
    (r1.1 ++ r2.1).any (·.poison) = false →
    r2.2.lenOk (r2.2.ownsInst ((d.core c).aux.plans.head?.getD Plan.zero).inst) n rows table = true →
    d.startStep c w = r2.2.modCore c (fun x => { x with seq := { x.seq with
      rows := rows, word := 1, done := t + (ceilDiv n 16 + 2), resv := [⟨.loader, t, t + (ceilDiv n 16 + 2)⟩],
      tags := if wTag w = 0 then [] else Tbl.put [] (wTag w) ⟨some (t + (ceilDiv n 16 + 2)), 4⟩ } }) := by
  intro n t r1 r2 table rows hpoison hlen
  unfold Device.startStep
  extract_lets x plan t' reset q aux d1 f d2 lh lo th dst words s1 s2 lb slots table' rows' bad d3 d4 lat
  have hfetch : f.1.fault = none := by rw [show f.1 = .word from hf]; rfl
  have hfault : firstFault [d2.checkFixed c lh lo (2 * n) false, d2.checkFixed c th dst (4 * words) false] = none := by
    rw [show d2.checkFixed c lh lo (2 * n) false = none from h1, show d2.checkFixed c th dst (4 * words) false = none from h2]
    rfl
  have hpass : d3.lenOk (d3.ownsInst plan.inst) n rows' table' = true := hlen
  have hclean : d4 = d3 := if_neg (by rw [show bad = false from hpoison]; decide)
  rw [hfetch]
  dsimp only
  rw [if_neg (by rw [hl]; decide), hfault]
  dsimp only
  rw [hclean, if_neg (by rw [hpass]; decide)]
  rfl

/-- Settles O13. -/
theorem stepWordStarts : Obligations.StepWordStarts := by
  unfold Obligations.StepWordStarts
  intro c w s ha hup hphase hl
  have hstand : (s.dev.coreUp c.val && decide ((s.dev.core c.val).seq.phase = .idle ∨ (s.dev.core c.val).seq.phase = .ready)) = true := by
    rw [hup, decide_eq_true hphase]
    rfl
  refine ⟨fun hw => ?_, fun hw => ?_⟩
  · unfold exec execStep
    refine (lift_goes ha rfl).trans (congrArg s.goes ?_)
    rw [if_pos hstand, if_pos hw]
  · intro x p t n q f lh lo th dst hf h1 h2 r1 r2 table rows hpoison hlen
    have hrun : exec (.step c w) s = s.goes (s.dev.startStep c.val w) := by
      unfold exec execStep
      refine (lift_goes ha rfl).trans (congrArg s.goes ?_)
      rw [if_pos hstand, if_neg (by rw [hw]; decide)]
    have hcore : r2.2.core c.val = (s.dev.core c.val).begun p (s.dev.roundRows p.inst) t := by
      rw [(Calm.readH _ _ _ _).core, (Calm.readH _ _ _ _).core]
      exact Device.stepBegun_core s.dev c.val
    refine ⟨_, hrun.trans (congrArg s.goes (startStep_loads hl hf h1 h2 hpoison hlen)), ?_, ?_, ?_, ?_, sameOthers_modCore _ _ _, ?_⟩
    · rw [Device.core_modCore_same]
      rfl
    · rw [Device.core_modCore_same]
    · rw [Device.core_modCore_same, Nat.add_assoc]
      rfl
    · rw [Device.core_modCore_same]
      rfl
    · rw [Device.core_modCore_same]
      exact congrArg CimCore.regs hcore

end Sys2Proof.Machine
end

section
/-!
SUPPORT. Vector, readout, patina, outlier and top-k words: what each puts in flight (R128–R135, R140, R141).
-/
namespace Sys2Proof.Machine

/-- What is quiet for a core keeps its registers, every other core and the scratchpad. -/
theorem Quiet.sameRegs {c : Nat} {d e : Device} (h : Quiet c d e) : sameRegs d e c := h.regs

theorem Quiet.sameOthers {c : Nat} {d e : Device} (h : Quiet c d e) : sameOthers d e c := ⟨h.others, h.m⟩

/-! ### Elementwise operations and reductions -/

/-- An elementwise operation that issues sends its values `vs` to staging, `k` cycles after its last group of 64. -/
theorem vecStage_sends {s : State} {c : CoreIx} {w : StepWord} {op k : Nat} {kind : VKind} {t : Nat} {d : Device}
    {f : List VWord → List VWord → List VWord → List (VWord × Bool)} {i : Instr} {vs : List VWord}
    (hi : exec i s = s.lift (fun d => d.vecStage c.val w op kind f)) (hk : vecTail op = k)
    (hvs : (f (Tbl.slice VWord.zero (d.core c.val).regs.stage (fld w 79 67) (fld w 66 53)) (vecB w (d.core c.val).regs)
      (Tbl.slice VWord.zero (d.core c.val).regs.stage (fld w 52 40) (fld w 66 53))).map (·.1) = vs)
    (h : s.issues c w (fun _ => vecPlan op kind w) t d) :
    ∃ u, exec i s = s.goes u ∧ u.awaits c.val (t + ceilDiv (fld w 66 53) 64 + k) (.stage (fld w 52 40) vs) ∧
      sameRegs d u c.val ∧ sameOthers d u c.val := by
  subst hk hvs
  obtain ⟨hquiet, hawait⟩ := flyStage_spec c.val d (t + ceilDiv (fld w 66 53) 64 + vecTail op) (fld w 52 40)
    (f (Tbl.slice VWord.zero (d.core c.val).regs.stage (fld w 79 67) (fld w 66 53)) (vecB w (d.core c.val).regs)
      (Tbl.slice VWord.zero (d.core c.val).regs.stage (fld w 52 40) (fld w 66 53)))
  exact ⟨_, hi.trans (run_issues h _), hawait, hquiet.sameRegs, hquiet.sameOthers⟩

/-- The values of a binary operation, without what R69 notes of them. -/
theorem vecBinary_words (f : F32 → F32 → F32) (as bs : List VWord) :
    (vecBinary f as bs).map (·.1) = List.zipWith (fun (a b : VWord) =>
      ⟨(r69 (f a.v b.v)).v, a.poison || b.poison || (r69 (f a.v b.v)).poison, a.tag.join b.tag⟩) as bs := by
  unfold vecBinary
  rw [List.map_zipWith]
  rfl

theorem vecFma_words (as bs ds : List VWord) :
    (vecFma as bs ds).map (·.1) = List.zipWith (fun (p : VWord × VWord) (x : VWord) =>
      let y := r69 (f32Fma p.1.v p.2.v x.v)
      ⟨y.v, p.1.poison || p.2.poison || x.poison || y.poison, (p.1.tag.join p.2.tag).join x.tag⟩) (List.zip as bs) ds := by
  unfold vecFma
  rw [List.map_zipWith]

theorem vecUnary_words (f : F32 → F32) (as : List VWord) :
    (vecUnary f as).map (·.1) = as.map (fun (a : VWord) =>
      ⟨(r69 (f a.v)).v, a.poison || (r69 (f a.v)).poison, a.tag⟩) := by
  unfold vecUnary
  rw [List.map_map]
  rfl

/-- Settles O17: the ten operations are one, with the function of each. -/
theorem vectorElementwise : Obligations.VectorElementwise := by
  unfold Obligations.VectorElementwise
  intro c w s t d r n as bs ds
  refine ⟨fun op f i hop h => ?binary, fun h => ?fma, fun op f k i hop h => ?unary⟩
  case binary =>
    simp only [List.mem_cons, Prod.mk.injEq, List.not_mem_nil, or_false] at hop
    obtain ⟨rfl, rfl, rfl⟩ | ⟨rfl, rfl, rfl⟩ | ⟨rfl, rfl, rfl⟩ | ⟨rfl, rfl, rfl⟩ | ⟨rfl, rfl, rfl⟩ := hop
    all_goals exact vecStage_sends rfl rfl (vecBinary_words _ _ _) h
  case fma => exact vecStage_sends rfl rfl (vecFma_words _ _ _) h
  case unary =>
    simp only [List.mem_cons, Prod.mk.injEq, List.not_mem_nil, or_false] at hop
    obtain ⟨rfl, rfl, rfl, rfl⟩ | ⟨rfl, rfl, rfl, rfl⟩ | ⟨rfl, rfl, rfl, rfl⟩ | ⟨rfl, rfl, rfl, rfl⟩ := hop
    all_goals exact vecStage_sends rfl rfl (vecUnary_words _ _) h

/-- A reduction that issues sends its value to its Q register. -/
theorem vecReduce_sends {s : State} {c : CoreIx} {w : StepWord} {op : Nat} {t : Nat} {d : Device} (f : List Val → Val) {i : Instr}
    (hi : exec i s = s.lift (fun d => d.vecReduce c.val w op f)) (h : s.issues c w (fun _ => vecPlan op .reduce w) t d) :
    let y := f ((Tbl.slice VWord.zero (d.core c.val).regs.stage (fld w 79 67) (fld w 66 53)).map VWord.val)
    ∃ u, exec i s = s.goes u ∧
      u.awaits c.val (t + ceilDiv (fld w 66 53) 64 + vecTail op) (.q (fld w 43 40) ⟨y.v, y.poison, y.tag⟩) ∧
      sameRegs d u c.val ∧ sameOthers d u c.val := by
  intro y
  obtain ⟨hquiet, hawait⟩ := flyQ_spec c.val d (t + ceilDiv (fld w 66 53) 64 + vecTail op) (fld w 43 40) y.word y.degraded
  exact ⟨_, hi.trans (run_issues h _), hawait, hquiet.sameRegs, hquiet.sameOthers⟩

/-- Settles O18: the three folds, and the immediate of QSET. -/
theorem vectorReductions : Obligations.VectorReductions := by
  unfold Obligations.VectorReductions
  intro c w s t d n xs sum
  refine ⟨fun op y i hop h => ?_, fun h => ?_⟩
  · simp only [List.mem_cons, Prod.mk.injEq, List.not_mem_nil, or_false] at hop
    obtain ⟨rfl, rfl, rfl⟩ | ⟨rfl, rfl, rfl⟩ | ⟨rfl, rfl, rfl⟩ := hop
    · exact vecReduce_sends _ rfl h
    · exact vecReduce_sends _ rfl h
    · exact vecReduce_sends (fun xs => reduceLanes (Val.op2 f32Add) (Val.imm 0#32)
        (xs.map (Val.op1 (fun x => f32Mul x x)))) rfl h
  · obtain ⟨hquiet, hawait⟩ := flyQ_spec c.val d (t + 1) (fld w 43 40) ⟨BitVec.ofNat 32 (fld w 126 95), false, .none⟩ false
    exact ⟨_, run_issues h _, hawait, hquiet.sameRegs, hquiet.sameOthers⟩

/-! ### PACK and LOAD -/

/-- Values that R69 does not degrade are on their way as they are. -/
theorem flyStage_exact (d : Device) (c t lo : Nat) (ws : List VWord) :
    (d.flyStage c t lo (ws.map (·, false))).awaits c t (.stage lo ws) := by
  have hawait := (flyStage_spec c d t lo (ws.map (·, false))).2
  rwa [List.map_map, show ((fun x : VWord × Bool => x.1) ∘ (·, false)) = id from rfl, List.map_id] at hawait

/-- Settles O20: PACK's words by way of the buffer's results in flight, LOAD's by way of staging's. -/
theorem packAndLoad : Obligations.PackAndLoad := by
  unfold Obligations.PackAndLoad
  intro c w s t d r n fmt p a
  refine ⟨?_, ?_⟩
  · intro h
    refine ⟨_, run_issues h _, awaits_flyBuf _ _ _ _ _ _, ?_⟩
    have hquiet := ((Quiet.foldl (fun d t => Quiet.degradeTag c.val d t)
      (packWords fmt (d.clipOf c.val (fld w 124 109)) (Tbl.slice VWord.zero r.stage (fld w 52 40) n)).degraded d).trans
        (Quiet.foldl (fun e (o : Nat × Tag) => Quiet.burstOver c.val e (d.core c.val).seq.plan.inst (fld w 124 109) o.1)
          (packWords fmt (d.clipOf c.val (fld w 124 109)) (Tbl.slice VWord.zero r.stage (fld w 52 40) n)).ovr _)).trans
      (Quiet.flyBuf c.val _ (t + p + 4) a.handle (a.byteOff r)
        (packWords fmt (d.clipOf c.val (fld w 124 109)) (Tbl.slice VWord.zero r.stage (fld w 52 40) n)).ws)
    exact ⟨hquiet.sameRegs, hquiet.sameOthers⟩
  · intro h x
    have hquiet := (flyStage_spec c.val x.2 (t + p + 4) (fld w 52 40) ((loadWords fmt n x.1).map (·, false))).1
    exact ⟨_, run_issues h _, flyStage_exact _ _ _ _ _, hquiet.sameRegs, hquiet.sameOthers⟩

end Sys2Proof.Machine
end

section
/-!
SUPPORT. Readout, patina, outlier, top-k, sampling and move words: their effects as named steps, and what each leaves alone
(R77, R82, R128, R133, R135–R137, R140–R142, R228).
-/
namespace Sys2Proof.Machine

/-! ### Marks leave the counters -/

theorem Quiet.ite {c : Nat} {d e : Device} (p : Prop) [Decidable p] (h : Quiet c d e) : Quiet c d (if p then e else d) := by
  split
  · exact h
  · exact .refl c d

/-- A degraded mark is counted nowhere. -/
theorem Device.ctr_degradeTag (d : Device) (c : Nat) (t : Tag) (k : Nat) : (d.degradeTag c t).ctr k = d.ctr k := by
  have degrade : ∀ (e : Device) (s : Nat), (e.degrade s).ctr k = e.ctr k := fun e s => by
    unfold Device.degrade
    split <;> rfl
  unfold Device.degradeTag
  dsimp only
  split
  · rfl
  · rw [Device.ctr_modCore]
    refine foldl_ctr (fun e s => ?_) _ d
    unfold Device.tellOwner
    split
    · exact degrade e s
    · split
      · exact degrade e s
      · rfl

theorem Device.ctr_flyStage (d : Device) (c t lo : Nat) (rs : List (VWord × Bool)) (k : Nat) :
    (d.flyStage c t lo rs).ctr k = d.ctr k := by
  unfold Device.flyStage
  exact foldl_ctr (fun e g => Device.ctr_degradeTag e c g k) _ _

/-! ### READ -/

/-- READ's saturations are counted (R28). -/
def Device.countSat (d : Device) (c n : Nat) : Device :=
  if n = 0 then d else (d.bump (key 0x9020 6) n).modCore c (fun x => { x with seq := x.seq.setFlag flSaturation })

/-- READ's clear bit clears the entries read (R128). -/
def Device.clearRead (d : Device) (c : Nat) (b : Bool) (lo n : Nat) : Device :=
  if b then d.modCore c (fun x => { x with regs := { x.regs with
    acc := Tbl.setRange Acc.zero x.regs.acc lo (List.replicate n Acc.zero),
    osum := Tbl.setRange VWord.zero x.regs.osum lo (List.replicate n VWord.zero) } }) else d

theorem Quiet.countSat (c : Nat) (d : Device) (n : Nat) : Quiet c d (d.countSat c n) := by
  unfold Device.countSat
  split
  · exact .refl c d
  · exact (Quiet.bump _ _ _ _).trans (Quiet.modCore _ (fun _ => rfl) (fun _ => rfl))

theorem Device.ctr_countSat_other (d : Device) (c n : Nat) {k : Nat} (h : k ≠ key 0x9020 6) : (d.countSat c n).ctr k = d.ctr k := by
  unfold Device.countSat
  split
  · rfl
  · rw [Device.ctr_modCore, Device.ctr_bump_other _ h]

theorem Device.ctr_countSat (d : Device) (c n : Nat) (h : n ≠ 0) :
    (d.countSat c n).ctr (key 0x9020 6) = min (2 ^ 64 - 1) (d.ctr (key 0x9020 6) + n) := by
  unfold Device.countSat
  rw [if_neg h, Device.ctr_modCore, Device.ctr_bump_same]

/-- The outputs noted for the norm watch are no result in flight. -/
theorem Core.landing_noteOut (r : Core) (q : Seq) (lo : Nat) (ys : List F32) : (r.noteOut q lo ys).landing = q.landing := by
  unfold Core.noteOut
  split
  · rfl
  · split <;> rfl

/-- READ's outputs are noted for the norm watch (R86). -/
def Device.noteRead (d : Device) (c : Nat) (r : Core) (lo : Nat) (ys : List F32) : Device :=
  d.modCore c (fun x => { x with seq := r.noteOut x.seq lo ys })

theorem Quiet.noteRead (c : Nat) (d : Device) (r : Core) (lo : Nat) (ys : List F32) : Quiet c d (d.noteRead c r lo ys) :=
  Quiet.modCore d (fun _ => rfl) (fun _ => Core.landing_noteOut _ _ _ _)

theorem sameOthers.trans {d e f : Device} {c : Nat} (h : sameOthers d e c) (k : sameOthers e f c) : sameOthers d f c :=
  ⟨fun c' hc => (k.1 c' hc).trans (h.1 c' hc), k.2.trans h.2⟩

theorem sameOthers_clearRead (d : Device) (c : Nat) (b : Bool) (lo n : Nat) : sameOthers d (d.clearRead c b lo n) c := by
  unfold Device.clearRead
  split
  · exact sameOthers_modCore d c _
  · exact ⟨fun _ _ => rfl, rfl⟩

/-- The entries of READ with what R77 makes of each. -/
def readRows (w : StepWord) (r : Core) : List (Val × Bool) :=
  List.zipWith (fun (a : Acc) (o : VWord) => readOne a (if w.getLsbD 99 then some o else none) (r.ea.getD 127)
    (BitVec.ofNat 32 (fld w 98 67))) (Tbl.slice Acc.zero r.acc (fld w 52 40) (fld w 66 53))
    (Tbl.slice VWord.zero r.osum (fld w 52 40) (fld w 66 53))

/-- READ's effect (R128). -/
def Device.readOut (d : Device) (c : Nat) (w : StepWord) (t : Nat) : Device :=
  let r := (d.core c).regs
  let rs := readRows w r
  (((d.countSat c (rs.filter (fun x => x.2)).length).clearRead c (w.getLsbD 100) (fld w 52 40) (fld w 66 53)).noteRead c r
    (fld w 52 40) (rs.map (fun x => x.1.v))).flyStage c (t + ceilDiv (fld w 66 53) 64 + 4) (fld w 52 40)
      (rs.map (fun x => x.1.out))

/-- One entry of READ: the value of R77, with a rounding and R69 after each operation, and the accumulator's tag. -/
theorem readOne_spec (w : StepWord) (r : Core) (a : Acc) (o : VWord) (sT : F32) :
    let x := (readOne a (if w.getLsbD 99 then some o else none) (r.ea.getD 127) sT).1
    let x1 := (r69 (f32Scale (f32OfInt (clampInt (-(2 ^ 31)) (2 ^ 31 - 1) a.v.toInt)) ((r.ea.getD 127 : Nat) - 127))).v
    let x2 := if w.getLsbD 99 then (r69 (f32Add x1 o.v)).v else x1
    (x.word.v, x.word.tag) = ((r69 (f32Mul x2 sT)).v, a.tag) := by
  cases w.getLsbD 99 <;> rfl

/-- READ counts the entries whose accumulator lies beyond 32 bits. -/
theorem readRows_saturated (w : StepWord) (r : Core) :
    ((readRows w r).filter (fun x => x.2)).length =
      (List.filter (fun (a : Acc) => decide (clampInt (-(2 ^ 31)) (2 ^ 31 - 1) a.v.toInt ≠ a.v.toInt))
        ((List.zip (Tbl.slice Acc.zero r.acc (fld w 52 40) (fld w 66 53))
          (Tbl.slice VWord.zero r.osum (fld w 52 40) (fld w 66 53))).map (·.1))).length := by
  unfold readRows
  rw [← List.map_uncurry_zip_eq_zipWith, List.filter_map, List.filter_map, List.length_map, List.length_map]
  rfl

/-- Settles O19: each entry goes through R77, and the steps before the results' flight touch counters, flags and what the
clear bit names. -/
theorem readCompletes : Obligations.ReadCompletes := by
  unfold Obligations.ReadCompletes
  intro c w s t d h r lo n sat as satd
  have hafter : ∀ e : Device, Quiet c.val e ((e.noteRead c.val r lo ((readRows w r).map (fun x => x.1.v))).flyStage c.val
      (t + ceilDiv n 64 + 4) lo ((readRows w r).map (fun x => x.1.out))) :=
    fun e => (Quiet.noteRead _ _ _ _ _).trans (flyStage_spec _ _ _ _ _).1
  have hctr : ∀ k, (d.readOut c.val w t).ctr k = (d.countSat c.val ((readRows w r).filter (fun x => x.2)).length).ctr k := by
    intro k
    unfold Device.readOut Device.noteRead Device.clearRead
    dsimp only
    rw [Device.ctr_flyStage, Device.ctr_modCore]
    split <;> rfl
  have hawait : (d.readOut c.val w t).awaits c.val (t + ceilDiv n 64 + 4)
      (.stage lo (((readRows w r).map (fun x => x.1.out)).map (fun x => x.1))) := (flyStage_spec _ _ _ _ _).2
  refine ⟨d.readOut c.val w t, _, run_issues h _, hawait,
    ?values, ?others, ?count, ?kept, ?cleared, ?same⟩
  case values =>
    rw [List.map_map, List.map_map]
    unfold readRows
    rw [List.map_zipWith]
    congr 1
    funext a o
    exact readOne_spec w r a o _
  case others => exact fun k hk => (hctr k).trans (Device.ctr_countSat_other d _ _ hk)
  case count =>
    intro hsat
    have hcount : ((readRows w r).filter (fun x => x.2)).length = satd := readRows_saturated w r
    rw [hctr, hcount, Device.ctr_countSat d _ _ hsat]
  case kept =>
    intro hb
    refine (hafter _).sameRegs.trans ?_
    rw [Device.clearRead, hb]
    exact (Quiet.countSat _ _ _).regs
  case cleared =>
    intro hb
    refine (hafter _).regs.trans ?_
    rw [Device.clearRead, hb, if_pos rfl, Device.core_modCore_same, (Quiet.countSat _ _ _).regs]
  case same =>
    exact ((Quiet.countSat _ _ _).sameOthers.trans (sameOthers_clearRead _ _ _ _ _)).trans (hafter _).sameOthers

/-! ### PATA, PATB and OUTL -/

/-- PATA's effect behind the read of its matrix `fs` (R82, R133). -/
def Device.sendU (d : Device) (c : Nat) (w : StepWord) (t : Nat) (h : HeldVec) (fs : List RWord) : Device :=
  let n := fld w 113 100
  let r := fld w 85 79 + 1
  let us := patinaU (h.xs n) (bf16Elems fs) r n (if w.getLsbD 86 then h.tag else .none)
  let d := d.fly c (t + macCycles n r + 6) (.u (w.getLsbD 86) h.layer (us.map Val.word))
  let d := if us.any (·.degraded) then d.degradeTag c h.tag else d
  if w.getLsbD 86 && us.any (·.poison) then d.modCore c (fun y => { y with seq := y.seq.notePoisonIf true h.tag }) else d

theorem sendU_spec (d : Device) (c : Nat) (w : StepWord) (t : Nat) (h : HeldVec) (fs : List RWord) :
    Quiet c d (d.sendU c w t h fs) ∧
      (d.sendU c w t h fs).awaits c (t + ceilDiv (fld w 113 100 * (fld w 85 79 + 1)) 1024 + 6) (.u (w.getLsbD 86) h.layer
        ((patinaU (h.xs (fld w 113 100)) (bf16Elems fs) (fld w 85 79 + 1) (fld w 113 100)
          (if w.getLsbD 86 then h.tag else .none)).map Val.word)) := by
  unfold Device.sendU
  dsimp only
  have hafter : ∀ (e : Device) (p q : Bool), Quiet c e (if q then (if p then e.degradeTag c h.tag else e).modCore c
      (fun y => { y with seq := y.seq.notePoisonIf true h.tag }) else if p then e.degradeTag c h.tag else e) := fun e p q =>
    (Quiet.ite _ (Quiet.degradeTag c e h.tag)).trans
      (Quiet.ite _ (Quiet.modCore _ (fun _ => rfl) (fun _ => Seq.landing_notePoisonIf _ _ _)))
  exact ⟨(Quiet.fly _ _ _ _).trans (hafter _ _ _), (hafter _ _ _).await _ _ (awaits_fly _ _ _ _)⟩

/-- PATA on a held vector: nothing without a pin, else the read of its matrix and the sums. -/
theorem exec_pata {s : State} {c : CoreIx} {w : StepWord} {t : Nat} {d : Device} {h : HeldVec}
    (hh : (d.core c.val).regs.held = some h)
    (hi : s.issues c w (fun d => d.patPlan c.val w 0 (fld w 113 100) 0 (checkIdx 0 (fld w 113 100))) t d) :
    let a := aForm w 40
    let words := ceilDiv ((fld w 85 79 + 1) * fld w 113 100) 2
    let f := if w.getLsbD 86 then d.readFactor c.val (d.pinOf h) h.layer words false
             else d.readH a.handle (a.byteOff (d.core c.val).regs) words
    exec (.pata c w) s = s.goes (if w.getLsbD 86 && decide (d.pinOf h = 0) then d else f.2.sendU c.val w t h f.1) := by
  refine (run_issues hi _).trans (congrArg s.goes ?_)
  dsimp only
  rw [hh]
  rfl

/-- OUTL's note of the cycles that compact mode saves (R135). -/
theorem quiet_outlSaved (c : Nat) (d : Device) (b : Bool) (n : Nat) :
    Quiet c d (if b then (d.bump (key 0xC020 6) n).modCore c (fun x => { x with seq := x.seq.setFlag flCompact }) else d) :=
  Quiet.ite _ ((Quiet.bump _ _ _ _).trans (Quiet.modCore _ (fun _ => rfl) (fun _ => rfl)))

/-- Settles O21. -/
theorem patinaAndOutlier : Obligations.PatinaAndOutlier := by
  unfold Obligations.PatinaAndOutlier
  intro c w s t d r n k a
  refine ⟨fun h hh hi => ⟨fun hw hpin => ?none, fun hw => ?common, fun hw hpin => ?pinned⟩, fun hi => ?outl⟩
  case none =>
    refine (exec_pata hh hi).trans (congrArg s.goes (if_pos ?_))
    rw [hw, hpin]
    rfl
  case common =>
    intro f
    have hexec := exec_pata hh hi
    have hsent := sendU_spec f.2 c.val w t h f.1
    simp only [hw, Bool.false_and, Bool.false_eq_true, if_false] at hexec hsent
    exact ⟨_, hexec, hsent.2, hsent.1.sameRegs, hsent.1.sameOthers⟩
  case pinned =>
    intro f
    have hexec := exec_pata hh hi
    have hsent := sendU_spec f.2 c.val w t h f.1
    simp only [hw, hpin, decide_false, Bool.and_false, Bool.false_eq_true, if_false, if_true] at hexec hsent
    exact ⟨_, hexec, hsent.2, hsent.1.sameRegs, hsent.1.sameOthers⟩
  case outl =>
    have hquiet := quiet_outlSaved c.val d r.oinfo.compact ((r.oinfo.cap - r.olist.length) * outlU (fld w 66 53))
    refine ⟨_, run_issues hi _, awaits_fly _ _ _ _, ?_⟩
    exact ⟨(hquiet.trans (Quiet.fly _ _ _ _)).sameRegs, (hquiet.trans (Quiet.fly _ _ _ _)).sameOthers⟩

/-- The latest output record takes the values with a term (R86). -/
def Device.patchNorms (d : Device) (c lo : Nat) (ys : List F32) : Device :=
  d.modCore c (fun y => { y with seq := { y.seq with norms := patchOuts lo ys y.seq.norms } })

theorem Quiet.patchNorms (c : Nat) (d : Device) (lo : Nat) (ys : List F32) : Quiet c d (d.patchNorms c lo ys) :=
  Quiet.modCore d (fun _ => rfl) (fun _ => rfl)

/-- PATB's addition of a term to staging (R82, R133). -/
def Device.addTerm (d : Device) (c lo t : Nat) (old ts : List Val) : Device :=
  let vs := List.zipWith (Val.op2 f32Add) old ts
  (d.patchNorms c lo (vs.map (·.v))).flyStage c t lo (vs.map Val.out)

theorem addTerm_spec (d : Device) (c lo t : Nat) (old ts : List Val) :
    Quiet c d (d.addTerm c lo t old ts) ∧
      (d.addTerm c lo t old ts).awaits c t (.stage lo ((List.zipWith (Val.op2 f32Add) old ts).map Val.word)) := by
  unfold Device.addTerm
  dsimp only
  obtain ⟨hquiet, hawait⟩ := flyStage_spec c (d.patchNorms c lo ((List.zipWith (Val.op2 f32Add) old ts).map (·.v))) t lo
    ((List.zipWith (Val.op2 f32Add) old ts).map Val.out)
  rw [List.map_map] at hawait
  exact ⟨(Quiet.patchNorms _ _ _ _).trans hquiet, hawait⟩

/-- A term that PATB adds is on its way to staging. -/
theorem addTerm_sends {s : State} {c : CoreIx} {o : Host.Outcome State Fault Refusal} {d : Device} {lo t : Nat} {old ts : List Val}
    (h : o = s.goes (d.addTerm c.val lo t old ts)) :
    ∃ u, o = s.goes u ∧ u.awaits c.val t (.stage lo ((List.zipWith (Val.op2 f32Add) old ts).map Val.word)) ∧
      sameRegs d u c.val ∧ sameOthers d u c.val :=
  have hsent := addTerm_spec d c.val lo t old ts
  ⟨_, h, hsent.2, hsent.1.sameRegs, hsent.1.sameOthers⟩

/-- Settles O22: which term PATB adds, by its path and what PATA left. -/
theorem patbCompletes : Obligations.PatbCompletes := by
  unfold Obligations.PatbCompletes
  intro c w s t d r n k lo a land old hi
  refine ⟨fun hw => ?common, fun h hw hh hpin => ?unpinned, fun h hw hh hpin hua => ?noU, fun h hw hh hpin hua => ?pinned⟩
  case common =>
    intro f
    refine addTerm_sends ((run_issues hi _).trans (congrArg s.goes ?_))
    dsimp only
    rw [if_neg (by rw [hw]; decide)]
    rfl
  case unpinned =>
    refine (run_issues hi _).trans (congrArg s.goes ?_)
    dsimp only
    rw [if_pos hw, show (d.core c.val).regs.held = some h from hh]
    exact if_pos hpin
  case noU =>
    refine addTerm_sends ((run_issues hi _).trans (congrArg s.goes ?_))
    dsimp only
    rw [if_pos hw, show (d.core c.val).regs.held = some h from hh]
    dsimp only
    rw [if_neg hpin, if_pos (by rw [show (d.core c.val).regs.ua = [] from hua]; rfl)]
    rfl
  case pinned =>
    intro f al fs hf us
    refine addTerm_sends ((run_issues hi _).trans (congrArg s.goes ?_))
    dsimp only
    rw [if_pos hw, show (d.core c.val).regs.held = some h from hh]
    dsimp only
    have hf' : (d.readFactor c.val (d.pinOf h) (d.core c.val).regs.uaLayer
      (ceilDiv ((fld w 85 79 + 1) * fld w 113 100) 2 + 1) true).1 = al :: fs := hf
    rw [if_neg hpin, if_neg (by simpa using hua), hf']
    rfl

end Sys2Proof.Machine
end

section
/-!
SUPPORT. Row, top-k, sampling, move and sync words (R125, R126, R136, R139–R142, R309).
-/
namespace Sys2Proof.Machine

/-! ### RDROW, WRROW and ENABLE -/

/-- Records of enables on their way, position by position; none of them moves a logical position. -/
theorem foldl_enableAt (c mode : Nat) (fm : Bool) (t : Nat) (ws : Nat → List RWord) (x : Device) (l : List Nat) (d : Device)
    (h : ∀ p, d.physAt c p = x.physAt c p) :
    l.foldl (fun d p => d.enableAt c mode fm t (ws p) p) d =
      l.foldl (fun d p => d.fly c t (.enable (x.physAt c p) mode (enableBits (ws p) fm) fm)) d := by
  induction l generalizing d with
  | nil => rfl
  | cons p l ih =>
    rw [List.foldl_cons, List.foldl_cons, Device.enableAt, h p]
    exact ih _ h

/-- A poisoned operand counts as written into state tagged all (R126, R174). -/
def Device.poisonStep (d : Device) (c : Nat) : Device :=
  d.modCore c (fun y => { y with seq := y.seq.notePoisonIf true .all })

theorem Quiet.poisonStep (c : Nat) (d : Device) : Quiet c d (d.poisonStep c) :=
  Quiet.modCore d (fun _ => rfl) (fun _ => Seq.landing_notePoisonIf _ _ _)

theorem poisonStep_seq (d : Device) (c : Nat) : ((d.poisonStep c).core c).seq.landing = (d.core c).seq.landing ∧
    ((d.poisonStep c).core c).seq.poisonAll = true := by
  unfold Device.poisonStep
  rw [Device.core_modCore_same]
  exact ⟨Seq.landing_notePoisonIf _ _ _, rfl⟩

/-- What WRROW reads of its data and mask, behind the slot it takes. -/
def Device.wrrowRead (d : Device) (c : Nat) (w : StepWord) (t : Nat) : List RWord × Device :=
  (d.takeSlots c (d.physAt c (fld w 83 79)) t [⟨t + 1, 2, true, true, none⟩]).readH (aForm w 40).handle
    ((aForm w 40).byteOff (d.core c).regs) 66

theorem Quiet.wrrowRead (d : Device) (c : Nat) (w : StepWord) (t : Nat) : Quiet c d (d.wrrowRead c w t).2 :=
  (Quiet.takeSlots c d _ _ _).trans (Quiet.calm (Calm.readH _ _ _ _))

theorem exec_wrrow {s : State} {c : CoreIx} {w : StepWord} {t : Nat} {d : Device}
    (h : s.issues c w (fun d => d.wrrowPlan c.val w) t d) :
    let x := d.wrrowRead c.val w t
    let lim := if w.getLsbD 92 then 1040 else 1024
    exec (.wrrow c w) s = s.goes (if x.1.any (·.poison) then x.2.poisonStep c.val
      else x.2.fly c.val (t + 3) (.row (x.2.physAt c.val (fld w 83 79)) (fld w 91 84) (wordsNat (x.1.take 33) % 2 ^ lim)
        (wordsNat (x.1.drop 33) % 2 ^ lim) (w.getLsbD 92))) := by
  refine (run_issues h _).trans (congrArg s.goes ?_)
  dsimp only
  rw [(Quiet.takeSlots c.val d _ _ _).regs]
  rfl

theorem exec_rdrow {s : State} {c : CoreIx} {w : StepWord} {t : Nat} {d : Device}
    (h : s.issues c w (fun d => d.rdrowPlan c.val w) t d) :
    let phys := d.physAt c.val (fld w 83 79)
    let e := d.takeSlots c.val phys t [⟨t, 2, true, true, none⟩]
    exec (.rdrow c w) s = s.goes (e.fly c.val (t + 4) (.buf (aForm w 40).handle ((aForm w 40).byteOff (d.core c.val).regs)
      (if w.getLsbD 92 then maskWords 33 ((e.engine c.val phys).rowPhys (fld w 91 84)) false
       else maskWords 32 ((e.engine c.val phys).rowLog (fld w 91 84)) false))) := by
  refine (run_issues h _).trans (congrArg s.goes ?_)
  dsimp only
  rw [(Quiet.takeSlots c.val d _ _ _).regs]

/-- ENABLE's clean records, each on its way to the engine that carries its position. -/
def Device.sendEnables (d : Device) (c : Nat) (w : StepWord) (t ng : Nat) (ws : Nat → List RWord) : Device :=
  (List.range ng).foldl (fun e p => e.fly c (t + enableCycles ng (w.getLsbD 100) + 1)
    (.enable (d.physAt c p) (fld w 99 98) (enableBits (ws p) (w.getLsbD 100)) (w.getLsbD 100))) d

theorem sendEnables_spec (d : Device) (c : Nat) (w : StepWord) (t ng : Nat) (ws : Nat → List RWord) :
    Quiet c d (d.sendEnables c w t ng ws) ∧ ∀ p, p < ng → (d.sendEnables c w t ng ws).awaits c
      (t + enableCycles ng (w.getLsbD 100) + 1)
      (.enable (d.physAt c p) (fld w 99 98) (enableBits (ws p) (w.getLsbD 100)) (w.getLsbD 100)) := by
  refine ⟨Quiet.foldl (fun e _ => Quiet.fly c e _ _) _ _, fun p hp => ?_⟩
  exact foldl_mem (P := fun p e => e.awaits c (t + enableCycles ng (w.getLsbD 100) + 1)
    (.enable (d.physAt c p) (fld w 99 98) (enableBits (ws p) (w.getLsbD 100)) (w.getLsbD 100)))
    (fun e _ => Quiet.fly c e _ _) (fun e _ => awaits_fly e _ _ _) (fun _ _ _ k hk => k.await _ _ hk) _ d p (List.mem_range.mpr hp)

theorem exec_enable {s : State} {c : CoreIx} {w : StepWord} {t : Nat} {d : Device}
    (h : s.issues c w (fun d => d.enablePlan c.val w) t d) :
    let r := (d.core c.val).regs
    let ng := 2 ^ (r.gi + r.go)
    let sz := if w.getLsbD 100 then 256 else 128
    let x := d.readH (aForm w 40).handle ((aForm w 40).byteOff r) (sz * ng / 4)
    exec (.enable c w) s = s.goes (if x.1.any (·.poison) then x.2.poisonStep c.val
      else x.2.sendEnables c.val w t ng (fun p => (x.1.drop (sz / 4 * p)).take (sz / 4))) := by
  intro r ng sz x
  refine (run_issues h _).trans (congrArg s.goes ?_)
  dsimp only
  rw [foldl_enableAt c.val _ _ _ (fun p => (x.1.drop (sz / 4 * p)).take (sz / 4)) x.2 _ x.2 (fun _ => rfl)]
  rfl

/-- Settles O16: the row words take the engine's slot first, and ENABLE's records are in flight to the engines that carry the
positions at its issue. -/
theorem rowWordsComplete : Obligations.RowWordsComplete := by
  unfold Obligations.RowWordsComplete
  intro c w s t d r a phys
  refine ⟨?rdrow, ?wrrow, ?enable, ?lands⟩
  case rdrow => exact fun h => exec_rdrow h
  case wrrow =>
    intro h x lim
    have hx : x = d.wrrowRead c.val w t := by
      show (d.takeSlots c.val phys t _).readH _ _ _ = _
      unfold Device.wrrowRead
      rfl
    rw [hx]
    refine ⟨fun hclean => ?_, fun hpoison => ?_⟩
    · exact (exec_wrrow h).trans (congrArg s.goes (if_neg (Bool.eq_false_iff.mp hclean)))
    · obtain ⟨hland, hmark⟩ := poisonStep_seq (d.wrrowRead c.val w t).2 c.val
      have hquiet := (Quiet.wrrowRead d c.val w t).trans (Quiet.poisonStep c.val _)
      exact ⟨_, (exec_wrrow h).trans (congrArg s.goes (if_pos hpoison)), hland, hmark, hquiet.sameRegs, hquiet.sameOthers⟩
  case enable =>
    intro h ng sz x hclean
    obtain ⟨hquiet, hawait⟩ := sendEnables_spec x.2 c.val w t ng (fun p => (x.1.drop (sz / 4 * p)).take (sz / 4))
    exact ⟨_, (exec_enable h).trans (congrArg s.goes (if_neg (Bool.eq_false_iff.mp hclean))), hawait, hquiet.sameRegs,
      hquiet.sameOthers⟩
  case lands =>
    intro e p m en fm old
    unfold Device.applyLand
    dsimp only
    rw [Device.engine_mod_same]
    rfl

/-! ### Moves -/

/-- Settles O23: a move is queued under the core's next number. -/
theorem moveWordsQueue : Obligations.MoveWordsQueue := by
  unfold Obligations.MoveWordsQueue
  intro c w s t d r q a waits side
  exact ⟨fun h => run_issues h _, fun h => run_issues h _, fun h => run_issues h _⟩

/-! ### The top-k list -/

/-- The list is marked when some score is poisoned or no number. -/
theorem offered_marks (es : List (VWord × Nat)) :
    (!(offered es).2.isEmpty) = es.any (fun e => e.1.poison || f32IsNaN e.1.v) := by
  unfold offered
  rw [List.isEmpty_map, Bool.eq_iff_iff, Bool.not_eq_true', List.isEmpty_eq_false_iff, ne_eq, List.filter_eq_nil_iff, List.any_eq_true]
  simp only [Classical.not_forall, Classical.not_not, exists_prop]

/-- Offering scores counts nothing and is in flight to the top-k unit alone. -/
theorem offerTop_spec (d : Device) (c t : Nat) (clear : Bool) (k : Nat) (es : List (VWord × Nat)) :
    Quiet c d (d.offerTop c t clear k es) ∧ (d.offerTop c t clear k es).awaits c t
      (.topk clear k ((es.filter (fun e => !(e.1.poison || f32IsNaN e.1.v))).map (fun e => ⟨e.1.v, BitVec.ofNat 32 e.2⟩))
        (es.any (fun e => e.1.poison || f32IsNaN e.1.v)) (joinTags (es.map (fun e => e.1.tag)))) := by
  refine ⟨(Quiet.notes c d (offered es).2).trans (Quiet.fly _ _ _ _), ?_⟩
  rw [← offered_marks]
  exact awaits_fly _ _ _ _

theorem map_snd_numbered {α : Type} (xs : List α) (n : Nat) : (numbered n xs).map (fun e => e.2) = xs := by
  induction xs generalizing n with
  | nil => rfl
  | cons x xs ih => rw [numbered, List.map_cons, ih]

/-- The words of TOPKOUT without poison and tag: k entries, sentinels after the last. -/
theorem TopK.words_values (u : TopK) : (u.words.map (fun x => x.1)).map (fun x => x.w) =
    (List.range (u.k.getD 0)).flatMap (fun i => match u.list[i]? with
      | some e => [e.score, e.ident]
      | none => [f32NegInf, 0xFFFFFFFF#32]) := by
  unfold TopK.words
  rw [List.map_map, List.map_map]
  exact map_snd_numbered _ _

/-- Settles O25. -/
theorem topKWords : Obligations.TopKWords := by
  unfold Obligations.TopKWords
  intro c w s t d r n a entries bad
  refine ⟨?topk, ?topkmrg, ?topkout⟩
  case topk =>
    intro h es
    obtain ⟨hquiet, hawait⟩ := offerTop_spec (d.bump (key 0x6040 2) n) c.val (t + ceilDiv n 128 + 8) (w.getLsbD 77)
      (fld w 76 67 + 1) es
    exact ⟨_, run_issues h _, hawait, Device.ctr_bump_same _ _ _, hquiet.sameRegs, hquiet.sameOthers⟩
  case topkmrg =>
    intro h m x es
    obtain ⟨hquiet, hawait⟩ := offerTop_spec (x.2.bump (key 0x6040 3) m) c.val (t + ceilDiv m 128 + 8) (w.getLsbD 100)
      (fld w 99 90 + 1) es
    exact ⟨_, run_issues h _, hawait, Device.ctr_bump_same _ _ _, hquiet.sameRegs, hquiet.sameOthers⟩
  case topkout =>
    intro k hk h
    have hk' : (d.core c.val).regs.topk.k.getD 0 = k := by
      rw [show (d.core c.val).regs.topk.k = some k from hk]
      rfl
    have hexec := run_issues h (fun t d =>
      let r := (d.core c.val).regs
      let at_ := t + ceilDiv (r.topk.k.getD 0) 64 + 2
      let d := d.flyBuf c.val at_ (aForm w 40).handle ((aForm w 40).byteOff r) r.topk.words
      if w.getLsbD 79 then d.fly c.val at_ .topkClear else d)
    dsimp only at hexec
    rw [hk'] at hexec
    have hclear : ∀ (e : Device) (t : Nat), Quiet c.val e (if w.getLsbD 79 then e.fly c.val t .topkClear else e) :=
      fun e t => Quiet.ite _ (Quiet.fly _ _ _ _)
    have hall := (Quiet.flyBuf c.val d (t + ceilDiv k 64 + 2) a.handle (a.byteOff r) r.topk.words).trans (hclear _ (t + ceilDiv k 64 + 2))
    refine ⟨_, r.topk.words.map (fun x => x.1), hexec, (hclear _ _).await _ _ (awaits_flyBuf _ _ _ _ _ _), ?_, fun hb => ?_,
      hall.sameRegs, hall.sameOthers⟩
    · rw [TopK.words_values, show r.topk.k.getD 0 = k from hk'] <;> rfl
    · rw [if_pos hb]
      exact awaits_fly _ _ _ _

/-! ### SAMPLE -/

/-- The owner itself changes the entry. -/
theorem tellOwner_owned {d : Device} {i : Nat} (m : Coord → OutMsg) (f : Device → Device) (h : d.ownsInst i = true) :
    d.tellOwner i m f = f d := by
  unfold Device.ownsInst at h
  unfold Device.tellOwner
  cases hm : (d.inst i).maq with
  | none => rfl
  | some x =>
    rw [hm] at h
    exact if_pos (of_decide_eq_true h)

/-- Another device reports to the owner. -/
theorem tellOwner_far {d : Device} {i : Nat} {x : Maq} (m : Coord → OutMsg) (f : Device → Device)
    (hm : (d.inst i).maq = some x) (h : x.extra.serving.home ≠ d.fab.coord) :
    d.tellOwner i m f = d.send (m x.extra.serving.home) := by
  unfold Device.tellOwner
  rw [hm]
  exact if_neg h

/-- A degraded mark leaves the device's place in the fabric. -/
theorem Device.coord_degradeTag (d : Device) (c : Nat) (t : Tag) : (d.degradeTag c t).fab.coord = d.fab.coord := by
  have degrade : ∀ (e : Device) (s : Nat), (e.degrade s).fab.coord = e.fab.coord := fun e s => by
    unfold Device.degrade
    split <;> rfl
  have fold : ∀ (l : List Nat) (i : Nat) (e : Device), (l.foldl (fun d s =>
      d.tellOwner i (fun h => .stepStatus h s 0 true none) (fun d => d.degrade s)) e).fab.coord = e.fab.coord := by
    intro l i
    induction l with
    | nil => exact fun _ => rfl
    | cons s l ih =>
      refine fun e => (ih _).trans ?_
      unfold Device.tellOwner
      dsimp only
      split
      · exact degrade e s
      · split
        · exact degrade e s
        · rfl
  unfold Device.degradeTag
  dsimp only
  split
  · rfl
  · exact fold _ _ _

/-- Reading the mask stage keeps what is told of the device. -/
theorem Calm.sampleMask (d : Device) (c x mode base n : Nat) : Calm d (d.sampleMask c x mode base n).2 := by
  unfold Device.sampleMask
  split
  · exact .refl d
  · split
    · exact .refl d
    · exact Calm.readH _ _ _ _

/-- SAMPLE's chunk taken in (R228): the sampling unit, and the degraded mark of its request. -/
def Device.tookChunk (d : Device) (c x : Nat) (u : Sampler) (deg : Bool) : Device :=
  let d := d.modCore c (fun y => { y with regs := { y.regs with samp := u } })
  if deg then d.degradeTag c (.pos x) else d

theorem tookChunk_regs (d : Device) (c x : Nat) (u : Sampler) (deg : Bool) :
    ((d.tookChunk c x u deg).core c).regs = { (d.core c).regs with samp := u } := by
  unfold Device.tookChunk
  dsimp only
  rw [(Quiet.ite _ (Quiet.degradeTag c _ _)).regs, Device.core_modCore_same]

theorem sameOthers_tookChunk (d : Device) (c x : Nat) (u : Sampler) (deg : Bool) : sameOthers d (d.tookChunk c x u deg) c :=
  (sameOthers_modCore d c _).trans (Quiet.ite _ (Quiet.degradeTag c _ _)).sameOthers

theorem tookChunk_cast (d : Device) (c x : Nat) (u : Sampler) (deg : Bool) :
    (d.tookChunk c x u deg).cast = d.cast ∧ (d.tookChunk c x u deg).fab.coord = d.fab.coord := by
  unfold Device.tookChunk
  dsimp only
  split
  · exact ⟨Device.cast_degradeTag _ _ _, Device.coord_degradeTag _ _ _⟩
  · exact ⟨rfl, rfl⟩

/-- A token drawn becomes the request's (R17): its entry here, or a report to its owner. -/
def Device.tellToken (d : Device) (i slot tok : Nat) : Device :=
  d.tellOwner i (fun h => .stepStatus h slot 0 false (some tok)) (fun d => d.setAux slot { d.aux slot with token := some tok })

theorem Quiet.tellToken (c : Nat) (d : Device) (i slot tok : Nat) : Quiet c d (d.tellToken i slot tok) := by
  unfold Device.tellToken Device.tellOwner
  split
  · exact .of_core (fun _ => rfl) rfl
  · split
    · exact .of_core (fun _ => rfl) rfl
    · exact .of_core (fun _ => rfl) rfl

theorem aux_setAux_same (d : Device) (s : Nat) (x : ReqAux) : (d.setAux s x).aux s = x := by
  unfold Device.aux Device.setAux
  exact Tbl.get_set_same _ _ _ _

/-- SAMPLE on the row of its token. -/
theorem exec_sample {s : State} {c : CoreIx} {w : StepWord} {t : Nat} {d : Device} {row : LenRow} {x : Nat}
    (h : s.issues c w (fun d => d.samplePlan c.val w) t d)
    (hrow : (d.core c.val).seq.rowOf (tForm w 85 (d.core c.val).regs) = some (row, x)) :
    let r := (d.core c.val).regs
    let n := fld w 66 53
    let p := d.profile row.slot
    let g := if f32IsZero p.temp then f32One else (r69 (f32Recip p.temp)).v
    let m := d.sampleMask c.val x (d.req row.slot).maskMode (fld w 84 67) n
    let ch := (if w.getLsbD 100 then Sampler.start else r.samp).chunk g (fld w 84 67)
      (List.zip (Tbl.slice VWord.zero r.stage (fld w 52 40) n) m.1)
    let samp := { ch.1 with tag := .pos x }
    let tok := samp.draw p (drawU (d.req row.slot).seed (row.p + row.q))
    exec (.sample c w) s = s.goes (if w.getLsbD 101 then
      ((m.2.tookChunk c.val x samp ch.2).tellToken (d.core c.val).seq.plan.inst row.slot tok).flyQ c.val
        (t + ceilDiv n 64 + 1044) (fld w 105 102) ⟨BitVec.ofNat 32 tok, samp.poison, .pos x⟩ false
      else m.2.tookChunk c.val x samp ch.2) := by
  refine (run_issues h _).trans (congrArg s.goes ?_)
  dsimp only
  rw [hrow]
  rfl

/-- A Q register's value that R69 did not degrade changes the core alone. -/
theorem flyQ_exact (d : Device) (c t r : Nat) (v : VWord) :
    (d.flyQ c t r v false).serv = d.serv ∧ (d.flyQ c t r v false).out = d.out := ⟨rfl, rfl⟩

/-- Settles O26. -/
theorem sampleCompletes : Obligations.SampleCompletes := by
  unfold Obligations.SampleCompletes
  intro c w s t d row x r n base rq p g m ch samp tok h hrow
  have hmask : Calm d m.2 := Calm.sampleMask _ _ _ _ _ _
  have hregs : ((m.2.tookChunk c.val x samp ch.2).core c.val).regs = { r with samp := samp } := by
    rw [tookChunk_regs, hmask.core]
  obtain ⟨hcast, hcoord⟩ := tookChunk_cast m.2 c.val x samp ch.2
  have hcast : (m.2.tookChunk c.val x samp ch.2).cast = d.cast := hcast.trans hmask.cast
  have hcoord : (m.2.tookChunk c.val x samp ch.2).fab.coord = d.fab.coord := hcoord.trans hmask.coord
  have hinst : ∀ i, (m.2.tookChunk c.val x samp ch.2).inst i = d.inst i := fun i => by
    unfold Device.inst
    rw [hcast]
  refine ⟨_, exec_sample h hrow, ?_⟩
  by_cases hlast : w.getLsbD 101 = true
  · rw [if_pos hlast]
    obtain ⟨hquiet, hawait⟩ := flyQ_spec c.val ((m.2.tookChunk c.val x samp ch.2).tellToken (d.core c.val).seq.plan.inst row.slot tok)
      (t + ceilDiv n 64 + 1044) (fld w 105 102) ⟨BitVec.ofNat 32 tok, samp.poison, .pos x⟩ false
    have htold := (Quiet.tellToken c.val (m.2.tookChunk c.val x samp ch.2) (d.core c.val).seq.plan.inst row.slot tok).trans hquiet
    refine ⟨htold.regs.trans hregs, (sameOthers_tookChunk _ _ _ _ _).trans htold.sameOthers, fun _ => ⟨hawait, fun hown => ?_,
      fun i hi hfar => ?_⟩⟩
    · unfold Device.aux
      rw [(flyQ_exact _ _ _ _ _).1]
      have howns : (m.2.tookChunk c.val x samp ch.2).ownsInst (d.core c.val).seq.plan.inst = true := by
        unfold Device.ownsInst at hown ⊢
        rw [hinst, hcoord]
        exact hown
      rw [Device.tellToken, tellOwner_owned _ _ howns]
      exact congrArg ReqAux.token (aux_setAux_same _ _ _)
    · rw [(flyQ_exact _ _ _ _ _).2, Device.tellToken, tellOwner_far _ _ ((congrArg Inst.maq (hinst _)).trans hi) (by rw [hcoord]; exact hfar)]
      exact List.mem_append_right _ (List.mem_singleton.mpr rfl)
  · rw [if_neg hlast]
    exact ⟨hregs, sameOthers_tookChunk _ _ _ _ _, fun h => absurd h hlast⟩

end Sys2Proof.Machine
end

section
/-!
SUPPORT. Sync words on an object of this device: what the operation does to the object and to those that wait (R309, R310, R139).
-/
namespace Sys2Proof.Machine

/-! ### Waiters that are let go -/

theorem elasticDone_sync (d : Device) (c id t : Nat) : (d.elasticDone c id t).sync = d.sync := rfl

theorem release_sync (d : Device) (w : Waiter) : (d.release w).sync = d.sync := by
  unfold Device.release
  split <;> rfl

theorem releaseAll_sync (d : Device) (ws : List Waiter) : (d.releaseAll ws).sync = d.sync := by
  induction ws generalizing d with
  | nil => rfl
  | cons w ws ih => exact (ih _).trans (release_sync d w)

/-- The waiting WAITs that the value satisfies are gone; objects and the other waiters stay (R310). -/
theorem judge_sync (d : Device) (obj : Nat) (v : Word) :
    (d.judge obj v).sync = { d.sync with waiters := d.sync.waiters.filter (fun w => !w.met obj v) } := by
  unfold Device.judge
  exact releaseAll_sync _ _

/-- The open generation is closed: its arrivals start anew, and those that wait for it are gone (R309). -/
theorem releaseGen_sync (d : Device) (obj : Nat) (o : SyncObj) :
    (d.releaseGen obj o).sync = { d.sync with
      objs := Tbl.put d.sync.objs obj { o with gen := (o.gen + 1) % 65536, arrivals := 0, barrier := 0 },
      waiters := d.sync.waiters.filter (fun w => !(decide (w.obj = obj) && w.arrive)) } := by
  unfold Device.releaseGen
  exact releaseAll_sync _ _

/-! ### Operations on an object that stands -/

theorem syncApply_signal {d : Device} {obj : Nat} {ob : SyncObj} (a : Word) (w : Waiter)
    (h : Tbl.find? d.sync.objs obj = some ob) (hl : ob.lost = false) :
    d.syncApply obj 0 a w = (.done, ((d.putObj obj { ob with value := ob.value + a }).bump (key 0xB030 1) 1).judge obj (ob.value + a)) := by
  unfold Device.syncApply
  rw [h]
  dsimp only
  rw [if_neg (by rw [hl]; decide), if_pos rfl]

theorem syncApply_wait {d : Device} {obj : Nat} {ob : SyncObj} (a : Word) (w : Waiter)
    (h : Tbl.find? d.sync.objs obj = some ob) (hl : ob.lost = false) :
    d.syncApply obj 1 a w = if waitHolds ob.value a then (.done, d.bump (key 0xB030 2) 1)
      else if d.sync.waiters.length ≥ 4096 then (.full, d)
      else (.waiting, d.setSync { d.sync with waiters :=
        d.sync.waiters ++ [{ w with obj := obj, arrive := false, value := a }] }) := by
  unfold Device.syncApply
  rw [h]
  dsimp only
  rw [if_neg (by rw [hl]; decide), if_neg (by decide), if_pos rfl]

theorem syncApply_arrive {d : Device} {obj : Nat} {ob : SyncObj} (a : Word) (w : Waiter)
    (h : Tbl.find? d.sync.objs obj = some ob) (hl : ob.lost = false) (h0 : 0 < a.toNat) (h1 : a.toNat ≤ 65535)
    (hb : ob.barrier = 0 ∨ ob.barrier = a.toNat) :
    d.syncApply obj 2 a w =
      if ob.arrivals + 1 = a.toNat then (.done, d.releaseGen obj { ob with barrier := a.toNat, arrivals := a.toNat })
      else if d.sync.waiters.length ≥ 4096 then (.full, d)
      else (.waiting, (d.putObj obj { ob with barrier := a.toNat, arrivals := ob.arrivals + 1 }).setSync
        { (d.putObj obj { ob with barrier := a.toNat, arrivals := ob.arrivals + 1 }).sync with waiters :=
          d.sync.waiters ++ [{ w with obj := obj, arrive := true, value := a, gen := ob.gen }] }) := by
  unfold Device.syncApply
  rw [h]
  dsimp only
  rw [if_neg (by rw [hl]; decide), if_neg (by decide), if_neg (by decide), if_neg (by omega)]
  rfl

/-! ### The word -/

/-- The queued operation of a sync word of the step's own requests. -/
def Device.syncOp (d : Device) (c : Nat) (w : StepWord) (t op : Nat) : ElOp :=
  ⟨(d.core c).seq.nextOp, .sync, wTag w, t, false, true, op, fld w 83 52, (d.stepContext c).1, fld w 51 40,
    (d.stepContext c).2, none, []⟩

/-- What a sync word needs (R139). -/
def Device.syncPlan (d : Device) (c : Nat) (w : StepWord) (op : Nat) : OpPlan :=
  { listed := listedWord w 7 op
    fault := d.syncFault c (fld w 51 40) op (fld w 83 52)
    units := [⟨.sequencer, 0, 1⟩]
    latency := 1
    elastic := some 0 }

/-- What an operation's outcome does to the word's queue entry. -/
def settleSync (r : SyncRes × Device) (c id t : Nat) : Device :=
  match r with
  | (.done, d) => d.syncDone c id t
  | (.waiting, d) => d.markSync c id
  | (.full, d) => d
  | (.fault, d) => d.endStep c stSync t 0

/-- A sync word of the step's own requests on an object of this device. -/
theorem syncWord_here {s : State} {c : CoreIx} {w : StepWord} {t op obj : Nat} {d : Device}
    (h : s.issues c w (fun d => d.syncPlan c.val w op) t d)
    (hown : d.ownsStep c.val = true)
    (htr : ((d.queueOp c.val (d.syncOp c.val w t op)).translate (d.stepContext c.val).1 (fld w 51 40)).1 = some (.here obj)) :
    let e := ((d.queueOp c.val (d.syncOp c.val w t op)).translate (d.stepContext c.val).1 (fld w 51 40)).2
    s.lift (fun d => d.syncWord c.val w op) = s.goes (settleSync (e.syncApply obj op (BitVec.ofNat 32 (fld w 83 52))
      ⟨obj, false, BitVec.ofNat 32 (fld w 83 52), 0, some (c.val, (d.core c.val).seq.nextOp), e.fab.coord, 0⟩)
      c.val (d.core c.val).seq.nextOp t) := by
  have hown' : (d.queueOp c.val (d.syncOp c.val w t op)).ownsStep c.val = true := by
    unfold Device.ownsStep Device.queueOp at *
    rw [Device.core_modCore_same]
    exact hown
  refine (run_issues h _).trans (congrArg s.goes ?_)
  dsimp only
  rw [if_pos hown, if_pos hown]
  show (d.queueOp c.val (d.syncOp c.val w t op)).startSync c.val (d.syncOp c.val w t op) t = _
  unfold Device.startSync
  dsimp only
  rw [if_neg (by rw [hown']; decide)]
  rw [show ((d.queueOp c.val (d.syncOp c.val w t op)).translate (d.syncOp c.val w t op).dstH (d.syncOp c.val w t op).dstOff).1 =
    some (.here obj) from htr]
  rfl

/-- Translation keeps the core, the objects and the place in the fabric. -/
theorem Calm.translate (d : Device) (ctx vid : Nat) : Calm d (d.translate ctx vid).2 := by
  unfold Device.translate
  split
  · exact .refl d
  · exact Calm.readH _ _ _ _

/-- The tag of a queued operation that is done signals (R97). -/
theorem elasticDone_queued (d : Device) (c t : Nat) (o : ElOp) (hid : ∀ x ∈ (d.core c).seq.ops, x.ident ≠ (d.core c).seq.nextOp)
    (htag : o.tag ≠ 0) (hstep : o.ofStep = true) {e : Device} (he : e.core c = (d.queueOp c o).core c) :
    (((e.elasticDone c (d.core c).seq.nextOp t).core c).seq.tagSt o.tag).signal = some t := by
  have hfind : List.find? (fun (x : ElOp) => decide (x.ident = (d.core c).seq.nextOp)) (e.core c).seq.ops =
      some { o with ident := (d.core c).seq.nextOp } := by
    rw [he, Device.queueOp, Device.core_modCore_same]
    dsimp only
    rw [List.find?_append, List.find?_eq_none.mpr (fun x hx => by simpa using hid x hx)]
    simp
  unfold Device.elasticDone
  rw [Device.core_modCore_same, hfind]
  dsimp only
  rw [if_neg (by simp [htag, hstep])]
  unfold Seq.tagSt
  dsimp only
  rw [Tbl.get_put_same]

/-- Settles O24: the word reaches the object in its issue cycle, and each operation's outcome settles the queue entry. -/
theorem syncWords : Obligations.SyncWords := by
  unfold Obligations.SyncWords
  intro c w s t d op obj ob vid a id e hi hown htr hob hlost
  obtain ⟨x, hx⟩ : ∃ x, x = (e.translate (d.stepContext c.val).1 vid).2 := ⟨_, rfl⟩
  have hexec : s.lift (fun d => d.syncWord c.val w op) = s.goes (settleSync (x.syncApply obj op (BitVec.ofNat 32 a)
      ⟨obj, false, BitVec.ofNat 32 a, 0, some (c.val, id), x.fab.coord, 0⟩) c.val id t) := by
    rw [hx]
    exact syncWord_here hi hown htr
  have hcalm : Calm e x := hx ▸ Calm.translate _ _ _
  have hsync : x.sync = d.sync := hcalm.sync
  have hob' : Tbl.find? x.sync.objs obj = some ob := by rw [hsync]; exact hob
  have hcoord : x.fab.coord = d.fab.coord := hcalm.coord
  have hnat : a ≤ 65535 → (BitVec.ofNat 32 a).toNat = a := fun h => by
    rw [BitVec.toNat_ofNat, Nat.mod_eq_of_lt (by omega)]
  refine ⟨?signal, ?held, ?waits, ?opens, ?arrives⟩
  case signal =>
    rintro rfl
    rw [syncApply_signal _ _ hob' hlost] at hexec
    refine ⟨_, hexec, ?_, ?_, ?_⟩
    all_goals rw [settleSync, Device.syncDone, elasticDone_sync, judge_sync]
    · exact Tbl.find?_put_same _ _ _
    · intro o ho
      refine (Tbl.find?_put_other _ _ ho).trans ?_
      rw [hsync]
    · show x.sync.waiters.filter _ = _
      rw [hsync]
      rfl
  case held =>
    rintro rfl hmet
    rw [syncApply_wait _ _ hob' hlost, if_pos (show waitHolds _ _ = true from decide_eq_true hmet)] at hexec
    refine ⟨_, hexec, hsync, fun htag hid => ?_⟩
    exact elasticDone_queued d c.val (t + 1) (d.syncOp c.val w t 1) hid htag rfl (hcalm.core _)
  case waits =>
    rintro rfl hmet hlen
    rw [syncApply_wait _ _ hob' hlost, if_neg (by rw [show waitHolds _ _ = false from decide_eq_false hmet]; decide),
      if_neg (by rw [hsync]; omega), hcoord] at hexec
    refine ⟨_, hexec, ?_⟩
    show ({ x.sync with waiters := _ } : SyncS) = _
    rw [hsync]
  case opens =>
    rintro rfl h0 h1 hb hlast
    rw [syncApply_arrive _ _ hob' hlost (by rw [hnat h1]; exact h0) (by rw [hnat h1]; exact h1) (by rw [hnat h1]; exact hb),
      if_pos (by rw [hnat h1]; exact hlast)] at hexec
    refine ⟨_, hexec, ?_, ?_⟩
    all_goals rw [settleSync, Device.syncDone, elasticDone_sync, releaseGen_sync]
    · exact Tbl.find?_put_same _ _ _
    · exact congrArg (List.filter _) (congrArg SyncS.waiters hsync)
  case arrives =>
    rintro rfl h0 h1 hb hmore hlen
    rw [syncApply_arrive _ _ hob' hlost (by rw [hnat h1]; exact h0) (by rw [hnat h1]; exact h1) (by rw [hnat h1]; exact hb),
      if_neg (by rw [hnat h1]; exact hmore), if_neg (by rw [hsync]; omega), hnat h1, hcoord] at hexec
    refine ⟨_, hexec, Tbl.find?_put_same _ _ _, ?_⟩
    show x.sync.waiters ++ _ = _
    rw [hsync]

end Sys2Proof.Machine
end

section
/-!
SUPPORT. EVAL: the vector it holds, the planes it sends to each engine of the grid, and when the accumulators clear
(R40, R42, R121–R123).
-/
namespace Sys2Proof.Machine

/-! ### Minima -/

theorem foldl_min_le_start {α : Type} (f : α → Nat) (l : List α) (m : Nat) : l.foldl (fun m x => min m (f x)) m ≤ m := by
  induction l generalizing m with
  | nil => exact Nat.le_refl m
  | cons a l ih => exact Nat.le_trans (ih _) (Nat.min_le_left _ _)

theorem foldl_min_le_mem {α : Type} (f : α → Nat) {l : List α} {a : α} (h : a ∈ l) (m : Nat) :
    l.foldl (fun m x => min m (f x)) m ≤ f a := by
  induction l generalizing m with
  | nil => cases h
  | cons b l ih =>
    rcases List.mem_cons.mp h with rfl | h
    · exact Nat.le_trans (foldl_min_le_start f l _) (Nat.min_le_right _ _)
    · exact ih h _

/-! ### Engines keep their shape -/

theorem Device.engine_degradeTag (d : Device) (c : Nat) (t : Tag) (c' p : Nat) :
    (d.degradeTag c t).engine c' p = d.engine c' p := by
  unfold Device.degradeTag
  dsimp only
  split
  · rfl
  · rw [Device.engine_modCore]
    have hcim := Device.cim_foldl (f := fun (d' : Device) s => d'.tellOwner (d.core c).seq.plan.inst
      (fun h => .stepStatus h s 0 true none) (fun d => d.degrade s))
      (fun e s => Device.cim_tellOwner e _ _ (fun y => Device.cim_degrade y s)) ((d.core c).seq.owners t) d
    unfold Device.engine
    rw [hcim]

theorem Device.engine_takeVector (d : Device) (c : Nat) (w : StepWord) (o : Option VecBuild) (t : Tag) (c' p : Nat) :
    (d.takeVector c w o t).engine c' p = d.engine c' p := by
  unfold Device.takeVector Device.layerOver
  cases o with
  | none => rfl
  | some b =>
    dsimp only
    split
    · rfl
    · rw [Device.engine_degradeTag]
      rfl

theorem SameShapes.physAt {d e : Device} (h : SameShapes d e) (c p : Nat) : e.physAt c p = d.physAt c p := by
  obtain ⟨hst, hpos, -⟩ := h c 32 (Nat.le_refl 32)
  unfold Device.physAt
  dsimp only
  rw [hst, hpos]

theorem Device.physAt_le (d : Device) (c : Nat) {p : Nat} (h : p ≤ 32) : d.physAt c p ≤ 32 := by
  unfold Device.physAt
  dsimp only
  split
  · exact Nat.le_refl 32
  · exact h

theorem SameShapes.fly (d : Device) (c t : Nat) (l : Land) : SameShapes d (d.fly c t l) := SameShapes.of_engines (fun _ _ => rfl)

theorem SameShapes.sendPlanes (d : Device) (c ne slot : Nat) (w : StepWord) (h : HeldVec) (rd : List Reading) (t0 t : Nat)
    (g : Nat × Nat × Nat) (hg : g.1 ≤ 32) : SameShapes d (d.sendPlanes c ne slot w h rd t0 t g) := by
  unfold Device.sendPlanes
  dsimp only
  split
  · exact SameShapes.of_engines (fun _ _ => rfl)
  · exact (SameShapes.takeSlots d c _ t0 _ (d.physAt_le c hg)).trans (SameShapes.foldl (fun e _ => SameShapes.fly e c _ _) _ _)

/-- The positions of a listed grid are of the 32 logical ones. -/
theorem gridPos_le {r : Core} (h : r.gi + r.go ≤ 5) {g : Nat × Nat × Nat} (hg : g ∈ gridPos r) : g.1 ≤ 32 := by
  obtain ⟨p, hp, rfl⟩ := List.mem_map.mp hg
  have hlt : p < 2 ^ (r.gi + r.go) := List.mem_range.mp hp
  have hle : 2 ^ (r.gi + r.go) ≤ 2 ^ 5 := Nat.pow_le_pow_right (by decide) h
  show p ≤ 32
  omega

/-! ### One engine of the grid -/

/-- What an engine of the grid is sent: each plane in its slot, or nothing but the poison when all its columns are disabled. -/
theorem sendPlanes_spec (d : Device) (c ne slot : Nat) (w : StepWord) (h : HeldVec) (rd : List Reading) (t0 t : Nat)
    (g : Nat × Nat × Nat) :
    let dirty := h.poisoned g.2.1 0 || h.poisoned g.2.1 1
    let off := wCompact w && decide ((d.engine c (d.physAt c g.1)).disabled = BitVec.allOnes 1024)
    (off = false → ∀ x ∈ planeTimes (wCompact w) ((evalPlanes w).map (h.planeOf g.2.1)), ∃ y : PlaneRun,
      (d.sendPlanes c ne slot w h rd t0 t g).awaits c (t + x.1) (.plane y) ∧ y.pos = g.1 ∧ y.plane = x.2 ∧
        y.base = g.2.2 * ne ∧ y.outs = ne ∧ y.tag = h.tag ∧ y.poison = dirty ∧
        y.rd = (readingsAt rd g.1).filter (fun z => decide (z.pass = x.2.ix))) ∧
    (off = true → (d.sendPlanes c ne slot w h rd t0 t g).awaits c (t + 3) (.acc (g.2.2 * ne) ne []
      (if dirty then (List.range ne).map (· + g.2.2 * ne) else []) h.tag)) := by
  intro dirty off
  unfold Device.sendPlanes
  dsimp only
  refine ⟨fun hoff x hx => ?_, fun hoff => ?_⟩
  · rw [if_neg (Bool.eq_false_iff.mp hoff)]
    exact ⟨_, foldl_mem (P := fun x e => e.awaits c (t + x.1) (.plane
      { pos := g.1, base := g.2.2 * ne, outs := ne, steer := (d.engine c (d.physAt c g.1)).steer, plane := x.2,
        rd := (readingsAt rd g.1).filter (fun r => decide (r.pass = x.2.ix)), tag := h.tag, slot := slot,
        word := (d.core c).seq.word, poison := dirty }))
      (fun e _ => Quiet.fly c e _ _) (fun e _ => awaits_fly e _ _ _) (fun _ _ _ k hk => k.await _ _ hk) _ _ x hx,
      rfl, rfl, rfl, rfl, rfl, rfl, rfl⟩
  · rw [if_pos hoff]
    exact awaits_fly _ _ _ _

/-- Along a fold of quiet steps that keep a predicate, the step of each element runs on a block with the predicate, and what
it leaves is quiet to the end. -/
theorem foldl_reaches {α : Type} {F : Device → α → Device} {c : Nat} {I : Device → Prop} (hQ : ∀ d g, Quiet c d (F d g)) :
    ∀ (l : List α) (d : Device), (∀ g ∈ l, ∀ e, I e → I (F e g)) → I d → ∀ g ∈ l, ∃ e, I e ∧ Quiet c (F e g) (l.foldl F d) := by
  intro l
  induction l with
  | nil => exact fun _ _ _ g hg => nomatch hg
  | cons a l ih =>
    intro d hI hd g hg
    rcases List.mem_cons.mp hg with rfl | hg
    · exact ⟨d, hd, Quiet.foldl hQ l _⟩
    · exact ih _ (fun g hg => hI g (List.mem_cons_of_mem _ hg)) (hI a (List.mem_cons_self ..) d hd) g hg

/-! ### The held vector -/

/-- The vector an EVAL evaluates is the one the core holds after it is taken. -/
theorem evalVector_held (d : Device) (c : Nat) (w : StepWord) (ws : List RWord) :
    (d.evalVector c w ws).1.elim (d.core c).regs.held (fun b => some b.hv) = (d.evalVector c w ws).2 := by
  unfold Device.evalVector
  dsimp only
  split <;> rfl

/-- The read of an EVAL's bursts, none for a vector used again. -/
def Device.evalRead (d : Device) (c : Nat) (w : StepWord) : List RWord × Device :=
  if w.getLsbD 98 then ([], d)
  else d.readH (aForm w 40).handle ((aForm w 40).byteOff (d.core c).regs) (16 * fld w 86 79)

theorem Calm.evalRead (d : Device) (c : Nat) (w : StepWord) : Calm d (d.evalRead c w).2 := by
  unfold Device.evalRead
  split
  · exact .refl d
  · exact Calm.readH _ _ _ _

/-- The block with an EVAL's vector held, before its planes are sent. -/
def Device.evalHeld (d : Device) (c : Nat) (w : StepWord) (h : HeldVec) : Device :=
  let rr := d.evalRead c w
  let tag := ((d.core c).seq.tokenTag (tForm w 111 (d.core c).regs)).1
  let most := (rr.2.evalLeft c (d.core c).regs h w).foldl (fun (m : Nat) (p : Nat × Nat) => max m p.2) 0
  ((rr.2.noteCompact c w most).takeVector c w (rr.2.evalVector c w rr.1).1 tag).reuseVector c w h

theorem SameShapes.evalHeld (d : Device) (c : Nat) (w : StepWord) (h : HeldVec) : SameShapes d (d.evalHeld c w h) := by
  refine SameShapes.of_engines (fun c' p => ?_)
  have reuse : ∀ e : Device, (e.reuseVector c w h).engine c' p = e.engine c' p := fun e => by
    unfold Device.reuseVector
    split <;> rfl
  have compact : ∀ (e : Device) (m : Nat), (e.noteCompact c w m).engine c' p = e.engine c' p := fun e m => by
    unfold Device.noteCompact
    split <;> rfl
  unfold Device.evalHeld
  dsimp only
  rw [reuse, Device.engine_takeVector, compact, (Calm.evalRead d c w).engine]

theorem evalHeld_spec (d : Device) (c : Nat) (w : StepWord) (h : HeldVec) :
    Kept c d (d.evalHeld c w h) ∧ ((d.evalHeld c w h).core c).regs.held =
      ((d.evalRead c w).2.evalVector c w (d.evalRead c w).1).2 := by
  have hread : Quiet c d (d.evalRead c w).2 := Quiet.calm (Calm.evalRead d c w)
  unfold Device.evalHeld
  dsimp only
  refine ⟨(((hread.trans (Quiet.noteCompact _ _ _ _)).kept.trans (Kept.takeVector _ _ _ _ _).1).trans (Kept.reuseVector _ _ _ _).1), ?_⟩
  rw [(Kept.reuseVector _ _ _ _).2, (Kept.takeVector _ _ _ _ _).2, (Quiet.noteCompact _ _ _ _).regs, evalVector_held]

/-! ### The effect of an EVAL -/

/-- Cycle, from its first slot, at which an EVAL's first sum lands. -/
def evalFirst (w : StepWord) (r : Core) (h : HeldVec) : Nat :=
  (gridPos r).foldl (fun (m : Nat) g =>
    min m (firstSum (planeTimes (wCompact w) ((evalPlanes w).map (h.planeOf g.2.1))))) 5

/-- The accumulators clear with the first sum, but for Accumulate (R122). -/
def Device.evalCleared (d : Device) (c : Nat) (w : StepWord) (t n : Nat) (tag : Tag) : Device :=
  if w.getLsbD 97 then d else d.fly c t (.accClear n tag)

theorem Quiet.evalCleared (c : Nat) (d : Device) (w : StepWord) (t n : Nat) (tag : Tag) :
    Quiet c d (d.evalCleared c w t n tag) := by
  unfold Device.evalCleared
  split
  · exact .refl c d
  · exact Quiet.fly _ _ _ _

theorem SameShapes.evalCleared (d : Device) (c : Nat) (w : StepWord) (t n : Nat) (tag : Tag) :
    SameShapes d (d.evalCleared c w t n tag) := by
  unfold Device.evalCleared
  split
  · exact .refl d
  · exact SameShapes.fly _ _ _ _

/-- A vector with the owner tag of its token. -/
def HeldVec.tagged (h : HeldVec) (t : Tag) : HeldVec := { h with tag := t }

/-- EVAL's effect with its vector named. -/
theorem evalEffect_eq {d : Device} {c : Nat} {w : StepWord} {rd : List Reading} {t : Nat} {h : HeldVec}
    (hh : ((d.evalRead c w).2.evalVector c w (d.evalRead c w).1).2 = some h) :
    let r := (d.core c).regs
    let ne := d.gridOut c r
    let tt := (d.core c).seq.tokenTag (tForm w 111 r)
    let h' := h.tagged tt.1
    let t1 := t + (if w.getLsbD 98 then 0 else ceilDiv (fld w 86 79) 8 - 1)
    d.evalEffect c w rd t = (gridPos r).foldl (fun d g => d.sendPlanes c ne tt.2 w h' rd t t1 g)
      ((d.evalHeld c w h').evalCleared c w (t1 + evalFirst w r h') (2 ^ r.go * ne) tt.1) := by
  unfold Device.evalEffect
  dsimp only
  rw [show (if w.getLsbD 98 = true then (([] : List RWord), d) else d.readH (aForm w 40).handle
    ((aForm w 40).byteOff (d.core c).regs) (16 * fld w 86 79)) = d.evalRead c w from rfl, hh]
  rfl

/-- No sum of the planes of a grid position lands before the accumulators clear. -/
theorem evalFirst_le {w : StepWord} {r : Core} {h : HeldVec} {p : Nat} (hp : p < 2 ^ (r.gi + r.go)) {x : Nat × Plane}
    (hx : x ∈ planeTimes (wCompact w) ((evalPlanes w).map (h.planeOf (p / 2 ^ r.go)))) :
    evalFirst w r h ≤ x.1 + x.2.lat :=
  Nat.le_trans (foldl_min_le_mem (fun g : Nat × Nat × Nat => firstSum (planeTimes (wCompact w) ((evalPlanes w).map (h.planeOf g.2.1))))
    (gridPos_mem hp) 5) (foldl_min_le_mem (fun x : Nat × Plane => x.1 + x.2.lat) hx 5)

/-- Settles O14: the vector is held, the clear is in flight, and each position's planes are sent over engines of unchanged
shape. -/
theorem evalCompletes : Obligations.EvalCompletes := by
  unfold Obligations.EvalCompletes
  intro c w rd s
  refine ⟨?issues, ?plane, ?acc, ?ready⟩
  case issues =>
    intro t d hi r b ne tag ev h hh t1 planes
    have hclear := Quiet.evalCleared c.val (d.evalHeld c.val w (h.tagged tag)) w (t1 + evalFirst w r (h.tagged tag)) (2 ^ r.go * ne) tag
    have hsends := fun e g => Quiet.sendPlanes c.val e ne ((d.core c.val).seq.tokenTag (tForm w 111 r)).2 w
      (h.tagged tag) rd t t1 g
    have hall := hclear.trans (Quiet.foldl hsends (gridPos r) _)
    obtain ⟨hkept, hheld⟩ := evalHeld_spec d c.val w (h.tagged tag)
    have kept := hkept.trans hall.kept
    refine ⟨_, (run_issues hi _).trans (congrArg s.goes (evalEffect_eq hh)), fun hgrid p hp => ?_, fun hw => ?_, ?_, kept.acc,
      kept.osum, kept.stage, kept.q, kept.loops, kept.others, kept.m⟩
    · have hbase := (SameShapes.evalHeld d c.val w (h.tagged tag)).trans (SameShapes.evalCleared _ c.val w
        (t1 + evalFirst w r (h.tagged tag)) (2 ^ r.go * ne) tag)
      obtain ⟨e, hshape, hquiet⟩ := foldl_reaches (I := SameShapes d) hsends (gridPos r) _
        (fun g hg e he => he.trans (SameShapes.sendPlanes e c.val ne _ w _ rd t t1 g (gridPos_le hgrid hg))) hbase _ (gridPos_mem hp)
      obtain ⟨hon, hoff⟩ := sendPlanes_spec e c.val ne ((d.core c.val).seq.tokenTag (tForm w 111 r)).2 w (h.tagged tag) rd t t1
        (p, p / 2 ^ r.go, p % 2 ^ r.go)
      have hdis : (e.engine c.val (e.physAt c.val p)).disabled = (d.engine c.val (d.physAt c.val p)).disabled := by
        rw [hshape.physAt]
        exact (hshape c.val _ (d.physAt_le c.val ((gridPos_le hgrid (gridPos_mem hp))))).2.2.1
      rw [hdis] at hon hoff
      refine ⟨fun h0 x hx => ?_, fun h1 => hquiet.await _ _ (hoff h1)⟩
      obtain ⟨y, hy, hyspec⟩ := hon h0 x hx
      exact ⟨y, hquiet.await _ _ hy, hyspec⟩
    · refine ⟨evalFirst w r (h.tagged tag), foldl_min_le_start _ _ _, (Quiet.foldl hsends (gridPos r) _).await _ _ ?_,
        fun p hp x hx => evalFirst_le hp hx⟩
      unfold Device.evalCleared
      rw [if_neg (by rw [hw]; decide)]
      exact awaits_fly _ _ _ _
    · exact (congrArg Core.held hall.regs).trans (hheld.trans hh)
  case plane => exact fun e t y => awaits_fly _ _ _ _
  case acc =>
    intro e t lo n ds bad tag old
    unfold Device.applyLand
    dsimp only
    rw [Device.core_modCore_same]
  case ready =>
    intro h
    obtain ⟨t, d, hi⟩ := State.ready_issues h
    exact ⟨t, d, _, hi, run_issues hi _⟩

end Sys2Proof.Machine
end

section
/-!
SUPPORT. Elastic operations: their start over the scoreboard and the move of their bytes at their end (R97, R99, R100, R136–R138).
-/
namespace Sys2Proof.Machine

/-! ### What the move of bytes leaves of the sequencer -/

theorem KeepsSeq.freshWords (c : Nat) (d : Device) (n : Nat) : KeepsSeq c d (d.freshWords n).2 := by
  induction n generalizing d with
  | zero => exact .refl c d
  | succ n ih => exact (KeepsSeq.of_cim (d := d) (e := d.fresh.2) rfl).trans (ih d.fresh.2)

theorem KeepsSeq.elRead (c : Nat) (d : Device) (h o n : Nat) : KeepsSeq c d (d.elRead h o n).2 := by
  unfold Device.elRead
  split
  · split
    · exact (KeepsSeq.calm (Calm.send d _)).trans (KeepsSeq.freshWords c _ n)
    · exact .calm (Calm.readH _ _ _ _)
  · exact .calm (Calm.readH _ _ _ _)

/-- Words of an operation come from a combined read or are read now. -/
theorem Calm.opWords (d : Device) (c id : Nat) (bad : Bool) (wa n : Nat) : Calm d (d.opWords c id bad wa n).2 := by
  induction n generalizing d wa with
  | zero => exact .refl d
  | succ n ih =>
    unfold Device.opWords
    cases d.rowGot c id (wa / 16) with
    | some ws => exact ih d (wa + 1)
    | none =>
      have hread := Calm.readWord d wa 0
      generalize d.readWord wa 0 = r at hread ⊢
      exact hread.trans (ih r.2 (wa + 1))

theorem KeepsSeq.opRead (c : Nat) (d : Device) (c' id h o n : Nat) : KeepsSeq c d (d.opRead c' id h o n).2 := by
  unfold Device.opRead
  split
  · split
    · exact KeepsSeq.elRead c d h o n
    · split
      · exact KeepsSeq.elRead c d h o n
      · dsimp only
        split
        · exact .calm ((Calm.opWords d _ _ _ _ _).trans (Calm.markBad _ _ _))
        · exact .calm (Calm.opWords d _ _ _ _ _)
  · exact KeepsSeq.elRead c d h o n

theorem Calm.arriveWords (d : Device) (mesh : List (Nat × BitVec 39)) (i : Nat) (xs : List RWord) :
    Calm d (d.arriveWords mesh i xs).2 := by
  induction xs generalizing d i with
  | nil => exact .refl d
  | cons x xs ih =>
    unfold Device.arriveWords
    dsimp only
    refine Calm.trans ?_ (ih _ _)
    split
    · exact .refl d
    · exact Calm.bump _ _ _
    · exact .refl d

theorem Calm.arrive (d : Device) (mesh : List (Nat × BitVec 39)) (i : Nat) (ws : List RWord) : Calm d (d.arrive mesh i ws).2 := by
  unfold Device.arrive
  generalize meshPackets ws = ps
  induction ps generalizing d i with
  | nil => exact .refl d
  | cons p ps ih => exact (Calm.arriveWords d mesh i p).trans (ih _ _)

theorem Calm.giveWay (d : Device) (h o : Nat) (ws : List (Nat × Nat)) : Calm d (d.giveWay h o ws) := by
  unfold Device.giveWay
  split
  · exact .refl d
  · split
    · exact .refl d
    · dsimp only
      split
      · exact .refl d
      · exact Calm.bump _ _ _

theorem KeepsSeq.elWrite (c : Nat) (d : Device) (h o : Nat) (ws : List RWord) : KeepsSeq c d (d.elWrite h o ws) := by
  unfold Device.elWrite
  split
  · split
    · exact .of_cim rfl
    · exact .of_cim (Device.cim_writeH _ _ _ _)
  · exact .refl c d

/-- Poison noted for positions is a mark of the step alone. -/
theorem Seq.ctl_foldl_notePos (l : List Nat) (q : Seq) :
    (l.foldl (fun (q : Seq) p => (q.setFlag flPoison).notePoison (.pos p)) q).ctl = q.ctl ∧
      (l.foldl (fun (q : Seq) p => (q.setFlag flPoison).notePoison (.pos p)) q).landing = q.landing := by
  induction l generalizing q with
  | nil => exact ⟨rfl, rfl⟩
  | cons p l ih => simpa using ih ((q.setFlag flPoison).notePoison (.pos p))

theorem KeepsSeq.noteOutput (c : Nat) (d : Device) (h : Nat) (ws : List RWord) : KeepsSeq c d (d.noteOutput c h ws) := by
  unfold Device.noteOutput
  split
  · exact KeepsSeq.modCore d (fun x => (Seq.ctl_foldl_notePos _ x.seq).1) (fun x => (Seq.ctl_foldl_notePos _ x.seq).2)
  · exact .refl c d

theorem m_noteOutput (d : Device) (c h : Nat) (ws : List RWord) : (d.noteOutput c h ws).mem.m = d.mem.m := by
  unfold Device.noteOutput
  split <;> rfl

theorem KeepsSeq.badIndex (c : Nat) (d : Device) : KeepsSeq c d (d.badIndex c) :=
  (KeepsSeq.calm (Calm.bump d (key 0xC020 0x0C) 1)).trans
    (KeepsSeq.modCore (f := fun x => { x with seq := x.seq.setFlag flGather }) _ (fun _ => rfl) (fun _ => rfl))

/-- One row that moves: read, arrived and written. -/
theorem KeepsSeq.moveRow (c : Nat) (d : Device) (id h1 o1 n : Nat) (mesh : List (Nat × BitVec 39)) (i h2 o2 : Nat) :
    KeepsSeq c d (((((d.opRead c id h1 o1 n).2.arrive mesh i (d.opRead c id h1 o1 n).1).2.elWrite h2 o2
      ((d.opRead c id h1 o1 n).2.arrive mesh i (d.opRead c id h1 o1 n).1).1).noteOutput c h2
      ((d.opRead c id h1 o1 n).2.arrive mesh i (d.opRead c id h1 o1 n).1).1)) :=
  (((KeepsSeq.opRead c d c id h1 o1 n).trans (.calm (Calm.arrive _ _ _ _))).trans (KeepsSeq.elWrite c _ _ _ _)).trans
    (KeepsSeq.noteOutput c _ _ _)

theorem KeepsSeq.gatherRows (c : Nat) (d : Device) (id : Nat) (g : GatherDesc) (mesh : List (Nat × BitVec 39)) (ix : List RWord)
    (n i : Nat) : KeepsSeq c d (d.gatherRows c id g mesh ix n i) := by
  have bad : ∀ (e : Device) (o : Nat) (z : List RWord), KeepsSeq c e (((e.badIndex c).elWrite g.dest o z).noteOutput c g.dest z) :=
    fun e o z => ((KeepsSeq.badIndex c e).trans (KeepsSeq.elWrite c _ _ _ _)).trans (KeepsSeq.noteOutput c _ _ _)
  induction n generalizing d i with
  | zero => exact .refl c d
  | succ n ih =>
    unfold Device.gatherRows
    dsimp only
    refine KeepsSeq.trans ?_ (ih _ _)
    split
    · split
      · exact KeepsSeq.moveRow c d id _ _ _ mesh _ _ _
      · exact bad d _ _
    · exact bad d _ _

theorem KeepsSeq.scatterRows (c : Nat) (d : Device) (id : Nat) (g : GatherDesc) (mesh : List (Nat × BitVec 39)) (ix : List RWord)
    (n i : Nat) : KeepsSeq c d (d.scatterRows c id g mesh ix n i) := by
  induction n generalizing d i with
  | zero => exact .refl c d
  | succ n ih =>
    unfold Device.scatterRows
    dsimp only
    refine KeepsSeq.trans ?_ (ih _ _)
    split
    · split
      · exact KeepsSeq.moveRow c d id _ _ _ mesh _ _ _
      · exact KeepsSeq.badIndex c d
    · exact KeepsSeq.badIndex c d

/-! ### The end of an operation -/

/-- An operation that has done its last access: it leaves the queue, its tag signals and its entries end on the next cycle
(R97, R99). -/
theorem finishOp_spec (d : Device) (c id t : Nat) (o : ElOp)
    (h : List.find? (fun (o : ElOp) => decide (o.ident = id)) (d.core c).seq.ops = some o) :
    (d.finishOp c id t).mem.m = d.mem.m ∧
    ((d.finishOp c id t).core c).seq.ops = (d.core c).seq.ops.filter (fun y => decide (y.ident ≠ id)) ∧
    (o.tag ≠ 0 → o.ofStep = true → (((d.finishOp c id t).core c).seq.tagSt o.tag).signal = some t) ∧
    ((d.finishOp c id t).core c).seq.board = (d.core c).seq.board.map (fun b =>
      if b.ident = id ∧ b.freed = none then { b with freed := some (t + 1) } else b) := by
  have hcore : (d.dropRows c id).core c = d.core c := rfl
  unfold Device.finishOp Device.elasticDone
  refine ⟨rfl, ?_⟩
  rw [Device.core_modCore_same, Device.core_modCore_same, hcore, h]
  dsimp only
  refine ⟨?_, fun htag hstep => ?_, ?_⟩
  · split <;> rfl
  · rw [if_neg (by simp [htag, hstep])]
    unfold Seq.tagSt
    dsimp only
    rw [Tbl.get_put_same]
  · split <;> rfl

/-- The same, of an operation whose bytes have moved with the sequencer's own fields kept. -/
theorem finishOp_moved {z d : Device} {c id t : Nat} {o : ElOp} (hk : KeepsSeq c z d)
    (h : List.find? (fun (o : ElOp) => decide (o.ident = id)) (z.core c).seq.ops = some o) :
    (d.finishOp c id t).mem.m = d.mem.m ∧
    ((d.finishOp c id t).core c).seq.ops = (z.core c).seq.ops.filter (fun y => decide (y.ident ≠ id)) ∧
    (o.tag ≠ 0 → o.ofStep = true → (((d.finishOp c id t).core c).seq.tagSt o.tag).signal = some t) ∧
    ((d.finishOp c id t).core c).seq.board = (z.core c).seq.board.map (fun b =>
      if b.ident = id ∧ b.freed = none then { b with freed := some (t + 1) } else b) := by
  obtain ⟨-, -, -, -, -, -, -, -, -, hboard, -, -, hops⟩ := ctl_eq hk.ctl
  have hspec := finishOp_spec d c id t o (hops ▸ h)
  rwa [hops, hboard] at hspec

/-! ### The start of an operation -/

theorem Calm.joinWindow (d : Device) (c id k tile row t : Nat) : Calm d (d.joinWindow c id k tile row t) := by
  have opened : ∀ e : Device, Calm e (if d.reg (key 0x8000 2) = 0 then e.closeWindow ⟨k, tile, row, [(c, id)], t⟩
      else e.setWindows (e.mem.windows ++ [⟨k, tile, row, [(c, id)], t⟩])) := fun e =>
    Calm.ite (Calm.closeWindow _ _) (Calm.setWindows _ _)
  unfold Device.joinWindow
  dsimp only
  split
  · exact opened d
  · split
    · exact (Calm.bump _ _ _).trans (Calm.ite (Calm.closeWindow _ _) (Calm.setWindows _ _))
    · exact (Calm.closeWindow _ _).trans (opened _)

/-- The reads that a started operation makes leave cores and stored bytes. -/
theorem combineStarted_spec (d : Device) (c id t : Nat) :
    (∀ c', (d.combineStarted c id t).core c' = d.core c') ∧ (d.combineStarted c id t).mem.m = d.mem.m := by
  unfold Device.combineStarted
  split
  · exact ⟨fun _ => rfl, rfl⟩
  · have hcalm : ∀ (e : Device) (y : ElOp), Calm e (e.combineReads c y t) := fun e y =>
      Calm.foldl (fun e x => Calm.joinWindow e _ _ _ _ _ _) _ e
    exact ⟨fun c' => ((hcalm _ _).core c').trans rfl, ((hcalm _ _).m).trans rfl⟩

/-- A waiting copy starts when it may, and waits otherwise (R100 rule 2). -/
theorem startOp_copy {d : Device} {c : Nat} {o : ElOp} {t : Nat} (hk : o.kind = .copy) :
    d.startOp c o t = if (d.core c).seq.mayStart (d.opEntries c o t) t then
      (d.bump (key 0xC020 5) ((d.core c).seq.fullCycles o.queued (t - o.queued))).markStarted c o t (d.opEntries c o t) else d := by
  unfold Device.startOp
  rw [if_neg (by rw [hk]; decide)]

/-- ELASTIC_START of a waiting operation that is no sync operation. -/
theorem exec_elasticStart {s : State} {c : CoreIx} {id t : Nat} {o : ElOp} (ha : s.alive = true)
    (hf : List.find? (fun (o : ElOp) => decide (o.ident = id) && !o.started) (s.dev.core c.val).seq.ops = some o)
    (hk : o.kind = .copy) :
    exec (.elasticStart c id t) s =
      s.goes ((((s.dev.reachCyc t).landUpTo c.val t).startOp c.val o t).combineStarted c.val id t) := by
  unfold exec execElasticStart
  refine (lift_goes ha rfl).trans (congrArg s.goes ?_)
  dsimp only
  rw [hf]
  dsimp only
  rw [if_neg (by rw [hk]; decide)]

/-- COPY_DONE of a started copy that goes into no command window. -/
theorem exec_copyDone {s : State} {c : CoreIx} {id : Nat} {x : ElasticEnd} {o : ElOp} (ha : s.alive = true)
    (hs : (s.dev.core c.val).seq.startedOp .copy id = some o)
    (hw : (((s.dev.reachCyc x.cycle).landUpTo c.val x.cycle).closeOf c.val id).windowOf o.dstH = none) :
    let z := ((s.dev.reachCyc x.cycle).landUpTo c.val x.cycle).closeOf c.val id
    let r := z.opRead c.val id o.srcH o.srcOff (o.len / 4)
    let a := r.2.arrive x.mesh 0 r.1
    exec (.copyDone c id x) s = s.goes ((((a.2.giveWay o.dstH o.dstOff x.writes).elWrite o.dstH o.dstOff a.1).noteOutput c.val
      o.dstH a.1).finishOp c.val id x.cycle) := by
  have hid : o.ident = id := by
    have := List.find?_some hs
    simp only [Bool.and_eq_true, decide_eq_true_eq] at this
    exact this.1.1
  unfold exec execCopyDone
  refine (lift_goes ha rfl).trans (congrArg s.goes ?_)
  dsimp only
  rw [hs]
  dsimp only
  unfold Device.moveCopy
  rw [hw, hid]
  rfl

/-- The end of a started gather or scatter with its descriptor. -/
theorem gatherDone_eq {d : Device} {c id : Nat} {k : ElKind} {x : ElasticEnd} {o : ElOp} {g : GatherDesc}
    (hs : (d.core c).seq.startedOp k id = some o) (hg : o.desc = some g) :
    let z := ((d.reachCyc x.cycle).landUpTo c x.cycle).closeOf c id
    let ix := z.opRead c id g.index g.indexOff (g.listBytes / 4)
    d.gatherDone c k id x = (if k = .scatter then (ix.2.giveWay g.table 0 x.writes).scatterRows c id g x.mesh ix.1 g.count 0
      else (ix.2.giveWay g.dest g.destOff x.writes).gatherRows c id g x.mesh ix.1 g.count 0).finishOp c id x.cycle := by
  unfold Device.gatherDone
  rw [hs]
  dsimp only
  rw [hg]

/-- Settles O27: a copy starts by its entries, and each operation's end is the move of its bytes followed by the end of its
queue entry, over a sequencer that the move keeps. -/
theorem elasticStartsAndEnds : Obligations.ElasticStartsAndEnds := by
  unfold Obligations.ElasticStartsAndEnds
  intro c id t x s o ha e q z qz ended
  refine ⟨fun hf hk => ⟨fun hmay => ?starts, fun hmay hnone => ?waits⟩, fun hz => ⟨fun hs hw => ?copy, fun g hs hg => ?gather,
    fun g hs hg => ?scatter⟩⟩
  case starts =>
    obtain ⟨hcore, hm⟩ := combineStarted_spec (e.startOp c.val o t) c.val id t
    have hstart : e.startOp c.val o t = (e.bump (key 0xC020 5) (q.fullCycles o.queued (t - o.queued))).markStarted c.val o t
        (e.opEntries c.val o t) := (startOp_copy hk).trans (if_pos hmay)
    refine ⟨_, exec_elasticStart ha hf hk, ?_, ?_, ?_, ?_⟩
    · rw [hcore, hstart, Device.markStarted, Device.core_modCore_same]
      rfl
    · rw [hcore, hstart, Device.markStarted, Device.core_modCore_same]
      rfl
    · unfold sameRegs
      rw [hcore, hstart, Device.markStarted, Device.core_modCore_same]
      rfl
    · refine ⟨fun c' hc' => ?_, ?_⟩
      · rw [hcore, hstart]
        exact Device.core_modCore_other _ _ hc'
      · rw [hm, hstart]
        rfl
  case waits =>
    have hstart : e.startOp c.val o t = e := (startOp_copy hk).trans (if_neg (by rw [show q.mayStart _ _ = false from hmay]; decide))
    have hidle : e.combineStarted c.val id t = e := by
      unfold Device.combineStarted
      rw [List.find?_eq_none.mpr (fun y hy => ?_)]
      by_cases hyid : y.ident = id
      · simp [hnone y hy hyid]
      · simp [hyid]
    rw [exec_elasticStart ha hf hk]
    exact congrArg s.goes ((congrArg (fun f => Device.combineStarted f c.val id t) hstart).trans hidle)
  case copy =>
    intro r a
    have hk : KeepsSeq c.val z (((a.2.giveWay o.dstH o.dstOff x.writes).elWrite o.dstH o.dstOff a.1).noteOutput c.val o.dstH a.1) :=
      ((((KeepsSeq.opRead c.val z c.val id o.srcH o.srcOff (o.len / 4)).trans (.calm (Calm.arrive r.2 x.mesh 0 r.1))).trans
      (.calm (Calm.giveWay a.2 o.dstH o.dstOff x.writes))).trans (KeepsSeq.elWrite c.val _ o.dstH o.dstOff a.1)).trans
      (KeepsSeq.noteOutput c.val _ o.dstH a.1)
    obtain ⟨hm, hended⟩ := finishOp_moved (t := x.cycle) hk hz
    exact ⟨(((a.2.giveWay o.dstH o.dstOff x.writes).elWrite o.dstH o.dstOff a.1).noteOutput c.val o.dstH a.1).finishOp c.val id x.cycle,
      exec_copyDone ha hs hw, hm.trans (m_noteOutput _ _ _ _), hended⟩
  case gather =>
    intro ix
    have hk := ((KeepsSeq.opRead c.val z c.val id g.index g.indexOff (g.listBytes / 4)).trans
      (.calm (Calm.giveWay ix.2 g.dest g.destOff x.writes))).trans (KeepsSeq.gatherRows c.val _ id g x.mesh ix.1 g.count 0)
    obtain ⟨hm, hended⟩ := finishOp_moved (t := x.cycle) hk hz
    refine ⟨_, ?_, hm, hended⟩
    unfold exec execGatherDone
    exact (lift_goes ha rfl).trans (congrArg s.goes (gatherDone_eq hs hg))
  case scatter =>
    intro ix
    have hk := ((KeepsSeq.opRead c.val z c.val id g.index g.indexOff (g.listBytes / 4)).trans
      (.calm (Calm.giveWay ix.2 g.table 0 x.writes))).trans (KeepsSeq.scatterRows c.val _ id g x.mesh ix.1 g.count 0)
    obtain ⟨hm, hended⟩ := finishOp_moved (t := x.cycle) hk hz
    refine ⟨_, ?_, hm, hended⟩
    unfold exec execScatterDone
    exact (lift_goes ha rfl).trans (congrArg s.goes (gatherDone_eq hs hg))

end Sys2Proof.Machine
end

section
/-!
SUPPORT. Commit marks, pauses, holds and the plinth (R101, R104–R107, R174, R264, R397).
-/
namespace Sys2Proof.Machine

/-! ### Time -/

theorem reach_up (d : Device) (u : Nat) : (d.reach u).clk.up = max d.clk.up u := by
  have h : ∀ n, (d.advance n).clk.up = d.clk.up + n := fun n => by
    unfold Device.advance
    split <;> rfl
  unfold Device.reach
  rw [h]
  omega

/-- Time that passes changes the clocks and the slew alone. -/
theorem reach_frame (d : Device) (u : Nat) : (d.reach u).cim = d.cim ∧ (d.reach u).cast = d.cast ∧ (d.reach u).serv = d.serv ∧
    (d.reach u).attn = d.attn ∧ (d.reach u).fab.coord = d.fab.coord ∧ (d.reach u).out = d.out := by
  unfold Device.reach Device.advance
  split <;> exact ⟨rfl, rfl, rfl, rfl, rfl, rfl⟩

/-! ### The judgement of a step's requests -/

/-- What the judgement of requests keeps: cores, instances, the place in the fabric, what is sent, and a failure once fixed. -/
structure Judged (d e : Device) : Prop where
  cim : e.cim = d.cim
  cast : e.cast = d.cast
  coord : e.fab.coord = d.fab.coord
  out : ∀ x ∈ d.out, x ∈ e.out
  fixed : ∀ s f, (d.aux s).failure = some f → (e.aux s).failure = some f

theorem Judged.refl (d : Device) : Judged d d := ⟨rfl, rfl, rfl, fun _ h => h, fun _ _ h => h⟩

theorem Judged.trans {d e g : Device} (h : Judged d e) (k : Judged e g) : Judged d g :=
  ⟨k.cim.trans h.cim, k.cast.trans h.cast, k.coord.trans h.coord, fun x hx => k.out x (h.out x hx),
    fun s f hf => k.fixed s f (h.fixed s f hf)⟩

theorem Judged.foldl {α : Type} {f : Device → α → Device} (h : ∀ d a, Judged d (f d a)) (l : List α) (d : Device) :
    Judged d (l.foldl f d) := by
  induction l generalizing d with
  | nil => exact .refl d
  | cons a l ih => exact (h d a).trans (ih _)

theorem Judged.bump (d : Device) (k n : Nat) : Judged d (d.bump k n) := ⟨rfl, rfl, rfl, fun _ h => h, fun _ _ h => h⟩

theorem Judged.reach (d : Device) (u : Nat) : Judged d (d.reach u) := by
  obtain ⟨hcim, hcast, hserv, -, hcoord, hout⟩ := reach_frame d u
  refine ⟨hcim, hcast, hcoord, fun x hx => by rwa [hout], fun s f hf => ?_⟩
  unfold Device.aux at *
  rwa [hserv]

/-- A failure fixed is the request's first one. -/
theorem fixFailure_same (d : Device) (s code : Nat) :
    ((d.fixFailure s code).aux s).failure = some ((d.aux s).failure.getD code) := by
  unfold Device.fixFailure
  cases h : (d.aux s).failure with
  | none =>
    rw [if_pos rfl, aux_setAux_same]
    rfl
  | some f =>
    rw [if_neg (by simp)]
    exact h

theorem fixFailure_other (d : Device) {s s' : Nat} (code : Nat) (h : s' ≠ s) : (d.fixFailure s code).aux s' = d.aux s' := by
  unfold Device.fixFailure
  split
  · exact Tbl.get_set_other _ _ _ h
  · rfl

theorem Judged.fixFailure (d : Device) (s code : Nat) : Judged d (d.fixFailure s code) := by
  refine ⟨?_, ?_, ?_, fun x hx => ?_, fun s' f hf => ?_⟩
  case refine_5 =>
    by_cases hs : s' = s
    · subst hs
      rw [fixFailure_same, hf]
      rfl
    · rwa [fixFailure_other d code hs]
  case refine_4 =>
    unfold Device.fixFailure
    split <;> exact hx
  all_goals
    unfold Device.fixFailure
    split <;> rfl

theorem Judged.send (d : Device) (m : OutMsg) : Judged d (d.send m) :=
  ⟨rfl, rfl, rfl, fun _ h => List.mem_append_left _ h, fun _ _ h => h⟩

theorem Judged.failRow (d : Device) (i s code : Nat) : Judged d (d.failRow i s code) := by
  unfold Device.failRow Device.tellOwner
  split
  · exact .fixFailure d s code
  · split
    · exact .fixFailure d s code
    · exact .send d _

theorem Judged.poisonRow (d : Device) (i s : Nat) : Judged d (d.poisonRow i s) := by
  unfold Device.poisonRow
  split
  · exact (Judged.failRow d i s 0x06).trans (.bump _ _ _)
  · exact .refl d

theorem Judged.owns {d e : Device} (h : Judged d e) (i : Nat) : e.ownsInst i = d.ownsInst i := by
  unfold Device.ownsInst Device.inst
  rw [h.cast, h.coord]

theorem Judged.inst {d e : Device} (h : Judged d e) (i : Nat) : e.inst i = d.inst i := by
  unfold Device.inst
  rw [h.cast]

/-- The judgement behind the step's own status: poison and an empty mask. -/
def Device.judgeRest (d : Device) (q : Seq) : Device :=
  let d := (q.rows.zipIdx).foldl (fun d r => if q.poisonAll || q.poisoned.contains r.2 then d.poisonRow q.plan.inst r.1.slot else d) d
  if d.ownsInst q.plan.inst then
    q.rows.foldl (fun d r => if (d.aux r.slot).token = some 0xFFFFFFFF then d.fixFailure r.slot 0x0C else d) d
  else d

theorem Judged.judgeRest (d : Device) (q : Seq) : Judged d (d.judgeRest q) := by
  unfold Device.judgeRest
  have poison : ∀ (e : Device) (r : LenRow × Nat),
      Judged e (if q.poisonAll || q.poisoned.contains r.2 then e.poisonRow q.plan.inst r.1.slot else e) := fun e r => by
    split
    · exact .poisonRow _ _ _
    · exact .refl e
  have empty : ∀ (e : Device) (r : LenRow),
      Judged e (if (e.aux r.slot).token = some 0xFFFFFFFF then e.fixFailure r.slot 0x0C else e) := fun e r => by
    split
    · exact .fixFailure _ _ _
    · exact .refl e
  dsimp only
  refine Judged.trans (Judged.foldl poison q.rows.zipIdx d) ?_
  split
  · exact Judged.foldl empty _ _
  · exact .refl _

theorem judgeStep_eq (d : Device) (q : Seq) : d.judgeStep q =
    (if q.status = 0 then d else q.rows.foldl (fun d r => d.failRow q.plan.inst r.slot q.status) d).judgeRest q := rfl

theorem Judged.judgeStep (d : Device) (q : Seq) : Judged d (d.judgeStep q) := by
  rw [judgeStep_eq]
  refine Judged.trans ?_ (.judgeRest _ q)
  split
  · exact .refl d
  · exact Judged.foldl (fun e r => .failRow e _ _ _) _ d

/-- Every request of the batch has the step's status for its failure, unless one stood before. -/
theorem foldl_failRow_owned (i code : Nat) (rows : List LenRow) (d : Device) (ho : d.ownsInst i = true) {r : LenRow} (hr : r ∈ rows) :
    ((rows.foldl (fun d r => d.failRow i r.slot code) d).aux r.slot).failure = some ((d.aux r.slot).failure.getD code) := by
  induction rows generalizing d with
  | nil => cases hr
  | cons x rows ih =>
    have hx : d.failRow i x.slot code = d.fixFailure x.slot code := tellOwner_owned _ _ ho
    rw [List.foldl_cons, hx]
    have ho' : (d.fixFailure x.slot code).ownsInst i = true := ((Judged.fixFailure d x.slot code).owns i).trans ho
    rcases List.mem_cons.mp hr with rfl | hr
    · exact (Judged.foldl (fun e (y : LenRow) => .failRow e i y.slot code) rows _).fixed _ _ (fixFailure_same d r.slot code)
    · rw [ih _ ho' hr]
      by_cases hs : r.slot = x.slot
      · rw [hs, fixFailure_same, Option.getD_some]
      · rw [fixFailure_other d code hs]

/-- On a device that does not own the requests each failure is reported. -/
theorem foldl_failRow_far (i code : Nat) {x : Maq} (rows : List LenRow) (d : Device) (hm : (d.inst i).maq = some x)
    (hfar : x.extra.serving.home ≠ d.fab.coord) {r : LenRow} (hr : r ∈ rows) :
    .stepStatus x.extra.serving.home r.slot code false none ∈ (rows.foldl (fun d r => d.failRow i r.slot code) d).out := by
  induction rows generalizing d with
  | nil => cases hr
  | cons y rows ih =>
    have hj := Judged.failRow d i y.slot code
    rw [List.foldl_cons]
    rcases List.mem_cons.mp hr with rfl | hr
    · refine (Judged.foldl (fun e (y : LenRow) => .failRow e i y.slot code) rows _).out _ ?_
      rw [Device.failRow, tellOwner_far _ _ hm hfar]
      exact List.mem_append_right _ (List.mem_singleton.mpr rfl)
    · exact ih _ (by rw [hj.inst]; exact hm) (by rw [hj.coord]; exact hfar) hr

/-- A step's status fails the requests of its batch (R96). -/
theorem judgeStep_failed (d : Device) (q : Seq) (hs : q.status ≠ 0) {r : LenRow} (hr : r ∈ q.rows) :
    (d.ownsInst q.plan.inst = true → ((d.judgeStep q).aux r.slot).failure = some ((d.aux r.slot).failure.getD q.status)) ∧
    (∀ i, (d.inst q.plan.inst).maq = some i → i.extra.serving.home ≠ d.fab.coord →
      .stepStatus i.extra.serving.home r.slot q.status false none ∈ (d.judgeStep q).out) := by
  rw [judgeStep_eq, if_neg hs]
  exact ⟨fun ho => (Judged.judgeRest _ q).fixed _ _ (foldl_failRow_owned _ _ q.rows d ho hr),
    fun i hi hfar => (Judged.judgeRest _ q).out _ (foldl_failRow_far _ _ q.rows d hi hfar hr)⟩

/-- The block at a mark's end, `t`: the step judged, its core's books closed. -/
def Device.marked (e : Device) (c : Nat) (q : Seq) (n t : Nat) : Device :=
  (((e.bump (key 0xC020 4) n).reachCyc t).judgeStep q).modCore c (fun x => x.committedAt t)

theorem marked_core (e : Device) (c : Nat) (q : Seq) (n t : Nat) : (e.marked c q n t).core c = (e.core c).committedAt t := by
  have hall : Judged e (((e.bump (key 0xC020 4) n).reachCyc t).judgeStep q) :=
    ((Judged.bump e _ _).trans (.reach _ _)).trans (.judgeStep _ q)
  unfold Device.marked
  rw [Device.core_modCore_same]
  unfold Device.core
  rw [hall.cim]

theorem marked_failed (e : Device) (c : Nat) (q : Seq) (n t : Nat) {r : LenRow} (hr : r ∈ q.rows) (hs : q.status ≠ 0) :
    (e.ownsInst q.plan.inst = true → ((e.marked c q n t).aux r.slot).failure = some ((e.aux r.slot).failure.getD q.status)) ∧
    (∀ i, (e.inst q.plan.inst).maq = some i → i.extra.serving.home ≠ e.fab.coord →
      .stepStatus i.extra.serving.home r.slot q.status false none ∈ (e.marked c q n t).out) := by
  have hj : Judged e ((e.bump (key 0xC020 4) n).reachCyc t) := (Judged.bump e _ _).trans (.reach _ _)
  have haux : ∀ s, ((e.bump (key 0xC020 4) n).reachCyc t).aux s = e.aux s := fun s => by
    unfold Device.aux Device.reachCyc
    rw [(reach_frame _ _).2.2.1]
    rfl
  have hfailed := judgeStep_failed ((e.bump (key 0xC020 4) n).reachCyc t) q hs hr
  rw [hj.owns, haux, hj.inst, hj.coord] at hfailed
  exact hfailed

/-- Settles O28: the mark's effect on the core, and the judgement of the batch, which nothing later takes back. -/
theorem commitMark : Obligations.CommitMark := by
  unfold Obligations.CommitMark
  intro c s ha e q last m
  have hm : m.core c.val = (e.core c.val).committedAt (last + 16) := marked_core e c.val q (last - q.prev) (last + 16)
  refine ⟨fun hd => ?_, fun hd => ?_, ?_, ?_, ?_, ?_, ?_, ?_, ?_, fun r hr hs => ?_⟩
  · unfold exec execCommitMark
    refine (lift_goes ha rfl).trans (congrArg s.goes (if_pos ?_))
    rw [hd]
    rfl
  · unfold exec execCommitMark
    refine (lift_goes ha rfl).trans (congrArg s.goes (if_neg ?_))
    rw [hd]
    decide
  · exact congrArg (fun x : CimCore => x.seq.phase) hm
  · exact congrArg (fun x : CimCore => x.seq.prev) hm
  · exact congrArg (fun x : CimCore => x.seq.tags) hm
  · exact congrArg (fun x : CimCore => x.seq.resv) hm
  · exact congrArg (fun x : CimCore => x.seq.flight) hm
  · exact congrArg (fun x : CimCore => x.seq.landing) hm
  · exact congrArg (fun x : CimCore => x.aux.committed) hm
  · exact marked_failed e c.val q (last - q.prev) (last + 16) hr hs

/-! ### Pauses, holds, the plinth -/

theorem attnUnit_setAttn_same (d : Device) (k : Nat) (x : Attn) : (d.setAttn k x).attnUnit k = x := by
  unfold Device.attnUnit Device.setAttn
  exact Tbl.get_set_same _ _ _ _

/-- The earliest of a list of pauses, from a first one on. -/
def earliest (p : Nat × Nat) (ps : List (Nat × Nat)) : Nat × Nat :=
  ps.foldl (fun (m : Nat × Nat) x => if x.2 < m.2 then x else m) p

theorem earliest_spec (p : Nat × Nat) (ps : List (Nat × Nat)) :
    earliest p ps ∈ p :: ps ∧ ∀ x ∈ p :: ps, (earliest p ps).2 ≤ x.2 := by
  unfold earliest
  induction ps generalizing p with
  | nil => simp
  | cons y ps ih =>
    rw [List.foldl_cons]
    by_cases hy : y.2 < p.2
    · obtain ⟨hmem, hle⟩ := ih y
      rw [if_pos hy]
      refine ⟨List.mem_cons_of_mem _ hmem, fun x hx => ?_⟩
      rcases List.mem_cons.mp hx with rfl | hx
      · exact Nat.le_trans (hle y (List.mem_cons_self ..)) (Nat.le_of_lt hy)
      · exact hle x hx
    · obtain ⟨hmem, hle⟩ := ih p
      rw [if_neg hy]
      refine ⟨?_, fun x hx => ?_⟩
      · rcases List.mem_cons.mp hmem with h | h
        · rw [h]
          exact List.mem_cons_self ..
        · exact List.mem_cons_of_mem _ (List.mem_cons_of_mem _ h)
      · rcases List.mem_cons.mp hx with rfl | hx
        · exact hle x (List.mem_cons_self ..)
        · rcases List.mem_cons.mp hx with rfl | hx
          · exact Nat.le_trans (hle p (List.mem_cons_self ..)) (Nat.not_lt.mp hy)
          · exact hle x (List.mem_cons_of_mem _ hx)

theorem endStep_wait (d : Device) (c code t loc : Nat) : ((d.endStep c code t loc).core c).seq.wait = none := by
  unfold Device.endStep
  dsimp only
  rw [Device.core_modCore_same]

/-- Settles O29. -/
theorem pausesAndHolds : Obligations.PausesAndHolds := by
  unfold Obligations.PausesAndHolds
  intro c i k g n s ha d x j y
  refine ⟨fun hi hidle => ?idle, fun hi hrun => ?runs, fun hi hcur => ?attn, fun p hp => ?engine, fun hi hphase => ?resume,
    fun hi p ps hp => ?earliest, fun h hw hs => ?hold, fun p ps hphase hplans => ⟨fun hh => ?held, fun hh hb => ?left⟩⟩
  case idle =>
    unfold exec execPauseRequest
    refine (lift_goes ha rfl).trans (congrArg s.goes ?_)
    rw [Device.pauseAny, if_neg hi]
    exact if_pos hidle
  case runs =>
    unfold exec execPauseRequest
    refine (lift_goes ha rfl).trans (congrArg s.goes ?_)
    rw [Device.pauseAny, if_neg hi]
    exact if_neg hrun
  case attn =>
    unfold exec execPauseRequest
    refine ⟨_, lift_goes ha rfl, fun v => ?_⟩
    rw [Device.pauseAny, if_pos hi, Device.pauseAttn, if_pos (by rw [hcur]; rfl), attnUnit_setAttn_same]
    exact List.mem_append_right _ (List.mem_map.mpr ⟨v.val, List.mem_range.mpr v.isLt, rfl⟩)
  case engine =>
    unfold exec execEnginePause
    refine ⟨_, lift_goes ha rfl, ?_, fun x hx => ?_⟩
    all_goals
      dsimp only at *
      rw [show List.find? _ _ = some p from hp] at *
      dsimp only at *
      rw [attnUnit_setAttn_same] at *
    · exact List.mem_append_right _ (List.mem_singleton.mpr rfl)
    · simpa using (List.mem_filter.mp hx).2
  case resume =>
    unfold exec execPauseEnd
    refine (lift_goes ha rfl).trans (congrArg s.goes ?_)
    dsimp only
    rw [if_neg (by simpa [isAttn] using hi)]
    exact if_pos hphase
  case earliest =>
    obtain ⟨hmem, hle⟩ := earliest_spec p ps
    refine ⟨(s.dev.reachCyc (earliest p ps).2).setAttn (i.val / 13) { d.attnUnit (i.val / 13) with
      pausing := (p :: ps).filter (fun x => decide (x ≠ earliest p ps)) }, earliest p ps, ?_, hmem, hle, ?_, reach_up _ _⟩
    · unfold exec execPauseEnd
      refine (lift_goes ha rfl).trans (congrArg s.goes ?_)
      dsimp only
      rw [if_pos (by simpa [isAttn] using hi), Device.endEnginePause, show (s.dev.attnUnit (i.val / 13)).pausing = p :: ps from hp]
      rfl
    · rw [attnUnit_setAttn_same]
  case hold =>
    unfold exec execHoldTimeout
    obtain ⟨hended, hcode, hprev⟩ := endStep_core (d.bump (if h.byBoard then key 0xC020 2 else key 0xC020 3) (d.reg (key 0xC000 2) + 1))
      c.val stHold (h.since + d.reg (key 0xC000 2) + 1)
      (x.seq.heldBy h (h.since + d.reg (key 0xC000 2) + 1) % 4 + if h.byBoard then 4 else 0) hs
    refine ⟨_, (lift_goes ha rfl).trans (congrArg s.goes ?_), hended, hcode, endStep_wait _ _ _ _ _, hprev⟩
    dsimp only
    rw [show (s.dev.core c.val).seq.wait = some h from hw]
    rfl
  case held =>
    unfold exec execPlinthRelease
    refine (lift_goes ha rfl).trans (congrArg s.goes ?_)
    dsimp only
    rw [show (s.dev.core c.val).seq.phase = .plinth from hphase, show (s.dev.core c.val).aux.plans = p :: ps from hplans]
    exact if_pos hh
  case left =>
    unfold exec execPlinthRelease
    refine (lift_goes ha rfl).trans (congrArg s.goes ?_)
    dsimp only
    rw [show (s.dev.core c.val).seq.phase = .plinth from hphase, show (s.dev.core c.val).aux.plans = p :: ps from hplans]
    dsimp only
    rw [if_neg (by rw [show s.dev.plinthHolds p = false from hh]; decide), Device.readyPlan, if_pos (by rw [hb]; rfl)]
    rfl

end Sys2Proof.Machine
end

section
/-!
SUPPORT. The order in which a keyed WRITE is judged (R327), counters and the replay window (R334, R335), and the other requests
of the dictionary (R324, R330, R331).
-/
namespace Sys2Proof.Machine

/-! ### The steps of a WRITE -/

/-- A refusal in steps 1 to 5, with the payload of the object's rule. -/
def Device.refuseWrite (d : Device) (index sub : Nat) (rule : WriteRule) (r : Req) (code : Nat) : Device :=
  d.respond r 2 index sub code false (rule.refusal d r code).length (rule.refusal d r code)

theorem write_mismatch {d : Device} {r : Req} (index sub : Nat) (rule : WriteRule) (h : reqTenantOk r = false) :
    d.write index sub rule r = d.bump (key 0x5020 4) 1 := by
  unfold Device.write
  dsimp only
  rw [if_pos (by rw [h]; rfl)]
  rfl

theorem write_header {d : Device} {r : Req} {index sub : Nat} {rule : WriteRule} {code : Nat} (h : reqTenantOk r = true)
    (hf : reqFault r = some code) : d.write index sub rule r = d.refuseWrite index sub rule r code := by
  unfold Device.write
  dsimp only
  rw [if_neg (by rw [h]; decide), hf]
  rfl

section
variable {d : Device} {r : Req} {index sub : Nat} {rule : WriteRule} {o : ObjRow}

/-- An unkeyed WRITE of an object other than the first key is denied (R327 step 3). -/
theorem write_unkeyed (h : reqTenantOk r = true) (hf : reqFault r = none) (ho : writeRow? index sub = some o)
    (hkey : o.key ≠ 0x501300) (hk : r.keyed = false) :
    d.write index sub rule r = (d.bump (key 0x5020 4) 1).refuseWrite index sub rule r 0x03 := by
  obtain ⟨o0, h0, rfl⟩ := writeRow_obj ho
  unfold Device.write
  dsimp only
  rw [if_neg (by rw [h]; decide), hf]
  dsimp only
  rw [h0]
  dsimp only
  rw [if_neg (fun hc => hkey hc.2.1), if_pos hk]
  rfl

/-- A check that fails (R327 step 3). -/
theorem write_unchecked (h : reqTenantOk r = true) (hf : reqFault r = none) (ho : writeRow? index sub = some o)
    (hk : r.keyed = true) (hg : d.checkGood r 2 index sub = false) :
    d.write index sub rule r = (d.checkFailed r).refuseWrite index sub rule r 0x04 := by
  obtain ⟨o0, h0, rfl⟩ := writeRow_obj ho
  unfold Device.write
  dsimp only
  rw [if_neg (by rw [h]; decide), hf]
  dsimp only
  rw [h0]
  dsimp only
  rw [if_neg (by simp [hk]), if_neg (by simp [hk]), if_pos hg]
  rfl

/-- Step 4: the rights of the object, then the rule of its chapter. -/
theorem write_checked (h : reqTenantOk r = true) (hf : reqFault r = none) (ho : writeRow? index sub = some o)
    (hk : r.keyed = true) (hg : d.checkGood r 2 index sub = true) :
    (∀ f, d.writeFault r o = some f → d.write index sub rule r = d.refuseWrite index sub rule r f) ∧
    (d.writeFault r o = none → rule.auth d (d.soFar r) = false → d.write index sub rule r = d.refuseWrite index sub rule r 0x03) := by
  obtain ⟨o0, h0, rfl⟩ := writeRow_obj ho
  have hw : d.write index sub rule r = match d.writeFault r (if o0.key = 0x800300 then { o0 with right := 4 } else o0) with
      | some st => d.refuseWrite index sub rule r st
      | none => if rule.auth d (d.soFar r) then d.writeOpen r index sub (if o0.key = 0x800300 then { o0 with right := 4 } else o0) rule
        else d.refuseWrite index sub rule r 0x03 := by
    unfold Device.write
    dsimp only
    rw [if_neg (by rw [h]; decide), hf]
    dsimp only
    rw [h0]
    dsimp only
    rw [if_neg (by simp [hk]), if_neg (by simp [hk]), if_neg (by simp [hg])]
    rfl
  refine ⟨fun f hwf => ?_, fun hwf ha => ?_⟩
  · rw [hw, hwf]
  · rw [hw, hwf]
    dsimp only
    rw [if_neg (by rw [ha]; decide)]

/-- Step 5 of a critical command's whole value: its counter is judged. -/
theorem write_judged (hp : d.passes index sub rule r o) (hr : o.right = 4) {k : Nat × KeySlot} (hk : d.slotOf r = some k) :
    (k.2.judge r.counter.toNat r.check = .replay → d.write index sub rule r =
      (if index = 0x6001 ∨ index = 0x6002 then (d.bump (key 0x5020 2) 1).bump (key 0x6010 0x0B) 1
        else d.bump (key 0x5020 2) 1).refuseWrite index sub rule r 0x05) ∧
    (∀ g, k.2.judge r.counter.toNat r.check = .duplicate g → d.write index sub rule r = d.answerAgain r index sub rule g) := by
  obtain ⟨hc, ht, hoff, htot⟩ := hp
  have hw : d.write index sub rule r = match k.2.judge r.counter.toNat r.check with
      | .accept => (d.putSlot k.1 (k.2.accept ⟨r.counter.toNat, o.key, r.check, dProgress, [], clientOf index r.payload⟩)).beginWrite
          r index sub o rule
      | .duplicate e => d.answerAgain r index sub rule e
      | .replay => (if index = 0x6001 ∨ index = 0x6002 then (d.bump (key 0x5020 2) 1).bump (key 0x6010 0x0B) 1
        else d.bump (key 0x5020 2) 1).refuseWrite index sub rule r 0x05 := by
    rw [write_cleared hc]
    unfold Device.writeOpen
    rw [ht]
    dsimp only
    rw [if_neg (by simp [hoff]), if_neg (by omega), if_neg (by omega), if_neg (by simp [hr]), hk]
    dsimp only
    rw [if_neg (by omega)]
    rfl
  exact ⟨fun hj => by rw [hw, hj], fun g hj => by rw [hw, hj]⟩

end

/-! ### The keyed WRITEs -/

/-- Each command of the list is a WRITE of its object under its rule. -/
theorem keyedWrites_exec (x : MaqExtra) (st : Straps) :
    ∀ w ∈ keyedWrites x st, ∀ (r : Req) (s : State), exec (w.1 r) s = s.lift (fun d => d.write w.2.1 w.2.2.1 w.2.2.2 r) := by
  refine List.forall_mem_append.mpr ⟨?_, ?_⟩
  · repeat' refine List.forall_mem_cons.mpr ⟨fun r s => rfl, ?_⟩
    exact List.forall_mem_nil _
  · repeat' refine List.forall_mem_cons.mpr ⟨fun r s => rfl, ?_⟩
    exact List.forall_mem_nil _

/-- A WRITE's object stands in the list of objects, and is neither the first key nor a submission. -/
def plainTarget (index sub : Nat) : Bool :=
  match writeRow? index sub with
  | some o => decide (o.key ≠ 0x501300 ∧ index ≠ 0x6001)
  | none => false

theorem keyedWrites_plain (x : MaqExtra) (st : Straps) : ∀ w ∈ keyedWrites x st, plainTarget w.2.1 w.2.2.1 = true := by
  refine List.forall_mem_append.mpr ⟨?_, ?_⟩
  · repeat' refine List.forall_mem_cons.mpr ⟨by dsimp only; decide, ?_⟩
    exact List.forall_mem_nil _
  · repeat' refine List.forall_mem_cons.mpr ⟨by dsimp only; decide, ?_⟩
    exact List.forall_mem_nil _

theorem plainTarget_spec {index sub : Nat} (h : plainTarget index sub = true) :
    ∃ o, writeRow? index sub = some o ∧ o.key ≠ 0x501300 ∧ index ≠ 0x6001 := by
  unfold plainTarget at h
  split at h
  · next o ho => exact ⟨o, ho, of_decide_eq_true h⟩
  · cases h

/-- Settles O36: each command is a WRITE, judged step by step. -/
theorem writeProtocol : Obligations.WriteProtocol := by
  unfold Obligations.WriteProtocol
  intro x st w hw r s ha d index sub rule no
  have hexec : exec (w.1 r) s = s.goes (d.write index sub rule r) := lift_goes ha (keyedWrites_exec x st w hw r s)
  obtain ⟨o0, hrow, hkey, hindex⟩ := plainTarget_spec (keyedWrites_plain x st w hw)
  refine ⟨fun ht => ?mismatch, fun ht => ⟨fun hv => ?version, fun hv hlen => ?length, fun hf => ⟨fun hk => ?unkeyed,
    fun hk hg => ?unchecked, fun hk hg o ho => ?checked⟩⟩, fun o hp hr k hk => ⟨fun hj => ?replay, fun g hj => ?duplicate⟩,
    fun o v e htakes => ?takes⟩
  case mismatch => exact hexec.trans (congrArg s.goes (write_mismatch _ _ _ ht))
  case version => exact hexec.trans (congrArg s.goes (write_header ht (if_pos hv)))
  case length => exact hexec.trans (congrArg s.goes (write_header ht ((if_neg (Classical.not_not.mpr hv)).trans (if_pos hlen))))
  case unkeyed => exact hexec.trans (congrArg s.goes (write_unkeyed ht hf hrow hkey hk))
  case unchecked => exact hexec.trans (congrArg s.goes (write_unchecked ht hf hrow hk hg))
  case checked =>
    obtain ⟨hfault, hauth⟩ := write_checked (rule := rule) ht hf ho hk hg
    exact ⟨fun f hwf => hexec.trans (congrArg s.goes (hfault f hwf)), fun hwf h => hexec.trans (congrArg s.goes (hauth hwf h))⟩
  case replay =>
    intro e
    refine hexec.trans (congrArg s.goes (((write_judged hp hr hk).1 hj).trans ?_))
    have hor : (index = 0x6001 ∨ index = 0x6002) ↔ index = 0x6002 := ⟨fun h => h.resolve_left hindex, .inr⟩
    rw [ite_congr (propext hor) (fun _ => rfl) (fun _ => rfl)]
    rfl
  case duplicate => exact hexec.trans (congrArg s.goes ((write_judged hp hr hk).2 g hj))
  case takes => exact takes_run htakes (keyedWrites_exec x st w hw r s)

/-! ### The replay window -/

theorem judge_accept_iff (k : KeySlot) (c : Nat) (g : BitVec 128) : k.judge c g = .accept ↔ k.last < c := by
  unfold KeySlot.judge
  split
  · next h => simpa using h
  · next h =>
    refine iff_of_false (fun hj => ?_) h
    split at hj
    · split at hj
      · split at hj <;> cases hj
      · cases hj
    · cases hj

theorem judge_duplicate_iff (k : KeySlot) (c : Nat) (g : BitVec 128) (e : WinEnt) : k.judge c g = .duplicate e ↔
    c ≤ k.last ∧ k.last < c + 64 ∧ k.window.find? (fun x => decide (x.counter = c)) = some e ∧ e.digest = g := by
  unfold KeySlot.judge
  split
  · next h => exact iff_of_false (fun hj => nomatch hj) (fun hj => by omega)
  · next h =>
    split
    · next h2 =>
      cases hf : k.window.find? (fun x => decide (x.counter = c)) with
      | none => simp
      | some x =>
        dsimp only
        split
        · next hd =>
          simp only [Verdict.duplicate.injEq, Option.some.injEq]
          constructor
          · rintro rfl
            exact ⟨Nat.not_lt.mp h, h2, rfl, hd⟩
          · exact fun hj => hj.2.2.1
        · next hd =>
          refine iff_of_false (fun hj => nomatch hj) fun hj => hd ?_
          obtain ⟨-, -, hx, hg⟩ := hj
          cases hx
          exact hg
    · next h2 => exact iff_of_false (fun hj => nomatch hj) (fun hj => h2 hj.2.1)

/-- An accepted command is the window's latest entry, and the window keeps the 64 most recent. -/
theorem accept_window (k : KeySlot) (e : WinEnt) : (k.accept e).window.length ≤ 64 ∧ e ∈ (k.accept e).window ∧
    ∀ x ∈ (k.accept e).window, x = e ∨ x ∈ k.window := by
  unfold KeySlot.accept
  dsimp only
  refine ⟨by rw [List.length_drop]; omega, ?_, fun x hx => ?_⟩
  · rw [List.drop_append_of_le_length (by rw [List.length_append, List.length_singleton]; omega)]
    exact List.mem_append_right _ (List.mem_singleton.mpr rfl)
  · rcases List.mem_append.mp (List.mem_of_mem_drop hx) with h | h
    · exact .inr h
    · exact .inl (List.mem_singleton.mp h)

/-- Settles O37. -/
theorem replayWindow : Obligations.ReplayWindow := by
  unfold Obligations.ReplayWindow
  refine fun k c g => ⟨judge_accept_iff k c g, judge_duplicate_iff k c g, fun e => ⟨rfl, rfl, accept_window k e⟩, ?_⟩
  intro d r code index sub status again total p u
  obtain ⟨⟨calm, mem, dict, rel, -⟩, chk, rest, h⟩ :=
    d.respondKey_spec (if status = dCheck then none else d.answerKey r) r code index sub status again total p
  exact ⟨⟨_, chk, rest, h⟩, calm.regs, calm.cim, calm.attn, calm.serv, calm.cast, calm.sync, calm.sec, rel, calm.pwr, mem, dict⟩

end Sys2Proof.Machine
end

section
/-!
SUPPORT. The other requests of the dictionary: READ, DESCRIBE, ABORT, ECHO, and writes of scalar objects (R320, R324, R330, R331).
-/
namespace Sys2Proof.Machine

/-! ### Requests that pass steps 1 to 4 -/

/-- A request that passes steps 1 to 4 goes on to its object. -/
theorem ask_reaches {d : Device} {code index sub : Nat} {r : Req} {o : ObjRow} (h : d.asked code index sub r o)
    (go : Device → ObjRow → Device) : d.ask r code index sub go = go d o := by
  obtain ⟨htenant, hheader, hobj, hunkeyed, hkeyed, hdefined⟩ := h
  unfold Device.ask
  dsimp only
  rw [if_neg (by rw [htenant]; decide), hheader]
  dsimp only
  rw [hobj]
  dsimp only
  rw [if_neg ?unkeyed, if_neg ?good, if_neg (by rw [hdefined]; decide)]
  case unkeyed =>
    rintro ⟨hk, hr | hc⟩
    · exact absurd ((hunkeyed hk).1.symm.trans hr) (by decide)
    · exact (hunkeyed hk).2 hc
  case good =>
    rintro ⟨hk, hg⟩
    exact absurd ((hkeyed hk).symm.trans hg) (by decide)

/-- The diagnostics take no request below the vendor range (R322). -/
theorem diagnostics_none (d : Device) {index : Nat} (h : index < 0xF000) (code sub : Nat) (r : Req) :
    d.diagnostics code index sub r = none := if_neg (fun hc => absurd hc.1 (Nat.not_le.mpr h))

theorem dictRead_plain (d : Device) {index : Nat} (h : index < 0xF000) {sub : Nat} (r : Req)
    (hhint : index = 0x9011 → sub = 0 → d.cim.hintStatus = 0) : d.dictRead index sub r =
      d.read index sub (fun d k t => if k = 0x103100 then d.evidenceFor t (reqSrc r) else d.value k t) Device.touchRead r := by
  unfold Device.dictRead
  rw [diagnostics_none d h]
  exact if_neg (fun hc => hc.2.2 (hhint hc.1 hc.2.1))

section
variable {d : Device} {r : Req} {index sub : Nat} {o : ObjRow}

/-- A READ of an object that may be read. -/
theorem dictRead_shown (h : index < 0xF000) (hask : d.asked 1 index sub r o) (hright : o.right ≠ 3)
    (hown : o.key = 0x802800 → r.tenant = 0#9) (hhint : index = 0x9011 → sub = 0 → d.cim.hintStatus = 0) :
    d.dictRead index sub r = if o.right = 5 then (d.touchRead o.key).readLatched r index sub o.key (d.shown r o)
      else (d.touchRead o.key).answerRead r index sub (d.shown r o) := by
  rw [dictRead_plain d h r hhint]
  unfold Device.read
  rw [ask_reaches hask, if_neg hright, if_neg (fun hc => hc.2 (hown hc.1))]
  rfl

/-- A READ of a write-only object. -/
theorem dictRead_denied (h : index < 0xF000) (hask : d.asked 1 index sub r o) (hright : o.right = 3)
    (hhint : index = 0x9011 → sub = 0 → d.cim.hintStatus = 0) :
    d.dictRead index sub r = d.respond r 1 index sub 0x03 false 0 [] := by
  rw [dictRead_plain d h r hhint]
  unfold Device.read
  rw [ask_reaches hask, if_pos hright]
  rfl

end

/-! ### Latched reads -/

section
variable {d : Device} {r : Req} {index sub k : Nat} {v : List Byte}

theorem readLatched_open (hr : r.offset = 0#32) (hroom : (d.dropLatch (reqSrc r) r.tag).dict.latches.length < 4)
    (hpart : (reqPart r v).length < v.length) : d.readLatched r index sub k v =
      ((d.dropLatch (reqSrc r) r.tag).putLatch ⟨reqSrc r, r.tag, k, v, (d.dropLatch (reqSrc r) r.tag).clk.up⟩).answerRead
        r index sub v := by
  unfold Device.readLatched
  dsimp only
  rw [if_pos hr, if_neg (Nat.not_le.mpr hroom), if_neg]
  rw [hr]
  simpa using hpart

theorem readLatched_full (hr : r.offset = 0#32) (hfull : 4 ≤ (d.dropLatch (reqSrc r) r.tag).dict.latches.length) :
    d.readLatched r index sub k v = (d.dropLatch (reqSrc r) r.tag).respond r 1 index sub 0x08 false 0 [] := by
  unfold Device.readLatched
  dsimp only
  rw [if_pos hr, if_pos hfull]
  rfl

theorem readLatched_lost (hr : r.offset ≠ 0#32) (hl : d.latch? (reqSrc r) r.tag = none) :
    d.readLatched r index sub k v = d.respond r 1 index sub 0x0C false 0 [] := by
  unfold Device.readLatched
  dsimp only
  rw [if_neg hr, hl]
  rfl

theorem readLatched_last (hr : r.offset ≠ 0#32) {l : Latch} (hl : d.latch? (reqSrc r) r.tag = some l) (hk : l.obj = k)
    (hend : l.value.length ≤ r.offset.toNat + (reqPart r l.value).length) :
    d.readLatched r index sub k v = (d.dropLatch (reqSrc r) r.tag).answerRead r index sub l.value := by
  unfold Device.readLatched
  dsimp only
  rw [if_neg hr, hl]
  dsimp only
  rw [if_pos hk, if_pos hend]

end

/-- Settles O38. -/
theorem dictRequests : Obligations.DictRequests := by
  unfold Obligations.DictRequests
  intro index sub r s ha hindex o d i j
  have hread : exec (.dictRead index sub r) s = s.goes (d.dictRead i j r) :=
    lift_goes ha (f := fun d => d.dictRead i j r) rfl
  refine ⟨fun hask hright hown hhint => ?read, fun hask hright hhint => ?denied, fun hask => ?describe, fun hask => ?abort,
    fun hask hcarrier hkeyed hlen => ?echo⟩
  case read =>
    have hshown := dictRead_shown hindex hask hright hown hhint
    refine ⟨fun h5 => ?plain, fun h5 hoff => ⟨fun hroom hpart => ?first, fun hfull => ?busy⟩,
      fun h5 hoff => ⟨fun hnone => ?lost, fun l hl hobj hend => ?last⟩⟩
    case plain => exact hread.trans (congrArg s.goes (hshown.trans (if_neg h5)))
    case first => exact hread.trans (congrArg s.goes ((hshown.trans (if_pos h5)).trans (readLatched_open hoff hroom hpart)))
    case busy => exact hread.trans (congrArg s.goes ((hshown.trans (if_pos h5)).trans (readLatched_full hoff hfull)))
    case lost => exact hread.trans (congrArg s.goes ((hshown.trans (if_pos h5)).trans (readLatched_lost hoff hnone)))
    case last => exact hread.trans (congrArg s.goes ((hshown.trans (if_pos h5)).trans (readLatched_last hoff hl hobj hend)))
  case denied => exact hread.trans (congrArg s.goes (dictRead_denied hindex hask hright hhint))
  case describe =>
    have hexec : exec (.dictDescribe index sub r) s = s.goes (d.dictDescribe i j r) :=
      lift_goes ha (f := fun d => d.dictDescribe i j r) rfl
    refine hexec.trans (congrArg s.goes ?_)
    unfold Device.dictDescribe
    rw [diagnostics_none d hindex]
    exact ask_reaches hask _
  case abort =>
    have hexec : exec (.dictAbort index sub r) s = s.goes (d.abort i j r) :=
      lift_goes ha (f := fun d => d.abort i j r) rfl
    rw [hexec, show d.abort i j r = _ from ask_reaches hask _]
    cases d.transfer? r <;> rfl
  case echo =>
    have hexec : exec (.dictEcho index sub r) s = s.goes (d.echo i j r) :=
      lift_goes ha (f := fun d => d.echo i j r) rfl
    refine hexec.trans (congrArg s.goes ?_)
    unfold Device.echo
    rw [if_neg (by rw [hask.1]; decide), if_neg (by simp [hcarrier, hkeyed]), if_neg (Nat.not_lt.mpr hlen), ask_reaches hask]
    rfl

end Sys2Proof.Machine
end

section
/-!
SUPPORT. Writes of scalar objects (R320), transfers and latches (R330, R331), and their ends by time.
-/
namespace Sys2Proof.Machine

/-! ### The rule of a scalar object -/

/-- A WRITE of an object with no rule of its own is that of a scalar, and starts no round. -/
theorem dictWrite_scalar {index sub : Nat} (h : index < 0xF000)
    (hk : (if key index sub < 0x600000 then lowRule (key index sub) else highRule (key index sub)) = none) (d : Device) (r : Req) :
    d.dictWrite index sub r = d.write index sub (scalarRule (key index sub)) r := by
  have hsubmit : key index sub ≠ 0x600100 := by
    intro hc
    rw [hc] at hk
    cases hk
  unfold Device.dictWrite Device.afterWrite ruleFor
  rw [diagnostics_none d h, if_neg hsubmit, hk]

/-- A value that passes step 6 is stored. -/
theorem scalarRule_stores {k : Nat} {o : ObjRow} {v : List Byte} (ho : objRow? k = some o) (hv : scalarFault o v = none)
    (d : Device) (r : Req) : (scalarRule k).run d r v =
      ⟨0, [], if policyKeys.contains k then d.setPolicy k (ofLe v) else d.setReg k (ofLe v)⟩ := by
  have hrun : runScalar k d r v = done (if policyKeys.contains k then d.setPolicy k (ofLe v) else d.setReg k (ofLe v)) := by
    unfold runScalar
    rw [ho]
    dsimp only
    rw [hv]
  unfold scalarRule
  split
  · exact (congrArg (fun a : Answer => if a.payload.isEmpty then { a with payload := castCode a.status } else a) hrun).trans rfl
  · exact hrun

/-- A value that fails step 6 is refused and leaves the block. -/
theorem scalarRule_refuses {k f : Nat} {o : ObjRow} {v : List Byte} (ho : objRow? k = some o) (hv : scalarFault o v = some f)
    (d : Device) (r : Req) : (scalarRule k).run d r v = ⟨f, if k / 2 ^ 20 = 7 then castCode f else [], d⟩ := by
  have hrun : runScalar k d r v = refuse d f := by
    unfold runScalar
    rw [ho]
    dsimp only
    rw [hv]
  unfold scalarRule
  split
  · exact (congrArg (fun a : Answer => if a.payload.isEmpty then { a with payload := castCode a.status } else a) hrun).trans rfl
  · exact hrun

theorem scalarFault_code {o : ObjRow} {v : List Byte} {f : Nat} (h : scalarFault o v = some f) : f = 6 ∨ f = 7 := by
  have hsome : ∀ {c : Nat}, some c = some f → f = c := fun hc => (Option.some.inj hc).symm
  unfold scalarFault at h
  dsimp only at h
  split at h
  · exact .inr (hsome h)
  · split at h
    · split at h
      · cases h
      · exact .inl (hsome h)
    · split at h
      · split at h
        · cases h
        · exact .inl (hsome h)
      · split at h
        · cases h
        · split at h
          · cases h
          · exact .inl (hsome h)

/-! ### Transfers -/

section
variable {d : Device} {r : Req} {index sub : Nat} {rule : WriteRule} {o : ObjRow}

/-- The first segment of a longer value opens a transfer. -/
theorem write_opens (hc : d.cleared index sub rule r o) (hopen : d.transfer? r = none)
    (hcount : o.right = 4 → ∃ k, d.slotOf r = some k ∧ k.2.judge r.counter.toNat r.check = .accept) (hoff : r.offset = 0#32)
    (hlen : r.payload.length < r.total.toNat) (hfour : r.payload.length % 4 = 0) (hroom : d.transferRoom (reqSrc r) = true) :
    d.write index sub rule r = ((d.counted index o r).putTransfer ⟨r.tenant.toNat, reqSrc r, r.tag, o.key, r.counter.toNat,
      r.total.toNat, r.check, [(0, r.check, r.payload)], d.clk.up, false⟩).respond r 2 index sub 0x01 false 0 [] := by
  have hbegin : ∀ e : Device, e.clk.up = d.clk.up → e.beginWrite r index sub o rule =
      (e.putTransfer ⟨r.tenant.toNat, reqSrc r, r.tag, o.key, r.counter.toNat, r.total.toNat, r.check,
        [(0, r.check, r.payload)], d.clk.up, false⟩).respond r 2 index sub 0x01 false 0 [] := by
    intro e he
    unfold Device.beginWrite
    rw [if_neg (Nat.ne_of_gt hlen), he]
    rfl
  rw [write_cleared hc]
  unfold Device.writeOpen Device.counted
  rw [hopen]
  dsimp only
  rw [if_neg (by rw [hoff]; decide), if_neg (by omega), if_neg (by rw [hroom]; simp)]
  by_cases hright : o.right = 4
  · obtain ⟨k, hk, hj⟩ := hcount hright
    rw [if_neg (Classical.not_not.mpr hright), if_pos hright, hk]
    dsimp only
    rw [hj]
    exact hbegin _ rfl
  · rw [if_pos hright, if_neg hright]
    exact hbegin _ rfl

/-- A later segment of an open transfer. -/
theorem write_segment (hc : d.cleared index sub rule r o) {t : Transfer} (ht : d.transfer? r = some t) :
    d.write index sub rule r = d.segment r index sub o rule t := by
  rw [write_cleared hc]
  unfold Device.writeOpen
  rw [ht]

/-- A segment out of place ends its transfer. -/
theorem segment_misplaced {t : Transfer} (hobj : t.obj = o.key) (hcount : t.counter = r.counter.toNat) (hdup : t.dup = false)
    (hnew : t.segs.find? (fun x => decide (x.1 = r.offset.toNat)) = none) (hoff : r.offset.toNat ≠ t.got) :
    d.segment r index sub o rule t = (d.abortTransfer t).respond r 2 index sub 0x0C false 0 [] := by
  unfold Device.segment
  dsimp only
  rw [if_neg (by simp [hobj, hcount]), if_neg (by simp [hdup]), hnew]
  dsimp only
  rw [if_pos (.inl hoff)]
  rfl

end

@[simp] theorem Device.putSlot_transfers (d : Device) (i : Nat) (k : KeySlot) :
    (d.putSlot i k).dict.transfers = d.dict.transfers := rfl

/-- An aborted transfer is no longer open; the others stay. -/
theorem abortTransfer_transfers (d : Device) (t : Transfer) : (d.abortTransfer t).dict.transfers =
    d.dict.transfers.filter (fun x => !decide (x.tenant = t.tenant ∧ x.source = t.source ∧ x.tag = t.tag)) := by
  unfold Device.abortTransfer
  dsimp only
  split
  · rfl
  · split <;> rfl

/-- A dropped latch no longer stands. -/
theorem latch_dropLatch (d : Device) (src : Coord) (tag : BitVec 16) : (d.dropLatch src tag).latch? src tag = none := by
  refine List.find?_eq_none.mpr fun l hl => ?_
  have hkept := (List.mem_filter.mp hl).2
  simpa only [Bool.not_eq_true', decide_eq_false_iff_not, decide_eq_true_eq] using hkept

/-- Settles O39. -/
theorem writesAndTransfers : Obligations.WritesAndTransfers := by
  unfold Obligations.WritesAndTransfers
  intro index sub r s hindex o d i j k rule ms
  refine ⟨fun hrule hobj => ?scalar, fun t ha ht => ?transferTimeout, fun l ha hl => ?latchTimeout⟩
  case scalar =>
    have hexec : exec (.dictWrite index sub r) s = s.lift (fun d => d.write i j rule r) := by
      unfold exec execDictWrite
      exact congrArg s.lift (funext fun e => dictWrite_scalar hindex hrule e r)
    refine ⟨fun hw => ⟨fun hf => ?stored, fun f hf => ?refused⟩, fun ha hc => ⟨?firstSegment, fun t ht htobj htcount hdup hnew =>
      ⟨fun hoff => ?misplaced, fun hoff htotal => ?closes⟩⟩⟩
    case stored => exact writes_eq hw hexec (scalarRule_stores hobj hf _ _) (by decide)
    case refused =>
      refine writes_eq hw hexec (scalarRule_refuses hobj hf _ _) ?_
      rcases scalarFault_code hf with rfl | rfl <;> decide
    case firstSegment =>
      intro hopen hcount hoff hlen hfour hroom
      exact (lift_goes ha hexec).trans (congrArg s.goes (write_opens hc hopen hcount hoff hlen hfour hroom))
    case misplaced =>
      exact (lift_goes ha hexec).trans (congrArg s.goes
        ((write_segment hc ht).trans (segment_misplaced htobj htcount hdup hnew hoff)))
    case closes =>
      exact (lift_goes ha hexec).trans (congrArg s.goes
        (write_lasts ⟨ha, hc, t, ht, htobj, htcount, hdup, hnew, hoff, htotal, rfl, rfl⟩))
  case transferTimeout =>
    constructor
    · unfold exec execTransferTimeout
      refine (lift_goes ha rfl).trans (congrArg s.goes ?_)
      rw [ht]
    · intro y hy
      rw [abortTransfer_transfers] at hy
      have hkept := (List.mem_filter.mp hy).2
      simpa only [Bool.not_eq_true', decide_eq_false_iff_not] using hkept
  case latchTimeout =>
    refine ⟨?_, latch_dropLatch _ _ _⟩
    unfold exec execLatchTimeout
    refine (lift_goes ha rfl).trans (congrArg s.goes ?_)
    rw [hl]

end Sys2Proof.Machine
end

section
/-!
SUPPORT. Handles (R155–R162): where a new extent stands, what a creation, a release and a re-creation leave, and the zeros of a
released extent.
-/
namespace Sys2Proof.Machine

/-! ### Extents and the first fit -/

theorem mem_insertExt (x y : Nat × Nat) (l : List (Nat × Nat)) : y ∈ insertExt x l ↔ y = x ∨ y ∈ l := by
  induction l with
  | nil => simp [insertExt]
  | cons z l ih =>
    unfold insertExt
    split
    · exact List.mem_cons
    · rw [List.mem_cons, ih, List.mem_cons]
      exact or_left_comm

/-- Extents stand lowest first. -/
def ExtSorted (l : List (Nat × Nat)) : Prop := l.Pairwise (fun a b => a.1 ≤ b.1)

theorem ExtSorted.insertExt {l : List (Nat × Nat)} (h : ExtSorted l) (x : Nat × Nat) : ExtSorted (insertExt x l) := by
  unfold ExtSorted at h ⊢
  induction l with
  | nil => exact List.pairwise_singleton _ _
  | cons z l ih =>
    obtain ⟨hz, hl⟩ := List.pairwise_cons.mp h
    unfold Machine.insertExt
    split
    · next hle =>
      refine List.pairwise_cons.mpr ⟨fun y hy => ?_, h⟩
      rcases List.mem_cons.mp hy with rfl | hy
      · exact hle
      · exact Nat.le_trans hle (hz y hy)
    · next hgt =>
      refine List.pairwise_cons.mpr ⟨fun y hy => ?_, ih hl⟩
      rcases (mem_insertExt x y l).mp hy with rfl | hy
      · exact Nat.le_of_not_le hgt
      · exact hz y hy

/-- The handles of a unit with bytes of their own. -/
def Handle.lies (x : Handle) (k u : Nat) : Prop := x.cluster = k ∧ x.unit = u ∧ x.remote = false

/-- The extents gathered from a list of handles. -/
theorem foldl_insertExt (k u : Nat) (hs : List (Nat × Handle)) : ∀ l, ExtSorted l →
    let r := hs.foldl (fun l e => if e.2.cluster = k ∧ e.2.unit = u ∧ e.2.remote = false then
      insertExt (e.2.base, e.2.units * 64) l else l) l
    ExtSorted r ∧ ∀ y, y ∈ r ↔ y ∈ l ∨ ∃ e ∈ hs, e.2.lies k u ∧ y = (e.2.base, e.2.units * 64) := by
  induction hs with
  | nil => exact fun l hl => ⟨hl, fun y => ⟨.inl, fun h => h.resolve_right (fun ⟨_, he, _⟩ => absurd he List.not_mem_nil)⟩⟩
  | cons e hs ih =>
    intro l hl
    rw [List.foldl_cons]
    split
    · next hlies =>
      obtain ⟨hsort, hmem⟩ := ih _ (hl.insertExt _)
      refine ⟨hsort, fun y => (hmem y).trans ?_⟩
      rw [mem_insertExt]
      constructor
      · rintro ((rfl | h) | ⟨e', he', h⟩)
        · exact .inr ⟨e, List.mem_cons_self, hlies, rfl⟩
        · exact .inl h
        · exact .inr ⟨e', List.mem_cons_of_mem _ he', h⟩
      · rintro (h | ⟨e', he', h, rfl⟩)
        · exact .inl (.inr h)
        · rcases List.mem_cons.mp he' with rfl | he'
          · exact .inl (.inl rfl)
          · exact .inr ⟨e', he', h, rfl⟩
    · next hnot =>
      obtain ⟨hsort, hmem⟩ := ih _ hl
      refine ⟨hsort, fun y => (hmem y).trans (or_congr_right ?_)⟩
      constructor
      · rintro ⟨e', he', h⟩
        exact ⟨e', List.mem_cons_of_mem _ he', h⟩
      · rintro ⟨e', he', h, hy⟩
        rcases List.mem_cons.mp he' with rfl | he'
        · exact absurd h hnot
        · exact ⟨e', he', h, hy⟩

theorem extents_sorted (d : Device) (k u : Nat) : ExtSorted (d.extents k u) :=
  (foldl_insertExt k u d.mem.handles [] List.Pairwise.nil).1

theorem mem_extents (d : Device) (k u : Nat) (y : Nat × Nat) :
    y ∈ d.extents k u ↔ ∃ e ∈ d.mem.handles, e.2.lies k u ∧ y = (e.2.base, e.2.units * 64) :=
  ((foldl_insertExt k u d.mem.handles [] List.Pairwise.nil).2 y).trans (or_iff_right List.not_mem_nil)

/-- The first fit: inside the unit, clear of every extent, and no lower base is. -/
theorem firstFit_spec {rows size : Nat} {l : List (Nat × Nat)} (hl : ExtSorted l) : ∀ {at_ b}, firstFit rows size at_ l = some b →
    at_ ≤ b ∧ b + rows ≤ size ∧ (∀ x ∈ l, b + rows ≤ x.1 ∨ x.1 + x.2 ≤ b) ∧
      ∀ b', at_ ≤ b' → b' < b → ∃ x ∈ l, x.1 < b' + rows ∧ b' < x.1 + x.2 := by
  unfold ExtSorted at hl
  induction l with
  | nil =>
    intro at_ b h
    unfold firstFit at h
    split at h
    · next hsize =>
      cases h
      exact ⟨Nat.le_refl _, hsize, fun x hx => absurd hx List.not_mem_nil, fun b' h1 h2 => by omega⟩
    · cases h
  | cons x l ih =>
    obtain ⟨hx, hl⟩ := List.pairwise_cons.mp hl
    intro at_ b h
    unfold firstFit at h
    split at h
    · next hfits =>
      split at h
      · next hsize =>
        cases h
        refine ⟨Nat.le_refl _, hsize, fun y hy => .inl ?_, fun b' h1 h2 => by omega⟩
        rcases List.mem_cons.mp hy with rfl | hy
        · exact hfits
        · exact Nat.le_trans hfits (hx y hy)
      · cases h
    · next hover =>
      obtain ⟨hle, hsize, hclear, hlow⟩ := ih hl h
      refine ⟨by omega, hsize, fun y hy => ?_, fun b' h1 h2 => ?_⟩
      · rcases List.mem_cons.mp hy with rfl | hy
        · exact .inr (by omega)
        · exact hclear y hy
      · by_cases hin : b' < x.1 + x.2
        · exact ⟨x, List.mem_cons_self, by omega, hin⟩
        · obtain ⟨y, hy, hlt⟩ := hlow b' (by omega) h2
          exact ⟨y, List.mem_cons_of_mem _ hy, hlt⟩

/-! ### Creation and release -/

section
variable {d : Device} {r : Req} {v : List Byte}

/-- A creation whose tenant is defined and whose attributes may be asked for. -/
theorem runCreateHandle_checked (ht : d.tenantDefined (bits (wordAt v 0) 8 0) = true) (h9 : (reqAttrs v).getLsbD 9 = false)
    (h10 : (reqAttrs v).getLsbD 10 = false) : runCreateHandle d r v =
      let a := if reqLent d r then reqAttrs v ||| (1#11 <<< 8) else reqAttrs v &&& ~~~(1#11 <<< 8)
      if a.getLsbD 7 then handleAnswer d (d.putWindow (bits (wordAt v 0) 8 0) (bits (wordAt v 3) 17 0) (bits (wordAt v 3) 30 18) a)
      else if wordAt v 1 = 0 ∨ wordAt v 1 > 524288 then refuse d dInvalid
      else if (d.cluster (bits (wordAt v 0) 12 9)).ready = false then refuse d dNotReady
      else handleAnswer d (d.alloc (bits (wordAt v 0) 8 0) (bits (wordAt v 0) 12 9)
        (if bit (wordAt v 0) 17 then [13, 14, 15] else [bits (wordAt v 0) 16 13]) (wordAt v 1) a) := by
  unfold runCreateHandle
  dsimp only
  rw [if_neg (by rw [ht, h9, h10]; decide)]

/-- Lent does not touch the other attributes. -/
theorem lent_remote (a : BitVec 11) (lent : Bool) :
    (if lent then a ||| (1#11 <<< 8) else a &&& ~~~(1#11 <<< 8)).getLsbD 7 = a.getLsbD 7 := by
  cases lent <;> simp

end

theorem startRelease_of_handle {d : Device} {h : Nat} {x : Handle} (hx : d.handle? h = some x) :
    d.startRelease h = d.putHandle h { x with attrs := x.attrs ||| (1#11 <<< 10) } := by
  unfold Device.handle? at hx
  split at hx
  · cases hx
  · unfold Device.startRelease
    rw [hx]

/-- A re-creation touches lost entries alone. -/
theorem handleTable_others (v : List Byte) (lost : List Nat) {h : Nat} (hh : lost.contains h = false) (d : Device) :
    Tbl.find? (lost.foldl (fun (d : Device) h => match handleOf (bytesAt v (16 * h) 16) with
      | none => d
      | some x =>
        let d := d.putHandle h x
        { d with mem := { d.mem with lost := List.filter (fun (y : Nat) => decide (y ≠ h)) d.mem.lost } }) d).mem.handles h =
      Tbl.find? d.mem.handles h := by
  induction lost generalizing d with
  | nil => rfl
  | cons g lost ih =>
    rw [List.contains_cons, Bool.or_eq_false_iff] at hh
    rw [List.foldl_cons, ih hh.2]
    have hne : h ≠ g := fun hc => by simp [hc] at hh
    split
    · rfl
    · exact Tbl.find?_put_other _ _ hne

/-! ### The zeros of a released extent -/

theorem Mem.zeroRange_inside (m : Mem) {a n b : Nat} (h : a ≤ b ∧ b < a + n) : (m.zeroRange a n).byte b = 0#8 := by
  refine (Tbl.get_filter (0 : Byte) m.cells (fun k => decide (k < a ∨ a + n ≤ k)) b).trans (if_neg ?_)
  simp only [decide_eq_true_eq]
  omega

theorem Mem.zeroRange_outside (m : Mem) {a n b : Nat} (h : b < a ∨ a + n ≤ b) : (m.zeroRange a n).byte b = m.byte b :=
  (Tbl.get_filter (0 : Byte) m.cells (fun k => decide (k < a ∨ a + n ≤ k)) b).trans (if_pos (decide_eq_true h))

theorem Mem.zeroRange_poison (m : Mem) {a n b : Nat} (h : a ≤ 4 * b ∧ 4 * b < a + n) :
    Tbl.get 0#2 (m.zeroRange a n).poison b = 0#2 := by
  refine (Tbl.get_filter 0#2 m.poison (fun k => decide (4 * k < a ∨ a + n ≤ 4 * k)) b).trans (if_neg ?_)
  simp only [decide_eq_true_eq]
  omega

theorem rowAddr_word (k u row : Nat) : 4 ∣ rowAddr k u row := by
  unfold rowAddr unitBase
  split
  · omega
  · split <;> omega

/-- Freeing a handle's rows: its entry goes, its extent holds zeros without poison, every other byte stays. -/
theorem freeHandleRows_spec (d : Device) (hid : Nat) {x : Handle} (hlocal : x.remote = false) :
    Tbl.find? (d.freeHandleRows hid x).mem.handles hid = none ∧
      (d.freeHandleRows hid x).mem.m = d.mem.m.zeroRange (x.addr 0) (x.units * 4096) := by
  unfold Device.freeHandleRows
  dsimp only
  rw [if_neg (by rw [hlocal]; decide)]
  refine ⟨Tbl.find?_del_same _ _, ?_⟩
  exact congrArg (fun m => m.zeroRange (x.addr 0) (x.units * 4096)) (Calm.closeRows d _ _).m

/-- Settles O40. -/
theorem handleCommands : Obligations.HandleCommands := by
  unfold Obligations.HandleCommands
  intro r s o
  refine ⟨?create, ?release, ?recreate, ?lost, ?zeroed, ?fits⟩
  case create =>
    intro hw hlen e w t k a lent units say n hten h9 h10
    have hrun := runCreateHandle_checked (d := e) (r := r) (v := r.payload) hten h9 h10
    have hsay := sized_wrote (c := .createHandle r) hw hlen rfl rfl
    have hremote := lent_remote a (reqLent e r)
    refine ⟨fun h7 hmin hmax => ?here, fun h7 huse h hfree => ?window⟩
    case window =>
      refine hsay (hrun.trans ((if_pos (hremote.trans h7)).trans ?_))
      unfold Device.putWindow
      rw [if_neg (Nat.not_lt.mpr huse), hfree]
      rfl
    case here =>
      have hin : ¬ (w 1 = 0 ∨ w 1 > 524288) := by omega
      have hlocal := hrun.trans ((if_neg (fun hc => absurd ((hremote.trans h7).symm.trans hc) (by decide))).trans (if_neg hin))
      refine ⟨fun hnr => hsay (hlocal.trans (if_pos hnr)), fun hready => ⟨fun hquota => ?_, fun hh hb => ⟨fun h hfree x hx => ?_,
        fun hnone => ?_⟩⟩⟩
      all_goals refine hsay (hlocal.trans ((if_neg (by rw [hready]; decide)).trans ?_)); unfold Device.alloc; dsimp only
      · rw [if_pos hquota]
        rfl
      · rw [if_neg (not_or.mpr ⟨Nat.not_lt.mpr hh, Nat.not_lt.mpr hb⟩), hfree, hx]
        rfl
      · rw [if_neg (not_or.mpr ⟨Nat.not_lt.mpr hh, Nat.not_lt.mpr hb⟩)]
        split
        · next hf hi =>
          rcases hnone with h | h
          · cases h.symm.trans hf
          · cases h.symm.trans hi
        · rfl
  case release =>
    intro hw hf e h
    have hsay := valued_wrote (c := .releaseHandle r) hw hf rfl (by decide +kernel) rfl
    refine ⟨fun hnone => hsay ?_, fun x hx hres => ⟨fun huse => hsay ?_, fun huse => hsay ?_⟩⟩
    all_goals unfold runReleaseHandle
    · rw [show e.handle? h = none from hnone]
      rfl
    · rw [show e.handle? h = some x from hx]
      dsimp only
      rw [if_neg (by rw [hres]; decide), if_pos huse]
      rfl
    · rw [show e.handle? h = some x from hx]
      dsimp only
      rw [if_neg (by rw [hres]; decide), if_neg (by rw [huse]; decide)]
      exact congrArg done (startRelease_of_handle hx)
  case recreate =>
    intro v e htakes hlen bad
    have hrun : ruleHandleTable.run e r v = runHandleTable e r v := sized_run hlen
    refine ⟨fun hb => takes_eq htakes rfl (hrun.trans (if_pos hb)) (by decide), fun hb => ?_⟩
    exact ⟨_, takes_eq htakes rfl (hrun.trans (if_neg (fun hc => absurd (hb.symm.trans hc) (by decide)))) (by decide),
      fun h hh => handleTable_others v e.mem.lost hh e⟩
  case lost =>
    intro h ha hlost
    unfold exec execHandleZeroDone
    refine (lift_goes ha rfl).trans (congrArg s.goes ?_)
    rw [show s.dev.handle? h.toNat = none from if_pos hlost]
  case zeroed =>
    intro h x ha hx hrel hlocal
    have hexec : exec (.handleZeroDone h) s = s.goes (s.dev.freeHandleRows h.toNat x) := by
      unfold exec execHandleZeroDone
      refine (lift_goes ha rfl).trans (congrArg s.goes ?_)
      rw [hx]
      exact if_pos hrel
    obtain ⟨hgone, hmem⟩ := freeHandleRows_spec s.dev h.toNat hlocal
    have hword : 4 ∣ x.addr 0 := Nat.dvd_add (rowAddr_word _ _ _) (Nat.dvd_zero 4)
    refine ⟨_, hexec, hgone, fun b hlo hhi => ?_, fun b hb => ?_⟩
    · rw [hmem]
      exact ⟨Mem.zeroRange_inside _ ⟨hlo, hhi⟩, Mem.zeroRange_poison _ (by omega)⟩
    · rw [hmem]
      exact Mem.zeroRange_outside _ hb
  case fits =>
    intro d k unit len b hfind rows
    obtain ⟨-, hsize, hclear, hlow⟩ := firstFit_spec (extents_sorted d k unit) hfind
    refine ⟨hsize, fun h x hx hk hu hr => ?_, fun b' hb' => ?_⟩
    · exact hclear _ ((mem_extents d k unit _).mpr ⟨(h, x), Tbl.find?_mem _ _ _ hx, ⟨hk, hu, hr⟩, rfl⟩)
    · obtain ⟨y, hy, h1, h2⟩ := hlow b' (Nat.zero_le _) hb'
      obtain ⟨⟨h, x⟩, hmem, ⟨hk, hu, hr⟩, rfl⟩ := (mem_extents d k unit y).mp hy
      exact ⟨h, x, hmem, hk, hu, hr, h1, h2⟩

end Sys2Proof.Machine
end

section
/-!
SUPPORT. The TAP and the sideband's PHY (R422, R423, R429): what a shift of the boundary register and of the identity register
shows.
-/
namespace Sys2Proof.Machine

/-! ### Identity and lands -/

/-- The fields of the identity register. -/
theorem idcode_fields (n : Nat) : idcode n % 2 = 1 ∧ idcode n / 2 % 2 ^ 11 = 0x4AD ∧ idcode n / 2 ^ 12 % 2 ^ 16 = 0x6144 ∧
    idcode n / 2 ^ 28 = n % 16 := by
  unfold idcode
  omega

/-- The level of a land as a digit. -/
def level (b : Bool) : Nat := if b then 1 else 0

theorem level_le (b : Bool) : level b ≤ 1 := by cases b <;> decide

theorem level_eq_one (b : Bool) : decide (level b = 1) = b := by cases b <;> rfl

theorem lands_digits (d : Device) (rstLow ps : Bool) : d.lands rstLow ps = level (!rstLow) + 2 * level d.pwr.pgood +
    4 * level (!d.alertLow) + 8 * level (!d.pwr.trip) + 16 * d.fab.slot.toNat + 128 + 256 * level ps := by
  have digit : ∀ (b : Bool) (n : Nat), (if b then 2 ^ n else 0) = 2 ^ n * level b := by
    intro b n
    cases b
    · rfl
    · exact (Nat.mul_one _).symm
  unfold Device.lands
  simp only [digit, if_true]
  omega

/-- What the boundary register shows of the lands. -/
theorem lands_shown (d : Device) (rstLow ps : Bool) :
    let x := d.lands rstLow ps
    x.testBit 0 = !rstLow ∧ x.testBit 1 = d.pwr.pgood ∧ x.testBit 2 = !d.alertLow ∧ x.testBit 3 = !d.pwr.trip ∧
      x / 16 % 8 = d.fab.slot.toNat ∧ x < 2 ^ 9 := by
  intro x
  have hx : x = _ := lands_digits d rstLow ps
  have hrst := level_le (!rstLow)
  have hgood := level_le d.pwr.pgood
  have halert := level_le (!d.alertLow)
  have htrip := level_le (!d.pwr.trip)
  have hps := level_le ps
  have hslot := d.fab.slot.isLt
  have bit : ∀ n (b : Bool), x / 2 ^ n % 2 = level b → x.testBit n = b := by
    intro n b h
    rw [Nat.testBit_eq_decide_div_mod_eq, h, level_eq_one]
  exact ⟨bit 0 _ (by omega), bit 1 _ (by omega), bit 2 _ (by omega), bit 3 _ (by omega), by omega, by omega⟩

/-! ### Instructions -/

/-- An instruction of the TAP acts while the standby domain has power. -/
theorem viaTap_on {s : State} (h : s.sup.standby = true) {o : Host.Outcome State Fault Refusal} {f : Device → Device}
    (ho : o = s.viaTap f) : o = s.goes (f s.dev) := ho.trans (congrArg s.goes (if_pos h))

theorem viaTap_off {s : State} (h : s.sup.standby = false) {o : Host.Outcome State Fault Refusal} {f : Device → Device}
    (ho : o = s.viaTap f) : o = s.goes s.dev := ho.trans (congrArg s.goes (if_neg (by rw [h]; decide)))

/-- IDCODE on a block. -/
def Device.identify (d : Device) : Device :=
  { d.send (.tap 32 (idcode Config.stepping.toNat)) with tap := { d.tap with ir := 1 } }

/-- A TAP_PRIVATE instruction of a block that is not unlocked is BYPASS. -/
theorem tapPrivate_bypass {s : State} {code : BitVec 8} (h : (s.dev.sec.unlocked && s.sup.standby) = false) :
    exec (.tapPrivate code) s = s.viaTap (fun d => d.bypass) := by
  unfold exec execTapPrivate
  exact if_neg (by rw [h]; decide)

/-- Settles O60. -/
theorem sidebandAndTap : Obligations.SidebandAndTap := by
  unfold Obligations.SidebandAndTap
  intro v code on s d
  refine ⟨fun hon => ⟨?bypass, fun hu => ?privateStops, ?idcode, ?sample, ?extest⟩, fun hoff => ?off, fun ha => ⟨?beacon, ?carrier⟩⟩
  case bypass =>
    exact ⟨d.bypass, viaTap_on hon (f := Device.bypass) rfl, rfl, rfl,
      fun hu => viaTap_on hon (tapPrivate_bypass (by rw [hu]; rfl)), rfl, rfl, rfl, rfl⟩
  case privateStops =>
    unfold exec execTapPrivate
    exact if_pos (by rw [hu, hon]; rfl)
  case idcode =>
    exact ⟨d.identify, idcode Config.stepping.toNat, viaTap_on hon (f := Device.identify) rfl, rfl, rfl, idcode_fields _⟩
  case sample =>
    exact ⟨d.boundary s.sup.rstLow 2 v, d.fresh.2.lands s.sup.rstLow (d.fresh.1.getLsbD 0),
      viaTap_on hon (f := fun d => d.boundary s.sup.rstLow 2 v) rfl, rfl, rfl, rfl, rfl, lands_shown d.fresh.2 s.sup.rstLow _⟩
  case extest =>
    exact ⟨d.boundary s.sup.rstLow 3 v, d.fresh.2.lands s.sup.rstLow (d.fresh.1.getLsbD 0),
      viaTap_on hon (f := fun d => d.boundary s.sup.rstLow 3 v) rfl, rfl, rfl, rfl, rfl⟩
  case off =>
    exact ⟨viaTap_off hoff (f := Device.bypass) rfl, viaTap_off hoff (f := Device.identify) rfl,
      viaTap_off hoff (f := fun d => d.boundary s.sup.rstLow 2 v) rfl,
      viaTap_off hoff (f := fun d => d.boundary s.sup.rstLow 3 v) rfl,
      viaTap_off hoff (tapPrivate_bypass (by rw [hoff, Bool.and_false]))⟩
  case beacon =>
    refine ⟨d.setSide ⟨true, true, true, d.reg (key 0x4060 2), d.reg (key 0x4060 3)⟩, ?_, rfl, rfl, rfl⟩
    unfold exec execPlcaBeacon
    exact lift_goes ha rfl
  case carrier =>
    refine ⟨d.setSide { d.side with carrier := on, beacon := d.side.beacon && on, active := d.side.active && on }, ?_, rfl, rfl,
      fun h => ?_, fun h => ?_⟩
    · unfold exec execSidebandCarrierChange
      exact lift_goes ha rfl
    · subst h
      exact congr (congrArg (fun x y : Bool => 0 + (if x then 2 else 0) + (if y then 4 else 0)) (Bool.and_false _)) (Bool.and_false _)
    · subst h
      exact ⟨Bool.and_true _, Bool.and_true _⟩

end Sys2Proof.Machine
end

section
/-!
SUPPORT. Crossings' handshakes (R402, R405, R406), the reference (R412) and the steps of bring-up (R409, R411).
-/
namespace Sys2Proof.Machine

/-! ### Crossings -/

@[simp] theorem Device.crossing_setCrossing_same (d : Device) (x : Nat) (c : Crossing) : (d.setCrossing x c).crossing x = c :=
  Tbl.get_set_same _ _ _ _

theorem Device.crossing_setCrossing_other (d : Device) {x z : Nat} (c : Crossing) (h : z ≠ x) :
    (d.setCrossing x c).crossing z = d.crossing z := Tbl.get_set_other _ _ _ h

/-- What keeps the clocks keeps every crossing. -/
theorem Device.crossing_of_clk {d e : Device} (h : e.clk = d.clk) (z : Nat) : e.crossing z = d.crossing z := by
  unfold Device.crossing
  rw [h]

/-- The words of a crossing whose last packet is cut. -/
theorem completed_append (q : List (Word × Bool × Nat)) (a : Word) (b : Bool) (n : Nat) :
    completed (q ++ [(a, b, n)]) = q.map (fun z => (z.1, z.2.1)) ++ (a, b) :: List.replicate n (0#32, true) := by
  unfold completed
  rw [List.getLast?_append, List.map_append, List.append_assoc]
  rfl

/-- A flushed crossing is in sink mode with empty queues, and its back queue leaves, completed. -/
theorem flushCrossing_spec (d : Device) (x p : Nat) :
    Calm (d.setCrossing x ⟨p, true, [], []⟩) (d.flushCrossing x p) ∧
    ((d.crossing x).back = [] → (d.flushCrossing x p).out = d.out) ∧
    (∀ q a b n, (d.crossing x).back = q ++ [(a, b, n)] → (d.flushCrossing x p).out =
      d.out ++ [.crossed x (q.map (fun z => (z.1, z.2.1)) ++ (a, b) :: List.replicate n (0#32, true))]) := by
  unfold Device.flushCrossing
  dsimp only
  refine ⟨Calm.ite (.refl _) (.send _ _), fun hback => ?_, fun q a b n hback => ?_⟩
  · rw [hback]
    rfl
  · rw [hback, completed_append, if_neg (by simp)]
    rfl

theorem flushCrossing_ctr (d : Device) (x p j : Nat) : (d.flushCrossing x p).ctr j = d.ctr j := by
  unfold Device.flushCrossing
  dsimp only
  split <;> rfl

theorem flushCrossing_same (d : Device) (x p : Nat) : (d.flushCrossing x p).crossing x = ⟨p, true, [], []⟩ :=
  (Device.crossing_of_clk (flushCrossing_spec d x p).1.clk x).trans (d.crossing_setCrossing_same x _)

theorem flushCrossing_other (d : Device) {x z : Nat} (p : Nat) (h : z ≠ x) : (d.flushCrossing x p).crossing z = d.crossing z :=
  (Device.crossing_of_clk (flushCrossing_spec d x p).1.clk z).trans (d.crossing_setCrossing_other _ h)

/-! ### Readiness -/

theorem or_bit {x : BitVec 7} {n : Nat} (h : x.getLsbD n = true) : x ||| (1#7 <<< n) = x := by
  refine BitVec.eq_of_getLsbD_eq fun i hi => ?_
  rw [BitVec.getLsbD_or, BitVec.getLsbD_shiftLeft]
  by_cases hin : i = n
  · subst hin
    rw [h, Bool.true_or]
  · have hzero : (1#7).getLsbD (i - n) = false ∨ i < n := by
      by_cases hlt : i < n
      · exact .inr hlt
      · exact .inl (by simp; omega)
    rcases hzero with h | h <;> simp [h]

theorem readyBit_clk (d : Device) (n : Nat) : (d.readyBit n).clk = { d.clk with ready := d.clk.ready ||| (1#7 <<< n) } := by
  unfold Device.readyBit
  split
  · next h => rw [or_bit h]
  · exact (Calm.notify _ _ _ _ _ _ _ _).clk

theorem readyBit_cim (d : Device) (n : Nat) : (d.readyBit n).cim = d.cim := by
  unfold Device.readyBit
  split
  · rfl
  · exact (Calm.notify _ _ _ _ _ _ _ _).cim

theorem allSettled_clk (d : Device) : d.allSettled.clk.clusters = d.clk.clusters ∧ d.allSettled.clk.resetting = d.clk.resetting := by
  unfold Device.allSettled
  split
  · rw [readyBit_clk]
    exact ⟨rfl, rfl⟩
  · exact ⟨rfl, rfl⟩

theorem allSettled_cim (d : Device) : d.allSettled.cim = d.cim := by
  unfold Device.allSettled
  split
  · exact readyBit_cim _ _
  · rfl

theorem Device.cluster_of_clusters {d e : Device} (h : e.clk.clusters = d.clk.clusters) (k : Nat) : e.cluster k = d.cluster k := by
  unfold Device.cluster
  rw [h]

/-! ### Clusters that fail or become ready -/

/-- A failed cluster: its own record, the other records, the engines. -/
theorem failCluster_spec (d : Device) (k cause : Nat) :
    (d.failCluster k cause).cluster k = { d.cluster k with st := 7, cause := cause, readyUs := 0 } ∧
    (∀ j, j ≠ k → (d.failCluster k cause).cluster j = d.cluster j) ∧ (d.failCluster k cause).cim = d.cim := by
  have hclusters : (d.failCluster k cause).clk.clusters =
      (d.setCluster k { d.cluster k with st := 7, cause := cause, readyUs := 0 }).clk.clusters := by
    unfold Device.failCluster
    exact (allSettled_clk _).1.trans ((congrArg ClkS.clusters (Calm.notify _ _ _ _ _ _ _ _).clk).trans rfl)
  refine ⟨?_, fun j hj => ?_, ?_⟩
  · exact (Device.cluster_of_clusters hclusters k).trans (Device.cluster_setCluster_same _ _ _)
  · exact (Device.cluster_of_clusters hclusters j).trans (Device.cluster_setCluster_other _ _ hj)
  · unfold Device.failCluster
    exact (allSettled_cim _).trans (Calm.notify _ _ _ _ _ _ _ _).cim

theorem StageKeep.alloc {d : Device} {t k len : Nat} {us : List Nat} {a : BitVec 11} {x : Nat × Device}
    (h : d.alloc t k us len a = .ok x) : StageKeep d x.2 := by
  unfold Device.alloc at h
  dsimp only at h
  split at h
  · cases h
  · split at h
    · cases h
      exact .of_same rfl rfl
    · cases h

theorem StageKeep.placePack {d : Device} {k : Nat} {b : List Byte} {x : Nat × Device} (h : d.placePack k b = some x) :
    StageKeep d x.2 := by
  unfold Device.placePack at h
  obtain ⟨y, hy, rfl⟩ := Option.map_eq_some_iff.mp h
  exact (StageKeep.allocReserve hy).trans (StageKeep.writeH _ _ _ _)

/-- A reserve that is made where there is space. -/
theorem StageKeep.orReserve (d : Device) (k n : Nat) (f : Nat × Device → Device) (hf : ∀ x, StageKeep x.2 (f x)) :
    StageKeep d (match d.allocReserve k n with
      | some x => f x
      | none => d) := by
  split
  · next x hx => exact (StageKeep.allocReserve hx).trans (hf x)
  · exact .refl _

/-- The reserves of a cluster touch no cluster record. -/
theorem StageKeep.makeReserves (d : Device) (k : Nat) : StageKeep d (d.makeReserves k) := by
  have window : StageKeep d (match d.alloc 0 k [12] 64 (1#11 <<< 6) with
      | .ok x => { x.2 with attn := { x.2.attn with windows := Tbl.put x.2.attn.windows k x.1 } }
      | .error _ => d) := by
    split
    · next x hx => exact (StageKeep.alloc hx).trans (.of_same rfl rfl)
    · exact .refl _
  unfold Device.makeReserves
  dsimp only
  refine StageKeep.trans ?_ (StageKeep.foldl (fun d p => ?_) _ _)
  · have save := window.trans (StageKeep.orReserve _ k 8192
      (fun x => { x.2 with rel := { x.2.rel with saveAreas := Tbl.put x.2.rel.saveAreas k x.1 } }) fun _ => .of_same rfl rfl)
    refine save.trans (StageKeep.ite (.refl _) ?_)
    exact StageKeep.orReserve _ k _
      (fun x => { x.2 with rel := { x.2.rel with outliers := Tbl.put x.2.rel.outliers k x.1 } }) fun _ => .of_same rfl rfl
  · split
    · exact .refl _
    · next x hx => exact (StageKeep.placePack hx).trans (.of_same rfl rfl)

theorem StageKeep.schedulePasses (d : Device) (k : Nat) : StageKeep d (d.schedulePasses k) := by
  unfold Device.schedulePasses
  refine StageKeep.foldl (fun d j => ?_) _ _
  exact .of_same rfl rfl

/-! ### The test of a cluster in its wave -/

/-- The routers of a cluster that powers up are no longer bypassed for its failure. -/
def Device.unbypass (d : Device) (j : Nat) : Device :=
  d.setDetours (d.mem.detours.filter (fun z => !decide (256 ≤ z.1 ∧ (clusterTiles j).contains (z.1 - 256) = true)))

section
variable {d : Device} {ts : List ClusterTest} {j : Nat}

/-- A cluster that runs, waits for calibration or has failed takes no part in the wave. -/
theorem waveCluster_other (h0 : (d.cluster j).st ≠ 0) (h1 : (d.cluster j).st ≠ 1) (h6 : (d.cluster j).st ≠ 6) :
    d.waveCluster ts j = d := if_neg (by omega)

theorem waveCluster_routed (h : (d.cluster j).st = 0 ∨ (d.cluster j).st = 1 ∨ (d.cluster j).st = 6)
    (hr : (d.unbypass j).routerBad j = false) : d.waveCluster ts j =
      match ts.find? (fun t => decide (t.cluster.val = j)) with
      | none => (d.unbypass j).setCluster j { d.cluster j with st := 1, cause := 0 }
      | some t => ((d.unbypass j).setCluster j { d.cluster j with st := 1, cause := 0 }).testCluster t := by
  unfold Device.waveCluster
  dsimp only
  rw [if_pos h]
  refine (if_neg ?_).trans rfl
  intro hbad
  exact absurd (hr.symm.trans hbad) (by decide)

/-- How the test of a cluster ends: at its tiles, at its attention core, or waiting to be ready. -/
theorem testCluster_st (t : ClusterTest) :
    let k := t.cluster.val
    (t.tileFail ≠ 0#3 → ((d.testCluster t).cluster k).st = 7 ∧ ((d.testCluster t).cluster k).cause = 2) ∧
    (t.tileFail = 0#3 → t.attnFail = true → ((d.testCluster t).cluster k).st = 7 ∧ ((d.testCluster t).cluster k).cause = 3) ∧
    (t.tileFail = 0#3 → t.attnFail = false → ((d.testCluster t).cluster k).st = 3) := by
  intro k
  unfold Device.testCluster
  dsimp only
  refine ⟨fun ht => ?_, fun ht ha => ?_, fun ht ha => ?_⟩
  · rw [if_pos ht, (failCluster_spec _ _ _).1]
    exact ⟨rfl, rfl⟩
  · rw [if_neg (Classical.not_not.mpr ht), if_pos ha, (failCluster_spec _ _ _).1]
    exact ⟨rfl, rfl⟩
  · rw [if_neg (Classical.not_not.mpr ht), if_neg (by rw [ha]; decide), Device.cluster_setCluster_same]

end

/-! ### Ports when the reference is lost -/

theorem Device.clk_foldl {α : Type} {f : Device → α → Device} (h : ∀ d a, (f d a).clk = d.clk) (l : List α) (d : Device) :
    (l.foldl f d).clk = d.clk := by
  induction l generalizing d with
  | nil => rfl
  | cons a l ih => exact (ih _).trans (h d a)

theorem loseFrames_clk (d : Device) (x : Coord) : (d.loseFrames x).clk = d.clk := by
  unfold Device.loseFrames
  refine Device.clk_foldl (fun d y => ?_) _ d
  unfold Device.pageLost
  split
  · rfl
  · unfold Device.failAt Device.fixFailure
    dsimp only
    split
    · split <;> rfl
    · rfl

theorem setUnreachable_clk (d : Device) (x : Coord) : (d.setUnreachable x).clk = d.clk := by
  unfold Device.setUnreachable
  split
  · rfl
  · exact (loseFrames_clk _ _).trans (Calm.notify _ _ _ _ _ _ _ _).clk

theorem setReachable_clk (d : Device) (x : Coord) : (d.setReachable x).clk = d.clk := by
  unfold Device.setReachable
  split
  · exact (Calm.notify _ _ _ _ _ _ _ _).clk
  · rfl

theorem withRoutes_clk (d : Device) (f : Device → Device) : (d.withRoutes f).clk = (f d).clk :=
  (Device.clk_foldl setUnreachable_clk _ _).trans (Device.clk_foldl setReachable_clk _ _)

theorem keepParent_clk (d : Device) (f : Device → Device) : (d.keepParent f).clk = (f d).clk := by
  unfold Device.keepParent
  dsimp only
  split <;> rfl

theorem rerouteAll_clk (d : Device) (p : Nat) (x : Port) : (d.rerouteAll p x).clk = d.clk :=
  Device.clk_foldl (fun d _ => Device.clk_foldl (fun d _ => (Calm.forward d _ _ _ _ _).clk) _ d) _ d

/-- The loss of a link leaves the clocks. -/
theorem portDown_clk (d : Device) (p : Nat) : (d.portDown p).clk = d.clk := by
  unfold Device.portDown
  dsimp only
  split
  · rfl
  · refine (withRoutes_clk _ _).trans ((keepParent_clk _ _).trans ((rerouteAll_clk _ _ _).trans ?_))
    have hsaid : ∀ e : Device, (((e.err (portAt p) 0x11 0).bump (key 0x4030 5) 1).notify 2 0 0x4010 0 p (d.downState p)).clk = e.clk :=
      fun e => ((Calm.err e _ _ _).trans ((Calm.bump _ _ _).trans (Calm.notify _ _ _ _ _ _ _ _))).clk
    split
    · exact hsaid _
    · exact hsaid _

/-- A port's state and enable are of its side that a send keeps. -/
theorem Port.st_of_kept {x y : Port} (h : x.kept = y.kept) : x.st = y.st :=
  show x.kept.st = y.kept.st by rw [h]

/-- Without a reference no port stays up: each is down, disabled, or was not up. -/
theorem portDown_unclocked (d : Device) (h : d.clk.refOk = false) (p : Nat) :
    (((d.portDown p).port p).st ≤ 1 ∨ ((d.portDown p).port p).st = 5) ∧
      ∀ q, q ≠ p → ((d.portDown p).port q).st = (d.port q).st := by
  by_cases hdown : (d.port p).st ≤ 1 ∨ (d.port p).st = 5
  · rw [show d.portDown p = d from if_pos hdown]
    exact ⟨hdown, fun _ _ => rfl⟩
  · obtain ⟨hp, hq, -⟩ := d.portDown_port p (by omega) (by omega)
    have hst : d.downState p ≤ 1 ∨ d.downState p = 5 := by
      unfold Device.downState
      rw [h, Bool.and_false]
      split
      · exact .inr rfl
      · exact .inl (Nat.zero_le 1)
    exact ⟨by rw [Port.st_of_kept hp]; exact hst, fun q hne => Port.st_of_kept (hq q hne)⟩

/-- Every port of the eight goes down with the reference. -/
theorem portsDown_unclocked (n : Nat) (d : Device) (h : d.clk.refOk = false) :
    let u := (List.range n).foldl (fun d p => d.portDown p) d
    u.clk = d.clk ∧ ∀ p < n, (u.port p).st ≤ 1 ∨ (u.port p).st = 5 := by
  induction n with
  | zero => exact ⟨rfl, fun p hp => absurd hp (Nat.not_lt_zero p)⟩
  | succ n ih =>
    obtain ⟨hclk, hports⟩ := ih
    rw [List.range_succ, List.foldl_append, List.foldl_cons, List.foldl_nil]
    generalize (List.range n).foldl (fun d p => d.portDown p) d = e at hclk hports ⊢
    obtain ⟨hn, hother⟩ := portDown_unclocked e (by rw [hclk]; exact h) n
    refine ⟨(portDown_clk e n).trans hclk, fun p hp => ?_⟩
    by_cases hpn : p = n
    · rw [hpn]
      exact hn
    · rw [hother p hpn]
      exact hports p (by omega)

/-- A port that trains is down instead. -/
def Device.untrain (d : Device) (p : Nat) : Device := if (d.port p).st = 1 then d.setPort p { d.port p with st := 0 } else d

theorem untrain_spec (d : Device) (p : Nat) : (d.untrain p).clk = d.clk ∧
    ((d.port p).st ≤ 1 ∨ (d.port p).st = 5 → ((d.untrain p).port p).st = 0 ∨ ((d.untrain p).port p).st = 5) ∧
    ∀ q, q ≠ p → (d.untrain p).port q = d.port q := by
  unfold Device.untrain
  split
  · refine ⟨rfl, fun _ => .inl ?_, fun q hq => Device.port_setPort_other _ _ hq⟩
    rw [Device.port_setPort_same]
  · exact ⟨rfl, fun h => by omega, fun _ _ => rfl⟩

theorem untrains_spec (n : Nat) (d : Device) : let u := (List.range n).foldl (fun d p => d.untrain p) d
    u.clk = d.clk ∧ (∀ p < n, (d.port p).st ≤ 1 ∨ (d.port p).st = 5 → (u.port p).st = 0 ∨ (u.port p).st = 5) ∧
      ∀ p, n ≤ p → u.port p = d.port p := by
  induction n with
  | zero => exact ⟨rfl, fun p hp => absurd hp (Nat.not_lt_zero p), fun _ _ => rfl⟩
  | succ n ih =>
    obtain ⟨hclk, hlow, hhigh⟩ := ih
    rw [List.range_succ, List.foldl_append, List.foldl_cons, List.foldl_nil]
    generalize (List.range n).foldl (fun d p => d.untrain p) d = e at hclk hlow hhigh ⊢
    obtain ⟨hc, hn, hother⟩ := untrain_spec e n
    refine ⟨hc.trans hclk, fun p hp h => ?_, fun p hp => (hother p (by omega)).trans (hhigh p (by omega))⟩
    by_cases hpn : p = n
    · subst hpn
      exact hn (by rw [hhigh p (Nat.le_refl p)]; exact h)
    · rw [hother p hpn]
      exact hlow p (by omega) h

/-- The block when the reference is found lost, before that is recorded. -/
def Device.unclock (d : Device) : Device :=
  (List.range 8).foldl (fun d p => d.untrain p)
    ((List.range 8).foldl (fun d p => d.portDown p) ((d.setClk { d.clk with refOk := false }).unready 1).resetAll)

theorem unclock_spec (d : Device) : d.unclock.clk.refOk = false ∧ d.unclock.clk.ready.getLsbD 1 = false ∧
    (∀ j < 16, (d.unclock.cluster j).st = 0) ∧ ∀ p < 8, (d.unclock.port p).st = 0 ∨ (d.unclock.port p).st = 5 := by
  obtain ⟨hcl, -, href, hready⟩ := ((d.setClk { d.clk with refOk := false }).unready 1).resetAll_spec
  unfold Device.unclock
  generalize ((d.setClk { d.clk with refOk := false }).unready 1).resetAll = e at hcl href hready ⊢
  obtain ⟨hclk, hports⟩ := portsDown_unclocked 8 e href
  generalize (List.range 8).foldl (fun d p => d.portDown p) e = f at hclk hports ⊢
  obtain ⟨hclk', hlow, -⟩ := untrains_spec 8 f
  generalize (List.range 8).foldl (fun d p => d.untrain p) f = g at hclk' hlow ⊢
  have hg : g.clk = e.clk := hclk'.trans hclk
  refine ⟨by rw [hg]; exact href, ?_, fun j hj => ?_, fun p hp => hlow p hp (hports p hp)⟩
  · rw [hg]
    exact hready 1 (by simp [Device.unready, Device.setClk])
  · rw [Device.cluster_of_clusters (congrArg ClkS.clusters hg)]
    exact (hcl j hj).1

/-! ### The obligation -/

/-- A cluster that becomes ready: its record, the others, and the resets that are over. -/
def Device.becomeReady (d : Device) (k : Nat) : Device :=
  let d := d.setCluster k { d.cluster k with st := 4, readyUs := (d.clk.up - d.clk.resetUp) / 1000 }
  let d := d.setClk { d.clk with resetting := d.clk.resetting &&& ~~~(1#16 <<< k) }
  let d := d.startPatrols k (clusterBanks k)
  let d := if (d.cluster k).resets = 0 then d else d.startPatrols (17 + k) (sliceBanks k)
  (((d.makeReserves k).schedulePasses k).notify 0x30 0 0x3000 1 (32 + k)).allSettled

theorem becomeReady_clk (d : Device) (k : Nat) :
    (d.becomeReady k).clk.clusters =
      (d.setCluster k { d.cluster k with st := 4, readyUs := (d.clk.up - d.clk.resetUp) / 1000 }).clk.clusters ∧
    (d.becomeReady k).clk.resetting = d.clk.resetting &&& ~~~(1#16 <<< k) := by
  have tail : ∀ e : Device, StageKeep e (((e.makeReserves k).schedulePasses k).notify 0x30 0 0x3000 1 (32 + k)) := fun e =>
    (StageKeep.makeReserves e k).trans ((StageKeep.schedulePasses _ k).trans (.of_calm (Calm.notify _ _ _ _ _ _ _ _)))
  unfold Device.becomeReady
  dsimp only
  refine ⟨(allSettled_clk _).1.trans ((tail _).clusters.trans ?_), (allSettled_clk _).2.trans ((tail _).resetting.trans ?_)⟩
  · split <;> rfl
  · split <;> rfl

/-- A command whose effect on a running block is known. -/
theorem lift_runs {s : State} (ha : s.alive = true) {f : Device → Device} {u : Device} (hf : f s.dev = u) : s.lift f = s.goes u :=
  (lift_goes ha rfl).trans (congrArg s.goes hf)

theorem not_of_false {b : Bool} (h : b = false) : ¬ b = true := by rw [h]; decide

theorem both_true {a b : Bool} (ha : a = true) (hb : b = true) : (a && b) = true := by rw [ha, hb]; rfl

theorem not_both_of_or {a b : Bool} (h : a = false ∨ b = false) : ¬ (a && b) = true := by
  rcases h with h | h <;> simp [h]

/-- Settles O59. -/
theorem crossingsAndBringUp : Obligations.CrossingsAndBringUp := by
  unfold Obligations.CrossingsAndBringUp
  intro x k w sc ts s ha d i y
  refine ⟨fun hk hp => ?request, fun h => ?noRequest, fun hp => ?ack, fun hp => ?noAck, fun hs => ?ready, fun hs => ?notReady,
    fun h => ?noFallback, fun n hn hn3 => ?fallback, fun h3 => ?recentre, fun h3 => ?noRecentre, fun e p => ?flush, fun hr => ?refOk,
    fun hr => ?refLost, fun hr => ?refLoss, fun e n _ => readyBit_clk e n, fun hm => ?ramped, fun hm => ?notRamped, ?mayRamp,
    fun hg hr => ?central, fun h => ?noCentral, fun hg h3 => ?wave, fun h => ?noWave, fun e j => ?waveCluster, fun h3 => ?clusterReady,
    fun h3 => ?clusterWaits, fun h1 => ?pll, fun h1 => ?noPll⟩
  case request =>
    unfold exec execCrossingResetRequest
    exact lift_runs ha (if_pos (both_true (Option.isSome_iff_ne_none.mpr hk) (decide_eq_true hp)))
  case noRequest =>
    unfold exec execCrossingResetRequest
    exact lift_runs ha (if_neg (not_both_of_or (h.imp (fun hn => by rw [hn]; rfl) (fun hp => decide_eq_false hp))))
  case ack =>
    unfold exec execCrossingResetAck
    exact lift_runs ha (if_pos hp)
  case noAck =>
    unfold exec execCrossingResetAck
    exact lift_runs ha (if_neg hp)
  case ready =>
    unfold exec execCrossingReady
    exact lift_runs ha (if_pos hs)
  case notReady =>
    unfold exec execCrossingReady
    exact lift_runs ha (if_neg (not_of_false hs))
  case noFallback =>
    unfold exec execCrossingFallback
    refine lift_runs ha ?_
    rcases h with hn | h3
    · rw [if_neg (by rw [hn]; decide)]
      unfold Device.crossingFallback
      rw [hn]
    · exact if_pos h3
  case fallback =>
    have hfar : farCtr (key 0x3020 2) := by decide
    have hcalm := (Calm.err (d.flushCrossing x 2) (routerAt (crossingTile x)) 0x31 n).trans (Calm.bump _ (key 0x3020 2) 1)
    refine ⟨((d.flushCrossing x 2).err (routerAt (crossingTile x)) 0x31 n).bump (key 0x3020 2) 1, ?_, ?_, ?_, ?_, ?_⟩
    · unfold exec execCrossingFallback
      refine lift_runs ha ?_
      rw [if_neg (fun hc => hn3 (Option.some.inj (hn.symm.trans hc)))]
      unfold Device.crossingFallback
      rw [hn]
    · exact (Device.crossing_of_clk hcalm.clk x).trans (flushCrossing_same d x 2)
    · rw [Device.ctr_bump_same, Device.err_ctr _ hfar, flushCrossing_ctr]
    · exact hcalm.cim.trans (flushCrossing_spec d x 2).1.cim
    · exact hcalm.pwr.trans (flushCrossing_spec d x 2).1.pwr
  case recentre =>
    have hcalm := Calm.err ((d.flushCrossing x 2).setCrossing x Crossing.reset) (routerAt (crossingTile x)) 0x32 0
    refine ⟨((d.flushCrossing x 2).setCrossing x Crossing.reset).err (routerAt (crossingTile x)) 0x32 0, ?_, ?_, fun z hz => ?_,
      hcalm.cim.trans (flushCrossing_spec d x 2).1.cim⟩
    · unfold exec execMesochronousRecentre
      exact lift_runs ha (if_pos h3)
    · exact (Device.crossing_of_clk hcalm.clk x).trans (Device.crossing_setCrossing_same _ _ _)
    · exact (Device.crossing_of_clk hcalm.clk z).trans ((Device.crossing_setCrossing_other _ _ hz).trans (flushCrossing_other d 2 hz))
  case noRecentre =>
    unfold exec execMesochronousRecentre
    exact lift_runs ha (if_neg h3)
  case flush =>
    obtain ⟨-, hempty, hlast⟩ := flushCrossing_spec e x p
    exact ⟨flushCrossing_same e x p, fun z hz => flushCrossing_other e p hz, hempty, hlast⟩
  case refOk =>
    constructor
    · unfold exec execRefclkDetect
      exact lift_runs ha (if_pos hr)
    · unfold exec execRefclkRestore
      exact lift_runs ha (if_pos hr)
  case refLost =>
    refine ⟨?_, ?_, ?_⟩
    · unfold exec execRefclkLoss
      exact lift_runs ha (if_neg (not_of_false hr))
    · unfold exec execRefclkDetect
      exact lift_runs ha (if_neg (not_of_false hr))
    · unfold exec execRefclkRestore
      exact lift_runs ha (if_neg (not_of_false hr))
  case refLoss =>
    refine ⟨d.unclock, ?_, unclock_spec d⟩
    unfold exec execRefclkLoss
    exact lift_runs ha (if_pos hr)
  case ramped =>
    unfold exec execRailsRamped
    exact lift_runs ha (if_pos hm)
  case notRamped =>
    unfold exec execRailsRamped
    exact lift_runs ha (if_neg (not_of_false hm))
  case mayRamp =>
    unfold Device.mayRamp
    simp only [Bool.and_eq_true, Bool.not_eq_true', decide_eq_true_eq, List.all_eq_true, List.mem_range, and_assoc]
  case central =>
    unfold exec execCentralBlockReady
    exact lift_runs ha (if_pos (both_true hg hr))
  case noCentral =>
    unfold exec execCentralBlockReady
    exact lift_runs ha (if_neg (not_both_of_or h))
  case wave =>
    unfold exec execClusterWave
    refine lift_runs ha ((if_pos (both_true hg h3)).trans ?_)
    simp only [show List.range 4 = [0, 1, 2, 3] from rfl, List.foldl_cons, List.foldl_nil, Nat.mul_zero, Nat.zero_add]
    rfl
  case noWave =>
    unfold exec execClusterWave
    exact lift_runs ha (if_neg (not_both_of_or h))
  case waveCluster =>
    intro c u
    refine ⟨fun h0 h1 h6 => waveCluster_other h0 h1 h6, fun _ hst hbad => ⟨fun hnone => ?_, fun t ht => ?_⟩⟩
    · have hfind : ts.find? (fun t => decide (t.cluster.val = j)) = none :=
        List.find?_eq_none.mpr fun t ht => by simpa using hnone t ht
      have hu := waveCluster_routed (ts := ts) hst hbad
      rw [hfind] at hu
      rw [show u = _ from hu, Device.cluster_setCluster_same]
    · have hu := waveCluster_routed (ts := ts) hst hbad
      rw [ht] at hu
      have hj : t.cluster.val = j := by simpa using List.find?_some ht
      subst hj
      rw [show u = _ from hu]
      exact testCluster_st t
  case clusterReady =>
    obtain ⟨hclusters, hresetting⟩ := becomeReady_clk d i
    refine ⟨d.becomeReady i, ?_, ?_, fun j hj => ?_, hresetting⟩
    · unfold exec execClusterReady
      exact lift_runs ha (if_pos h3)
    · exact (Device.cluster_of_clusters hclusters i).trans (Device.cluster_setCluster_same _ _ _)
    · exact (Device.cluster_of_clusters hclusters j).trans (Device.cluster_setCluster_other _ _ hj)
  case clusterWaits =>
    unfold exec execClusterReady
    exact lift_runs ha (if_neg h3)
  case pll =>
    refine ⟨_, ?_, failCluster_spec d i 1⟩
    unfold exec execPllLockTimeout
    exact lift_runs ha (if_pos h1)
  case noPll =>
    unfold exec execPllLockTimeout
    exact lift_runs ha (if_neg h1)

end Sys2Proof.Machine
end

section
/-!
SUPPORT. The layout of growing pages (R180): doubling pages up to the cap, then pages of one size.
-/
namespace Sys2Proof.Machine

namespace KvClass

variable {c : KvClass}

/-- Pages double until the cap and keep its size from there on. -/
theorem pageTokens_min (c : KvClass) (k : Nat) : c.pageTokens k = min (2 ^ (c.s0 + k)) (2 ^ c.cap) := by
  unfold pageTokens
  rcases Nat.le_total (c.s0 + k) c.cap with h | h
  · rw [Nat.min_eq_left h, Nat.min_eq_left (Nat.pow_le_pow_right (by decide) h)]
  · rw [Nat.min_eq_right h, Nat.min_eq_right (Nat.pow_le_pow_right (by decide) h)]

theorem pageTokens_doubling {k : Nat} (h : c.s0 + k ≤ c.cap) : c.pageTokens k = 2 ^ c.s0 * 2 ^ k := by
  unfold pageTokens
  rw [Nat.min_eq_left h, Nat.pow_add]

theorem pageTokens_capped {k : Nat} (h : c.cap ≤ c.s0 + k) : c.pageTokens k = 2 ^ c.cap := by
  unfold pageTokens
  rw [Nat.min_eq_right h]

/-- The growing pages fill the positions before the first page of the cap's size. -/
theorem base_eq (h : c.s0 ≤ c.cap) : c.base = 2 ^ c.s0 * (2 ^ c.grow - 1) := by
  unfold base grow
  rw [Nat.mul_sub, Nat.mul_one, ← Nat.pow_add, Nat.add_sub_cancel' h]

theorem pageStart_growing {k : Nat} (h : c.s0 ≤ c.cap) (hk : k ≤ c.grow) : c.pageStart k = 2 ^ c.s0 * (2 ^ k - 1) := by
  unfold pageStart
  split
  · rfl
  · next hlt =>
    have hkg : k = c.grow := by omega
    rw [hkg, Nat.sub_self, Nat.zero_mul, Nat.add_zero, base_eq h]

theorem pageStart_capped {k : Nat} (hk : c.grow ≤ k) : c.pageStart k = c.base + (k - c.grow) * 2 ^ c.cap :=
  if_neg (Nat.not_lt.mpr hk)

/-- `x · 2^k` more positions begin the page after page `k` of the growing ones. -/
theorem doubled_start (x k : Nat) : x * (2 ^ (k + 1) - 1) = x * (2 ^ k - 1) + x * 2 ^ k := by
  have hpos : 1 ≤ 2 ^ k := Nat.one_le_two_pow
  rw [← Nat.mul_add]
  congr 1
  rw [Nat.pow_succ]
  omega

theorem pageStart_succ (h : c.s0 ≤ c.cap) (k : Nat) : c.pageStart (k + 1) = c.pageStart k + c.pageTokens k := by
  rcases Nat.lt_or_ge k c.grow with hk | hk
  · rw [pageStart_growing h hk, pageStart_growing h (Nat.le_of_lt hk), doubled_start,
      pageTokens_doubling (by unfold grow at hk; omega)]
  · rw [pageStart_capped (Nat.le_succ_of_le hk), pageStart_capped hk, pageTokens_capped (by unfold grow at hk; omega),
      Nat.succ_sub hk, Nat.succ_mul, Nat.add_assoc]

/-- A position of the growing pages. -/
theorem pageOf_growing (h : c.s0 ≤ c.cap) {t : Nat} (ht : t < c.base) :
    let k := Nat.log2 (t / 2 ^ c.s0 + 1)
    c.pageOf t = (k, t - 2 ^ c.s0 * (2 ^ k - 1)) ∧ k < c.grow ∧ 2 ^ c.s0 * (2 ^ k - 1) ≤ t ∧
      t < 2 ^ c.s0 * (2 ^ k - 1) + 2 ^ c.s0 * 2 ^ k := by
  intro k
  have hpos : 0 < 2 ^ c.s0 := Nat.two_pow_pos _
  have hq : t / 2 ^ c.s0 < 2 ^ c.grow - 1 := by
    rw [base_eq h] at ht
    exact Nat.div_lt_of_lt_mul ht
  have hlow : 2 ^ k ≤ t / 2 ^ c.s0 + 1 := Nat.log2_self_le (Nat.succ_ne_zero _)
  have hhigh : t / 2 ^ c.s0 + 1 < 2 ^ (k + 1) := Nat.lt_log2_self
  refine ⟨if_pos ht, ?_, ?_, ?_⟩
  · exact (Nat.pow_lt_pow_iff_right (by decide)).mp (show 2 ^ k < 2 ^ c.grow by omega)
  · calc 2 ^ c.s0 * (2 ^ k - 1) ≤ 2 ^ c.s0 * (t / 2 ^ c.s0) := Nat.mul_le_mul_left _ (by omega)
      _ ≤ t := Nat.mul_div_le _ _
  · calc t < 2 ^ c.s0 * (t / 2 ^ c.s0 + 1) := Nat.lt_mul_div_succ t hpos
      _ ≤ 2 ^ c.s0 * (2 ^ (k + 1) - 1) := Nat.mul_le_mul_left _ (by omega)
      _ = 2 ^ c.s0 * (2 ^ k - 1) + 2 ^ c.s0 * 2 ^ k := doubled_start _ _

end KvClass

/-- Settles O48. -/
theorem pageLayout : Obligations.PageLayout := by
  unfold Obligations.PageLayout
  intro c h
  refine ⟨fun t => ?_, ?_, KvClass.pageStart_succ h, KvClass.pageTokens_min c⟩
  · intro p
    rcases Nat.lt_or_ge t c.base with ht | ht
    · obtain ⟨hp, hk, hlow, hhigh⟩ := KvClass.pageOf_growing h ht
      rw [show p = _ from hp]
      dsimp only
      rw [KvClass.pageStart_growing h (Nat.le_of_lt hk), KvClass.pageTokens_doubling (by unfold KvClass.grow at hk; omega)]
      exact ⟨by omega, by omega, fun _ => rfl, fun hge => absurd ht (Nat.not_lt.mpr hge)⟩
    · have hp : p = (c.grow + (t - c.base) / 2 ^ c.cap, (t - c.base) % 2 ^ c.cap) := if_neg (Nat.not_lt.mpr ht)
      rw [hp]
      dsimp only
      have hcap : c.cap ≤ c.s0 + (c.grow + (t - c.base) / 2 ^ c.cap) := by
        rw [← Nat.add_assoc, KvClass.grow, Nat.add_sub_cancel' h]
        exact Nat.le_add_right _ _
      rw [KvClass.pageStart_capped (Nat.le_add_right _ _), KvClass.pageTokens_capped hcap, Nat.add_sub_cancel_left]
      refine ⟨?_, Nat.mod_lt _ (Nat.two_pow_pos _), fun hlt => absurd hlt (Nat.not_lt.mpr ht), fun _ => rfl⟩
      rw [Nat.add_assoc, Nat.mul_comm, Nat.div_add_mod, Nat.add_sub_cancel' ht]
  · rw [KvClass.pageStart_growing h (Nat.zero_le _)]
    rfl

end Sys2Proof.Machine
end

section
/-!
SUPPORT. The scratchpad (R150, R163, R166–R171): what a read delivers and leaves, a combining window that closes, a scrub
write-back, and a patrol read.
-/
namespace Sys2Proof.Machine

/-! ### Words -/

theorem Device.peek_of_m {d e : Device} (h : e.mem.m = d.mem.m) (wa : Nat) : e.peek wa = d.peek wa := by
  unfold Device.peek
  rw [h]

/-- A word reads back as written, whatever else stands in the block. -/
theorem peek_write_same {d : Device} {m : Mem} {wa : Nat} {x : RWord} (h : d.mem.m = m.write wa x) : d.peek wa = x := by
  obtain ⟨hraw, hpoison, hflips⟩ := m.raw_write_same wa x
  unfold Device.peek
  rw [h, hraw, hpoison, hflips]
  obtain ⟨w, p⟩ := x
  cases p <;> rfl

theorem peek_write_other {d e : Device} {wa wb : Nat} {x : RWord} (h : e.mem.m = d.mem.m.write wa x) (hne : wb ≠ wa) :
    e.peek wb = d.peek wb := by
  have hpoison : Tbl.get 0#2 (d.mem.m.write wa x).poison wb = Tbl.get 0#2 d.mem.m.poison wb := Tbl.get_set_other _ _ _ hne
  have hflips : Tbl.get 0#39 (d.mem.m.write wa x).flips wb = Tbl.get 0#39 d.mem.m.flips wb :=
    Tbl.get_set_other 0#39 0#39 d.mem.m.flips hne
  unfold Device.peek
  rw [h, Mem.raw_write_other _ _ hne, hpoison, hflips]

/-- One word written: its cells, and no scrub entry of it. -/
theorem writeWords_one (d : Device) (wa : Nat) (x : RWord) : (d.writeWords wa [x]).mem.m = d.mem.m.write wa x ∧
    ∀ e ∈ Tbl.get [] (d.writeWords wa [x]).mem.scrub (unitOf (4 * wa)), e.1 ≠ wa := by
  unfold Device.writeWords
  dsimp only
  split
  · next hq =>
    refine ⟨rfl, fun e he => ?_⟩
    have hlisted : e ∈ Tbl.get [] d.mem.scrub (unitOf (4 * wa)) := he
    rw [List.isEmpty_iff.mp hq] at hlisted
    cases hlisted
  · refine ⟨rfl, fun e he => ?_⟩
    have hlisted : e ∈ Tbl.get [] (Tbl.set [] d.mem.scrub (unitOf (4 * wa))
      ((Tbl.get [] d.mem.scrub (unitOf (4 * wa))).filter (fun e => decide (e.1 ≠ wa)))) (unitOf (4 * wa)) := he
    rw [Tbl.get_set_same] at hlisted
    exact of_decide_eq_true (List.mem_filter.mp hlisted).2

/-! ### Codewords (R167) -/

theorem eccRead_zero : eccRead 0#39 = .clean := by decide +kernel

theorem xor_swap (a b c : Nat) : a ^^^ (b ^^^ c) = b ^^^ (a ^^^ c) := by
  rw [← Nat.xor_assoc, Nat.xor_comm a b, Nat.xor_assoc]

theorem xor_cancel (a b : Nat) : a ^^^ (a ^^^ b) = b := by
  rw [← Nat.xor_assoc, Nat.xor_self, Nat.zero_xor]

/-- The syndrome and the parity are linear. -/
theorem eccSyn_xor (a b : BitVec 39) : eccSyn (a ^^^ b) = eccSyn a ^^^ eccSyn b := by
  have key : ∀ (l : List Nat) (m n : Nat), l.foldl (fun s p => if (a ^^^ b).getLsbD p then s ^^^ p else s) (m ^^^ n) =
      l.foldl (fun s p => if a.getLsbD p then s ^^^ p else s) m ^^^ l.foldl (fun s p => if b.getLsbD p then s ^^^ p else s) n := by
    intro l
    induction l with
    | nil => exact fun _ _ => rfl
    | cons p l ih =>
      intro m n
      simp only [List.foldl_cons]
      rw [← ih]
      congr 1
      rw [BitVec.getLsbD_xor]
      cases a.getLsbD p <;> cases b.getLsbD p <;> simp [Nat.xor_comm, xor_swap, xor_cancel]
  exact key (List.range 39) 0 0

theorem eccPar_xor (a b : BitVec 39) : eccPar (a ^^^ b) = (eccPar a ^^ eccPar b) := by
  have key : ∀ (l : List Nat) (m n : Bool), l.foldl (fun s p => s ^^ (a ^^^ b).getLsbD p) (m ^^ n) =
      (l.foldl (fun s p => s ^^ a.getLsbD p) m ^^ l.foldl (fun s p => s ^^ b.getLsbD p) n) := by
    intro l
    induction l with
    | nil => exact fun _ _ => rfl
    | cons p l ih =>
      intro m n
      simp only [List.foldl_cons]
      rw [← ih]
      congr 1
      rw [BitVec.getLsbD_xor]
      cases m <;> cases n <;> cases a.getLsbD p <;> cases b.getLsbD p <;> rfl
  exact key (List.range 39) false false

/-- One flipped bit has its position as the syndrome, and odd parity. -/
theorem ecc_one : ∀ i < 39, eccSyn (1#39 <<< i) = i ∧ eccPar (1#39 <<< i) = true := by decide +kernel

/-- One flipped bit is corrected where it stands. -/
theorem eccRead_one (i : Nat) (hi : i < 39) : eccRead (1#39 <<< i) = .corrected i := by
  obtain ⟨hsyn, hpar⟩ := ecc_one i hi
  unfold eccRead
  dsimp only
  rw [hsyn, if_pos hpar]
  split
  · next h0 => rw [h0]
  · exact if_pos (by omega)

/-- Numbers whose bits nowhere differ are the same. -/
theorem eq_of_xor_eq_zero {a b : Nat} (h : a ^^^ b = 0) : a = b := by
  have hback : a ^^^ b ^^^ b = b := by rw [h, Nat.zero_xor]
  rwa [Nat.xor_assoc, Nat.xor_self, Nat.xor_zero] at hback

/-- Two flipped bits are found and not corrected. -/
theorem eccRead_two (i : Nat) (hi : i < 39) (j : Nat) (hj : j < i) : eccRead (1#39 <<< i ^^^ 1#39 <<< j) = .poisoned := by
  obtain ⟨hsyn, hpar⟩ := ecc_one i hi
  obtain ⟨hsyn', hpar'⟩ := ecc_one j (by omega)
  have hne : i ^^^ j ≠ 0 := fun h => absurd (eq_of_xor_eq_zero h) (by omega)
  unfold eccRead
  dsimp only
  rw [eccSyn_xor, eccPar_xor, hsyn, hsyn', hpar, hpar']
  exact if_neg hne

theorem eccData_zero : eccData 0#39 = 0#32 := by decide

section
variable {d : Device} {wa : Nat}

theorem readWord_fst (d : Device) (wa n : Nat) : (d.readWord wa n).1 = d.peek wa := by
  unfold Device.readWord
  dsimp only
  split <;> rfl

/-- A word with one flipped bit reads as written. -/
theorem peek_corrected (hp : Tbl.get 0#2 d.mem.m.poison wa = 0#2) {i : Nat} (hi : i < 39)
    (hf : Tbl.get 0#39 d.mem.m.flips wa = 1#39 <<< i) : d.peek wa = ⟨d.mem.m.raw wa, false⟩ := by
  have hne : 1#39 <<< i ≠ 0#39 := by
    intro h
    have hone := eccRead_one i hi
    rw [h, eccRead_zero] at hone
    cases hone
  have hleft : eccLeft (1#39 <<< i) = 0#39 := by
    unfold eccLeft
    rw [eccRead_one i hi]
    exact BitVec.xor_self
  unfold Device.peek
  rw [hf, hp]
  dsimp only
  rw [if_neg hne, hleft, eccData_zero, eccRead_one i hi, BitVec.xor_zero]
  rfl

/-- A word whose flips are found and not corrected reads poisoned. -/
theorem peek_poisoned (h : eccRead (Tbl.get 0#39 d.mem.m.flips wa) = .poisoned) : (d.peek wa).poison = true := by
  unfold Device.peek
  dsimp only
  split
  · next h0 =>
    rw [h0, eccRead_zero] at h
    cases h
  · rw [h]
    exact Bool.or_true _

theorem queueScrub_ctr (d : Device) (wa : Nat) (b : Bool) {k : Nat} (hk : k ≠ key 0x8010 4) :
    (d.queueScrub wa b).ctr k = d.ctr k := by
  unfold Device.queueScrub
  dsimp only
  split
  · rfl
  · split
    · exact Device.ctr_bump_other _ hk
    · rfl

/-- A correction is counted. -/
theorem readWord_corrected (hp : Tbl.get 0#2 d.mem.m.poison wa = 0#2) {i n : Nat}
    (hf : eccRead (Tbl.get 0#39 d.mem.m.flips wa) = .corrected i) :
    (d.readWord wa n).2.ctr (key 0x8010 1) = min (2 ^ 64 - 1) (d.ctr (key 0x8010 1) + 1) := by
  unfold Device.readWord
  dsimp only
  rw [hf, hp]
  dsimp only
  rw [queueScrub_ctr _ _ _ (by decide), Device.ctr_bump_same, if_neg (by decide)]

end

/-! ### What a read leaves beside the stored words -/

/-- The combining windows, the rows delivered and the patrols' requests stay. -/
structure ReadKeep (d e : Device) : Prop where
  windows : e.mem.windows = d.mem.windows
  combined : e.mem.combined = d.mem.combined
  asked : e.mem.asked = d.mem.asked

namespace ReadKeep

theorem of_mem {d e : Device} (h : e.mem = d.mem) : ReadKeep d e := ⟨by rw [h], by rw [h], by rw [h]⟩

theorem refl (d : Device) : ReadKeep d d := ⟨rfl, rfl, rfl⟩

theorem trans {d e g : Device} (h : ReadKeep d e) (k : ReadKeep e g) : ReadKeep d g :=
  ⟨k.windows.trans h.windows, k.combined.trans h.combined, k.asked.trans h.asked⟩

theorem ite {d e g : Device} {p : Prop} [Decidable p] (h : ReadKeep d e) (k : ReadKeep d g) : ReadKeep d (if p then e else g) := by
  split <;> assumption

theorem bump (d : Device) (k n : Nat) : ReadKeep d (d.bump k n) := .of_mem rfl

theorem err (d : Device) (e : ErrAt) (k n : Nat) : ReadKeep d (d.err e k n) := by
  unfold Device.err
  dsimp only
  split
  · exact .of_mem rfl
  · split <;> exact .of_mem rfl

theorem sendNotify (d : Device) (b : Bool) (x : Coord) (t n : Nat) (r : List Byte) : ReadKeep d (d.sendNotify b x t n r) := by
  unfold Device.sendNotify
  dsimp only
  split
  · exact .of_mem rfl
  · exact .of_mem ((Sends.send d _).trans (Sends.sendPdu _ _ _ _ _ _ _)).mem

theorem foldl {α : Type} {f : Device → α → Device} (h : ∀ d a, ReadKeep d (f d a)) (l : List α) (d : Device) :
    ReadKeep d (l.foldl f d) := by
  induction l generalizing d with
  | nil => exact .refl d
  | cons a l ih => exact (h d a).trans (ih _)

theorem notifyOne (d : Device) (a b c e x y z : Nat) : ReadKeep d (d.notifyOne a b c e x y z).2 := by
  unfold Device.notifyOne
  dsimp only
  refine ReadKeep.trans ?_ (ReadKeep.foldl (fun d s => ReadKeep.ite (sendNotify _ _ _ _ _ _) (.refl d)) _ _)
  refine ReadKeep.trans ?_ (sendNotify _ _ _ _ _ _)
  exact ReadKeep.ite (p := _ = true) (.of_mem rfl) (.of_mem rfl)

theorem notify (d : Device) (a b c e x y z : Nat) : ReadKeep d (d.notify a b c e x y z) := by
  unfold Device.notify
  dsimp only
  split
  · exact (notifyOne d _ _ _ _ _ _ _).trans (notifyOne _ _ _ _ _ _ _ _)
  · exact notifyOne d _ _ _ _ _ _ _

theorem queueScrub (d : Device) (w : Nat) (b : Bool) : ReadKeep d (d.queueScrub w b) := by
  unfold Device.queueScrub
  dsimp only
  split
  · exact .refl d
  · split
    · exact bump _ _ _
    · exact ⟨rfl, rfl, rfl⟩

theorem markBad (d : Device) (h : Nat) (x : Handle) : ReadKeep d (d.markBad h x) := by
  unfold Device.markBad
  split
  · exact .refl d
  · dsimp only
    refine ReadKeep.trans ?_ (notify _ _ _ _ _ _ _ _)
    refine ReadKeep.trans ?_ (bump _ _ _)
    refine ReadKeep.trans ?_ (err _ _ _ _)
    exact ⟨rfl, rfl, rfl⟩

theorem readWord (d : Device) (w n : Nat) : ReadKeep d (d.readWord w n).2 := by
  have hflag : ReadKeep d (if Tbl.get 0#2 d.mem.m.poison w = 1#2 ∨ Tbl.get 0#2 d.mem.m.poison w = 2#2 then d.bump (key 0x8010 5) 1
      else d) := ReadKeep.ite (bump _ _ _) (.refl d)
  unfold Device.readWord
  dsimp only
  split
  · exact hflag
  · exact (hflag.trans (bump _ _ _)).trans (queueScrub _ _ _)
  · exact ((hflag.trans (bump _ _ _)).trans (err _ _ _ _)).trans (queueScrub _ _ _)

theorem readWords (d : Device) (w n : Nat) : ReadKeep d (d.readWords w n).2 := by
  induction n generalizing d w with
  | zero => exact .refl d
  | succ n ih =>
    unfold Device.readWords
    exact (readWord d w 0).trans (ih _ _)

theorem readH (d : Device) (h o n : Nat) : ReadKeep d (d.readH h o n).2 := by
  unfold Device.readH
  split
  · exact .refl d
  · dsimp only
    split
    · exact readWords _ _ _
    · split
      · exact (readWords _ _ _).trans (markBad _ _ _)
      · exact readWords _ _ _

theorem readRow (d : Device) (k u r : Nat) : ReadKeep d (d.readRow k u r).2 := by
  unfold Device.readRow
  split
  · exact readH _ _ _ _
  · exact readWords _ _ _

theorem markRow (d : Device) (k u r : Nat) : ReadKeep d (d.markRow k u r) := by
  unfold Device.markRow
  split
  · exact ReadKeep.ite (markBad _ _ _) (.refl d)
  · exact .refl d

end ReadKeep

/-! ### What a read delivers -/

theorem readWords_fst (d : Device) (wa n : Nat) : (d.readWords wa n).1 = (List.range n).map (fun i => d.peek (wa + i)) := by
  induction n generalizing d wa with
  | zero => rfl
  | succ n ih =>
    unfold Device.readWords
    dsimp only
    rw [ih, List.range_succ_eq_map, List.map_cons, List.map_map, readWord_fst]
    refine congrArg (List.cons _) (List.map_congr_left fun i _ => ?_)
    rw [Device.peek_of_m (Calm.readWord d wa 0).m]
    show d.peek (wa + 1 + i) = d.peek (wa + (i + 1))
    rw [Nat.add_assoc, Nat.add_comm 1 i]

/-- A Bad handle's words are poisoned, every other reads as it stands. -/
theorem readH_fst {d : Device} {h : Nat} {y : Handle} (hy : d.handle? h = some y) (off n : Nat) : (d.readH h off n).1 =
    (List.range n).map (fun i => ⟨(d.peek (y.addr off / 4 + i)).w, (d.peek (y.addr off / 4 + i)).poison || y.bad⟩) := by
  unfold Device.readH
  rw [hy]
  dsimp only
  split
  · next hbad =>
    rw [readWords_fst, List.map_map]
    refine List.map_congr_left fun i _ => ?_
    rw [hbad, Bool.or_true]
    rfl
  · next hbad =>
    have hgood : y.bad = false := by simpa using hbad
    have hwords : (d.readWords (y.addr off / 4) n).1 = (List.range n).map (fun i =>
        ⟨(d.peek (y.addr off / 4 + i)).w, (d.peek (y.addr off / 4 + i)).poison || y.bad⟩) := by
      rw [readWords_fst]
      refine List.map_congr_left fun i _ => ?_
      rw [hgood, Bool.or_false]
    split <;> exact hwords

/-- The handle found for a row covers it. -/
theorem handleOfRow_spec {d : Device} {k u row h : Nat} {y : Handle} (hh : d.handleOfRow k u row = some (h, y)) :
    y.cluster = k ∧ y.unit = u ∧ y.base ≤ row := by
  have hcond := List.find?_some hh
  simp only [Bool.and_eq_true, decide_eq_true_eq] at hcond
  obtain ⟨⟨hk, hu, hbase, -⟩, -⟩ := hcond
  exact ⟨hk, hu, hbase⟩

/-- A row's bytes under the handle that covers it. -/
theorem addr_of_row {y : Handle} {row : Nat} (h : y.base ≤ row) : y.addr (64 * (row - y.base)) = rowAddr y.cluster y.unit row := by
  unfold Handle.addr rowAddr
  have hrow : row * 64 = y.base * 64 + 64 * (row - y.base) := by omega
  rw [hrow, Nat.add_assoc]

theorem readRow_none {d : Device} {k u row : Nat} (h : d.handleOfRow k u row = none) :
    (d.readRow k u row).1 = (List.range 16).map (fun i => d.peek (rowAddr k u row / 4 + i)) := by
  unfold Device.readRow
  rw [h]
  exact readWords_fst _ _ _

theorem readRow_handle {d : Device} {k u row h : Nat} {y : Handle} (hh : d.handleOfRow k u row = some (h, y))
    (hy : d.handle? h = some y) : (d.readRow k u row).1 = (List.range 16).map (fun i =>
      ⟨(d.peek (rowAddr k u row / 4 + i)).w, (d.peek (rowAddr k u row / 4 + i)).poison || y.bad⟩) := by
  obtain ⟨hk, hu, hbase⟩ := handleOfRow_spec hh
  unfold Device.readRow
  rw [hh]
  dsimp only
  rw [readH_fst hy, addr_of_row hbase, hk, hu]

/-! ### A window that closes -/

/-- The block without a window of its list. -/
def Device.dropWindow (d : Device) (w : Window) : Device :=
  d.setWindows (d.mem.windows.filter (fun x => !decide (x.cluster = w.cluster ∧ x.tile = w.tile ∧ x.row = w.row)))

theorem closeWindow_eq (d : Device) (w : Window) : d.closeWindow w =
    let r := (d.dropWindow w).readRow w.cluster (13 + w.tile) w.row
    let got := w.asks.map (fun a => (⟨a.1, a.2, rowAddr w.cluster (13 + w.tile) w.row / 64, r.1⟩ : RowGot))
    ({ r.2 with mem := { r.2.mem with combined := r.2.mem.combined ++ got } }).send
      (.combined (tileMask (w.asks.map Prod.fst)) (r.1.map (fun (x : RWord) => x.w)) (r.1.map (fun (x : RWord) => x.poison))) := rfl

/-- A closed window: its list, the packet and the rows delivered. -/
theorem closeWindow_spec (d : Device) (w : Window) : ∃ l,
    let ws := ((d.dropWindow w).readRow w.cluster (13 + w.tile) w.row).1
    (d.closeWindow w).mem.windows = (d.dropWindow w).mem.windows ∧
    (d.closeWindow w).out = d.out ++ l ++
      [.combined (tileMask (w.asks.map Prod.fst)) (ws.map (fun x => x.w)) (ws.map (fun x => x.poison))] ∧
    (d.closeWindow w).mem.combined = d.mem.combined ++
      w.asks.map (fun a => ⟨a.1, a.2, rowAddr w.cluster (13 + w.tile) w.row / 64, ws⟩) := by
  have hkeep := ReadKeep.readRow (d.dropWindow w) w.cluster (13 + w.tile) w.row
  obtain ⟨l, hl⟩ := (Calm.readRow (d.dropWindow w) w.cluster (13 + w.tile) w.row).out
  rw [closeWindow_eq]
  generalize (d.dropWindow w).readRow w.cluster (13 + w.tile) w.row = r at hkeep hl ⊢
  refine ⟨l, hkeep.windows, ?_, ?_⟩
  · exact congrArg (· ++ [_]) hl
  · exact congrArg (· ++ _) hkeep.combined

theorem window_found {d : Device} {k tile row : Nat} {w : Window} (h : d.window? k tile row = some w) :
    w.cluster = k ∧ w.tile = tile ∧ w.row = row := by
  simpa using List.find?_some h

theorem window_dropped (d : Device) (w : Window) : (d.dropWindow w).window? w.cluster w.tile w.row = none := by
  refine List.find?_eq_none.mpr fun x hx => ?_
  have hkept := (List.mem_filter.mp hx).2
  simpa only [Bool.not_eq_true', decide_eq_false_iff_not, decide_eq_true_eq] using hkept

theorem window_of_windows {d e : Device} (h : e.mem.windows = d.mem.windows) (k tile row : Nat) :
    e.window? k tile row = d.window? k tile row := by
  unfold Device.window?
  rw [h]

/-! ### Patrol -/

theorem reach_mem (d : Device) (u : Nat) : (d.reach u).mem = d.mem := by
  unfold Device.reach Device.advance
  split <;> rfl

/-- What a patrol read of a row or an entry leaves: the stored bytes, where the patrols stand and their requests. -/
structure PatrolKeep (d e : Device) : Prop where
  raw : ∀ wa, e.mem.m.raw wa = d.mem.m.raw wa
  patrol : e.mem.patrol = d.mem.patrol
  passes : e.mem.passes = d.mem.passes
  asked : e.mem.asked = d.mem.asked

theorem PatrolKeep.trans {d e g : Device} (h : PatrolKeep d e) (k : PatrolKeep e g) : PatrolKeep d g :=
  ⟨fun wa => (k.raw wa).trans (h.raw wa), k.patrol.trans h.patrol, k.passes.trans h.passes, k.asked.trans h.asked⟩

theorem PatrolKeep.of_read {d e : Device} (h : Calm d e) (k : ReadKeep d e) : PatrolKeep d e :=
  ⟨fun wa => by rw [h.m], h.patrol, h.passes, k.asked⟩

/-- Errors that come into stored codewords change no stored data bit. -/
theorem PatrolKeep.strike (d : Device) (wa : Nat) (soft : List (Nat × BitVec 39)) : PatrolKeep d (d.strike wa soft) := by
  unfold Device.strike
  induction soft generalizing d with
  | nil => exact ⟨fun _ => rfl, rfl, rfl, rfl⟩
  | cons x soft ih =>
    rw [List.foldl_cons]
    refine PatrolKeep.trans ?_ (ih _)
    split <;> exact ⟨fun _ => rfl, rfl, rfl, rfl⟩

/-- A fold that carries a flag beside the block. -/
theorem foldl_fst_keeps {α : Type} {R : Device → Device → Prop} (hrefl : ∀ d, R d d)
    (htrans : ∀ {d e g}, R d e → R e g → R d g) {f : Device × Bool → α → Device × Bool} (h : ∀ a x, R a.1 (f a x).1)
    (l : List α) (a : Device × Bool) : R a.1 (l.foldl f a).1 := by
  induction l generalizing a with
  | nil => exact hrefl _
  | cons x l ih => exact htrans (h a x) (ih _)

/-- One word of a patrolled row is read. -/
def patrolWord (wa : Nat) (a : Device × Bool) (i : Nat) : Device × Bool :=
  ((a.1.readWord (wa + i) 1).2, a.2 || (a.1.readWord (wa + i) 1).1.poison)

theorem PatrolKeep.patrolWords (d : Device) (wa : Nat) : PatrolKeep d (d.patrolWords wa).1 := by
  have hword : ∀ (a : Device × Bool) (i : Nat), PatrolKeep a.1 (patrolWord wa a i).1 := fun a i => by
    unfold patrolWord
    dsimp only
    exact .of_read (Calm.readWord _ _ _) (ReadKeep.readWord _ _ _)
  have hfold : d.patrolWords wa = (List.range 16).foldl (patrolWord wa) (d, false) := by
    unfold Device.patrolWords patrolWord
    rfl
  have hkeep := foldl_fst_keeps (R := PatrolKeep) (f := patrolWord wa) (fun _ => .of_read (.refl _) (.refl _)) PatrolKeep.trans
    hword (List.range 16) (d, false)
  rw [← hfold] at hkeep
  exact hkeep

theorem PatrolKeep.patrolScratch (d : Device) (k u row : Nat) (soft : List (Nat × BitVec 39)) :
    PatrolKeep d (d.patrolScratch k u row soft) := by
  have hread := (PatrolKeep.strike d (rowAddr k u row / 4) soft).trans
    (PatrolKeep.patrolWords (d.strike (rowAddr k u row / 4) soft) (rowAddr k u row / 4))
  have hmark : ∀ e : Device, Calm e (e.markRow k u row) := fun e => by
    unfold Device.markRow
    split
    · exact Calm.ite (Calm.markBad _ _ _) (.refl _)
    · exact .refl _
  unfold Device.patrolScratch
  dsimp only
  split
  · exact hread.trans (.of_read (hmark _) (ReadKeep.markRow _ _ _ _))
  · exact hread

/-- An entry without errors costs nothing. -/
theorem PatrolKeep.patrolTable_clean (d : Device) (u : PatrolUnit) (n : Nat) : PatrolKeep d (d.patrolTable u n []) := by
  cases u <;> exact ⟨fun _ => rfl, rfl, rfl, rfl⟩

theorem nextRow_spec (d : Device) (u : PatrolUnit) (bank : Nat) : let n := d.patrolRow u bank + 1
    (d.nextRow u bank).patrolRow u bank = (if n < patrolRows u then n else 0) ∧
    (d.nextRow u bank).patrolPasses u bank = d.patrolPasses u bank + (if n < patrolRows u then 0 else 1) ∧
    (d.nextRow u bank).mem.m = d.mem.m ∧ (d.nextRow u bank).mem.asked = d.mem.asked := by
  intro n
  unfold Device.nextRow
  dsimp only
  split
  · exact ⟨Tbl.get_set_same 0 d.mem.patrol (patrolKey u bank) (d.patrolRow u bank + 1), rfl, rfl, rfl⟩
  · exact ⟨Tbl.get_set_same 0 d.mem.patrol (patrolKey u bank) 0,
      Tbl.get_set_same 0 d.mem.passes (patrolKey u bank) (d.patrolPasses u bank + 1), rfl, rfl⟩

/-- The block once the next row of a bank is asked for. -/
def Device.askRow (d : Device) (u : PatrolUnit) (bank : Nat) : Device :=
  let e := d.reachCyc (d.patrolDue u bank)
  { e with mem := { e.mem with asked := Tbl.put e.mem.asked (patrolKey u bank) (d.patrolDue u bank) } }

theorem askRow_mem (d : Device) (u : PatrolUnit) (bank : Nat) : (d.askRow u bank).mem =
    { d.mem with asked := Tbl.put d.mem.asked (patrolKey u bank) (d.patrolDue u bank) } := by
  unfold Device.askRow Device.reachCyc
  dsimp only
  rw [reach_mem]

/-- The read of a row or an entry of the unit. -/
def Device.patrolOne (d : Device) (u : PatrolUnit) (row : Nat) (soft : List (Nat × BitVec 39)) : Device :=
  match u with
  | .scratch k n => d.patrolScratch k.val n.val row soft
  | _ => d.patrolTable u row soft

theorem PatrolKeep.patrolOne (d : Device) (u : PatrolUnit) (row : Nat) (soft : List (Nat × BitVec 39))
    (h : (∃ k n, u = .scratch k n) ∨ soft = []) : PatrolKeep d (d.patrolOne u row soft) := by
  unfold Device.patrolOne
  rcases h with ⟨k, n, rfl⟩ | rfl
  · exact PatrolKeep.patrolScratch _ _ _ _ _
  · split
    · exact PatrolKeep.patrolScratch _ _ _ _ _
    · exact PatrolKeep.patrolTable_clean _ _ _

theorem patrolRead_eq {u : PatrolUnit} {bank : Fin 64} {soft : List (Nat × BitVec 39)} {s : State} (ha : s.alive = true)
    (hon : s.dev.patrolOn u = true) : exec (.patrolRead u bank soft []) s = s.goes (((s.dev.askRow u bank.val).patrolOne u
      ((s.dev.askRow u bank.val).patrolRow u bank.val * 64 + bank.val) soft).nextRow u bank.val) := by
  unfold exec execPatrolRead
  refine lift_runs ha ?_
  rw [if_neg (by rw [hon]; decide)]
  dsimp only [List.foldl_nil]
  rw [ite_self]
  cases u <;> rfl

/-! ### The obligation -/

/-- Settles O47. -/
theorem scratchpad : Obligations.Scratchpad := by
  unfold Obligations.Scratchpad
  refine ⟨fun d wa x => ?write, fun d wa hp => ⟨fun i hi hf => ?one, fun i j hi hj hf => ?two⟩, fun k tile row s w ha hw => ?window,
    fun k unit s wa bad q ha hq => ?scrub, fun u bank soft s ha hon hsoft => ?patrol⟩
  case write =>
    obtain ⟨hm, hscrub⟩ := writeWords_one d wa x
    exact ⟨peek_write_same hm, fun wb hne => peek_write_other hm hne, fun u e he hu => hscrub e (hu ▸ he)⟩
  case one => exact ⟨peek_corrected hp hi hf, readWord_corrected hp (by rw [hf]; exact eccRead_one i hi)⟩
  case two =>
    have hpoison : (d.peek wa).poison = true := peek_poisoned (by rw [hf]; exact eccRead_two i hi j hj)
    exact ⟨hpoison, by rw [readWord_fst]; exact hpoison⟩
  case window =>
    intro d at_
    obtain ⟨hk, ht, hr⟩ := window_found hw
    obtain ⟨l, hwin, hout, hcomb⟩ := closeWindow_spec (d.reachCyc (w.opened + d.reg (key 0x8000 2))) w
    have hmem : (d.reachCyc (w.opened + d.reg (key 0x8000 2))).mem = d.mem := reach_mem _ _
    generalize hu : d.reachCyc (w.opened + d.reg (key 0x8000 2)) = g at hwin hout hcomb hmem
    have hgout : g.out = d.out := by
      rw [← hu]
      exact (reach_frame _ _).2.2.2.2.2
    have hpeek : ∀ a, (g.dropWindow w).peek a = d.peek a := fun a => Device.peek_of_m (congrArg MemS.m hmem) a
    have hhandles : (g.dropWindow w).mem.handles = d.mem.handles := by
      rw [← hmem]
      rfl
    have hlost : (g.dropWindow w).mem.lost = d.mem.lost := by
      rw [← hmem]
      rfl
    have hrow : (g.dropWindow w).handleOfRow w.cluster (13 + w.tile) w.row = d.handleOfRow w.cluster (13 + w.tile) w.row := by
      unfold Device.handleOfRow
      rw [hhandles]
    have hhandle : ∀ h, (g.dropWindow w).handle? h = d.handle? h := fun h => by
      unfold Device.handle?
      rw [hlost, hhandles]
    refine ⟨g.closeWindow w, l, ((g.dropWindow w).readRow w.cluster (13 + w.tile) w.row).1, ?_, ?_, ?_, ?_, ?_, fun hnone => ?_,
      fun h y hh hy => ?_⟩
    · unfold exec execCombineWindowClose
      refine lift_runs ha ?_
      rw [hw]
      exact congrArg (fun e => Device.closeWindow e w) hu
    · rw [window_of_windows hwin, ← hk, ← ht, ← hr]
      exact window_dropped g w
    · exact (Calm.closeWindow g w).m.trans (congrArg MemS.m hmem)
    · rw [hout, hgout]
    · rw [hcomb, hmem]
    · rw [readRow_none (hrow.trans hnone)]
      exact List.map_congr_left fun i _ => hpeek _
    · rw [readRow_handle (hrow.trans hh) ((hhandle h).trans hy)]
      exact List.map_congr_left fun i _ => by rw [hpeek]
  case scrub =>
    intro d e u
    have hm : e.mem.m = d.mem.m := (Calm.closeRows d (4 * wa) 4).m
    have hpeek : ∀ a, e.peek a = d.peek a := fun a => Device.peek_of_m hm a
    let q' := (Tbl.get [] e.mem.scrub u).filter (fun x => decide (x.1 ≠ wa))
    have hcells : ((e.setScrub u q').scrubWord wa bad).mem.m = d.mem.m.write wa ⟨(d.peek wa).w, bad || (d.peek wa).poison⟩ := by
      rw [← hm, ← hpeek wa]
      rfl
    refine ⟨(e.setScrub u q').scrubWord wa bad, ?_, rfl, ?_, peek_write_same hcells, ?_, fun wb hne => peek_write_other hcells hne, ?_⟩
    · unfold exec execScrubWriteback
      refine lift_runs ha ?_
      dsimp only
      rw [hq]
    · exact Tbl.get_set_same _ _ _ _
    · rw [hcells]
      exact (Mem.raw_write_same _ _ _).2.2
    · exact Device.ctr_bump_same _ _ _
  case patrol =>
    intro d n
    have hmem := askRow_mem d u bank.val
    have hrow : (d.askRow u bank.val).patrolRow u bank.val = d.patrolRow u bank.val := by
      unfold Device.patrolRow
      rw [hmem]
    have hpass : (d.askRow u bank.val).patrolPasses u bank.val = d.patrolPasses u bank.val := by
      unfold Device.patrolPasses
      rw [hmem]
    have hraw : ∀ wa, (d.askRow u bank.val).mem.m.raw wa = d.mem.m.raw wa := fun wa => by rw [hmem]
    have hasked : (d.askRow u bank.val).mem.asked = Tbl.put d.mem.asked (patrolKey u bank.val) (d.patrolDue u bank.val) :=
      congrArg MemS.asked hmem
    have hexec := patrolRead_eq (bank := bank) (soft := soft) ha hon
    have hkeep := PatrolKeep.patrolOne (d.askRow u bank.val) u ((d.askRow u bank.val).patrolRow u bank.val * 64 + bank.val) soft hsoft
    generalize (d.askRow u bank.val).patrolOne u ((d.askRow u bank.val).patrolRow u bank.val * 64 + bank.val) soft = g
      at hexec hkeep
    have hgrow : g.patrolRow u bank.val = d.patrolRow u bank.val :=
      (congrArg (fun t => Tbl.get 0 t (patrolKey u bank.val)) hkeep.patrol).trans hrow
    have hgpass : g.patrolPasses u bank.val = d.patrolPasses u bank.val :=
      (congrArg (fun t => Tbl.get 0 t (patrolKey u bank.val)) hkeep.passes).trans hpass
    obtain ⟨h1, h2, h3, h4⟩ := nextRow_spec g u bank.val
    rw [hgrow] at h1 h2
    rw [hgpass] at h2
    refine ⟨g.nextRow u bank.val, hexec, ?_, h1, h2, fun wa => ?_⟩
    · rw [h4, hkeep.asked, hasked]
      exact Tbl.find?_put_same _ _ _
    · rw [h3, hkeep.raw, hraw]

end Sys2Proof.Machine
end

section
/-!
SUPPORT. Adapters (R268–R270): what an installation, a version that becomes current and a removal leave; and the answers of the
casting objects (R328).
-/
namespace Sys2Proof.Machine

/-! ### Answers of the casting objects -/

section
variable {x : WriteRule} {d u : Device} {r : Req} {v : List Byte}

theorem ownCodes_eq (x : WriteRule) (d : Device) (r : Req) (v : List Byte) : x.ownCodes.run d r v =
    if (x.run d r v).payload.isEmpty then { x.run d r v with payload := castCode (x.run d r v).status } else x.run d r v := rfl

/-- A write done has no payload. -/
theorem ownCodes_done (h : x.run d r v = done u) : x.ownCodes.run d r v = ⟨0, [], u⟩ := by
  rw [ownCodes_eq, h]
  rfl

/-- A refusal with the object's own code keeps it. -/
theorem ownCodes_own {c : Nat} (h : x.run d r v = refuseOwn u c) : x.ownCodes.run d r v = ⟨0x0D, [BitVec.ofNat 8 c], u⟩ := by
  rw [ownCodes_eq, h]
  rfl

end

/-! ### Version slots -/

@[simp] theorem Device.version_setVersion_same (d : Device) (v : Nat) (x : Version) : (d.setVersion v x).version v = x :=
  Tbl.get_set_same _ _ _ _

theorem Device.version_setVersion_other (d : Device) {v w : Nat} (x : Version) (h : w ≠ v) :
    (d.setVersion v x).version w = d.version w := Tbl.get_set_other _ _ _ h

theorem Device.version_of_cast {d e : Device} (h : e.cast.versions = d.cast.versions) (v : Nat) : e.version v = d.version v := by
  unfold Device.version
  rw [h]

theorem Device.adapter_of_cast {d e : Device} (h : e.cast.adapters = d.cast.adapters) (n : Nat) : e.adapter n = d.adapter n := by
  unfold Device.adapter
  rw [h]

@[simp] theorem Device.adapter_setAdapter_same (d : Device) (n : Nat) (x : Adapter) : (d.setAdapter n x).adapter n = x :=
  Tbl.get_set_same _ _ _ _

theorem Device.adapter_setAdapter_other (d : Device) {n k : Nat} (x : Adapter) (h : k ≠ n) :
    (d.setAdapter n x).adapter k = d.adapter k := Tbl.get_set_other _ _ _ h

theorem Device.startRelease_cast (d : Device) (h : Nat) : (d.startRelease h).cast = d.cast := by
  unfold Device.startRelease
  split <;> rfl

/-- A freed version's slot is free, every other version stays. -/
theorem freeVersion_versions (d : Device) (v : Nat) :
    (d.freeVersion v).cast.versions = Tbl.set Version.free d.cast.versions v Version.free := by
  have hcast := Device.cast_foldl Device.startRelease_cast (((d.version v).hA ++ (d.version v).hB).map (·.2)) d
  unfold Device.freeVersion
  dsimp only [Device.setVersion, Device.bump]
  rw [hcast]

@[simp] theorem freeVersion_same (d : Device) (v : Nat) : (d.freeVersion v).version v = Version.free := by
  unfold Device.version
  rw [freeVersion_versions]
  exact Tbl.get_set_same _ _ _ _

theorem freeVersion_other (d : Device) {v w : Nat} (h : w ≠ v) : (d.freeVersion v).version w = d.version w := by
  unfold Device.version
  rw [freeVersion_versions]
  exact Tbl.get_set_other _ _ _ h

/-- Freed one after the other, every version of a list is free. -/
theorem freeVersions_free (vs : List (Nat × Version)) (d : Device) :
    (∀ w, d.version w = Version.free → (vs.foldl (fun d e => d.freeVersion e.1) d).version w = Version.free) ∧
    ∀ e ∈ vs, (vs.foldl (fun d e => d.freeVersion e.1) d).version e.1 = Version.free := by
  induction vs generalizing d with
  | nil => exact ⟨fun _ h => h, fun e he => absurd he List.not_mem_nil⟩
  | cons a vs ih =>
    obtain ⟨hfree, hlisted⟩ := ih (d.freeVersion a.1)
    have ha : ∀ w, w = a.1 ∨ d.version w = Version.free → (d.freeVersion a.1).version w = Version.free := fun w hw => by
      by_cases hwa : w = a.1
      · rw [hwa, freeVersion_same]
      · rw [freeVersion_other _ hwa]
        exact hw.resolve_left hwa
    refine ⟨fun w hw => hfree w (ha w (.inr hw)), fun e he => ?_⟩
    rcases List.mem_cons.mp he with rfl | he
    · exact hfree _ (ha _ (.inl rfl))
    · exact hlisted e he

/-! ### What leaves versions and adapters -/

/-- Versions and adapters stay. -/
structure AdapterKeep (d e : Device) : Prop where
  versions : e.cast.versions = d.cast.versions
  adapters : e.cast.adapters = d.cast.adapters

namespace AdapterKeep

theorem refl (d : Device) : AdapterKeep d d := ⟨rfl, rfl⟩

theorem trans {d e g : Device} (h : AdapterKeep d e) (k : AdapterKeep e g) : AdapterKeep d g :=
  ⟨k.versions.trans h.versions, k.adapters.trans h.adapters⟩

theorem of_calm {d e : Device} (h : Calm d e) : AdapterKeep d e := ⟨by rw [h.cast], by rw [h.cast]⟩

theorem foldl {α : Type} {f : Device → α → Device} (h : ∀ d a, AdapterKeep d (f d a)) (l : List α) (d : Device) :
    AdapterKeep d (l.foldl f d) := by
  induction l generalizing d with
  | nil => exact .refl d
  | cons a l ih => exact (h d a).trans (ih _)

theorem writeH (d : Device) (h o : Nat) (ws : List RWord) : AdapterKeep d (d.writeH h o ws) := by
  unfold Device.writeH
  split
  · exact .refl d
  · next x _ =>
    have hcast : ((d.closeRows (x.addr o) (4 * ws.length)).writeWords (x.addr o / 4) ws).cast = d.cast :=
      (Device.cast_writeWords _ _ _).trans (Calm.closeRows _ _ _).cast
    exact ⟨congrArg CastS.versions hcast, congrArg CastS.adapters hcast⟩

theorem putFactor (d : Device) (i h : Nat) (bs : List Byte) : AdapterKeep d (d.putFactor i h bs) :=
  (AdapterKeep.writeH d h 0 _).trans ⟨rfl, rfl⟩

theorem normCheck (d : Device) (n t : Nat) (m : Maq) (old new : Tbl F32) (l : LayerEnt) : AdapterKeep d (d.normCheck n t m old new l) := by
  unfold Device.normCheck
  dsimp only
  split
  · exact .of_calm ((Calm.bump _ _ _).trans (Calm.notify _ _ _ _ _ _ _ _))
  · exact .refl d

end AdapterKeep

/-! ### A version that becomes current -/

/-- The factors of a whole version stand in their records, and its norms are compared with those of the version before. -/
def Device.placeVersion (d : Device) (v : Nat) (m : Maq) : Device :=
  let x := d.version v
  let a := d.adapter x.adapter
  let d := (d.factorSpots m).foldl (fun d p =>
    let k := p.1.layer * 192 + p.2
    (d.putFactor a.inst (Tbl.get 0 x.hA k) (Version.recA x p.1)).putFactor a.inst (Tbl.get 0 x.hB k) (Version.recB x p.1)) d
  let nus := (adapterLayers m).foldl (fun t l => Tbl.set 0#32 t l.layer (Version.norm x l)) ([] : Tbl F32)
  if a.cur = 0 then d else (adapterLayers m).foldl (fun d l => d.normCheck x.adapter a.tenant m (d.version a.cur).nus nus l) d

theorem AdapterKeep.placeVersion (d : Device) (v : Nat) (m : Maq) : AdapterKeep d (d.placeVersion v m) := by
  unfold Device.placeVersion
  dsimp only
  split
  · exact AdapterKeep.foldl (fun d p => (AdapterKeep.putFactor d _ _ _).trans (AdapterKeep.putFactor _ _ _ _)) _ _
  · refine AdapterKeep.trans ?_ (AdapterKeep.foldl (fun d l => AdapterKeep.normCheck _ _ _ _ _ _ _) _ _)
    exact AdapterKeep.foldl (fun d p => (AdapterKeep.putFactor d _ _ _).trans (AdapterKeep.putFactor _ _ _ _)) _ _

/-- A whole version becomes the current one, and the one before retires. -/
def Device.makeCurrent (d : Device) (v : Nat) (m : Maq) : Device :=
  let x := d.version v
  let a := d.adapter x.adapter
  let nus := (adapterLayers m).foldl (fun t l => Tbl.set 0#32 t l.layer (Version.norm x l)) ([] : Tbl F32)
  let nu := (adapterLayers m).foldl (fun m l => f32MaxOp m (Tbl.get 0#32 nus l.layer)) 0#32
  let d := (d.placeVersion v m).setVersion v { x with st := 2, nu := nu, nus := nus, raw := [], got := [] }
  let d := (d.setAdapter x.adapter { a with cur := v }).bump (key 0x7070 5) 1
  if a.cur = 0 then d
  else
    let o := d.version a.cur
    let d := d.setVersion a.cur { o with st := 3 }
    if o.pins = 0 then d.freeVersion a.cur else d

theorem versionCurrent_eq {slot : BitVec 12} {m : Maq} {s : State} (ha : s.alive = true)
    (hm : (s.dev.inst (s.dev.adapter (s.dev.version slot.toNat).adapter).inst).maq = some m)
    (hst : (s.dev.version slot.toNat).st = 1) (hwhole : ∀ l ∈ adapterLayers m,
      gotBytes (Tbl.get [] (s.dev.version slot.toNat).got l.layer) = l.adapterBytes (s.dev.version slot.toNat).rank) :
    exec (.adapterVersionCurrent slot) s = s.goes (s.dev.makeCurrent slot.toNat m) := by
  unfold exec execAdapterVersionCurrent
  refine lift_runs ha ?_
  dsimp only
  rw [hm]
  dsimp only
  have hall : (adapterLayers m).all (fun l => decide (gotBytes (Tbl.get [] (s.dev.version slot.toNat).got l.layer) =
      l.adapterBytes (s.dev.version slot.toNat).rank)) = true := List.all_eq_true.mpr fun l hl => decide_eq_true (hwhole l hl)
  rw [if_neg (by rw [hst, hall]; decide)]
  rfl

/-- The slots and the adapter of a version made current. -/
theorem makeCurrent_spec (d : Device) (v : Nat) (m : Maq) (hcur : (d.adapter (d.version v).adapter).cur ≠ v) :
    let x := d.version v
    let a := d.adapter x.adapter
    let u := d.makeCurrent v m
    (u.adapter x.adapter).cur = v ∧ (u.version v).st = 2 ∧ (u.version v).got = [] ∧
    (a.cur ≠ 0 → (d.version a.cur).pins ≠ 0 → u.version a.cur = { d.version a.cur with st := 3 }) ∧
    (a.cur ≠ 0 → (d.version a.cur).pins = 0 → u.version a.cur = Version.free) := by
  intro x a u
  have hkeep := AdapterKeep.placeVersion d v m
  let nus := (adapterLayers m).foldl (fun t l => Tbl.set 0#32 t l.layer (Version.norm x l)) ([] : Tbl F32)
  let nu := (adapterLayers m).foldl (fun m l => f32MaxOp m (Tbl.get 0#32 nus l.layer)) 0#32
  let y : Version := { x with st := 2, nu := nu, nus := nus, raw := [], got := [] }
  let g := (((d.placeVersion v m).setVersion v y).setAdapter x.adapter { a with cur := v }).bump (key 0x7070 5) 1
  have hgv : g.version v = y := Device.version_setVersion_same _ _ _
  have hga : g.adapter x.adapter = { a with cur := v } := Device.adapter_setAdapter_same _ _ _
  have hgo : g.version a.cur = d.version a.cur :=
    (Device.version_setVersion_other _ _ hcur).trans (Device.version_of_cast hkeep.versions _)
  have hu : u = if a.cur = 0 then g else if (g.version a.cur).pins = 0 then
      (g.setVersion a.cur { g.version a.cur with st := 3 }).freeVersion a.cur
    else g.setVersion a.cur { g.version a.cur with st := 3 } := rfl
  clear_value g
  have hvc : v ≠ a.cur := fun h => hcur h.symm
  by_cases h0 : a.cur = 0
  · rw [if_pos h0] at hu
    rw [hu, hga, hgv]
    exact ⟨rfl, rfl, rfl, fun h => absurd h0 h, fun h => absurd h0 h⟩
  · rw [if_neg h0, hgo] at hu
    by_cases hp : (d.version a.cur).pins = 0
    · rw [if_pos hp] at hu
      rw [hu, freeVersion_other _ hvc, Device.version_setVersion_other _ _ hvc, hgv, freeVersion_same,
        Device.adapter_of_cast (EndFrame.freeVersion _ _).adapters]
      exact ⟨congrArg Adapter.cur hga, rfl, rfl, fun _ h => absurd hp h, fun _ _ => rfl⟩
    · rw [if_neg hp] at hu
      rw [hu, Device.version_setVersion_other _ _ hvc, hgv, Device.version_setVersion_same]
      exact ⟨congrArg Adapter.cur hga, rfl, rfl, fun _ _ => rfl, fun _ h => absurd h hp⟩

/-! ### Installation -/

/-- An installation past the checks of its adapter: a version slot, then its factors. -/
def Device.installVersion (d : Device) (t : Nat) (v : List Byte) (m : Maq) : Answer :=
  match lowestFree (Tbl.keys d.cast.versions) 4095 1 with
  | none => refuseOwn d cTable
  | some s =>
    match d.allocFactors t m with
    | .error .quota => refuseOwn d cQuota
    | .error .space => refuseOwn d cSpace
    | .ok x =>
      done ((x.2.setAdapter (bits (wordAt v 0) 11 0)
        { d.adapter (bits (wordAt v 0) 11 0) with bound := true, inst := bits (wordAt v 0) 21 12, tenant := t }).setVersion s
        { Version.free with adapter := bits (wordAt v 0) 11 0, st := 1, rank := bits (wordAt v 0) 28 22,
                            alpha := BitVec.ofNat 32 (wordAt v 1), hA := x.1.1, hB := x.1.2 })

section
variable {d : Device} {t k : Nat} {v : List Byte} {m : Maq}

theorem installVersion_full (h : lowestFree (Tbl.keys d.cast.versions) 4095 1 = none) : d.installVersion t v m = refuseOwn d cTable := by
  unfold Device.installVersion
  rw [h]

theorem installVersion_quota (h : lowestFree (Tbl.keys d.cast.versions) 4095 1 = some k) (hf : d.allocFactors t m = .error .quota) :
    d.installVersion t v m = refuseOwn d cQuota := by
  unfold Device.installVersion
  rw [h]
  dsimp only
  rw [hf]

theorem installVersion_space (h : lowestFree (Tbl.keys d.cast.versions) 4095 1 = some k) (hf : d.allocFactors t m = .error .space) :
    d.installVersion t v m = refuseOwn d cSpace := by
  unfold Device.installVersion
  rw [h]
  dsimp only
  rw [hf]

theorem installVersion_placed (h : lowestFree (Tbl.keys d.cast.versions) 4095 1 = some k) {y : (Tbl Nat × Tbl Nat) × Device}
    (hf : d.allocFactors t m = .ok y) : d.installVersion t v m =
      done ((y.2.setAdapter (bits (wordAt v 0) 11 0)
        { d.adapter (bits (wordAt v 0) 11 0) with bound := true, inst := bits (wordAt v 0) 21 12, tenant := t }).setVersion k
        { Version.free with adapter := bits (wordAt v 0) 11 0, st := 1, rank := bits (wordAt v 0) 28 22,
                            alpha := BitVec.ofNat 32 (wordAt v 1), hA := y.1.1, hB := y.1.2 }) := by
  unfold Device.installVersion
  rw [h]
  dsimp only
  rw [hf]

end

section
variable {d : Device} {r : Req} {v : List Byte}

/-- The adapter belongs to another tenant, or stands on another of the instances. -/
theorem runAdapterInstall_denied (hin : ¬ (bits (wordAt v 0) 11 0 = 0 ∨ bits (wordAt v 0) 28 22 = 0 ∨ bits (wordAt v 0) 28 22 > 64))
    (hb : (d.adapter (bits (wordAt v 0) 11 0)).bound = true) (ho : (d.adapter (bits (wordAt v 0) 11 0)).tenant ≠ r.tenant.toNat ∨
      (d.adapter (bits (wordAt v 0) 11 0)).inst ≠ bits (wordAt v 0) 21 12) : runAdapterInstall d r v = refuseOwn d cDenied := by
  unfold runAdapterInstall
  dsimp only
  rw [if_neg hin, if_pos ⟨hb, ho⟩]

/-- The adapter is free, or already the writer's where it is installed. -/
theorem runAdapterInstall_own (hin : ¬ (bits (wordAt v 0) 11 0 = 0 ∨ bits (wordAt v 0) 28 22 = 0 ∨ bits (wordAt v 0) 28 22 > 64))
    (ho : (d.adapter (bits (wordAt v 0) 11 0)).bound = false ∨ ((d.adapter (bits (wordAt v 0) 11 0)).tenant = r.tenant.toNat ∧
      (d.adapter (bits (wordAt v 0) 11 0)).inst = bits (wordAt v 0) 21 12)) {m : Maq}
    (hm : (d.inst (bits (wordAt v 0) 21 12)).maq = some m) (hhome : m.extra.serving.home = d.fab.coord) : runAdapterInstall d r v =
      if (adapterLayers m).any (fun l => decide (l.ra < bits (wordAt v 0) 28 22)) then refuseOwn d cRank
      else d.installVersion r.tenant.toNat v m := by
  have hown : ¬ ((d.adapter (bits (wordAt v 0) 11 0)).bound = true ∧ ((d.adapter (bits (wordAt v 0) 11 0)).tenant ≠ r.tenant.toNat ∨
      (d.adapter (bits (wordAt v 0) 11 0)).inst ≠ bits (wordAt v 0) 21 12)) := by
    rintro ⟨hb, hne⟩
    rcases ho with h | ⟨ht, hi⟩
    · exact absurd (h.symm.trans hb) (by decide)
    · exact hne.elim (fun h => h ht) (fun h => h hi)
  unfold runAdapterInstall
  dsimp only
  rw [if_neg hin, if_neg hown, hm]
  dsimp only
  rw [if_neg (Classical.not_not.mpr hhome)]
  rfl

end

/-! ### Records and removal -/

theorem setAdapterCtl_spec (d : Device) (n : Nat) (c : Ctl) : (d.setAdapterCtl n c).adapter n = { d.adapter n with ctl := c } ∧
    ∀ k, k ≠ n → (d.setAdapterCtl n c).adapter k = d.adapter k := by
  have hkeep : (d.setAdapterCtl n c).cast.adapters = (d.setAdapter n { d.adapter n with ctl := c }).cast.adapters := by
    unfold Device.setAdapterCtl
    dsimp only
    split
    · exact (Device.fenceAll_ctl _ _).2.2.2
    · rfl
  exact ⟨(Device.adapter_of_cast hkeep n).trans (Device.adapter_setAdapter_same _ _ _),
    fun k hk => (Device.adapter_of_cast hkeep k).trans (Device.adapter_setAdapter_other _ _ hk)⟩

/-- The versions of adapter `n` that are held. -/
def Device.versionsOf (d : Device) (n : Nat) : List (Nat × Version) :=
  d.cast.versions.filter (fun (e : Nat × Version) => decide (e.2.adapter = n ∧ e.2.st ≠ 0))

/-- The device after the versions of a list are freed and adapter `n` is unbound. -/
def Device.removeAdapter (d : Device) (n : Nat) (vs : List (Nat × Version)) : Device :=
  (vs.foldl (fun d e => d.freeVersion e.1) d).setAdapter n Adapter.reset

section
variable {d : Device} {r : Req} {n : Nat}

theorem runAdapterRemove_unbound (hb : (d.adapter n).bound = false) : runAdapterRemove d r n = refuseOwn d cNotFound := if_pos hb

theorem runAdapterRemove_bound (hb : (d.adapter n).bound = true) : runAdapterRemove d r n =
    if (d.versionsOf n).any (fun e => decide (e.2.pins ≠ 0)) then refuseOwn d cBusy else done (d.removeAdapter n (d.versionsOf n)) :=
  if_neg (by rw [hb]; decide)

/-- A version in use keeps its adapter. -/
theorem runAdapterRemove_pinned (hb : (d.adapter n).bound = true) {e : Nat × Version} (he : e ∈ d.versionsOf n) (hp : e.2.pins ≠ 0) :
    runAdapterRemove d r n = refuseOwn d cBusy :=
  (runAdapterRemove_bound hb).trans (if_pos (List.any_eq_true.mpr ⟨e, he, decide_eq_true hp⟩))

theorem runAdapterRemove_free (hb : (d.adapter n).bound = true) (hp : ∀ e ∈ d.versionsOf n, e.2.pins = 0) :
    runAdapterRemove d r n = done (d.removeAdapter n (d.versionsOf n)) :=
  (runAdapterRemove_bound hb).trans (if_neg fun h => by
    obtain ⟨e, he, hne⟩ := List.any_eq_true.mp h
    exact of_decide_eq_true hne (hp e he))

/-- A removal unbinds the adapter and frees its versions. -/
theorem Device.removeAdapter_spec (d : Device) (n : Nat) (vs : List (Nat × Version)) :
    (d.removeAdapter n vs).adapter n = Adapter.reset ∧ ∀ e ∈ vs, (d.removeAdapter n vs).version e.1 = Version.free :=
  ⟨Device.adapter_setAdapter_same _ _ _, (freeVersions_free vs d).2⟩

end

/-- Settles O46. -/
theorem adapters : Obligations.Adapters := by
  unfold Obligations.Adapters
  intro r s o
  refine ⟨?install, ?current, ?records, setAdapterCtl_spec, ?remove⟩
  case install =>
    intro hw hlen d w n i rank t a reply hn h1 h64
    have hin : ¬ (n = 0 ∨ rank = 0 ∨ rank > 64) := by omega
    have own : ∀ {c : Nat}, runAdapterInstall d r r.payload = refuseOwn d c → reply 0x0D [BitVec.ofNat 8 c] d := fun h =>
      writes_eq hw rfl (ownCodes_own ((sized_run hlen).trans h)) (by decide)
    refine ⟨fun hb ho => own (runAdapterInstall_denied hin hb ho), fun ho m hm hhome => ?_⟩
    have hrun := runAdapterInstall_own hin ho hm hhome
    refine ⟨fun l hl hlt => own (hrun.trans (if_pos (List.any_eq_true.mpr ⟨l, hl, decide_eq_true hlt⟩))), fun hrank => ?_⟩
    have hany : ¬ (adapterLayers m).any (fun l => decide (l.ra < rank)) = true := by
      rintro h
      obtain ⟨l, hl, hlt⟩ := List.any_eq_true.mp h
      exact absurd (of_decide_eq_true hlt) (Nat.not_lt.mpr (hrank l hl))
    replace hrun := hrun.trans (if_neg hany)
    refine ⟨fun hfull => own (hrun.trans (installVersion_full hfull)), fun k hk => ⟨fun hq => own (hrun.trans (installVersion_quota hk hq)),
      fun hs => own (hrun.trans (installVersion_space hk hs)), fun y hy => ?_⟩⟩
    exact ⟨_, writes_eq hw rfl (ownCodes_done ((sized_run hlen).trans (hrun.trans (installVersion_placed hk hy)))) (by decide),
      Device.adapter_setAdapter_same y.2 n _, Device.version_setVersion_same _ k _⟩
  case current =>
    intro slot m ha d v x a hm hst hwhole hcur
    exact ⟨_, versionCurrent_eq ha hm hst hwhole, makeCurrent_spec d v m hcur⟩
  case records =>
    intro v e htakes hlen
    have hrun : runAdapterRecords e r v = done _ := rfl
    exact takes_eq htakes rfl (ownCodes_done ((sized_run hlen).trans hrun)) (by decide)
  case remove =>
    intro hw hf d n vs
    have hvalued : ∀ {u : Answer}, runAdapterRemove d r n = u → valued (key 0x7064 0) runAdapterRemove d r r.payload = u :=
      fun h => (valued_run hw (by decide +kernel) hf).trans h
    refine ⟨fun hb => writes_eq hw rfl (ownCodes_own (hvalued (runAdapterRemove_unbound hb))) (by decide), fun hb =>
      ⟨fun ⟨e, he, hp⟩ => writes_eq hw rfl (ownCodes_own (hvalued (runAdapterRemove_pinned hb he hp))) (by decide), fun hp => ?_⟩⟩
    obtain ⟨hsame, hfree⟩ := Device.removeAdapter_spec d n (d.versionsOf n)
    exact ⟨_, writes_eq hw rfl (ownCodes_done (hvalued (runAdapterRemove_free hb hp))) (by decide), hsame, hfree⟩

end Sys2Proof.Machine
end

section
/-!
SUPPORT. Submissions (R216), the ends of requests (R212, R220, R221) and the serving control records (R223).
-/
namespace Sys2Proof.Machine

/-! ### Submissions -/

/-- SUBMIT answers with what its rule gives, and every lead core looks for a round. -/
theorem submit_runs {s : State} {r : Req} {o : ObjRow} (hw : s.writes 0x6001 0 ruleSubmit r o) (hlen : r.payload.length = 64)
    {st : Nat} {p : List Byte} {u : Device} (hrun : runSubmit (s.dev.counted 0x6001 o r) r r.payload = ⟨st, p, u⟩)
    (hst : st ≠ dPending) : exec (.submit r) s =
      s.goes ((u.finishWrite ((s.dev.counted 0x6001 o r).answerKey r) r 0x6001 0 (decide (o.right = 4)) st p).kickAll) := by
  have hrule : ruleSubmit.run (s.dev.counted 0x6001 o r) r r.payload = ⟨st, p, u⟩ := (sized_run hlen).trans hrun
  have hwrite : s.dev.write 0x6001 0 ruleSubmit r =
      u.finishWrite ((s.dev.counted 0x6001 o r).answerKey r) r 0x6001 0 (decide (o.right = 4)) st p := by
    rw [write_writes hw]
    unfold Device.execute
    rw [hrule]
    exact if_neg hst
  unfold exec
  exact lift_runs hw.1 (congrArg Device.kickAll hwrite)

/-- The client ID of a submission is one the tenant has used. -/
def Device.knows (d : Device) (t : Nat) (u : Sub) : Bool := (d.reqOf t u.client).isSome || d.admittedBefore t u.client

section
variable {d : Device} {r : Req} {v : List Byte}

theorem runSubmit_known (hk : d.knows r.tenant.toNat (subOf v) = true) :
    runSubmit d r v = refuseInUse d (d.reqOf r.tenant.toNat (subOf v).client) (subOf v).client := if_pos hk

theorem runSubmit_full (hk : d.knows r.tenant.toNat (subOf v) = false) (hf : lowestFree (Tbl.keys d.serv.reqs) 65536 0 = none) :
    runSubmit d r v = refuseSub d 0xFFFF 0 0x14 (subOf v).client := by
  refine (if_neg (not_of_false hk)).trans ?_
  rw [hf]

variable {slot : Nat}

theorem runSubmit_refused (hk : d.knows r.tenant.toNat (subOf v) = false)
    (hf : lowestFree (Tbl.keys d.serv.reqs) 65536 0 = some slot) {c : Nat} {e : Device}
    (ha : d.admitFault r.tenant.toNat slot (subOf v) = (some c, e)) :
    runSubmit d r v = refuseSub e slot 1 c (subOf v).client := by
  refine (if_neg (not_of_false hk)).trans ?_
  rw [hf]
  dsimp only
  rw [ha]

theorem runSubmit_admitted (hk : d.knows r.tenant.toNat (subOf v) = false)
    (hf : lowestFree (Tbl.keys d.serv.reqs) 65536 0 = some slot) {e : Device}
    (ha : d.admitFault r.tenant.toNat slot (subOf v) = (none, e)) : runSubmit d r v =
      ⟨dOk, (e.takeRequest r slot (subOf v)).currentRecord slot, e.takeRequest r slot (subOf v)⟩ := by
  refine (if_neg (not_of_false hk)).trans ?_
  rw [hf]
  dsimp only
  rw [ha]

end

/-- The terminal entry of the same client ID is named in the refusal. -/
theorem refuseInUse_ended {d : Device} {e : Option (Nat × ReqEnt)} {x : Nat × ReqEnt} (client : Nat) (he : e = some x) (hx : x.2.live = false) :
    refuseInUse d e client = ⟨dRefused, d.recordOf x.1 0x16 d.time32, d.bump (key 0x6010 2) 1⟩ := by
  rw [he]
  exact if_neg (not_of_false hx)

theorem refuseInUse_live {d : Device} {e : Option (Nat × ReqEnt)} (client : Nat) (he : ∀ x, e = some x → x.2.live = true) :
    refuseInUse d e client = refuseSub d 0xFFFF 0 0x16 client := by
  cases e with
  | none => rfl
  | some x => exact if_pos (he x rfl)

/-- A version is pinned by one more request; none is pinned without an adapter. -/
def Device.pinVersion (d : Device) (pin : Nat) : Device :=
  if pin = 0 then d else d.setVersion pin { d.version pin with pins := (d.version pin).pins + 1 }

/-- Step 8 of R216 once the version is pinned. -/
def Device.enterReq (d : Device) (r : Req) (slot : Nat) (u : Sub) (pin : Nat) : Device :=
  let d := d.setReq slot (u.entry r.tenant.toNat r.counter.toNat pin)
  let h := d.sampleAdmit u.inst
  (h.2.setAux slot { ReqAux.free with car := r.carrier, source := reqSrc r, tag := r.tag, sampled := h.1 }).bump (key 0x6010 1) 1

theorem takeRequest_eq (d : Device) (r : Req) (slot : Nat) (u : Sub) : d.takeRequest r slot u =
    (d.pinVersion (if u.adapter = 0 then 0 else (d.adapter u.adapter).cur)).enterReq r slot u
      (if u.adapter = 0 then 0 else (d.adapter u.adapter).cur) := rfl

theorem pinVersion_frame (d : Device) (pin : Nat) : (d.pinVersion pin).serv = d.serv ∧ (d.pinVersion pin).ctrs = d.ctrs ∧
    (d.pinVersion pin).mem = d.mem := by
  unfold Device.pinVersion
  split <;> exact ⟨rfl, rfl, rfl⟩

theorem pinVersion_pins (d : Device) {pin : Nat} (h : pin ≠ 0) : ((d.pinVersion pin).version pin).pins = (d.version pin).pins + 1 := by
  unfold Device.pinVersion
  rw [if_neg h, Device.version_setVersion_same]

section
variable (d : Device) (r : Req) (slot : Nat) (u : Sub) (pin : Nat)

theorem enterReq_reqs : (d.enterReq r slot u pin).serv.reqs =
    (d.setReq slot (u.entry r.tenant.toNat r.counter.toNat pin)).serv.reqs := rfl

theorem enterReq_versions : (d.enterReq r slot u pin).cast.versions = d.cast.versions := rfl

theorem enterReq_mem : (d.enterReq r slot u pin).mem = d.mem := rfl

theorem enterReq_ctr : (d.enterReq r slot u pin).ctr (key 0x6010 1) = min (2 ^ 64 - 1) (d.ctr (key 0x6010 1) + 1) := by
  unfold Device.enterReq
  dsimp only
  rw [Device.ctr_bump_same]
  rfl

theorem enterReq_req : (d.enterReq r slot u pin).req slot = u.entry r.tenant.toNat r.counter.toNat pin ∧
    ∀ j, j ≠ slot → (d.enterReq r slot u pin).req j = d.req j := by
  unfold Device.req
  rw [enterReq_reqs]
  exact ⟨Device.req_setReq_same _ _ _, fun j hj => Device.req_setReq_other _ _ hj⟩

end

/-- An admitted request stands in its slot, pins its adapter's version and is counted. -/
theorem Device.takeRequest_spec (d : Device) (r : Req) (slot : Nat) (u : Sub) :
    let pin := if u.adapter = 0 then 0 else (d.adapter u.adapter).cur
    let g := d.takeRequest r slot u
    g.req slot = u.entry r.tenant.toNat r.counter.toNat pin ∧ (∀ j, j ≠ slot → g.req j = d.req j) ∧
      (pin ≠ 0 → (g.version pin).pins = (d.version pin).pins + 1) ∧
      g.ctr (key 0x6010 1) = min (2 ^ 64 - 1) (d.ctr (key 0x6010 1) + 1) ∧ g.mem = d.mem := by
  rw [takeRequest_eq]
  generalize (if u.adapter = 0 then 0 else (d.adapter u.adapter).cur) = pin
  dsimp only
  obtain ⟨hserv, hctrs, hmem⟩ := pinVersion_frame d pin
  obtain ⟨hsame, hother⟩ := enterReq_req (d.pinVersion pin) r slot u pin
  refine ⟨hsame, fun j hj => (hother j hj).trans ?_, fun h => ?_, (enterReq_ctr _ r slot u pin).trans ?_,
    (enterReq_mem _ r slot u pin).trans hmem⟩
  · unfold Device.req
    rw [hserv]
  · rw [Device.version_of_cast (enterReq_versions _ r slot u pin)]
    exact pinVersion_pins d h
  · unfold Device.ctr
    rw [hctrs]

/-- Settles O41: the submission's outcomes in the order of R216's checks, and what an admitted one leaves. -/
theorem submissions : Obligations.Submissions := by
  unfold Obligations.Submissions
  intro r s o hw hlen e t u known reply
  have run : ∀ {st : Nat} {p : List Byte} {v : Device}, runSubmit e r r.payload = ⟨st, p, v⟩ → st ≠ dPending → reply st p v :=
    fun h hst => submit_runs hw hlen h hst
  refine ⟨fun (hk : e.knows t u = true) => ⟨fun x hx hl => ?_, fun hl => ?_⟩, fun (hk : e.knows t u = false) => ⟨fun hf => ?_, fun slot hf => ?_⟩⟩
  · exact run ((runSubmit_known hk).trans (refuseInUse_ended _ hx hl)) (by decide)
  · exact run ((runSubmit_known hk).trans (refuseInUse_live _ hl)) (by decide)
  · exact run (runSubmit_full hk hf) (by decide)
  obtain ⟨hnone, hlow⟩ := Tbl.find?_lowestFree hf
  refine ⟨hnone, fun j hj => Option.ne_none_iff_exists'.mp (hlow j hj), fun c v ha => ?_, fun v ha => ?_⟩
  · exact run (runSubmit_refused hk hf ha) (by decide)
  · intro pin
    obtain ⟨hreq, hother, hpin, hctr, hmem⟩ := v.takeRequest_spec r slot u
    exact ⟨_, run (runSubmit_admitted hk hf ha) (by decide), hreq, by rw [hreq]; rfl, hother, hpin, hctr, hmem⟩

/-! ### Ends of requests -/

section
variable {d : Device} {r : Req} {c : Nat}

theorem runCancel_unknown (h : d.reqOf r.tenant.toNat c = none) : runCancel d r c =
    ⟨dRefused, d.bareRecord 0xFFFF 0 (if d.admittedBefore r.tenant.toNat c then 0x18 else 0x19) c, d⟩ := by
  unfold runCancel
  dsimp only
  rw [h]

variable {x : Nat × ReqEnt}

theorem runCancel_ended (h : d.reqOf r.tenant.toNat c = some x) (hl : x.2.live = false) :
    runCancel d r c = ⟨dOk, d.currentRecord x.1, d⟩ := by
  unfold runCancel
  dsimp only
  rw [h]
  dsimp only
  rw [hl]
  rfl

theorem runCancel_live (h : d.reqOf r.tenant.toNat c = some x) (hl : x.2.live = true) {e : Device}
    (he : (if (d.aux x.1).inRound then d.setReq x.1 { x.2 with cancel := true } else d.endReq x.1 rsCancelled 0x02) = e) :
    runCancel d r c = ⟨dOk, e.currentRecord x.1, e⟩ := by
  unfold runCancel
  dsimp only
  rw [h]
  dsimp only
  rw [hl, he]
  rfl

end

section
variable {d : Device} {v : ServInfo} {slot : Nat}

/-- With no failure fixed, rows 4 to 6 of Tab. 9.8 settle an idle request. -/
theorem settleIdle_rest (h : (d.aux slot).failure = none) : d.settleIdle v slot = (d.settleRest v slot).getD d := by
  unfold Device.settleIdle
  rw [h]

theorem settleRest_fenced (h : (d.aux slot).fenced = true) : d.settleRest v slot = some (d.endReq slot rsFailed 0x05) := if_pos h

theorem settleRest_passed (hf : (d.aux slot).fenced = false) (hp : d.passed (d.req slot).deadline = true) :
    d.settleRest v slot = some (d.endReq slot rsExpired 0x03) :=
  (if_neg (not_of_false hf)).trans (if_pos hp)

theorem settleRest_bound (hf : (d.aux slot).fenced = false) (hp : d.passed (d.req slot).deadline = false)
    (hm : d.reg (key 0x6000 3) = 1) (hb : d.boundExceeds slot (d.req slot) v = true) :
    d.settleRest v slot = some (d.endReq slot rsExpired 0x04) :=
  (if_neg (not_of_false hf)).trans ((if_neg (not_of_false hp)).trans (if_pos ⟨hm, hb⟩))

end

/-- The end of retention frees the entry and its record's fields alone. -/
theorem free_entry_spec (d e : Device) (n : Nat) (he : e.serv = d.serv) :
    ((e.setReq n ReqEnt.free).setAux n ReqAux.free).req n = ReqEnt.free ∧
      ∀ j, j ≠ n → ((e.setReq n ReqEnt.free).setAux n ReqAux.free).req j = d.req j := by
  have hreqs : ((e.setReq n ReqEnt.free).setAux n ReqAux.free).serv.reqs = (e.setReq n ReqEnt.free).serv.reqs := rfl
  unfold Device.req
  rw [hreqs]
  refine ⟨Device.req_setReq_same e n _, fun j hj => (Device.req_setReq_other e ReqEnt.free hj).trans ?_⟩
  unfold Device.req
  rw [he]

/-- Settles O42. -/
theorem endsOfRequests : Obligations.EndsOfRequests := by
  unfold Obligations.EndsOfRequests
  refine ⟨?cancel, fun d slot st c h => d.endReq_spec slot st c h, ?deadline, ?settle, ?retention⟩
  case cancel =>
    intro r s o hw hf e t c reply
    have run : ∀ {st : Nat} {p : List Byte} {u : Device}, runCancel e r c = ⟨st, p, u⟩ → st ≠ 0x100 → reply st p u :=
      fun h hst => writes_eq hw rfl ((valued_run hw (by decide +kernel) hf).trans h) hst
    refine ⟨fun h => run (runCancel_unknown h) (by decide), fun x hx => ⟨fun hl => run (runCancel_ended hx hl) (by decide), ?_, ?_⟩⟩
    · exact fun hl hr => run (runCancel_live hx hl (if_pos hr)) (by decide)
    · exact fun hl hr => run (runCancel_live hx hl (if_neg (not_of_false hr))) (by decide)
  case deadline =>
    intro slot s v ha d x hv hl hd hround hup hidle e
    unfold exec
    refine lift_runs ha ?_
    dsimp only
    rw [hv]
    dsimp only
    have hgo : ¬ (!x.live || decide (x.deadline = noDeadline) || (Tbl.find? d.serv.rounds x.inst).isSome ||
        !(d.coreUp v.lead.val && decide ((d.core v.lead.val).seq.phase = .idle))) = true := by
      rw [hl, hround, hup, hidle, decide_eq_false (show x.deadline ≠ noDeadline from hd)]
      decide
    exact if_neg hgo
  case settle =>
    intro d v slot hn
    exact ⟨fun hf => (settleIdle_rest hn).trans (congrArg (fun z => z.getD d) (settleRest_fenced hf)),
      fun hf hp => (settleIdle_rest hn).trans (congrArg (fun z => z.getD d) (settleRest_passed hf hp)),
      fun hf hp hm hb => (settleIdle_rest hn).trans (congrArg (fun z => z.getD d) (settleRest_bound hf hp hm hb))⟩
  case retention =>
    intro slot s ha hst hheld
    obtain ⟨hsame, hother⟩ := free_entry_spec s.dev
      (s.dev.reach ((s.dev.aux slot.toNat).sent + s.dev.reg (key 0x6000 2) * 1000000)) slot.toNat (reach_frame _ _).2.2.1
    have hgo : ¬ ((s.dev.req slot.toNat).state < rsDone ∨ s.dev.framesHeld slot.toNat = true) := by
      rintro (h | h)
      · exact absurd hst (Nat.not_le.mpr h)
      · exact not_of_false hheld h
    refine ⟨_, ?_, hsame, hother, reach_up _ _⟩
    unfold exec
    exact lift_runs ha (if_neg hgo)

/-! ### Control records -/

/-- A fence of nothing leaves the device. -/
theorem writeInstCtl_open {d : Device} {i : Nat} {c : Ctl} (h : c.enabled = true ∨ c.mode = false) :
    d.writeInstCtl i c = d.setCtlI i c := by
  refine if_neg fun hb => ?_
  obtain ⟨he, hm⟩ := Bool.and_eq_true_iff.mp hb
  rcases h with h | h
  · rw [h] at he; exact absurd he (by decide)
  · rw [h] at hm; exact absurd hm (by decide)

theorem writeInstCtl_insts (d : Device) (i : Nat) (c : Ctl) :
    (d.writeInstCtl i c).serv.insts = (d.setCtlI i c).serv.insts := by
  unfold Device.writeInstCtl
  dsimp only
  split
  · exact (Device.fenceAll_ctl _ _).2.1
  · rfl

/-- A tenant's record as its write leaves it before any fence. -/
def Device.putTenantCtl (d : Device) (by_ t : Nat) (b : List Byte) : Device :=
  let d := { d with serv := { d.serv with tenants := Tbl.set Ctl.reset d.serv.tenants t (ctlOf b) } }
  if by_ = 0 then d.setLimits t { d.limits t with requests := bits (wordAt b 0) 31 16 } else d

theorem putTenantCtl_serv (d : Device) (by_ t : Nat) (b : List Byte) : (d.putTenantCtl by_ t b).serv =
    { d.serv with tenants := Tbl.set Ctl.reset d.serv.tenants t (ctlOf b) } := by
  unfold Device.putTenantCtl
  dsimp only
  split <;> rfl

theorem writeTenantCtl_eq {d : Device} {by_ t : Nat} (b : List Byte) (h : by_ = 0 ∨ by_ = t) : d.writeTenantCtl by_ t b =
    if !(ctlOf b).enabled && (ctlOf b).mode then (d.putTenantCtl by_ t b).fenceAll (fun r => decide (r.tenant = t))
    else d.putTenantCtl by_ t b :=
  if_neg (by omega)

theorem writeTenantCtl_tenants {d : Device} {by_ t : Nat} (b : List Byte) (h : by_ = 0 ∨ by_ = t) :
    (d.writeTenantCtl by_ t b).serv.tenants = Tbl.set Ctl.reset d.serv.tenants t (ctlOf b) := by
  have hput : (d.putTenantCtl by_ t b).serv.tenants = Tbl.set Ctl.reset d.serv.tenants t (ctlOf b) := by
    rw [putTenantCtl_serv]
  rw [writeTenantCtl_eq b h]
  split
  · exact (Device.fenceAll_ctl _ _).1.trans hput
  · exact hput

/-- Settles O43. -/
theorem servingControls : Obligations.ServingControls := by
  unfold Obligations.ServingControls
  intro r s o
  refine ⟨fun hw hlen => ?_, fun hw hlen => ?_, fun v e ht hlen => ?_, fun d by_ t b => ?tenant, fun d i c => ?inst, fun d slot hl => ?fence⟩
  · have hrun : ∀ d v, runTenantServing d r v = done _ := fun _ _ => rfl
    exact writes_eq hw rfl ((sized_run hlen).trans (hrun _ _)) (by decide)
  · have hrun : ∀ d v, runInstServing d r v = done _ := fun _ _ => rfl
    exact writes_eq hw rfl ((sized_run hlen).trans (hrun _ _)) (by decide)
  · have hrun : ∀ d v, runExperts d r v = done _ := fun _ _ => rfl
    exact takes_eq ht rfl ((sized_run hlen).trans (hrun _ _)) (by decide)
  case tenant =>
    refine ⟨fun h0 ht => if_pos ⟨h0, ht⟩, fun h => ?_, fun h ho k => ?_⟩
    · have htable := writeTenantCtl_tenants (d := d) b h
      unfold Device.tenantCtl
      rw [htable]
      exact ⟨Tbl.get_set_same _ _ _ _, fun j hj => Tbl.get_set_other _ _ _ hj⟩
    · have hopen : ¬ (!(ctlOf b).enabled && (ctlOf b).mode) = true := by
        intro hb
        obtain ⟨he, hm⟩ := Bool.and_eq_true_iff.mp hb
        rcases ho with ho | ho
        · have : (ctlOf b).enabled = true := ho
          rw [this] at he; exact absurd he (by decide)
        · have : (ctlOf b).mode = false := ho
          rw [this] at hm; exact absurd hm (by decide)
      rw [writeTenantCtl_eq b h, if_neg hopen]
      unfold Device.req
      rw [putTenantCtl_serv]
  case inst =>
    have htable : (d.writeInstCtl i c).serv.insts = Tbl.set Ctl.reset d.serv.insts i c := writeInstCtl_insts d i c
    refine ⟨?_, fun j hj => ?_, fun h k => ?_⟩
    · exact (congrArg (fun m => Tbl.get Ctl.reset m i) htable).trans (Tbl.get_set_same _ _ _ _)
    · exact (congrArg (fun m => Tbl.get Ctl.reset m j) htable).trans (Tbl.get_set_other _ _ _ hj)
    · rw [writeInstCtl_open h]
      rfl
  case fence =>
    have hlive : ¬ (d.req slot).live = false := by rw [hl]; decide
    exact ⟨fun hr => (if_neg hlive).trans (if_pos hr), fun hr => (if_neg hlive).trans (if_neg (not_of_false hr))⟩

end Sys2Proof.Machine
end

section
/-!
SUPPORT. Casts (R253–R261): what an opening, a chunk, a close, an abort and a region's re-cast leave.
-/
namespace Sys2Proof.Machine

/-! ### Instances -/

@[simp] theorem Device.inst_setInst_same (d : Device) (i : Nat) (x : Inst) : (d.setInst i x).inst i = x := Tbl.get_set_same _ _ _ _

theorem Device.inst_setInst_other (d : Device) {i j : Nat} (x : Inst) (h : j ≠ i) : (d.setInst i x).inst j = d.inst j :=
  Tbl.get_set_other _ _ _ h

theorem Device.inst_of_cast {d e : Device} (h : e.cast.insts = d.cast.insts) (i : Nat) : e.inst i = d.inst i := by
  unfold Device.inst
  rw [h]

@[simp] theorem Device.inst_bump (d : Device) (k n i : Nat) : (d.bump k n).inst i = d.inst i := rfl

/-- The instances stay. -/
def InstKeep (d e : Device) : Prop := e.cast.insts = d.cast.insts

namespace InstKeep

theorem refl (d : Device) : InstKeep d d := rfl

theorem trans {d e g : Device} (h : InstKeep d e) (k : InstKeep e g) : InstKeep d g := Eq.trans k h

theorem of_cast {d e : Device} (h : e.cast = d.cast) : InstKeep d e := congrArg CastS.insts h

theorem inst {d e : Device} (h : InstKeep d e) (i : Nat) : e.inst i = d.inst i := Device.inst_of_cast h i

theorem foldl {α : Type} {f : Device → α → Device} (h : ∀ d a, InstKeep d (f d a)) (l : List α) (d : Device) :
    InstKeep d (l.foldl f d) := by
  induction l generalizing d with
  | nil => exact .refl d
  | cons a l ih => exact (h d a).trans (ih _)

theorem writeH (d : Device) (h o : Nat) (ws : List RWord) : InstKeep d (d.writeH h o ws) := .of_cast (Device.cast_writeH d h o ws)

theorem releaseAllH (d : Device) (hs : List Nat) : InstKeep d (d.releaseAllH hs) :=
  .of_cast (Device.cast_foldl Device.startRelease_cast hs d)

theorem takeSlots (d : Device) (c p t : Nat) (ss : List EngSlot) : InstKeep d (d.takeSlots c p t ss) := by
  unfold Device.takeSlots Device.settleSlots
  exact .of_cast rfl

/-- A casting write takes its place behind what is in flight, which leaves the instances as they are. -/
theorem castStart (d : Device) (c pos : Nat) : InstKeep d (d.castStart c pos) := by
  unfold Device.castStart
  dsimp only
  generalize ((d.core c).seq.startCycle (posRows pos) d.cyc).getD d.cyc = t
  have h := (InstKeep.of_cast (Device.cast_landUpTo d c t)).trans
    (.takeSlots _ c (d.physAt c pos) t [⟨t, castCycles, true, true, none⟩])
  exact h.trans (.of_cast (Device.modCore_cast _ _ _))

theorem putCells (d : Device) (c p : Nat) (e : Engine) : InstKeep d (d.putCells c p e) := .of_cast rfl

theorem writeImage (d : Device) (c pos : Nat) (img : Tbl (BitVec 128)) (sc : Tbl Byte) (w cls : Nat) (use : Option (Nat × Nat)) :
    InstKeep d (d.writeImage c pos img sc w cls use) := by
  unfold Device.writeImage
  dsimp only
  split
  · exact ((InstKeep.castStart d c pos).trans (.putCells _ _ _ _)).trans (.putCells _ _ _ _)
  · exact (InstKeep.castStart d c pos).trans (.putCells _ _ _ _)

theorem castEngine (d : Device) (i : Nat) (j : CastJob) (l : LayerEnt) (k : Nat) : InstKeep d (d.castEngine i j l k) := by
  unfold Device.castEngine
  split
  · exact .refl d
  · exact .writeImage _ _ _ _ _ _ _ _

theorem emptyEngine (d : Device) (m : Maq) (k : Nat) : InstKeep d (d.emptyEngine m k) := by
  unfold Device.emptyEngine
  split
  · exact .refl d
  · unfold Device.zeroEngine
    split
    · exact .writeImage _ _ _ _ _ _ _ _
    · exact rfl

end InstKeep

/-- An undone cast leaves what it cast absent with the code, and the other instances as they are. -/
theorem undoCast_insts (d : Device) (i : Nat) (j : CastJob) (code : Nat) :
    (d.undoCast i j code).inst i = { Inst.absent with status := code } ∧ ∀ k, k ≠ i → (d.undoCast i j code).inst k = d.inst k := by
  unfold Device.undoCast
  dsimp only
  refine ⟨Device.inst_setInst_same _ _ _, fun k hk => (Device.inst_setInst_other _ _ hk).trans ?_⟩
  exact ((InstKeep.foldl (fun d k => .emptyEngine d _ k) j.written d).trans (.releaseAllH _ _)).inst k

/-! ### Opening -/

section
variable {x : MaqExtra} {d : Device} {r : Req} {v : List Byte} (hi : leAt v 0 2 ≤ 1023) (hh : leAt v 2 2 ≤ 8191)
include hi hh

theorem runCastOpen_fault {c : Nat} (hc : (d.readMaquette (leAt v 2 2)).2.castFault (leAt v 0 2) (d.readMaquette (leAt v 2 2)).1
      (bytesAt v 4 32) (maqOf ((d.readMaquette (leAt v 2 2)).1.getD []) x) = some c) :
    runCastOpen x d r v = refuseOwn ((d.readMaquette (leAt v 2 2)).2.castFailed (leAt v 0 2) c) c := by
  unfold runCastOpen
  dsimp only
  rw [if_neg (by omega), hc]

variable (hn : (d.readMaquette (leAt v 2 2)).2.castFault (leAt v 0 2) (d.readMaquette (leAt v 2 2)).1
      (bytesAt v 4 32) (maqOf ((d.readMaquette (leAt v 2 2)).1.getD []) x) = none)
include hn

theorem runCastOpen_quota (hs : (d.readMaquette (leAt v 2 2)).2.startCast (leAt v 0 2) (leAt v 2 2)
      (maqOf ((d.readMaquette (leAt v 2 2)).1.getD []) x) = .error .quota) :
    runCastOpen x d r v = refuseOwn ((d.readMaquette (leAt v 2 2)).2.castFailed (leAt v 0 2) cQuota) cQuota := by
  unfold runCastOpen
  dsimp only
  rw [if_neg (by omega), hn]
  dsimp only
  rw [hs]

theorem runCastOpen_space (hs : (d.readMaquette (leAt v 2 2)).2.startCast (leAt v 0 2) (leAt v 2 2)
      (maqOf ((d.readMaquette (leAt v 2 2)).1.getD []) x) = .error .space) :
    runCastOpen x d r v = refuseOwn ((d.readMaquette (leAt v 2 2)).2.castFailed (leAt v 0 2) cSpace) cSpace := by
  unfold runCastOpen
  dsimp only
  rw [if_neg (by omega), hn]
  dsimp only
  rw [hs]

theorem runCastOpen_started {u : Device} (hs : (d.readMaquette (leAt v 2 2)).2.startCast (leAt v 0 2) (leAt v 2 2)
      (maqOf ((d.readMaquette (leAt v 2 2)).1.getD []) x) = .ok u) : runCastOpen x d r v = done u := by
  unfold runCastOpen
  dsimp only
  rw [if_neg (by omega), hn]
  dsimp only
  rw [hs]

end

/-- A cast that fails at its opening counts, and leaves what it cast absent with the code. -/
theorem castFailed_spec (d : Device) (i c : Nat) :
    let v := d.castFailed i c
    v.ctr (key 0x7070 4) = min (2 ^ 64 - 1) (d.ctr (key 0x7070 4) + 1) ∧ v.cim = d.cim ∧ v.mem = d.mem ∧
      ((d.inst i).state = 0 → v.inst i = { Inst.absent with status := c }) ∧
      ((d.inst i).state ≠ 0 → v.inst i = d.inst i) ∧ ∀ j, j ≠ i → v.inst j = d.inst j := by
  unfold Device.castFailed
  dsimp only
  rw [Device.inst_bump]
  split
  next h =>
    exact ⟨Device.ctr_bump_same _ _ _, rfl, rfl, fun _ => Device.inst_setInst_same _ _ _, fun hn => absurd h hn,
      fun j hj => Device.inst_setInst_other _ _ hj⟩
  next h =>
    exact ⟨Device.ctr_bump_same _ _ _, rfl, rfl, fun h0 => absurd h0 h, fun _ => rfl, fun _ _ => rfl⟩

/-- A started cast stands among the instances with its job. -/
theorem startCast_inst {d v : Device} {i h : Nat} {m : Maq} (hs : d.startCast i h m = .ok v) :
    (v.inst i).state = 1 ∧ (v.inst i).tenant = m.tenant ∧ (v.inst i).status = 0x01 ∧ (v.inst i).maqH = h ∧
      (v.inst i).maq = none ∧ (v.inst i).job.isSome = true := by
  unfold Device.startCast at hs
  dsimp only at hs
  split at hs
  · cases hs
  · cases hs
    rw [Device.inst_setInst_same]
    exact ⟨rfl, rfl, rfl, rfl, rfl, rfl⟩

/-! ### Closing and aborting -/

/-- Every layer is staged, every region is whole and every whole image is written. -/
def CastJob.complete (j : CastJob) : Bool :=
  j.maq.layers.all (fun l => j.staged.contains l.layer) && (List.range j.maq.extra.regions.length).all j.regionWhole && j.settled

/-- Every digest agrees. -/
def CastJob.agrees (j : CastJob) : Bool :=
  (List.range j.maq.extra.regions.length).all j.regionGood &&
    (j.maq.expected.isEmpty || decide (j.maq.layers.map (fun l => j.digest l) = j.maq.expected))

theorem CastJob.not_complete (j : CastJob) : (!j.maq.layers.all (fun l => j.staged.contains l.layer) ||
    !(List.range j.maq.extra.regions.length).all j.regionWhole || !j.settled) = !j.complete := by
  unfold CastJob.complete
  rw [Bool.not_and, Bool.not_and]

theorem CastJob.not_agrees (j : CastJob) : (!(List.range j.maq.extra.regions.length).all j.regionGood ||
    (!j.maq.expected.isEmpty && decide (j.maq.layers.map (fun l => j.digest l) ≠ j.maq.expected))) = !j.agrees := by
  unfold CastJob.agrees
  rw [Bool.not_and, Bool.not_or, decide_not]

section
variable {d : Device} {r : Req} {i : Nat}

theorem runCastClose_denied (hr : r.tenant ≠ 0#9) : runCastClose d r i = refuseOwn d cDenied := if_pos hr

variable (hr : r.tenant = 0#9)
include hr

theorem runCastClose_none (h : (d.castHeld.inst i).job = none ∨ (d.castHeld.inst i).state ≠ 1) :
    runCastClose d r i = refuseOwn d.castHeld cNotFound := by
  unfold runCastClose
  rw [if_neg (Classical.not_not.mpr hr)]
  dsimp only
  split
  · rfl
  next j hj => 
    rw [hj] at h
    exact if_pos (h.resolve_left (by simp))

variable {j : CastJob} (hj : (d.castHeld.inst i).job = some j) (hst : (d.castHeld.inst i).state = 1)
include hj hst

theorem runCastClose_open : runCastClose d r i =
    if !j.complete then refuseOwn d.castHeld cInProgress
    else if !j.agrees then refuseOwn ((d.castHeld.undoCast i j cMismatch).bump (key 0x7070 4) 1) cMismatch
    else done (d.castHeld.finishCast i j) := by
  unfold runCastClose
  rw [if_neg (Classical.not_not.mpr hr)]
  dsimp only
  rw [hj]
  dsimp only
  rw [if_neg (Classical.not_not.mpr hst), CastJob.not_complete, CastJob.not_agrees]

theorem runCastClose_early (hw : j.complete = false) : runCastClose d r i = refuseOwn d.castHeld cInProgress := by
  rw [runCastClose_open hr hj hst, hw]
  rfl

theorem runCastClose_differs (hw : j.complete = true) (hg : j.agrees = false) :
    runCastClose d r i = refuseOwn ((d.castHeld.undoCast i j cMismatch).bump (key 0x7070 4) 1) cMismatch := by
  rw [runCastClose_open hr hj hst, hw, hg]
  rfl

theorem runCastClose_done (hw : j.complete = true) (hg : j.agrees = true) :
    runCastClose d r i = done (d.castHeld.finishCast i j) := by
  rw [runCastClose_open hr hj hst, hw, hg]
  rfl

end

/-- A finished cast makes what it cast ready under its maquette. -/
theorem finishCast_inst (d : Device) (i : Nat) (j : CastJob) :
    let v := d.finishCast i j
    (v.inst i).state = 2 ∧ (v.inst i).status = 0 ∧ (v.inst i).job = none ∧ (v.inst i).maq = some j.maq ∧
      (v.inst i).digests = numbered 0 (j.maq.layers.map (fun l => j.digest l)) := by
  unfold Device.finishCast
  dsimp only
  rw [Device.inst_bump, Device.inst_setInst_same]
  exact ⟨rfl, rfl, rfl, rfl, rfl⟩

theorem runCastAbort_open {d : Device} {r : Req} {i : Nat} {j : CastJob} (hr : r.tenant = 0#9) (hj : (d.inst i).job = some j)
    (hst : (d.inst i).state = 1) : runCastAbort d r i = done (d.undoCast i j cAborted) := by
  unfold runCastAbort
  rw [if_neg (Classical.not_not.mpr hr)]
  dsimp only
  rw [hj]
  exact if_neg (Classical.not_not.mpr hst)

/-! ### Chunks -/

section
variable {d : Device} {r : Req} {v : List Byte}

/-- A chunk of a layer or a region goes to its target. -/
theorem runChunk_target (hlen : 32 ≤ v.length) (ht : (chunkHdr v).target ≤ 1) (ha : (chunkHdr v).adapter = 0) :
    runChunk d r v = d.targetChunk (chunkHdr v) v :=
  (if_neg (by omega)).trans ((if_neg (by omega)).trans (if_neg (by omega)))

theorem runChunk_adapter (hlen : 32 ≤ v.length) (ht : (chunkHdr v).target = 2) {x : Nat × Version}
    (hl : d.loading? (chunkHdr v).adapter = some x) (hi : (d.adapter (chunkHdr v).adapter).inst = (chunkHdr v).inst) :
    (∀ u, d.adapterChunk x.1 x.2 (chunkHdr v) v = some u → runChunk d r v = done u) ∧
      (d.adapterChunk x.1 x.2 (chunkHdr v) v = none → runChunk d r v = refuseOwn ((d.freeVersion x.1).bump (key 0x7070 4) 1) cMaquette) := by
  unfold runChunk
  rw [if_neg (by omega)]
  dsimp only
  rw [if_neg (by omega), if_pos ht, hl]
  dsimp only
  rw [if_neg (Classical.not_not.mpr hi)]
  exact ⟨fun u hu => by rw [hu], fun hu => by rw [hu]⟩

variable {h : ChunkHdr} {j : CastJob}

theorem targetChunk_done (hj : (d.inst h.inst).job = some j) (hs : j.swap = h.swap) {u : Device}
    (hu : d.jobChunk h.inst j h v = .ok u) : d.targetChunk h v = done (u.settleSwap h.inst) := by
  unfold Device.targetChunk
  rw [hj]
  dsimp only
  rw [if_pos hs]
  dsimp only
  rw [hu]

theorem targetChunk_fails (hj : (d.inst h.inst).job = some j) (hs : j.swap = h.swap) {c : Nat}
    (hu : d.jobChunk h.inst j h v = .error c) : d.targetChunk h v =
      refuseOwn (if j.swap then d.swapFail h.inst c else (d.undoCast h.inst j c).bump (key 0x7070 4) 1) c := by
  unfold Device.targetChunk
  rw [hj]
  dsimp only
  rw [if_pos hs]
  dsimp only
  rw [hu]

/-- A layer's chunk with no open job is discarded. -/
theorem targetChunk_discarded (hj : (d.inst h.inst).job = none) (ht : h.target = 0) : d.targetChunk h v = discardChunk d := by
  unfold Device.targetChunk
  rw [hj]
  exact if_pos (.inl (by omega))

end

/-! ### Re-casts -/

section
variable {d : Device} {r : Req} {h : Nat} {g : Region}

theorem runRecast_none (hg : d.region? h = none) : runRecast d r h = refuseOwn d cNotFound := by
  unfold runRecast
  rw [hg]

theorem runRecast_region (hg : d.region? h = some g) : runRecast d r h =
    done ((d.putRegionRec h { g with recast := some ([], []) }).setInst g.inst { d.inst g.inst with status := cInProgress }) := by
  unfold runRecast
  rw [hg]
  rfl

theorem region_putRegionRec (d : Device) (h : Nat) (x : Region) : (d.putRegionRec h x).region? h = some x :=
  Tbl.find?_put_same _ _ _

theorem region_setInst (d : Device) (h i : Nat) (x : Inst) : (d.setInst i x).region? h = d.region? h := rfl

end

/-- The end of a region's re-cast once its bytes `b` are written. -/
def Device.endRecast (d : Device) (n : Nat) (x : Region) (e : Handle) (good : Bool) : Device :=
  let d := if good then d.putHandle n { e with attrs := e.attrs &&& ~~~(1#11 <<< 9) } else d
  let d := d.putRegionRec n { x with recast := none }
  let d := d.setInst x.inst { d.inst x.inst with status := if good then 0 else cMismatch }
  d.bump (key 0x7070 8) 1

theorem endRecast_spec (d : Device) (n : Nat) (x : Region) (e : Handle) (good : Bool) :
    let v := d.endRecast n x e good
    v.region? n = some { x with recast := none } ∧ (v.inst x.inst).status = (if good then 0 else 0x0B) ∧
      (good = true → Tbl.find? v.mem.handles n = some { e with attrs := e.attrs &&& ~~~(1#11 <<< 9) }) ∧ v.mem.m = d.mem.m := by
  unfold Device.endRecast
  dsimp only
  rw [Device.inst_bump, Device.inst_setInst_same]
  refine ⟨region_putRegionRec _ _ _, rfl, fun hg => ?_, ?_⟩
  · rw [hg]
    exact Tbl.find?_put_same _ _ _
  · cases good <;> rfl

section
variable {h : HandleId} {s : State} {g : Region} {y : Handle} {c : List (Nat × Nat) × Tbl Byte} (ha : s.alive = true)
  (hg : s.dev.region? h.toNat = some g) (hy : s.dev.handle? h.toNat = some y) (hc : g.recast = some c)
include ha hg hy hc

theorem regionRecastDone_early (hn : gotBytes c.1 ≠ y.bytes) : exec (.regionRecastDone h) s = s.goes s.dev := by
  unfold exec execRegionRecastDone
  refine lift_runs ha ?_
  dsimp only
  rw [hg, hy]
  dsimp only
  rw [hc]
  exact if_pos hn

theorem regionRecastDone_eq (hn : gotBytes c.1 = y.bytes) : exec (.regionRecastDone h) s =
    s.goes ((s.dev.writeH h.toNat 0 (cleanWords (Tbl.sliceFrom 0#8 y.bytes 0 c.2))).endRecast h.toNat g y
      (decide (sha256 (Tbl.sliceFrom 0#8 y.bytes 0 c.2) = g.digest))) := by
  unfold exec execRegionRecastDone
  refine lift_runs ha ?_
  dsimp only
  rw [hg, hy]
  dsimp only
  rw [hc]
  exact if_neg (Classical.not_not.mpr hn)

end

/-- Settles O44: each object's write by its rule's outcomes. -/
theorem casts : Obligations.Casts := by
  unfold Obligations.Casts
  intro r x s o
  refine ⟨?opens, ?close, ?abort, ?chunk, ?recast, ?recastDone⟩
  case opens =>
    intro hw hlen hi hh e i h b d m reply
    have own : ∀ {c : Nat} {u : Device}, runCastOpen x e r r.payload = refuseOwn u c → reply 0x0D [BitVec.ofNat 8 c] u :=
      fun h => writes_eq hw rfl (ownCodes_own ((sized_run hlen).trans h)) (by decide)
    refine ⟨fun c hc => ⟨_, own (runCastOpen_fault hi hh hc), castFailed_spec d i c⟩, fun hn =>
      ⟨fun hs => own (runCastOpen_quota hi hh hn hs), fun hs => own (runCastOpen_space hi hh hn hs), fun v hs =>
        ⟨?_, startCast_inst hs⟩⟩⟩
    exact writes_eq hw rfl (ownCodes_done ((sized_run hlen).trans (runCastOpen_started hi hh hn hs))) (by decide)
  case close =>
    intro hw hf d i reply
    have hvalued : ∀ {u : Answer}, runCastClose d r i = u → valued (key 0x7000 2) runCastClose d r r.payload = u :=
      fun h => (valued_run hw (by decide +kernel) hf).trans h
    have own : ∀ {c : Nat} {u : Device}, runCastClose d r i = refuseOwn u c → reply 0x0D [BitVec.ofNat 8 c] u :=
      fun h => writes_eq hw rfl (ownCodes_own (hvalued h)) (by decide)
    have fine : ∀ {u : Device}, runCastClose d r i = done u → reply 0x00 [] u :=
      fun h => writes_eq hw rfl (ownCodes_done (hvalued h)) (by decide)
    refine ⟨fun hr => own (runCastClose_denied hr), fun hr => ⟨fun hnone => own (runCastClose_none hr hnone), ?_⟩⟩
    intro j hj hst
    refine ⟨fun hwhole => own (runCastClose_early hr hj hst hwhole), fun hwhole hgood => ?_, fun hwhole hgood => ?_⟩
    · exact ⟨_, own (runCastClose_differs hr hj hst hwhole hgood), (undoCast_insts d.castHeld i j cMismatch).1⟩
    · exact ⟨_, fine (runCastClose_done hr hj hst hwhole hgood), finishCast_inst d.castHeld i j⟩
  case abort =>
    intro hw hf hr d i j hj hst
    have hvalued : ∀ {u : Answer}, runCastAbort d r i = u → valued (key 0x7000 3) runCastAbort d r r.payload = u :=
      fun h => (valued_run hw (by decide +kernel) hf).trans h
    exact ⟨_, writes_eq hw rfl (ownCodes_done (hvalued (runCastAbort_open hr hj hst))) (by decide), undoCast_insts d i j _⟩
  case chunk =>
    intro c d ht hlen h reply
    have own : ∀ {f : Nat} {u : Device}, runChunk d r c = refuseOwn u f → reply 0x0D [BitVec.ofNat 8 f] u :=
      fun h => takes_eq ht rfl (ownCodes_own h) (by decide)
    have fine : ∀ {u : Device}, runChunk d r c = done u → reply 0x00 [] u := fun h => takes_eq ht rfl (ownCodes_done h) (by decide)
    refine ⟨fun htar hada j hj hs => ⟨fun v hv => ?_, fun f hv hswap => ?_, fun f hv hswap => ?_⟩, fun htar hada hj => ?_,
      fun htar v hl hi => ⟨fun u hu => ?_, fun hu => ?_⟩⟩
    · exact fine ((runChunk_target hlen htar hada).trans (targetChunk_done hj hs hv))
    · exact own ((runChunk_target hlen htar hada).trans ((targetChunk_fails hj hs hv).trans
        (congrArg (refuseOwn · f) (if_neg (not_of_false hswap)))))
    · exact own ((runChunk_target hlen htar hada).trans ((targetChunk_fails hj hs hv).trans
        (congrArg (refuseOwn · f) (if_pos hswap))))
    · exact fine ((runChunk_target hlen (htar ▸ Nat.zero_le 1) hada).trans (targetChunk_discarded hj htar))
    · exact fine ((runChunk_adapter hlen htar hl hi).1 u hu)
    · exact own ((runChunk_adapter hlen htar hl hi).2 hu)
  case recast =>
    intro hw hf d h
    have hvalued : ∀ {u : Answer}, runRecast d r h = u → valued (key 0x7032 0) runRecast d r r.payload = u :=
      fun h => (valued_run hw (by decide +kernel) hf).trans h
    refine ⟨fun hg => writes_eq hw rfl (ownCodes_own (hvalued (runRecast_none hg))) (by decide), fun g hg => ?_⟩
    refine ⟨_, writes_eq hw rfl (ownCodes_done (hvalued (runRecast_region hg))) (by decide), ?_, ?_, rfl⟩
    · exact (region_setInst _ _ _ _).trans (region_putRegionRec _ _ _)
    · exact congrArg Inst.status (Device.inst_setInst_same _ g.inst { d.inst g.inst with status := cInProgress })
  case recastDone =>
    intro h g y c ha d n hg hy hc
    refine ⟨regionRecastDone_early ha hg hy hc, fun hn => ?_⟩
    obtain ⟨hregion, hstatus, hhandle, hmem⟩ := endRecast_spec (d.writeH n 0 (cleanWords (Tbl.sliceFrom 0#8 y.bytes 0 c.2))) n g y
      (decide (sha256 (Tbl.sliceFrom 0#8 y.bytes 0 c.2) = g.digest))
    refine ⟨_, regionRecastDone_eq ha hg hy hc hn, hregion, hstatus.trans ?_, fun hgood => hhandle (decide_eq_true hgood), hmem⟩
    exact ite_congr decide_eq_true_eq (fun _ => rfl) (fun _ => rfl)

end Sys2Proof.Machine
end

section
/-!
SUPPORT. Swaps (R262–R267): what an opening, the start and the end of a layer's rewrite, and a failure leave.
-/
namespace Sys2Proof.Machine

/-! ### Opening -/

section
variable {x : MaqExtra} {d : Device} {r : Req} {v : List Byte} (hi : leAt v 0 2 ≤ 1023) (hh : leAt v 2 2 ≤ 8191) (hp : leAt v 4 1 ≤ 1)
include hi hh hp

theorem runSwapOpen_busy (h : ((d.inst (leAt v 0 2)).state ≠ 2 ∧ (d.inst (leAt v 0 2)).state ≠ 4) ∨
    (d.inst (leAt v 0 2)).job.isSome = true) : runSwapOpen x d r v = refuseOwn d cBusy := by
  unfold runSwapOpen
  dsimp only
  rw [if_neg (by omega)]
  exact if_pos h

variable (hst : (d.inst (leAt v 0 2)).state = 2 ∨ (d.inst (leAt v 0 2)).state = 4) (hj : (d.inst (leAt v 0 2)).job = none)
include hst hj

theorem runSwapOpen_fault {c : Nat} (hc : swapFault (d.inst (leAt v 0 2)) (leAt v 0 2) (d.readMaquette (leAt v 2 2)).1 (bytesAt v 8 32)
      (maqOf ((d.readMaquette (leAt v 2 2)).1.getD []) x) = some c) : runSwapOpen x d r v =
    refuseOwn ((d.readMaquette (leAt v 2 2)).2.setInst (leAt v 0 2) { d.inst (leAt v 0 2) with status := c }) c := by
  have hfree : ¬ (((d.inst (leAt v 0 2)).state ≠ 2 ∧ (d.inst (leAt v 0 2)).state ≠ 4) ∨ (d.inst (leAt v 0 2)).job.isSome = true) := by
    rw [hj]
    rintro (⟨h2, h4⟩ | h)
    · exact hst.elim h2 h4
    · exact absurd h (by decide)
  unfold runSwapOpen
  dsimp only
  rw [if_neg (by omega), if_neg hfree, hc]

theorem runSwapOpen_opens (hn : swapFault (d.inst (leAt v 0 2)) (leAt v 0 2) (d.readMaquette (leAt v 2 2)).1 (bytesAt v 8 32)
      (maqOf ((d.readMaquette (leAt v 2 2)).1.getD []) x) = none) {y : List Nat × Device}
    (hy : (d.readMaquette (leAt v 2 2)).2.allocMany ((d.readMaquette (leAt v 2 2)).2.stagingWants
      (maqOf ((d.readMaquette (leAt v 2 2)).1.getD []) x)) = .ok y) : runSwapOpen x d r v =
    done (y.2.startSwap (leAt v 0 2) (leAt v 2 2) (maqOf ((d.readMaquette (leAt v 2 2)).1.getD []) x) (decide (leAt v 4 1 = 1)) y.1) := by
  have hfree : ¬ (((d.inst (leAt v 0 2)).state ≠ 2 ∧ (d.inst (leAt v 0 2)).state ≠ 4) ∨ (d.inst (leAt v 0 2)).job.isSome = true) := by
    rw [hj]
    rintro (⟨h2, h4⟩ | h)
    · exact hst.elim h2 h4
    · exact absurd h (by decide)
  unfold runSwapOpen
  dsimp only
  rw [if_neg (by omega), if_neg hfree, hn]
  dsimp only
  rw [hy]

end

/-! ### The old round's steps -/

/-- No waiting step of a core is one of a new round of `i`. -/
def CimCore.oldOnly (x : CimCore) (i : Nat) : Prop := ∀ p ∈ x.aux.plans, p.inst = i → p.newRound = false

/-- A step of `i` is one of the old round. -/
def Plan.made (i : Nat) (p : Plan) : Plan := if p.inst = i then { p with newRound := false } else p

/-- The steps of `i` on a core are the old round's. -/
def CimCore.made (i : Nat) (y : CimCore) : CimCore :=
  { y with seq := { y.seq with plan := Plan.made i y.seq.plan }, aux := { y.aux with plans := y.aux.plans.map (Plan.made i) } }

theorem oldPlans_eq (d : Device) (i : Nat) : d.oldPlans i = d.cim.cores.foldl (fun d x => d.modCore x.1 (CimCore.made i)) d := rfl

theorem made_newRound (i : Nat) (p : Plan) (h : (Plan.made i p).inst = i) : (Plan.made i p).newRound = false := by
  unfold Plan.made at h ⊢
  split
  · rfl
  next hp =>
    rw [if_neg hp] at h
    exact absurd h hp

theorem made_oldOnly (i : Nat) (y : CimCore) : (CimCore.made i y).oldOnly i := by
  intro p hp hpi
  obtain ⟨q, -, rfl⟩ := List.mem_map.mp hp
  exact made_newRound i q hpi

/-- A list of cores is gone through: those listed hold old steps alone, and no other core changes. -/
theorem oldOnly_foldl {f : Device → Nat × CimCore → Device} {i : Nat} (hsame : ∀ d x, ((f d x).core x.1).oldOnly i)
    (hother : ∀ d x c, c ≠ x.1 → (f d x).core c = d.core c) (l : List (Nat × CimCore)) (d : Device) (c : Nat)
    (h : (d.core c).oldOnly i ∨ ∃ x ∈ l, x.1 = c) : ((l.foldl f d).core c).oldOnly i := by
  induction l generalizing d with
  | nil => exact h.resolve_right (fun ⟨_, hx, _⟩ => List.not_mem_nil hx)
  | cons a l ih =>
    refine ih (f d a) ?_
    by_cases hc : c = a.1
    · exact .inl (hc ▸ hsame d a)
    rw [hother d a c hc]
    refine h.imp id (fun ⟨x, hx, hxc⟩ => ?_)
    rcases List.mem_cons.mp hx with rfl | hx
    · exact absurd hxc.symm hc
    · exact ⟨x, hx, hxc⟩

/-- A core that is not listed holds no steps. -/
theorem core_listed_or_reset (d : Device) (c : Nat) : (∃ x ∈ d.cim.cores, x.1 = c) ∨ d.core c = CimCore.reset := by
  unfold Device.core
  rw [Tbl.get_eq]
  cases hf : Tbl.find? d.cim.cores c with
  | none => exact .inr rfl
  | some y => exact .inl ⟨(c, y), Tbl.find?_mem _ _ _ hf, rfl⟩

/-- The engines and the units of serving stay. -/
def OldKeep (d e : Device) : Prop := e.cim.engines = d.cim.engines ∧ e.serv = d.serv ∧ e.cast = d.cast

theorem OldKeep.foldl {α : Type} {f : Device → α → Device} (h : ∀ d a, OldKeep d (f d a)) (l : List α) (d : Device) :
    OldKeep d (l.foldl f d) := by
  induction l generalizing d with
  | nil => exact ⟨rfl, rfl, rfl⟩
  | cons a l ih =>
    obtain ⟨he, hs, hc⟩ := h d a
    obtain ⟨he', hs', hc'⟩ := ih (f d a)
    exact ⟨he'.trans he, hs'.trans hs, hc'.trans hc⟩

theorem oldPlans_spec (d : Device) (i : Nat) : OldKeep d (d.oldPlans i) ∧ ∀ c, ((d.oldPlans i).core c).oldOnly i := by
  rw [oldPlans_eq]
  refine ⟨OldKeep.foldl (f := fun d (x : Nat × CimCore) => d.modCore x.1 (CimCore.made i)) (fun d x => ⟨rfl, rfl, rfl⟩) _ _, fun c => ?_⟩
  refine oldOnly_foldl (f := fun d x => d.modCore x.1 (CimCore.made i)) (fun d x => ?_)
    (fun d x c hc => Device.core_modCore_other d _ hc) _ _ _ ?_
  · rw [Device.core_modCore_same]
    exact made_oldOnly i _
  · rcases core_listed_or_reset d c with h | h
    · exact .inr h
    · refine .inl ?_
      rw [h]
      exact fun p hp => absurd hp List.not_mem_nil

theorem dropScan_frame (d : Device) (i : Nat) : (d.dropScan i).cim = d.cim ∧ (d.dropScan i).serv = d.serv ∧ (d.dropScan i).cast = d.cast := by
  unfold Device.dropScan
  dsimp only
  split <;> exact ⟨rfl, rfl, rfl⟩

/-- What a swap just opened makes of the one it swaps. -/
def Inst.swapping (x : Inst) (h : Nat) (m : Maq) (policy : Bool) (hs : List Nat) : Inst :=
  { x with state := 3, status := cInProgress, policy := policy, front := 0, job := some (CastJob.start m h true policy x.state hs) }

/-- The device of a swap just opened, before its round is marked. -/
def Device.swapped (d : Device) (i h : Nat) (m : Maq) (policy : Bool) (hs : List Nat) : Device :=
  (d.dropScan i).setInst i ((d.inst i).swapping h m policy hs)

theorem startSwap_eq {d : Device} {i : Nat} {g : Round} (hg : Tbl.find? d.serv.rounds i = some g) (h : Nat) (m : Maq) (policy : Bool)
    (hs : List Nat) : d.startSwap i h m policy hs =
      ((d.swapped i h m policy hs).oldPlans i).setRounds (Tbl.put d.serv.rounds i { g with old := true, restart := policy }) := by
  have hserv : ((d.dropScan i).setInst i ((d.inst i).swapping h m policy hs)).serv = d.serv := (dropScan_frame d i).2.1
  unfold Device.startSwap
  dsimp only
  split
  next y hy =>
    have hround : some y = some g := hy.symm.trans ((congrArg (fun z => Tbl.find? z.rounds i) hserv).trans hg)
    cases hround
    exact congrArg (fun z => ((d.swapped i h m policy hs).oldPlans i).setRounds (Tbl.put z.rounds i { g with old := true, restart := policy })) hserv
  next hn =>
    have hround : none = some g := hn.symm.trans ((congrArg (fun z => Tbl.find? z.rounds i) hserv).trans hg)
    cases hround

/-- An open swap stands at layer 0; the running round is the old one, and so is every step that waits. -/
theorem startSwap_spec {d : Device} {i : Nat} {g : Round} (hg : Tbl.find? d.serv.rounds i = some g) (h : Nat) (m : Maq) (policy : Bool)
    (hs : List Nat) :
    let v := d.startSwap i h m policy hs
    v.inst i = (d.inst i).swapping h m policy hs ∧ Tbl.find? v.serv.rounds i = some { g with old := true, restart := policy } ∧
      (∀ c, (v.core c).oldOnly i) ∧ v.cim.engines = d.cim.engines ∧ v.serv.reqs = d.serv.reqs := by
  rw [startSwap_eq hg]
  obtain ⟨⟨heng, hserv, hcast⟩, hold⟩ := oldPlans_spec (d.swapped i h m policy hs) i
  obtain ⟨hcim, hserv', -⟩ := dropScan_frame d i
  refine ⟨?_, Tbl.find?_put_same _ _ _, hold, heng.trans (congrArg Cim.engines hcim), ?_⟩
  · exact (Device.inst_of_cast (congrArg CastS.insts hcast) i).trans (Device.inst_setInst_same _ _ _)
  · have hreqs : ∀ (e : Device) t, (e.setRounds t).serv.reqs = e.serv.reqs := fun _ _ => rfl
    exact (hreqs _ _).trans (congrArg ServS.reqs (hserv.trans hserv'))

/-! ### A layer's rewrite -/

section
variable {s : State} {inst : BitVec 10} {j : CastJob} {old : Maq} {l : LayerEnt} (ha : s.alive = true)
  (hj : (s.dev.inst inst.toNat).job = some j) (hm : (s.dev.inst inst.toNat).maq = some old)
  (hl : j.maq.layers[(s.dev.inst inst.toNat).front]? = some l)
include ha hj hl

section
variable (hs : j.swap = true) (hr : j.rewriting = false) (hst : j.staged.contains l.layer = true) (ht : s.dev.layerTested j.maq l = false)
include hm hs hr hst ht

/-- A layer that may start is judged by its regions and its digest. -/
theorem layerRewriteStart_eq : exec (.layerRewriteStart inst) s = s.goes (
    if (j.maq.regionsOf l).any j.regionWrong || (!j.maq.expected.isEmpty && decide (some (j.digest l) ≠ j.maq.expected[l.layer]?)) then
      s.dev.swapFail inst.toNat cMismatch
    else if (j.maq.regionsOf l).all (j.regionSet old) && s.dev.oldPast inst.toNat l.layer old then
      s.dev.setJob inst.toNat { j with rewriting := true }
    else s.dev) := by
  have hgo : ¬ (!j.swap || j.rewriting || !j.staged.contains l.layer || s.dev.layerTested j.maq l) = true := by
    rw [hs, hr, hst, ht]
    decide
  unfold exec execLayerRewriteStart
  refine lift_runs ha ?_
  dsimp only
  rw [hj, hm]
  dsimp only
  rw [hl]
  exact if_neg hgo

end

/-- A rewrite that is not under way, or whose engines are held, changes nothing. -/
theorem layerRewriteDone_held (hk : (j.maq.layerKeys l).all (fun k => s.dev.keyFree j.maq k) = false) :
    exec (.layerRewriteDone inst) s = s.goes s.dev := by
  have hgo : (!j.rewriting || !(j.maq.layerKeys l).all (fun k => s.dev.keyFree j.maq k)) = true := by
    rw [hk]
    exact Bool.or_true _
  unfold exec execLayerRewriteDone
  refine lift_runs ha ?_
  dsimp only
  rw [hj]
  dsimp only
  rw [hl]
  exact if_pos hgo

end

/-- The engines, the regions and the precision record of a layer that is rewritten. -/
def Device.rewriteLayer (d : Device) (i : Nat) (x : Inst) (j : CastJob) (l : LayerEnt) : Device :=
  let d := (j.maq.layerKeys l).foldl (fun d k => d.castEngine i j l k) d
  let d := ((j.maq.regionsOf l).filter j.regionWhole).foldl (fun d r => (d.putRegion i j r).clearBad ((x.regH[r]?).getD 0)) d
  ((d.returnReserve j.maq (oldLayer x l) (d.layerRec i l.layer).cap).dropLag i l.layer).resetLayer i l

/-- The front moves past a rewritten layer. -/
def Device.moveFront (d : Device) (i : Nat) (x : Inst) (j : CastJob) (l : LayerEnt) : Device :=
  let y := d.inst i
  let j := { j with rewriting := false }
  (d.setInst i { y with digests := Tbl.put y.digests l.layer (j.digest l), front := x.front + 1, job := some j }).bump (key 0x7070 3) 1

section
variable (d : Device) (i : Nat)

theorem InstKeep.putRegion (j : CastJob) (r : Nat) : InstKeep d (d.putRegion i j r) := by
  unfold Device.putRegion
  split
  · exact .refl d
  · exact .writeH _ _ _ _

theorem InstKeep.clearBad (h : Nat) : InstKeep d (d.clearBad h) := by
  unfold Device.clearBad
  split
  · exact .refl d
  · exact rfl

theorem InstKeep.returnReserve (m : Maq) (l : LayerEnt) (cap : Nat) : InstKeep d (d.returnReserve m l cap) := by
  unfold Device.returnReserve
  dsimp only
  split
  · exact .refl d
  · exact rfl

theorem InstKeep.rewriteLayer (x : Inst) (j : CastJob) (l : LayerEnt) : InstKeep d (d.rewriteLayer i x j l) := by
  unfold Device.rewriteLayer
  dsimp only
  have hcells := InstKeep.foldl (fun d k => .castEngine d i j l k) (j.maq.layerKeys l) d
  have hregions := InstKeep.foldl (fun d r => (InstKeep.putRegion d i j r).trans (.clearBad _ ((x.regH[r]?).getD 0)))
    ((j.maq.regionsOf l).filter j.regionWhole) ((j.maq.layerKeys l).foldl (fun d k => d.castEngine i j l k) d)
  have hreserve := InstKeep.returnReserve (((j.maq.regionsOf l).filter j.regionWhole).foldl
    (fun d r => (d.putRegion i j r).clearBad ((x.regH[r]?).getD 0)) ((j.maq.layerKeys l).foldl (fun d k => d.castEngine i j l k) d))
  exact ((hcells.trans hregions).trans (hreserve _ _ _)).trans rfl

end

/-- With a layer left to rewrite, nothing is settled. -/
theorem settleSwap_waits {d : Device} {i : Nat} {j : CastJob} (hj : (d.inst i).job = some j)
    (hf : (d.inst i).front < j.maq.layers.length) : d.settleSwap i = d := by
  have hgo : (!j.swap || j.rewriting || decide ((d.inst i).front < j.maq.layers.length)) = true := by
    rw [decide_eq_true hf]
    exact Bool.or_true _
  unfold Device.settleSwap
  dsimp only
  rw [hj]
  split
  next j' old hj' _ =>
    cases hj'
    exact if_pos hgo
  · rfl

theorem moveFront_inst (d : Device) (i : Nat) (x : Inst) (j : CastJob) (l : LayerEnt) : (d.moveFront i x j l).inst i =
    { d.inst i with digests := Tbl.put (d.inst i).digests l.layer (j.digest l), front := x.front + 1, job := some { j with rewriting := false } } := by
  unfold Device.moveFront
  dsimp only
  rw [Device.inst_bump, Device.inst_setInst_same]
  rfl

section
variable {s : State} {inst : BitVec 10} {j : CastJob} {l : LayerEnt}

theorem layerRewriteDone_eq (ha : s.alive = true) (hj : (s.dev.inst inst.toNat).job = some j)
    (hl : j.maq.layers[(s.dev.inst inst.toNat).front]? = some l) (hr : j.rewriting = true)
    (hk : (j.maq.layerKeys l).all (fun k => s.dev.keyFree j.maq k) = true) : exec (.layerRewriteDone inst) s =
      s.goes (((s.dev.rewriteLayer inst.toNat (s.dev.inst inst.toNat) j l).moveFront inst.toNat (s.dev.inst inst.toNat) j l).settleSwap inst.toNat) := by
  have hgo : ¬ (!j.rewriting || !(j.maq.layerKeys l).all (fun k => s.dev.keyFree j.maq k)) = true := by
    rw [hk, hr]
    decide
  unfold exec execLayerRewriteDone
  refine lift_runs ha ?_
  dsimp only
  rw [hj]
  dsimp only
  rw [hl]
  exact if_neg hgo

/-- The end of a layer's rewrite that is not the last moves the front. -/
theorem layerRewriteDone_moves (ha : s.alive = true) (hj : (s.dev.inst inst.toNat).job = some j)
    (hl : j.maq.layers[(s.dev.inst inst.toNat).front]? = some l) (hr : j.rewriting = true)
    (hk : (j.maq.layerKeys l).all (fun k => s.dev.keyFree j.maq k) = true)
    (hf : (s.dev.inst inst.toNat).front + 1 < j.maq.layers.length) : ∃ v, exec (.layerRewriteDone inst) s = s.goes v ∧
      v.inst inst.toNat = { s.dev.inst inst.toNat with
        digests := Tbl.put (s.dev.inst inst.toNat).digests l.layer (j.digest l), front := (s.dev.inst inst.toNat).front + 1,
        job := some { j with rewriting := false } } := by
  have hrun := layerRewriteDone_eq ha hj hl hr hk
  have hkeep := (InstKeep.rewriteLayer s.dev inst.toNat (s.dev.inst inst.toNat) j l).inst inst.toNat
  have hinst := moveFront_inst (s.dev.rewriteLayer inst.toNat (s.dev.inst inst.toNat) j l) inst.toNat (s.dev.inst inst.toNat) j l
  rw [hkeep] at hinst
  rw [settleSwap_waits (j := { j with rewriting := false }) (by rw [hinst]) (by rw [hinst]; exact hf)] at hrun
  exact ⟨_, hrun, hinst⟩

end

/-! ### Failure -/

theorem instCtl_setCtlI_same (d : Device) (i : Nat) (c : Ctl) : (d.setCtlI i c).instCtl i = c := Tbl.get_set_same _ _ _ _

section
variable {d : Device} {i code : Nat} {j : CastJob} (hj : (d.inst i).job = some j)
include hj

theorem swapFail_early (hf : (d.inst i).front = 0) (hr : j.rewriting = false) : (d.swapFail i code).inst i =
    { d.inst i with state := j.prior, status := code, job := none, front := (d.inst i).layers } := by
  unfold Device.swapFail
  dsimp only
  rw [hj]
  dsimp only
  rw [if_neg (by rw [hr, hf]; decide), Device.inst_setInst_same]

theorem swapFail_late (h : (d.inst i).front ≠ 0 ∨ j.rewriting = true) : (d.swapFail i code).instCtl i = ⟨false, true⟩ ∧
    (d.swapFail i code).inst i = { d.inst i with state := 4, status := 0x10, job := none, front := (d.inst i).layers } := by
  unfold Device.swapFail
  dsimp only
  rw [hj]
  dsimp only
  rw [if_pos (h.imp (fun h => Nat.pos_of_ne_zero h) id)]
  obtain ⟨-, hctl, hinsts, -⟩ := Device.fenceAll_ctl
    ((((d.releaseAllH j.staging).setRestart i false).setInst i
      { d.inst i with state := 4, status := cIncomplete, job := none, front := (d.inst i).layers }).setCtlI i ⟨false, true⟩)
    (fun r => decide (r.inst = i))
  refine ⟨?_, (Device.inst_of_cast hinsts i).trans (Device.inst_setInst_same _ _ _)⟩
  exact (congrArg (fun t => Tbl.get Ctl.reset t i) hctl).trans (instCtl_setCtlI_same _ i _)

end

/-- Settles O45. -/
theorem swaps : Obligations.Swaps := by
  unfold Obligations.Swaps
  intro r x s o inst
  refine ⟨?opens, fun d i h m policy hs g hg => startSwap_spec hg h m policy hs, ?layer, fun d i code j hj =>
    ⟨swapFail_early hj, swapFail_late hj⟩⟩
  case opens =>
    intro hw hlen hi hh hp e i h b d m reply
    have own : ∀ {c : Nat} {u : Device}, runSwapOpen x e r r.payload = refuseOwn u c → reply 0x0D [BitVec.ofNat 8 c] u :=
      fun h => writes_eq hw rfl (ownCodes_own ((sized_run hlen).trans h)) (by decide)
    refine ⟨fun hb => own (runSwapOpen_busy hi hh hp hb), fun hst hj => ⟨fun c hc => own (runSwapOpen_fault hi hh hp hst hj hc), ?_⟩⟩
    intro hn y hy
    exact writes_eq hw rfl (ownCodes_done ((sized_run hlen).trans (runSwapOpen_opens hi hh hp hst hj hn hy))) (by decide)
  case layer =>
    intro ha d i y j old hj hm hs l hl rs wrong
    refine ⟨fun hr hst ht => ⟨fun hwrong => ?_, fun hwrong hset hpast => ?_⟩, fun hr hk hf => layerRewriteDone_moves ha hj hl hr hk hf,
      fun _ hk => layerRewriteDone_held ha hj hl hk⟩
    · exact (layerRewriteStart_eq ha hj hm hl hs hr hst ht).trans (congrArg s.goes (if_pos hwrong))
    · exact (layerRewriteStart_eq ha hj hm hl hs hr hst ht).trans
        (congrArg s.goes ((if_neg (not_of_false hwrong)).trans (if_pos (both_true hset hpast))))

end Sys2Proof.Machine
end

section
/-!
SUPPORT. Attention cores (R192, R196, R202–R204): the start and the end of a descriptor, partials, and pages asked for.
-/
namespace Sys2Proof.Machine

/-! ### A failure told to the owner -/

/-- A failure fixed for a request, here or at its owner, leaves memory, pages, counters and registers. -/
theorem failAt_frame (d : Device) (owner : Coord) (slot code : Nat) : (d.failAt owner slot code).mem = d.mem ∧
    (d.failAt owner slot code).attn = d.attn ∧ (d.failAt owner slot code).ctrs = d.ctrs := by
  unfold Device.failAt
  split
  · unfold Device.fixFailure
    split <;> exact ⟨rfl, rfl, rfl⟩
  · exact ⟨rfl, rfl, rfl⟩

/-- A dropped descriptor is counted, and its core stays as it is. -/
theorem dropDesc_spec (d : Device) (x : Desc) (ws : List (Word × Bool)) :
    (d.dropDesc x ws).ctr (key 0x8022 6) = min (2 ^ 64 - 1) (d.ctr (key 0x8022 6) + 1) ∧ (d.dropDesc x ws).attn = d.attn := by
  unfold Device.dropDesc
  dsimp only
  split
  · obtain ⟨-, hattn, hctrs⟩ := failAt_frame (d.bump (key 0x8022 6) 1) x.owner x.slot 6
    exact ⟨(congrArg (fun t => Tbl.get 0 t (key 0x8022 6)) hctrs).trans (Device.ctr_bump_same _ _ _), hattn⟩
  · exact ⟨Device.ctr_bump_same _ _ _, rfl⟩

/-- A started descriptor keeps its words; one whose positions leave the request's pages moves no byte. -/
theorem startDesc_outside {d : Device} {x : Desc} {s : Stream} {c : KvClass} (k : Nat) (words : List Nat) (inst tenant : Nat)
    (h : x.outside s (d.tokensHeld c x.owner x.slot x.stream) = true) : d.startDesc k words x c s inst tenant =
      ({ words := words, need := [], parts := [], badQ := [], range := true, handle := false, failed := false },
        d.failAt x.owner x.slot stRange) := by
  unfold Device.startDesc
  exact if_pos h

/-- A fold whose steps keep the job's words keeps them. -/
theorem words_foldl {α : Type} {f : DescJob × Device → α → DescJob × Device} (h : ∀ a x, (f a x).1.words = a.1.words) (l : List α)
    (a : DescJob × Device) : (l.foldl f a).1.words = a.1.words := by
  induction l generalizing a with
  | nil => rfl
  | cons x l ih => exact (ih _).trans (h a x)

theorem attendPage_words (d : Device) (k : Nat) (at_ : Tbl Nat) (c : KvClass) (s : Stream) (x : Desc) (vecs : List (List Val))
    (excl : List Nat) (j : DescJob) (page : Nat) : (d.attendPage k at_ c s x vecs excl j page).1.words = j.words := by
  unfold Device.attendPage
  split
  · rfl
  dsimp only
  refine words_foldl (fun a h => ?_) _ _
  split <;> rfl

theorem startDesc_words (d : Device) (k : Nat) (words : List Nat) (x : Desc) (c : KvClass) (s : Stream) (inst tenant : Nat) :
    (d.startDesc k words x c s inst tenant).1.words = words := by
  unfold Device.startDesc
  dsimp only
  split
  · rfl
  · split
    · rfl
    · split
      · rfl
      · exact words_foldl (fun a p => attendPage_words _ _ _ _ _ _ _ _ _ _) _ _

/-! ### The oldest descriptor -/

/-- A core that is up and pauses for nothing takes descriptors. -/
theorem coreFree {d : Device} {k : Nat} (hup : d.attnUp k = true) (hp : (d.attnUnit k).pausing = []) (hpq : (d.attnUnit k).pauseQ = []) :
    ¬ (!d.attnUp k || !(d.attnUnit k).pausing.isEmpty || !(d.attnUnit k).pauseQ.isEmpty) = true := by
  rw [hup, hp, hpq]
  decide

section
variable {k : ClusterIx} {s : State} {ws : List (Word × Bool)} {rest : List (List (Word × Bool))} (ha : s.alive = true)
  (hc : (s.dev.attnUnit k.val).cur = none) (hq : (s.dev.attnUnit k.val).queue = ws :: rest) (hup : s.dev.attnUp k.val = true)
  (hp : (s.dev.attnUnit k.val).pausing = []) (hpq : (s.dev.attnUnit k.val).pauseQ = [])
include ha hc hq hup hp hpq

/-- A descriptor whose owner check fails, or that holds a poisoned word, is discarded. -/
theorem attentionDescriptor_drops (h : (∃ w ∈ ws, w.2 = true) ∨
    (s.dev.setAttn k.val { s.dev.attnUnit k.val with queue := rest }).descOwner (descOf (ws.map (fun w => w.1.toNat))) = none) :
    exec (.attentionDescriptor k) s = s.goes ((s.dev.setAttn k.val { s.dev.attnUnit k.val with queue := rest }).dropDesc
      (descOf (ws.map (fun w => w.1.toNat))) ws) := by
  have hnone : (if ws.any (·.2) then none else
      (s.dev.setAttn k.val { s.dev.attnUnit k.val with queue := rest }).descOwner (descOf (ws.map (fun w => w.1.toNat)))) = none := by
    rcases h with h | h
    · exact if_pos (List.any_eq_true.mpr h)
    · rw [h, ite_self]
  unfold exec execAttentionDescriptor
  refine lift_runs ha ?_
  refine (if_neg (coreFree hup hp hpq)).trans ?_
  split
  next hc' ws' rest' hq' =>
    cases hq.symm.trans hq'
    dsimp only
    rw [hnone]
  next hno => exact absurd hq (hno ws rest hc)

/-- A descriptor that passes its owner check starts. -/
theorem attentionDescriptor_starts (hw : ∀ w ∈ ws, w.2 = false) {o : Nat × Nat × Nat} {c : KvClass} {st : Stream}
    (ho : (s.dev.setAttn k.val { s.dev.attnUnit k.val with queue := rest }).descOwner (descOf (ws.map (fun w => w.1.toNat))) = some o)
    (hk : (s.dev.setAttn k.val { s.dev.attnUnit k.val with queue := rest }).kvClass? o.1 o.2.1 = some c)
    (hst : c.streams[(descOf (ws.map (fun w => w.1.toNat))).stream]? = some st) {r : DescJob × Device}
    (hr : (s.dev.setAttn k.val { s.dev.attnUnit k.val with queue := rest }).startDesc k.val (ws.map (fun w => w.1.toNat))
      (descOf (ws.map (fun w => w.1.toNat))) c st o.1 o.2.2 = r) :
    exec (.attentionDescriptor k) s = s.goes (r.2.setAttn k.val { r.2.attnUnit k.val with cur := some r.1 }) := by
  have hsome : (if ws.any (·.2) then none else
      (s.dev.setAttn k.val { s.dev.attnUnit k.val with queue := rest }).descOwner (descOf (ws.map (fun w => w.1.toNat)))) = some o :=
    (if_neg (fun h => by
      obtain ⟨w, hwm, hwt⟩ := List.any_eq_true.mp h
      exact not_of_false (hw w hwm) hwt)).trans ho
  unfold exec execAttentionDescriptor
  refine lift_runs ha ?_
  refine (if_neg (coreFree hup hp hpq)).trans ?_
  split
  next hc' ws' rest' hq' =>
    cases hq.symm.trans hq'
    dsimp only
    rw [hsome]
    dsimp only
    rw [hk]
    dsimp only
    rw [hst]
    dsimp only
    rw [hr]
  next hno => exact absurd hq (hno ws rest hc)

end

/-! ### The end of a descriptor -/

/-- A core's descriptor ends: it signals, and the core goes on. -/
def Device.endDesc (d : Device) (k : Nat) (x : Desc) (tenant : Nat) : Device :=
  ((d.setAttn k { d.attnUnit k with cur := none }).signalDesc x tenant).attnBetween k

section
variable {k : ClusterIx} {s : State} {j : DescJob} (ha : s.alive = true) (hj : (s.dev.attnUnit k.val).cur = some j)
include ha hj

theorem descriptorDone_unowned (ho : s.dev.descOwner (descOf j.words) = none) : exec (.attentionDescriptorDone k) s =
    s.goes ((s.dev.setAttn k.val { s.dev.attnUnit k.val with cur := none }).attnBetween k.val) := by
  unfold exec execAttentionDescriptorDone
  refine lift_runs ha ?_
  dsimp only
  rw [hj]
  dsimp only
  rw [ho]

section
variable {o : Nat × Nat × Nat} {st : Stream} (ho : s.dev.descOwner (descOf j.words) = some o)
  (hst : (s.dev.kvClass? o.1 o.2.1).bind (fun c => c.streams[(descOf j.words).stream]?) = some st)
include ho hst

theorem descriptorDone_plain (h : j.handle = true ∨ (descOf j.words).write = true) :
    exec (.attentionDescriptorDone k) s = s.goes (s.dev.endDesc k.val (descOf j.words) o.2.2) := by
  unfold exec execAttentionDescriptorDone
  refine lift_runs ha ?_
  dsimp only
  rw [hj]
  dsimp only
  rw [ho]
  dsimp only
  rw [hst]
  exact if_pos (Bool.or_eq_true_iff.mpr h)

section
variable (hh : j.handle = false) (hw : (descOf j.words).write = false)
include hh hw

theorem descriptorDone_range (hr : j.range = true) (hf : s.dev.areaFault k.val o.2.2 (descOf j.words).oH (descOf j.words).oOff
      (4 * (st.outBytes (descOf j.words).q / 4)) true = none) : exec (.attentionDescriptorDone k) s =
    s.goes ((s.dev.writeH (descOf j.words).oH (descOf j.words).oOff
      (List.replicate (st.outBytes (descOf j.words).q / 4) ⟨0#32, true⟩)).endDesc k.val (descOf j.words) o.2.2) := by
  unfold exec execAttentionDescriptorDone
  refine lift_runs ha ?_
  dsimp only
  rw [hj]
  dsimp only
  rw [ho]
  dsimp only
  rw [hst]
  dsimp only
  rw [if_neg (by rw [hh, hw]; decide), if_pos hr, hf]
  rfl

variable (hr : j.range = false)
include hr

theorem descriptorDone_poisoned (hf : j.failed = true) : exec (.attentionDescriptorDone k) s =
    s.goes ((s.dev.writePoisoned (descOf j.words) st).endDesc k.val (descOf j.words) o.2.2) := by
  unfold exec execAttentionDescriptorDone
  refine lift_runs ha ?_
  dsimp only
  rw [hj]
  dsimp only
  rw [ho]
  dsimp only
  rw [hst]
  dsimp only
  rw [if_neg (by rw [hh, hw]; decide), if_neg (not_of_false hr), if_pos hf]
  rfl

/-- A descriptor whose parts are whole writes its outputs. -/
theorem descriptorDone_outputs (hf : j.failed = false) {hs : Nat → List Partial}
    (hm : ∀ h < st.heads, j.merged (descOf j.words) st h = some (hs h)) : exec (.attentionDescriptorDone k) s =
    s.goes ((s.dev.writeOutputs (descOf j.words) st j.badQ ((List.range st.heads).map hs)).endDesc k.val (descOf j.words) o.2.2) := by
  have hall : (List.range st.heads).map (j.merged (descOf j.words) st) = (List.range st.heads).map (fun h => some (hs h)) :=
    List.map_congr_left (fun h hh => hm h (List.mem_range.mp hh))
  have hsome : ¬ ((List.range st.heads).map (fun h => some (hs h))).any (·.isNone) = true := by simp
  have hget : ((List.range st.heads).map (fun h => some (hs h))).map (fun h => h.getD []) = (List.range st.heads).map hs := by
    rw [List.map_map]
    rfl
  unfold exec execAttentionDescriptorDone
  refine lift_runs ha ?_
  dsimp only
  rw [hj]
  dsimp only
  rw [ho]
  dsimp only
  rw [hst]
  dsimp only
  rw [if_neg (by rw [hh, hw]; decide), if_neg (not_of_false hr), if_neg (not_of_false hf), hall, if_neg hsome, hget]
  rfl

end

end

/-! ### Partials -/

variable {m : PartialMsg}

theorem partialReceive_other (h : (descOf j.words).slot ≠ m.slot.toNat ∨ m.neutral = true) :
    exec (.pagePartialReceive k m) s = s.goes s.dev := by
  unfold exec execPagePartialReceive
  refine lift_runs ha ?_
  dsimp only
  rw [hj]
  exact if_pos h

section
variable (hs : (descOf j.words).slot = m.slot.toNat) (hn : m.neutral = false)
include hs hn

theorem partialReceive_joins (hl : m.lost = false) : exec (.pagePartialReceive k m) s = s.goes (s.dev.setAttn k.val
    { s.dev.attnUnit k.val with cur := some { j with parts := Tbl.put j.parts (partKey m.kvHead m.level m.index) m.parts } }) := by
  have hgo : ¬ ((descOf j.words).slot ≠ m.slot.toNat ∨ m.neutral = true) := fun h => h.elim (fun h => h hs) (not_of_false hn)
  unfold exec execPagePartialReceive
  refine lift_runs ha ?_
  dsimp only
  rw [hj]
  exact (if_neg hgo).trans (if_neg (not_of_false hl))

variable (hl : m.lost = true)
include hl

theorem partialReceive_lost (hold : (s.dev.setAttn k.val { s.dev.attnUnit k.val with cur := some { j with failed := true } }).holderOf
      (descOf j.words) m.index = none) : exec (.pagePartialReceive k m) s =
    s.goes ((s.dev.setAttn k.val { s.dev.attnUnit k.val with cur := some { j with failed := true } }).pageLost (descOf j.words).owner
      (descOf j.words).slot (descOf j.words).client) := by
  have hgo : ¬ ((descOf j.words).slot ≠ m.slot.toNat ∨ m.neutral = true) := fun h => h.elim (fun h => h hs) (not_of_false hn)
  unfold exec execPagePartialReceive
  refine lift_runs ha ?_
  dsimp only
  rw [hj]
  dsimp only
  rw [if_neg hgo, if_pos hl, hold]

theorem partialReceive_lostFar {h : Coord}
    (hold : (s.dev.setAttn k.val { s.dev.attnUnit k.val with cur := some { j with failed := true } }).holderOf
      (descOf j.words) m.index = some h) : exec (.pagePartialReceive k m) s =
    s.goes (((s.dev.setAttn k.val { s.dev.attnUnit k.val with cur := some { j with failed := true } }).pageLost (descOf j.words).owner
      (descOf j.words).slot (descOf j.words).client).loseFrames h) := by
  have hgo : ¬ ((descOf j.words).slot ≠ m.slot.toNat ∨ m.neutral = true) := fun h => h.elim (fun h => h hs) (not_of_false hn)
  unfold exec execPagePartialReceive
  refine lift_runs ha ?_
  dsimp only
  rw [hj]
  dsimp only
  rw [if_neg hgo, if_pos hl, hold]

end

end

/-- Settles O49. -/
theorem attentionCores : Obligations.AttentionCores := by
  unfold Obligations.AttentionCores
  intro k q m s ha d u
  refine ⟨?oldest, ?current, ?page, ?span⟩
  case oldest =>
    intro ws rest hc hq hup hp hpq e words x
    refine ⟨fun h => ?_, fun hw o c st ho hk hst => ?_⟩
    · obtain ⟨hctr, hattn⟩ := dropDesc_spec e x ws
      refine ⟨attentionDescriptor_drops ha hc hq hup hp hpq h, hctr, ?_⟩
      exact (congrArg (fun (a : AttnS) => Tbl.get Attn.reset a.units k.val) hattn).trans (attnUnit_setAttn_same _ _ _)
    · intro r
      refine ⟨attentionDescriptor_starts ha hc hq hup hp hpq hw ho hk hst rfl, startDesc_words _ _ _ _ _ _ _ _, fun hout => ?_⟩
      have hr : r = _ := startDesc_outside k.val words o.1 o.2.2 hout
      obtain ⟨hmem, hattn, -⟩ := failAt_frame e x.owner x.slot stRange
      have hpages : (e.failAt x.owner x.slot stRange).attn.pages = e.attn.pages := congrArg AttnS.pages hattn
      rw [hr]
      exact ⟨rfl, hmem, hpages⟩
  case current =>
    intro j hj x
    refine ⟨fun ho => descriptorDone_unowned ha hj ho, fun o st ho hst => ?ends, fun hs hn => ?joins, fun h => partialReceive_other ha hj h⟩
    case ends =>
      exact ⟨fun h => descriptorDone_plain ha hj ho hst h, fun hh hw hr hf => descriptorDone_range ha hj ho hst hh hw hr hf,
        fun hh hw hr hf => descriptorDone_poisoned ha hj ho hst hh hw hr hf,
        fun hh hw hr hf hs hm => descriptorDone_outputs ha hj ho hst hh hw hr hf hm⟩
    case joins =>
      exact ⟨fun hl => partialReceive_joins ha hj hs hn hl, fun hl =>
        ⟨fun hold => partialReceive_lost ha hj hs hn hl hold, fun h hold => partialReceive_lostFar ha hj hs hn hl hold⟩⟩
  case page =>
    intro p held r
    refine ⟨fun h => ?_, fun h => ?_⟩
    · unfold exec execPageRequest
      exact lift_runs ha (if_pos h)
    · unfold exec execPageRequest
      exact lift_runs ha (if_neg (not_of_false h))
  case span =>
    intro h
    have hgo : ¬ (d.attn.frames.any (fun (f : Nat × Frame) => decide (f.2.owner = q.owner ∧ f.2.slot = q.slot.toNat ∧
        f.2.stream = q.stream.val ∧ f.2.page ≤ q.page.toNat) && !f.2.releasing)) = true := by
      intro hany
      obtain ⟨f, hf, hboth⟩ := List.any_eq_true.mp hany
      obtain ⟨hmine, hfree⟩ := Bool.and_eq_true_iff.mp hboth
      obtain ⟨ho, hslot, hst, hpage⟩ := of_decide_eq_true hmine
      rw [h f hf ho hslot hst hpage] at hfree
      exact absurd hfree (by decide)
    unfold exec execSpanNeutralAnswer
    exact lift_runs ha (if_neg hgo)

end Sys2Proof.Machine
end

section
/-!
SUPPORT. KV frames (R183–R185): frames taken, pages that join their chains, frames asked of other devices, released and zeroed.
-/
namespace Sys2Proof.Machine

/-! ### Page entries -/

theorem Device.pageEnt_putPage_same (d : Device) (e : Nat) (p : PageEnt) : (d.putPage e p).pageEnt e = p := Tbl.get_set_same _ _ _ _

theorem Device.pageEnt_putPage_other (d : Device) {e n : Nat} (p : PageEnt) (h : n ≠ e) : (d.putPage e p).pageEnt n = d.pageEnt n :=
  Tbl.get_set_other _ _ _ h

/-- An entry but its Next field. -/
def PageEnt.lowBits (p : PageEnt) : Nat := p.e.toNat % 2 ^ 45

theorem PageEnt.link_e (p : PageEnt) (n : Nat) : (p.link n).e.toNat = (p.e.toNat % 2 ^ 45 + n * 2 ^ 45) % 2 ^ 64 := BitVec.toNat_ofNat ..

theorem PageEnt.link_owner (p : PageEnt) (n : Nat) : (p.link n).owner = p.owner := by
  cases p with
  | mk e owner => exact rfl

theorem low_of_link (a b : Nat) : (a % 2 ^ 45 + b * 2 ^ 45) % 2 ^ 64 % 2 ^ 45 = a % 2 ^ 45 := by omega

/-- A link changes the Next field alone. -/
theorem PageEnt.link_low (p : PageEnt) (n : Nat) : (p.link n).lowBits = p.lowBits := by
  unfold PageEnt.lowBits
  rw [PageEnt.link_e, low_of_link]

/-- The pages asked for, the messages and the memory stay, and entries change their Next fields alone. -/
structure ChainKeep (d v : Device) : Prop where
  asked : v.attn.asked = d.attn.asked
  out : v.out = d.out
  coord : v.fab.coord = d.fab.coord
  owner : ∀ n, (v.pageEnt n).owner = (d.pageEnt n).owner
  low : ∀ n, (v.pageEnt n).lowBits = (d.pageEnt n).lowBits

namespace ChainKeep

theorem refl (d : Device) : ChainKeep d d := ⟨rfl, rfl, rfl, fun _ => rfl, fun _ => rfl⟩

theorem trans {d e v : Device} (h : ChainKeep d e) (k : ChainKeep e v) : ChainKeep d v :=
  ⟨k.asked.trans h.asked, k.out.trans h.out, k.coord.trans h.coord, fun n => (k.owner n).trans (h.owner n),
    fun n => (k.low n).trans (h.low n)⟩

theorem putLink (d : Device) (e n : Nat) : ChainKeep d (d.putPage e ((d.pageEnt e).link n)) := by
  refine ⟨rfl, rfl, rfl, fun k => ?_, fun k => ?_⟩ <;> by_cases hk : k = e
  · subst hk
    exact (congrArg PageEnt.owner (d.pageEnt_putPage_same k ((d.pageEnt k).link n))).trans (PageEnt.link_owner _ n)
  · exact congrArg PageEnt.owner (d.pageEnt_putPage_other _ hk)
  · subst hk
    exact (congrArg PageEnt.lowBits (d.pageEnt_putPage_same k _)).trans (PageEnt.link_low _ n)
  · exact congrArg PageEnt.lowBits (d.pageEnt_putPage_other _ hk)

theorem setInline (d : Device) (slot stream e : Nat) : ChainKeep d (d.setInline slot stream e) :=
  ⟨rfl, rfl, rfl, fun _ => rfl, fun _ => rfl⟩

end ChainKeep

/-- The second half of a page's joining its chain: the page before it, or the inline field. -/
def Device.chainBack (d : Device) (f : PageFor) (e : Nat) : Device :=
  if f.page = 0 then (if f.owner = d.fab.coord then d.setInline f.slot f.stream e else d)
  else
    match d.entryOf f.owner f.slot f.stream (f.page - 1) with
    | none => d
    | some p => d.putPage p ((d.pageEnt p).link e)

theorem chainPage_last {d : Device} {f : PageFor} (e : Nat) (h : d.entryOf f.owner f.slot f.stream (f.page + 1) = none) :
    d.chainPage f e = d.chainBack f e := by
  unfold Device.chainPage
  rw [h]
  rfl

theorem chainPage_next {d : Device} {f : PageFor} (e : Nat) {n : Nat} (h : d.entryOf f.owner f.slot f.stream (f.page + 1) = some n) :
    d.chainPage f e = (d.putPage e ((d.pageEnt e).link n)).chainBack f e := by
  unfold Device.chainPage
  rw [h]
  rfl

namespace ChainKeep

theorem chainBack (d : Device) (f : PageFor) (e : Nat) : ChainKeep d (d.chainBack f e) := by
  unfold Device.chainBack
  split
  · split
    · exact .setInline _ _ _ _
    · exact .refl _
  · split
    · exact .refl _
    · exact .putLink _ _ _

/-- A page joins its chain. -/
theorem chainPage (d : Device) (f : PageFor) (e : Nat) : ChainKeep d (d.chainPage f e) := by
  cases hn : d.entryOf f.owner f.slot f.stream (f.page + 1) with
  | none => exact (chainPage_last e hn).symm ▸ .chainBack d f e
  | some n => exact (chainPage_next e hn).symm ▸ (ChainKeep.putLink d e n).trans (.chainBack _ f e)

end ChainKeep

/-! ### A frame taken -/

/-- What a taken frame leaves: its record, its entry's owner word, and the tenant's use, inside the tenant's limit. -/
theorem takeFrame_spec {d v : Device} {f : PageFor} {c : KvClass} {st : Stream} {order : List Nat} {slice : Option Nat} {e : Nat}
    (h : d.takeFrame f c st order slice = some (e, v)) : ∃ at_ fr, d.fitFrame (st.frameBytes (c.pageTokens f.page) / 64) order = some at_ ∧
      d.freePage (slice.getD at_.1) = some e ∧ Tbl.find? v.attn.frames (frameKey at_.1 at_.2.1 at_.2.2) = some fr ∧
      fr.owner = f.owner ∧ fr.slot = f.slot ∧ fr.client = f.client ∧ fr.stream = f.stream ∧ fr.page = f.page ∧ fr.entry = e ∧
      fr.releasing = false ∧ (v.pageEnt e).owner = ownerWord f.slot f.stream f.page (decide (f.owner ≠ d.fab.coord)) ∧
      v.kvUsed f.tenant = d.kvUsed f.tenant + st.frameBytes (c.pageTokens f.page) / 64 / 64 ∧
      v.kvUsed f.tenant ≤ (d.limits f.tenant).kv ∧ v.mem = d.mem := by
  unfold Device.takeFrame at h
  dsimp only at h
  split at h
  · cases h
  next hroom =>
  split at h
  · cases h
  next at_ hat =>
  split at h
  · cases h
  next n hn =>
  obtain ⟨rfl, rfl⟩ := Prod.mk.inj (Option.some.inj h)
  refine ⟨at_, _, hat, hn, Tbl.find?_put_same _ _ _, rfl, rfl, rfl, rfl, rfl, rfl, rfl, ?_, ?_, ?_, rfl⟩
  · exact congrArg PageEnt.owner (Device.pageEnt_putPage_same _ _ _)
  · exact Tbl.get_set_same _ _ _ _
  · exact Nat.le_trans (Nat.le_of_eq (Tbl.get_set_same _ _ _ _)) (Nat.not_lt.mp hroom)

/-! ### A frame asked for by another device -/

section
variable {q : FrameReq} {s : State} (ha : s.alive = true)
include ha

theorem frameRequest_refused (h : q.authenticated = false ∨ s.dev.reg (key 0x8020 4) = 0) :
    exec (.remoteFrameRequest q) s = s.goes (s.dev.answerFrame q q.owner none) := by
  have hgo : (!q.authenticated) = true ∨ s.dev.reg (key 0x8020 4) = 0 := h.imp (fun h => by rw [h]; rfl) id
  unfold exec execRemoteFrameRequest
  exact lift_runs ha (if_pos hgo)

variable (hq : q.authenticated = true) (hreg : s.dev.reg (key 0x8020 4) ≠ 0) {c : KvClass} {st : Stream}
  (hc : s.dev.kvClass? (pageForOf q).inst (pageForOf q).kv = some c) (hst : c.streams[(pageForOf q).stream]? = some st)
include hq hreg hc hst

/-- A span device answers the stream's home with a frame of its own. -/
theorem frameRequest_span (hh : st.home ≠ s.dev.fab.coord) {x : Nat × Device}
    (hl : s.dev.lends (pageForOf q).owner (st.frameBytes (c.pageTokens (pageForOf q).page) / 4096) = true)
    (hx : s.dev.takeFrame (pageForOf q) c st (List.range 16) none = some x) :
    exec (.remoteFrameRequest q) s = s.goes (x.2.answerFrame q st.home (some x.1)) := by
  have hgo : ¬ ((!q.authenticated) = true ∨ s.dev.reg (key 0x8020 4) = 0) := by
    rw [hq]
    exact fun h => h.elim (by decide) hreg
  unfold exec execRemoteFrameRequest
  refine lift_runs ha ?_
  dsimp only
  rw [if_neg hgo, hc]
  dsimp only
  rw [hst]
  dsimp only
  rw [if_neg hh, if_pos hl, hx]

theorem frameRequest_spanNone (hh : st.home ≠ s.dev.fab.coord)
    (h : s.dev.lends (pageForOf q).owner (st.frameBytes (c.pageTokens (pageForOf q).page) / 4096) = false ∨
      s.dev.takeFrame (pageForOf q) c st (List.range 16) none = none) :
    exec (.remoteFrameRequest q) s = s.goes (s.dev.answerFrame q st.home none) := by
  have hgo : ¬ ((!q.authenticated) = true ∨ s.dev.reg (key 0x8020 4) = 0) := by
    rw [hq]
    exact fun h => h.elim (by decide) hreg
  have hnone : (if s.dev.lends (pageForOf q).owner (st.frameBytes (c.pageTokens (pageForOf q).page) / 4096)
      then s.dev.takeFrame (pageForOf q) c st (List.range 16) none else none) = none := by
    rcases h with h | h
    · exact if_neg (not_of_false h)
    · rw [h, ite_self]
  unfold exec execRemoteFrameRequest
  refine lift_runs ha ?_
  dsimp only
  rw [if_neg hgo, hc]
  dsimp only
  rw [hst]
  dsimp only
  rw [if_neg hh, hnone]

variable (hh : st.home = s.dev.fab.coord)
include hh

theorem frameRequest_home {devs : List Coord} {x : Nat × Device} (ho : c.askOrder st (pageForOf q).page = s.dev.fab.coord :: devs)
    (hl : s.dev.lends (pageForOf q).owner (st.frameBytes (c.pageTokens (pageForOf q).page) / 4096) = true)
    (hx : s.dev.takeFrame (pageForOf q) c st (homeFirst st.homeCluster) (some st.homeCluster) = some x) :
    exec (.remoteFrameRequest q) s = s.goes ((x.2.chainPage (pageForOf q) x.1).answerFrame q q.owner (some x.1)) := by
  have hgo : ¬ ((!q.authenticated) = true ∨ s.dev.reg (key 0x8020 4) = 0) := by
    rw [hq]
    exact fun h => h.elim (by decide) hreg
  have hseek : s.dev.seekPage q c st (s.dev.askOrder c st (pageForOf q).page) = (.got x.1, x.2.chainPage (pageForOf q) x.1) := by
    unfold Device.askOrder
    rw [if_pos hh, ho]
    unfold Device.seekPage
    dsimp only
    rw [if_pos rfl, if_pos hl, hx]
  unfold exec execRemoteFrameRequest
  refine lift_runs ha ?_
  dsimp only
  rw [if_neg hgo, hc]
  dsimp only
  rw [hst]
  dsimp only
  rw [if_pos hh, hseek]

theorem frameRequest_asks {dev : Coord} {devs : List Coord} (ho : c.askOrder st (pageForOf q).page = dev :: devs)
    (hne : dev ≠ s.dev.fab.coord) : exec (.remoteFrameRequest q) s =
      s.goes ((s.dev.setAttnS { s.dev.attn with asked := s.dev.attn.asked ++ [⟨q, dev, .waiting⟩] }).send (.frameReq dev q)) := by
  have hgo : ¬ ((!q.authenticated) = true ∨ s.dev.reg (key 0x8020 4) = 0) := by
    rw [hq]
    exact fun h => h.elim (by decide) hreg
  have hseek : s.dev.seekPage q c st (s.dev.askOrder c st (pageForOf q).page) = (.waiting,
      (s.dev.setAttnS { s.dev.attn with asked := s.dev.attn.asked ++ [⟨q, dev, .waiting⟩] }).send (.frameReq dev q)) := by
    unfold Device.askOrder
    rw [if_pos hh, ho]
    unfold Device.seekPage
    dsimp only
    rw [if_neg hne]
  unfold exec execRemoteFrameRequest
  refine lift_runs ha ?_
  dsimp only
  rw [if_neg hgo, hc]
  dsimp only
  rw [hst]
  dsimp only
  rw [if_pos hh, hseek]

end

theorem lends_iff (d : Device) (owner : Coord) (n : Nat) :
    d.lends owner n = true ↔ (owner = d.fab.coord ∨ d.lentUnits + n ≤ d.reg (key 0x8020 5)) := decide_eq_true_iff

/-! ### An answer to a page asked for -/

/-- The page asked for is answered: the others stay asked for. -/
def Device.unask (d : Device) (a : FarPage) : Device :=
  d.setAttnS { d.attn with asked := List.filter (fun (x : FarPage) => decide (x ≠ a)) d.attn.asked }

/-- The page an answer is for is of the stream and the number it names. -/
theorem askedFor_page {d : Device} {sl stream p : Nat} {a : FarPage} (h : d.askedFor sl stream p = some a) :
    a.q.stream.val = stream ∧ a.q.page.toNat = p := by
  unfold Device.askedFor at h
  dsimp only at h
  have hmem := List.mem_of_mem_head? h
  have hw : a ∈ d.attn.asked.filter (fun a => decide (a.st = .waiting ∧ a.q.slot.toNat = sl ∧ a.q.stream.val = stream ∧ a.q.page.toNat = p)) := by
    rcases List.mem_append.mp hmem with h | h
    · exact (List.mem_filter.mp h).1
    · exact h
  obtain ⟨-, -, hs, hp⟩ := of_decide_eq_true (List.mem_filter.mp hw).2
  exact ⟨hs, hp⟩

/-- What a page placed here leaves: it is noted with its entry, which has its owner word and names the far frame. -/
theorem placed_spec (d : Device) (a : FarPage) (e : Nat) (p : PageEnt) :
    let v := (((d.putPage e p).noteAsked a (.placed e)).chainPage (pageForOf a.q) e).hasFrame a.q e
    v.attn.asked = d.attn.asked ++ [{ a with st := .placed e }] ∧ (v.pageEnt e).owner = p.owner ∧
      (v.pageEnt e).lowBits = p.lowBits ∧
      (a.q.owner ≠ d.fab.coord → v.out = d.out ++ [.frameAnswer a.q.owner a.q.slot.toNat a.q.stream.val a.q.page.toNat (some e)]) := by
  have hentry : ((d.putPage e p).noteAsked a (.placed e)).pageEnt e = p := d.pageEnt_putPage_same e p
  obtain ⟨hasked, hout, hcoord, howner, hlow⟩ := ChainKeep.chainPage ((d.putPage e p).noteAsked a (.placed e)) (pageForOf a.q) e
  have howner := howner e
  have hlow := hlow e
  have hcoord' : (((d.putPage e p).noteAsked a (.placed e)).chainPage (pageForOf a.q) e).fab.coord = d.fab.coord := hcoord
  have hout' : (((d.putPage e p).noteAsked a (.placed e)).chainPage (pageForOf a.q) e).out = d.out := hout
  rw [hentry] at howner hlow
  dsimp only
  unfold Device.hasFrame
  rw [hcoord']
  split
  next h => exact ⟨hasked, howner, hlow, fun hne => absurd h hne⟩
  next h => exact ⟨hasked, howner, hlow, fun _ => congrArg (· ++ [_]) hout'⟩

section
variable {d : Device} {sl : Nat} {stream : Fin 8} {p : Nat} {a : FarPage} {c : KvClass} {st : Stream}
  (hask : d.askedFor sl stream.val p = some a) (hc : d.kvClass? a.q.inst.toNat a.q.kvClass.toNat = some c)
  (hst : c.streams[stream.val]? = some st)
include hask hc hst

/-- A page whose chain another device keeps. -/
theorem frameAnswered_away (hh : st.home ≠ d.fab.coord) (far : BitVec 19) : d.frameAnswered sl stream p (some far) =
    if p = 0 then ((d.unask a).noteAsked a .away).setInline sl stream.val far.toNat else (d.unask a).noteAsked a .away := by
  have hc' : (d.unask a).kvClass? a.q.inst.toNat a.q.kvClass.toNat = some c := hc
  have hh' : st.home ≠ (d.unask a).fab.coord := hh
  unfold Device.frameAnswered
  rw [hask]
  dsimp only
  unfold Device.unask at hc' hh'
  rw [hc']
  dsimp only
  rw [hst]
  dsimp only
  rw [if_pos hh']
  rfl

/-- A page whose chain stands here takes an entry of its own. -/
theorem frameAnswered_placed (hh : st.home = d.fab.coord) {e : Nat} (he : d.freePage st.homeCluster = some e) (far : BitVec 19) :
    d.frameAnswered sl stream p (some far) = ((((d.unask a).putPage e ⟨remoteEntry (min (c.s0 + p) c.cap - 4) st.format a.dev far.toNat e,
      ownerWord sl stream.val p (decide (a.q.owner ≠ d.fab.coord))⟩).noteAsked a (.placed e)).chainPage (pageForOf a.q) e).hasFrame a.q e := by
  have hc' : (d.unask a).kvClass? a.q.inst.toNat a.q.kvClass.toNat = some c := hc
  have hh' : ¬ st.home ≠ (d.unask a).fab.coord := Classical.not_not.mpr hh
  have he' : (d.unask a).freePage st.homeCluster = some e := he
  unfold Device.frameAnswered
  rw [hask]
  dsimp only
  unfold Device.unask at hc' hh' he'
  rw [hc']
  dsimp only
  rw [hst]
  dsimp only
  rw [if_neg hh', he']
  rfl

/-- A refusal of the last device of the order. -/
theorem frameAnswered_refused (hlast : ((d.askOrder c st p).dropWhile (fun x => decide (x ≠ a.dev))).drop 1 = []) :
    d.frameAnswered sl stream p none = (d.unask a).noFrame a.q := by
  have hc' : (d.unask a).kvClass? a.q.inst.toNat a.q.kvClass.toNat = some c := hc
  have hlast' : (((d.unask a).askOrder c st p).dropWhile (fun x => decide (x ≠ a.dev))).drop 1 = [] := hlast
  unfold Device.frameAnswered
  rw [hask]
  dsimp only
  unfold Device.unask at hc' hlast'
  rw [hc']
  dsimp only
  rw [hst]
  dsimp only
  rw [hlast']
  rfl

end

/-- The inline field names the entry of page 0. -/
theorem setInline_pages (d : Device) (slot e : Nat) (stream : Fin 8) :
    ((d.setInline slot stream.val e).req slot).pages[stream.val]? = some e := by
  have hreq : (d.setInline slot stream.val e).req slot = { d.req slot with pages :=
      ((d.req slot).pages ++ List.replicate (8 - (d.req slot).pages.length) 0).set stream.val e } := Device.req_setReq_same _ _ _
  rw [hreq]
  dsimp only
  rw [List.getElem?_set_self]
  rw [List.length_append, List.length_replicate]
  omega

/-! ### Release -/

/-- Messages of a list, in order. -/
theorem foldl_send {α : Type} (f : α → OutMsg) (l : List α) (d : Device) :
    l.foldl (fun d a => d.send (f a)) d = { d with out := d.out ++ l.map f } := by
  induction l generalizing d with
  | nil =>
    rw [List.map_nil, List.append_nil]
    rfl
  | cons a l ih =>
    rw [List.foldl_cons, ih, List.map_cons, ← List.singleton_append, ← List.append_assoc]
    rfl

/-- The frames, pages, buffers and pages asked for that a release leaves. -/
def Device.releasedAttn (d : Device) (owner : Coord) (slot : Nat) : AttnS :=
  let mine := fun (f : Frame) => decide (f.owner = owner ∧ f.slot = slot)
  let theirs := d.attn.asked.filter (fun a => a.isOf owner slot)
  let gone := (List.filter (fun (f : Nat × Frame) => mine f.2 && !f.2.releasing) d.attn.frames).map (fun f => f.2.entry) ++
    theirs.filterMap (fun a => match a.st with | .placed e => some e | _ => none)
  let own := fun (p : PageEnt) => decide (owner = d.fab.coord) && decide (p.slot = slot) && !p.isFar
  let dead := (List.filter (fun (p : Nat × PageEnt) => own p.2) d.attn.pages).map (·.1)
  { d.attn with
    frames := d.attn.frames.map (fun f => if mine f.2 then (f.1, { f.2 with releasing := true }) else f)
    pages := List.filter (fun (p : Nat × PageEnt) => !gone.contains p.1 && !own p.2) d.attn.pages
    units := d.attn.units.map (fun u => (u.1, { u.2 with look := u.2.look.filter (fun l => !decide (l.1 = owner ∧ l.2.1 = slot)) }))
    asked := d.attn.asked.filter (fun a => !a.isOf owner slot)
    lost := d.attn.lost.filter (fun x => !decide (x.1 = owner ∧ x.2.1 = slot))
    deadPages := d.attn.deadPages.filter (fun e => (!gone.contains e && !dead.contains e) || decide (d.pageEnt e = noPage))
    written := dropKeys d.attn.written (fun k => decide (k / 8 = owner.toNat * 2 ^ 16 + slot)) }

/-- The messages to the devices that were asked for a frame of a request. -/
def Device.releaseMsgs (d : Device) (owner : Coord) (slot : Nat) : List OutMsg :=
  (((d.attn.asked.filter (fun a => a.isOf owner slot)).map (·.dev)).eraseDups).map (fun dev => .frameRelease dev owner slot)

theorem dropFrames_eq (d : Device) (owner : Coord) (slot : Nat) : d.dropFrames owner slot =
    { d.setAttnS (d.releasedAttn owner slot) with out := d.out ++ d.releaseMsgs owner slot } := by
  unfold Device.dropFrames
  dsimp only
  rw [foldl_send]
  rfl

/-- What a table holds of a mapped list. -/
theorem Tbl.get_mem {α : Type} (z : α) (m : Tbl α) (k : Nat) : Tbl.get z m k = z ∨ ∃ e ∈ m, Tbl.get z m k = e.2 := by
  rw [Tbl.get_eq]
  cases h : Tbl.find? m k with
  | none => exact .inl rfl
  | some x => exact .inr ⟨(k, x), Tbl.find?_mem _ _ _ h, rfl⟩

theorem FarPage.isOf_iff (a : FarPage) (owner : Coord) (slot : Nat) : a.isOf owner slot = true ↔ a.q.owner = owner ∧ a.q.slot.toNat = slot :=
  decide_eq_true_iff

section
variable (d : Device) (owner : Coord) (slot : Nat)

theorem releasedAttn_frames : (∀ f ∈ (d.releasedAttn owner slot).frames, f.2.owner = owner → f.2.slot = slot → f.2.releasing = true) ∧
    (d.releasedAttn owner slot).frames.length = d.attn.frames.length := by
  unfold Device.releasedAttn
  dsimp only
  refine ⟨fun f hf ho hs => ?_, List.length_map ..⟩
  obtain ⟨g, -, rfl⟩ := List.mem_map.mp hf
  split
  · rfl
  next hno =>
    rw [if_neg hno] at ho hs
    exact absurd (decide_eq_true ⟨ho, hs⟩) hno

theorem releasedAttn_pages (ho : owner = d.fab.coord) : ∀ p ∈ (d.releasedAttn owner slot).pages, p.2.slot = slot → p.2.isFar = true := by
  unfold Device.releasedAttn
  dsimp only
  intro p hp hs
  have hown := (Bool.and_eq_true_iff.mp (List.mem_filter.mp hp).2).2
  rw [decide_eq_true ho, decide_eq_true hs] at hown
  cases hf : p.2.isFar with
  | true => rfl
  | false =>
    rw [hf] at hown
    exact absurd hown (by decide)

theorem releasedAttn_look (i : Nat) : ∀ y ∈ (Tbl.get Attn.reset (d.releasedAttn owner slot).units i).look, ¬ (y.1 = owner ∧ y.2.1 = slot) := by
  rcases Tbl.get_mem Attn.reset (d.releasedAttn owner slot).units i with h | ⟨e, he, h⟩
  · rw [h]
    exact fun y hy => absurd hy List.not_mem_nil
  · rw [h]
    obtain ⟨u, -, rfl⟩ := List.mem_map.mp he
    intro y hy hyo
    have hkeep := (List.mem_filter.mp hy).2
    rw [decide_eq_true hyo] at hkeep
    exact absurd hkeep (by decide)

/-- Every device asked for a frame is told, and the page is no longer asked for. -/
theorem releaseMsgs_asked {a : FarPage} (ha : a ∈ d.attn.asked) (hmine : a.isOf owner slot = true) :
    OutMsg.frameRelease a.dev owner slot ∈ d.releaseMsgs owner slot ∧ a ∉ (d.releasedAttn owner slot).asked := by
  refine ⟨List.mem_map.mpr ⟨a.dev, ?_, rfl⟩, fun hno => ?_⟩
  · exact List.mem_eraseDups.mpr (List.mem_map.mpr ⟨a, List.mem_filter.mpr ⟨ha, hmine⟩, rfl⟩)
  · have hkeep := (List.mem_filter.mp hno).2
    rw [hmine] at hkeep
    exact absurd hkeep (by decide)

end

theorem frameRelease_eq {owner : Coord} {slot : BitVec 16} {s : State} (ha : s.alive = true) (hd : s.dev.descLive owner slot.toNat = false)
    (hl : owner = s.dev.fab.coord → (s.dev.req slot.toNat).live = false) :
    exec (.frameRelease owner slot) s = s.goes (s.dev.dropFrames owner slot.toNat) := by
  have hgo : ¬ (s.dev.descLive owner slot.toNat || (decide (owner = s.dev.fab.coord) && (s.dev.req slot.toNat).live)) = true := by
    rw [hd, Bool.false_or, Bool.and_eq_true_iff]
    rintro ⟨ho, hlive⟩
    exact not_of_false (hl (of_decide_eq_true ho)) hlive
  unfold exec execFrameRelease
  exact lift_runs ha (if_neg hgo)

/-! ### Zeroing -/

/-- A released frame's rows hold zeros and the frame returns to its pool. -/
def Device.frameZeroed (d : Device) (k tile row : Nat) (f : Frame) : Device :=
  let d := d.zeroExtent k (13 + tile) (rowAddr k (13 + tile) row) (64 * f.rows)
  let d := d.setAttnS { d.attn with frames := Tbl.del d.attn.frames (frameKey k tile row) }
  (d.subKv f.tenant (f.rows / 64)).bump (key 0x8022 8) 1

theorem zeroExtent_frame (d : Device) (k u a n : Nat) : (d.zeroExtent k u a n).mem.m = d.mem.m.zeroRange a n ∧
    (d.zeroExtent k u a n).attn = d.attn :=
  ⟨congrArg (fun m => m.zeroRange a n) (Calm.closeRows d a n).m, (Calm.closeRows d a n).attn⟩

theorem frameZeroed_spec (d : Device) (k tile row : Nat) (f : Frame) :
    let v := d.frameZeroed k tile row f
    let a := rowAddr k (13 + tile) row
    Tbl.find? v.attn.frames (frameKey k tile row) = none ∧ v.kvUsed f.tenant = d.kvUsed f.tenant - f.rows / 64 ∧
      v.ctr (key 0x8022 8) = min (2 ^ 64 - 1) ((d.zeroExtent k (13 + tile) a (64 * f.rows)).ctr (key 0x8022 8) + 1) ∧
      v.mem.m = d.mem.m.zeroRange a (64 * f.rows) := by
  intro v a
  obtain ⟨hm, hattn⟩ := zeroExtent_frame d k (13 + tile) a (64 * f.rows)
  refine ⟨Tbl.find?_del_same _ _, ?_, Device.ctr_bump_same _ _ _, hm⟩
  have hused : v.kvUsed f.tenant = (d.zeroExtent k (13 + tile) a (64 * f.rows)).kvUsed f.tenant - f.rows / 64 := Tbl.get_set_same _ _ _ _
  exact hused.trans (congrArg (fun (x : AttnS) => Tbl.get 0 x.kvUse f.tenant - f.rows / 64) hattn)

section
variable {k : ClusterIx} {tile : Fin 3} {row : Nat} {s : State} {f : Frame} (ha : s.alive = true)
  (hf : Tbl.find? s.dev.attn.frames (frameKey k.val tile.val row) = some f)
include ha hf

theorem frameZeroDone_held (hr : f.releasing = false) : exec (.frameZeroDone k tile row) s = s.goes s.dev := by
  unfold exec execFrameZeroDone
  refine lift_runs ha ?_
  dsimp only
  rw [hf]
  exact if_neg (not_of_false hr)

theorem frameZeroDone_eq (hr : f.releasing = true) :
    exec (.frameZeroDone k tile row) s = s.goes (s.dev.frameZeroed k.val tile.val row f) := by
  unfold exec execFrameZeroDone
  refine lift_runs ha ?_
  dsimp only
  rw [hf]
  exact if_pos hr

end

/-- Settles O50. -/
theorem kvFrames : Obligations.KvFrames := by
  unfold Obligations.KvFrames
  intro q slot stream page far owner k tile row s ha d
  refine ⟨?request, fun f c st order slice e v h => takeFrame_spec h, fun x => ?answer, fun a c st hask hc hst => ?answered, fun h => ?release,
    fun f hf => ⟨frameZeroDone_held ha hf, fun hr => ?zeroed⟩⟩
  case request =>
    intro f no
    refine ⟨frameRequest_refused ha, fun hq hreg c st hc hst => ?_⟩
    intro n fits
    refine ⟨fun hh => ⟨fun x hfit hx => ?_, fun h => ?_⟩, fun hh =>
      ⟨fun devs x ho hfit hx => ?_, fun dev devs ho hne => ?_⟩⟩
    · exact frameRequest_span ha hq hreg hc hst hh ((lends_iff _ _ _).mpr hfit) hx
    · exact frameRequest_spanNone ha hq hreg hc hst hh (h.imp (fun h => by rw [← Bool.not_eq_true, lends_iff]; exact h) id)
    · exact frameRequest_home ha hq hreg hc hst hh ho ((lends_iff _ _ _).mpr hfit) hx
    · exact frameRequest_asks ha hq hreg hc hst hh ho hne
  case answer =>
    unfold exec execRemoteFrameAnswer
    exact lift_runs ha rfl
  case answered =>
    intro rest
    obtain ⟨hstream, hpage⟩ := askedFor_page hask
    refine ⟨fun hh => ?_, fun e hh he => ?_, fun hlast howner => ?_⟩
    · intro v
      have hv : v = _ := frameAnswered_away hask hc hst hh far
      rw [hv]
      refine ⟨?_, fun hp => ?_⟩
      · split <;> rfl
      · rw [if_pos (by rw [hp]; rfl)]
        exact setInline_pages _ _ _ _
    · intro v
      have hv : v = _ := frameAnswered_placed hask hc hst hh he far
      obtain ⟨hasked, hown, hlow, hout⟩ := placed_spec (d.unask a) a e ⟨remoteEntry (min (c.s0 + page.toNat) c.cap - 4) st.format a.dev
        far.toNat e, ownerWord slot.toNat stream.val page.toNat (decide (a.q.owner ≠ d.fab.coord))⟩
      rw [hv]
      refine ⟨hasked, hown, hlow, fun hne => (hout hne).trans ?_⟩
      rw [hstream, hpage]
      rfl
    · exact (frameAnswered_refused hask hc hst hlast).trans (if_neg howner)
  case release =>
    obtain ⟨hd, hl⟩ := h
    obtain ⟨hframes, hlen⟩ := releasedAttn_frames d owner slot.toNat
    refine ⟨_, d.releaseMsgs owner slot.toNat, (frameRelease_eq ha hd hl).trans (congrArg s.goes (dropFrames_eq d owner slot.toNat)), hframes, hlen,
      releasedAttn_pages d owner slot.toNat, releasedAttn_look d owner slot.toNat, rfl, rfl, fun a hmem ho hs => ?_⟩
    exact releaseMsgs_asked d owner slot.toNat hmem ((a.isOf_iff _ _).mpr ⟨ho, congrArg BitVec.toNat hs⟩)
  case zeroed =>
    obtain ⟨hgone, hused, hctr, hm⟩ := frameZeroed_spec d k.val tile.val row f
    refine ⟨_, frameZeroDone_eq ha hf hr, hgone, hused, hctr, ?_, ?_⟩
    · intro b hlo hhi
      rw [hm]
      have hword := rowAddr_word k.val (13 + tile.val) row
      exact ⟨Mem.zeroRange_inside _ ⟨hlo, hhi⟩, Mem.zeroRange_poison _ (by omega)⟩
    · intro b hb
      rw [hm]
      exact Mem.zeroRange_outside _ hb

end Sys2Proof.Machine
end

section
/-!
SUPPORT. Flits at a port (R280–R285, R289, R290): what each kind of flit leaves, and what a port sends for it.
-/
namespace Sys2Proof.Machine

/-! ### What a port sends of itself -/

theorem port_of_fab {d e : Device} (h : e.fab.ports = d.fab.ports) (q : Nat) : e.port q = d.port q := by
  unfold Device.port
  rw [h]

theorem port_modPort_same (d : Device) (p : Nat) (f : Port → Port) : (d.modPort p f).port p = f (d.port p) := Device.port_setPort_same _ _ _

/-- Sending on at one port: every other port stays, and what goes out joins the retry buffer. -/
theorem pump_spec (p n : Nat) : ∀ d : Device, (∀ q, q ≠ p → (d.pump p n).port q = d.port q) ∧
    ∃ m : List Flit, (d.pump p n).out = d.out ++ m.map (fun g => .flit p g) ∧ ((d.pump p n).port p).retry = (d.port p).retry ++ m := by
  induction n with
  | zero => exact fun d => ⟨fun _ _ => rfl, [], by simp [Device.pump]⟩
  | succ n ih =>
    intro d
    have hstay : (∀ q, q ≠ p → d.port q = d.port q) ∧ ∃ m : List Flit, d.out = d.out ++ m.map (fun g => .flit p g) ∧
        (d.port p).retry = (d.port p).retry ++ m := ⟨fun _ _ => rfl, [], by simp⟩
    unfold Device.pump
    dsimp only
    split
    · exact hstay
    split
    · exact hstay
    split
    · exact hstay
    next f x' _ =>
      generalize hg : sealFlit _ _ _ = g
      generalize hx : ({ x' with txSeq := _, retry := _, credits := _, share := _ } : Port) = x''
      obtain ⟨hother, m, hout, hretry⟩ := ih (((d.setPort p x'').send (.flit p g)).bump (key 0x4030 1) 1)
      have hport : (((d.setPort p x'').send (.flit p g)).bump (key 0x4030 1) 1).port p = x'' := d.port_setPort_same p x''
      refine ⟨fun q hq => (hother q hq).trans (d.port_setPort_other x'' hq), g :: m, ?_, ?_⟩
      · rw [hout, List.map_cons, ← List.singleton_append, ← List.append_assoc]
        rfl
      · rw [hretry, hport, ← hx]
        exact List.append_assoc _ [g] m

theorem pumpAll_none {d : Device} {p : Nat} (h : (d.port p).waiting = 0) : d.pumpAll p = d := by
  unfold Device.pumpAll
  rw [h]
  rfl

/-! ### A flit that is taken -/

/-- The device once an intact flit's link word is taken and what it lets go is sent. -/
def Device.linked (d : Device) (p : Nat) (f : Flit) : Device := (d.modPort p (fun x => x.linkWord f d.clk.up)).pumpAll p

theorem linked_port (d : Device) (p : Nat) (f : Flit) : ((d.linked p f).port p).kept = { d.port p with lastFlit := d.clk.up }.kept ∧
    ∀ q, q ≠ p → (d.linked p f).port q = d.port q := by
  unfold Device.linked Device.pumpAll
  refine ⟨((PortKeep.pump _ p _).1 p).trans ?_, fun q hq => ((pump_spec p _ _).1 q hq).trans (Device.port_setPort_other _ _ hq)⟩
  unfold Device.modPort
  rw [Device.port_setPort_same]
  rfl

section
variable {d : Device} {p : Nat} {f : Flit} (h2 : 2 ≤ (d.port p).st) (h4 : (d.port p).st ≤ 4)
include h2 h4

theorem flitIn_broken (hi : f.intact = false) :
    d.flitIn p f = (if f.crc = f.sum then d else d.bump (key 0x4030 3) 1).askRetry p :=
  (if_neg (by omega)).trans (if_pos hi)

variable (hi : f.intact = true)
include hi

theorem flitIn_intact : d.flitIn p f =
    if f.type = 1 then (if (d.port p).st = 3 then
        ((if f.type = 4 then (d.modPort p (fun x => x.linkWord f d.clk.up)).retryIn p else d.modPort p (fun x => x.linkWord f d.clk.up)).pumpAll p).packetFlit p f
      else (if f.type = 4 then (d.modPort p (fun x => x.linkWord f d.clk.up)).retryIn p else d.modPort p (fun x => x.linkWord f d.clk.up)).pumpAll p)
    else if f.type = 2 then
      ((if f.type = 4 then (d.modPort p (fun x => x.linkWord f d.clk.up)).retryIn p else d.modPort p (fun x => x.linkWord f d.clk.up)).pumpAll p).helloIn p f
    else (if f.type = 4 then (d.modPort p (fun x => x.linkWord f d.clk.up)).retryIn p else d.modPort p (fun x => x.linkWord f d.clk.up)).pumpAll p :=
  (if_neg (by omega)).trans (if_neg (by rw [hi]; decide))

theorem flitIn_packet (hst : (d.port p).st = 3) (ht : f.type = 1) : d.flitIn p f = (d.linked p f).packetFlit p f := by
  rw [flitIn_intact h2 h4 hi, if_pos ht, if_pos hst, if_neg (by omega)]
  rfl

theorem flitIn_hello (ht : f.type = 2) : d.flitIn p f = (d.linked p f).helloIn p f := by
  rw [flitIn_intact h2 h4 hi, if_neg (by omega), if_pos ht, if_neg (by omega)]
  rfl

theorem flitIn_idle (ht : f.type = 0) : d.flitIn p f = d.linked p f := by
  rw [flitIn_intact h2 h4 hi, if_neg (by omega), if_neg (by omega), if_neg (by omega)]
  rfl

theorem flitIn_retry (ht : f.type = 4) : d.flitIn p f = ((d.modPort p (fun x => x.linkWord f d.clk.up)).retryIn p).pumpAll p := by
  rw [flitIn_intact h2 h4 hi, if_neg (by omega), if_neg (by omega), if_pos ht]

end

/-! ### Retries -/

/-- A counted retry leaves its time at the port. -/
theorem countRetry_spec (d : Device) (p : Nat) : (∃ rs, (d.countRetry p).port p = { d.port p with retries := rs }) ∧
    (d.countRetry p).out = d.out ∧ (d.countRetry p).ctr (key 0x4030 4) = min (2 ^ 64 - 1) (d.ctr (key 0x4030 4) + 1) :=
  by
  refine ⟨⟨(d.port p).retries.filter (fun t => decide (d.clk.up - t < 1000000)) ++ [d.clk.up], ?_⟩, rfl, Device.ctr_bump_same _ _ _⟩
  exact port_modPort_same d p (fun x => { x with retries := x.retries.filter (fun t => decide (d.clk.up - t < 1000000)) ++ [d.clk.up] })

/-- A retry asked for: the request goes out, the port stays but for its mark, and the retry is counted. -/
theorem askRetry_spec (d : Device) (p : Nat) :
    let u := d.askRetry p
    u.out = d.out ++ [.flit p (sealFlit (4 + (d.port p).ackValue * 2 ^ 25 + 0) 0 (flitWords []))] ∧ (u.port p).rxSeq = (d.port p).rxSeq ∧
      (u.port p).asked = true ∧ (u.port p).partialIn = (d.port p).partialIn ∧
      u.ctr (key 0x4030 4) = min (2 ^ 64 - 1) (d.ctr (key 0x4030 4) + 1) := by
  unfold Device.askRetry
  dsimp only
  have hasked : (d.modPort p (fun x => { x with asked := true })).port p = { d.port p with asked := true } := port_modPort_same d p _
  have hbare : ∀ (e : Device) t l ws, (e.sendBare p t l ws).port p = e.port p := fun _ _ _ _ => rfl
  obtain ⟨⟨rs, hport⟩, hout, hctr⟩ := countRetry_spec ((d.modPort p (fun x => { x with asked := true })).sendBare p 4 0 []) p
  rw [hbare, hasked] at hport
  rw [hport, hout]
  refine ⟨?_, rfl, rfl, rfl, hctr⟩
  unfold Device.sendBare
  rw [hasked]
  rfl

theorem resend_eq (p : Nat) (l : List Flit) : ∀ d : Device,
    (l.foldl (fun d f => (d.send (.flit p f)).bump (key 0x4030 1) 1) d).out = d.out ++ l.map (fun g => .flit p g) ∧
    (l.foldl (fun d f => (d.send (.flit p f)).bump (key 0x4030 1) 1) d).fab = d.fab := by
  induction l with
  | nil => exact fun d => ⟨(List.append_nil _).symm, rfl⟩
  | cons f l ih =>
    intro d
    obtain ⟨hout, hfab⟩ := ih ((d.send (.flit p f)).bump (key 0x4030 1) 1)
    refine ⟨hout.trans ?_, hfab⟩
    rw [List.map_cons, ← List.singleton_append, ← List.append_assoc]
    rfl

/-- A retry request: what is not acknowledged goes out again, in order, and stays in the buffer. -/
theorem retryIn_spec (d : Device) (p : Nat) :
    (d.retryIn p).out = d.out ++ ((d.port p).retry.map (d.port p).reseal).map (fun g => .flit p g) ∧
    ((d.retryIn p).port p).retry = (d.port p).retry.map (d.port p).reseal ∧ ((d.retryIn p).port p).rxSeq = (d.port p).rxSeq := by
  unfold Device.retryIn
  dsimp only
  obtain ⟨hout, hfab⟩ := resend_eq p ((d.port p).retry.map (d.port p).reseal)
    ((d.setPort p { d.port p with retry := (d.port p).retry.map (d.port p).reseal }).countRetry p)
  obtain ⟨⟨rs, hport⟩, hsent, -⟩ := countRetry_spec (d.setPort p { d.port p with retry := (d.port p).retry.map (d.port p).reseal }) p
  rw [Device.port_setPort_same] at hport
  rw [port_of_fab (congrArg FabS.ports hfab) p, hport]
  exact ⟨hout.trans (congrArg (· ++ _) hsent), rfl, rfl⟩

/-! ### Packet flits -/

section
variable {d : Device} {p : Nat} {f : Flit}

/-- A flit that is not the one expected is asked for again, once. -/
theorem packetFlit_gap (h : f.seq ≠ (d.port p).rxSeq) : d.packetFlit p f = if (d.port p).asked then d else d.askRetry p := if_pos h

/-- The credits that a packet flit gives back. -/
def Port.credit (x : Port) (p : Nat) (f : Flit) : Nat := if 12 ≤ f.cls then 0 else if Tbl.get 0 x.shared f.chan < rxShared p f.chan then 2 else 1

theorem giveBack_eq (x : Port) (p : Nat) (f : Flit) : x.giveBack p f = (x.credit p f,
    { x with shared := if x.credit p f = 2 then Tbl.set 0 x.shared f.chan (Tbl.get 0 x.shared f.chan + 1) else x.shared }) := by
  unfold Port.giveBack Port.credit
  dsimp only
  split
  · rfl
  · split
    · rfl
    · rfl

/-- The port once an expected first flit is kept: what its channel holds so far is `part`. -/
def Device.keepFlit (d : Device) (p : Nat) (f : Flit) (part : List Flit) : Device :=
  let y := d.port p
  let n := y.credit p f
  ((d.setPort p { y with
    shared := if n = 2 then Tbl.set 0 y.shared f.chan (Tbl.get 0 y.shared f.chan + 1) else y.shared,
    rxSeq := (y.rxSeq + 1) % 16384, asked := false, partialIn := Tbl.set [] y.partialIn f.chan part }).bump (key 0x4030 2) 1).sendBare p 0
    (if n = 0 then 0 else f.chan * 2 ^ 39 + f.cls * 2 ^ 41 + n * 2 ^ 45) []

theorem packetFlit_first (h : f.seq = (d.port p).rxSeq) (hf : f.isFirst = true) : d.packetFlit p f =
    if f.isLast then (d.keepFlit p f []).packetIn p [f] else d.keepFlit p f [f] := by
  have hov : (f.isLast && !([f] : List Flit).isEmpty) = f.isLast := Bool.and_true _
  unfold Device.packetFlit Device.keepFlit
  dsimp only
  rw [if_neg (Classical.not_not.mpr h), if_pos hf, giveBack_eq, hov]
  by_cases hl : f.isLast = true
  · rw [if_pos hl, if_pos hl, if_pos hl]
  · rw [if_neg hl, if_neg hl, if_neg hl]

end

/-! ### Packets -/

section
variable {u : Device} {p : Nat} {f : Flit}

theorem packetIn_bad (h : (packetOf [f]).2 = true ∨ packetWhole [f] = false ∨ 12 ≤ f.cls) : u.packetIn p [f] = u.bump (key 0x4030 0x0E) 1 :=
  if_pos (h.imp id (fun h => h.imp id .inl))

variable (hp : (packetOf [f]).2 = false) (hw : packetWhole [f] = true) (hc : f.cls < 12) (hh : u.isHostPort p = false)
include hp hw hc hh

theorem packet_good : ¬ ((packetOf [f]).2 = true ∨ packetWhole [f] = false ∨ 12 ≤ f.cls ∨
    (u.isHostPort p = true ∧ (packetOf [f]).1.src ≠ mkCoord (cPod u.fab.coord) (cRack u.fab.coord) (cQuad u.fab.coord) 4)) := by
  rintro (h | h | h | ⟨h, -⟩)
  · exact not_of_false hp h
  · rw [hw] at h
    cases h
  · omega
  · exact not_of_false hh h

theorem packetIn_mcast (hm : (packetOf [f]).1.mcast = true) : u.packetIn p [f] =
    u.multicastIn f.chan (f.cls / 2 + if p ≥ 6 then 1 else 0) (if p ≥ 6 then 0 else f.cls % 2) (packetOf [f]).1 :=
  (if_neg (packet_good hp hw hc hh)).trans (if_pos hm)

variable (hm : (packetOf [f]).1.mcast = false)
include hm

theorem packetIn_here (he : u.exitFor f.chan f.cls ((packetOf [f]).1.flow.toNat % 2) (packetOf [f]).1.dest = .here) : u.packetIn p [f] =
    if f.chan = 1 ∨ f.chan = 2 then u.inSequence p f.chan (packetOf [f]).1 else u.deliverNow f.chan (packetOf [f]).1 :=
  (if_neg (packet_good hp hw hc hh)).trans ((if_neg (not_of_false hm)).trans (if_pos he))

theorem packetIn_onward (he : u.exitFor f.chan f.cls ((packetOf [f]).1.flow.toNat % 2) (packetOf [f]).1.dest ≠ .here) : u.packetIn p [f] =
    if (packetOf [f]).1.hops = 0 then u.bump (key 0x4030 8) 1 else
      u.forward f.chan (f.cls / 2 + if p ≥ 6 then 1 else 0) (if p ≥ 6 then 0 else f.cls % 2) (packetOf [f]).1.dest (packetOf [f]).1 := by
  refine (if_neg (packet_good hp hw hc hh)).trans ((if_neg (not_of_false hm)).trans ((if_neg he).trans ?_))
  split
  · rfl
  · exact if_neg (fun h => not_of_false hh h.1)

end

section
variable {u : Device} {chan g h : Nat} {k : Packet}

theorem multicastIn_refused (hc : chan < 2) : u.multicastIn chan g h k = u.bump (key 0x4030 0x0E) 1 := if_pos (.inl hc)

/-- A multicast packet is delivered here when the device is in its range, and goes on in blocks while hops are left. -/
theorem multicastIn_eq (hc : 2 ≤ chan) (hl : k.words.length ≤ 1024) (hs : cSlot k.dest < 4) :
    let lo := ordinal k.dest
    let hi := min 131072 (lo + k.count + 1)
    let own := ordinal u.fab.coord
    let v := if lo ≤ own ∧ own < hi then u.deliverNow chan k else u
    let bs := splitRange own tierUnits lo hi
    (k.hops = 0 → u.multicastIn chan g h k = if bs = [] then v else v.bump (key 0x4030 8) 1) ∧
    (k.hops ≠ 0 → u.multicastIn chan g h k = bs.foldl (fun u b =>
      u.forward chan g h (ordinalDev b.1) { k with dest := ordinalDev b.1, count := b.2 - b.1 - 1 }) v) := by
  unfold Device.multicastIn
  dsimp only
  rw [if_neg (by omega)]
  refine ⟨fun h0 => ?_, fun h0 => if_neg h0⟩
  rw [if_pos h0]
  exact ite_congr (propext List.isEmpty_iff) (fun _ => rfl) (fun _ => rfl)

end

/-! ### Hellos -/

theorem st_of_kept {x y : Port} (h : x.kept = y.kept) : x.st = y.st := by
  have hst : x.kept.st = y.kept.st := congrArg Port.st h
  exact hst

section
variable {x y : Port} (h : x.kept = y.kept)
include h

theorem kept_rxSeq : x.rxSeq = y.rxSeq := by
  have hk : x.kept.rxSeq = y.kept.rxSeq := congrArg Port.rxSeq h
  exact hk

theorem kept_asked : x.asked = y.asked := by
  have hk : x.kept.asked = y.kept.asked := congrArg Port.asked h
  exact hk

theorem kept_partialIn : x.partialIn = y.partialIn := by
  have hk : x.kept.partialIn = y.kept.partialIn := congrArg Port.partialIn h
  exact hk

end

/-- A port's state after a change of its link. -/
theorem linkState_port (d : Device) (p st : Nat) : ((d.linkState p st).port p).st = st := by
  unfold Device.linkState
  dsimp only
  split
  next h => exact h
  next h =>
    have hkeep := fun f => (LinkKeep.changeRoutes d f).1 p
    refine (st_of_kept (hkeep _)).trans ?_
    have hmod := port_modPort_same d p (fun x => { x with st := st })
    split
    · exact congrArg Port.st hmod
    · split
      · exact congrArg Port.st hmod
      · exact congrArg Port.st hmod

theorem miswire_st (d : Device) (p : Nat) : ((d.miswire p).port p).st = 4 := by
  unfold Device.miswire
  split
  next h => exact h
  next h =>
    have hkeep := ((PortKeep.err (d.linkState p 4) (portAt p) 0x12 0).trans
      ((PortKeep.of_ports (e := Device.bump _ (key 0x4030 6) 1) rfl ⟨rfl, rfl, rfl, rfl, rfl⟩).trans (PortKeep.notify _ 2 0 0x4010 0 p 4 0))).1 p
    exact (st_of_kept hkeep).trans (linkState_port d p 4)

section
variable {d : Device} {p : Nat} {f : Flit}

/-- A port with what a hello says of its neighbour. -/
def Device.greeted (d : Device) (p : Nat) (f : Flit) : Device :=
  let w := (f.payload.getD 0 0#32).toNat
  d.modPort p (fun x => { x with nbr := BitVec.ofNat 18 (bits w 17 0), nbrPort := bits w 21 19, host := bit w 22 })

theorem helloIn_waits (hh : bit (f.payload.getD 0 0#32).toNat 22 = false)
    (hw : bit (f.payload.getD 0 0#32).toNat 18 = false ∨ d.fab.written = false) :
    d.helloIn p f = (d.greeted p f).linkState p 2 := by
  have hgo : (bit (f.payload.getD 0 0#32).toNat 22 || (bit (f.payload.getD 0 0#32).toNat 18 && (d.greeted p f).fab.written)) = false := by
    have hwr : (d.greeted p f).fab.written = d.fab.written := rfl
    rw [hh, hwr]
    rcases hw with h | h <;> rw [h]
    · rfl
    · exact Bool.and_false _
  exact if_pos hgo

/-- A hello of a neighbour whose coordinate is written, or of a host. -/
theorem helloIn_greets (hg : bit (f.payload.getD 0 0#32).toNat 22 = true ∨
    (bit (f.payload.getD 0 0#32).toNat 18 = true ∧ d.fab.written = true)) : d.helloIn p f =
    if (d.greeted p f).helloMatches p (BitVec.ofNat 18 (bits (f.payload.getD 0 0#32).toNat 17 0)) (bits (f.payload.getD 0 0#32).toNat 21 19) then
      (if ((d.greeted p f).port p).st = 3 then d.greeted p f
        else (((d.greeted p f).linkState p 3).notify 2 0 0x4010 0 p 3).pumpAll p)
    else (d.greeted p f).miswire p := by
  have hgo : ¬ (bit (f.payload.getD 0 0#32).toNat 22 || (bit (f.payload.getD 0 0#32).toNat 18 && (d.greeted p f).fab.written)) = false := by
    have hwr : (d.greeted p f).fab.written = d.fab.written := rfl
    rw [hwr]
    rcases hg with h | ⟨h, h'⟩
    · rw [h]
      simp
    · rw [h, h']
      simp
  exact if_neg hgo

/-- A port that comes up carries traffic. -/
theorem comesUp_st (d : Device) (p : Nat) : (((((d.linkState p 3).notify 2 0 0x4010 0 p 3).pumpAll p).port p).st = 3) := by
  have hkeep := ((PortKeep.notify (d.linkState p 3) 2 0 0x4010 0 p 3 0).trans (PortKeep.pump ((d.linkState p 3).notify 2 0 0x4010 0 p 3) p
    ((((d.linkState p 3).notify 2 0 0x4010 0 p 3).port p).waiting))).1 p
  exact (st_of_kept hkeep).trans (linkState_port d p 3)

theorem keepFlit_eq {r : Nat} {q : Tbl (List Flit)} (part : List Flit) (hr : (d.port p).rxSeq = r) (hq : (d.port p).partialIn = q) :
    d.keepFlit p f part = ((d.setPort p { d.port p with
      shared := if (d.port p).credit p f = 2 then Tbl.set 0 (d.port p).shared f.chan (Tbl.get 0 (d.port p).shared f.chan + 1) else (d.port p).shared,
      rxSeq := (r + 1) % 16384, asked := false, partialIn := Tbl.set [] q f.chan part }).bump (key 0x4030 2) 1).sendBare p 0
      (if (d.port p).credit p f = 0 then 0 else f.chan * 2 ^ 39 + f.cls * 2 ^ 41 + (d.port p).credit p f * 2 ^ 45) [] := by
  subst hr hq
  unfold Device.keepFlit
  rfl

end

section
variable {p : PortIx} {f : Flit} {s : State} (ha : s.alive = true)
include ha

theorem packetReceive_eq : exec (.packetReceive p [f]) s = s.goes (s.dev.flitIn p.val f) := by
  unfold exec execPacketReceive
  exact lift_runs ha rfl

theorem multicastReceive_eq : exec (.multicastReceive p [f]) s = s.goes (s.dev.flitIn p.val f) := by
  unfold exec execMulticastReceive
  exact lift_runs ha rfl

theorem retryRequest_eq : exec (.retryRequest p f) s = s.goes (s.dev.flitIn p.val f) := by
  unfold exec execRetryRequest
  exact lift_runs ha rfl

theorem helloReceive_eq : exec (.helloReceive p f) s = s.goes (s.dev.flitIn p.val f) := by
  unfold exec execHelloReceive
  exact lift_runs ha rfl

theorem idleReceive_eq : exec (.idleFlitReceive p f) s = s.goes (s.dev.flitIn p.val f) := by
  unfold exec execIdleFlitReceive
  exact lift_runs ha rfl

theorem helloSend_eq (h2 : 2 ≤ (s.dev.port p.val).st) (h4 : (s.dev.port p.val).st ≤ 4) :
    exec (.helloSend p) s = s.goes (s.dev.sendHello p.val) := by
  unfold exec execHelloSend
  exact lift_runs ha (if_pos ⟨h2, h4⟩)

end

/-- Settles O51: the flit's kind decides, each by its own lemma. -/
theorem portFlits : Obligations.PortFlits := by
  unfold Obligations.PortFlits
  intro p f s ha d x e y bare
  obtain ⟨hkept, hothers⟩ := linked_port d p.val f
  refine ⟨fun h2 h4 hi => ?broken, ⟨hkept, hothers⟩, fun hst hi ht => ?packet, fun u => ?whole, fun h2 h4 => helloSend_eq ha h2 h4,
    fun h2 h4 hi => ⟨fun ht => ?retry, fun hw => ?quiet⟩⟩
  case broken =>
    intro u
    obtain ⟨hout, hrx, hasked, hpart, hctr⟩ := askRetry_spec (if f.crc = f.sum then d else d.bump (key 0x4030 3) 1) p.val
    have hfab : (if f.crc = f.sum then d else d.bump (key 0x4030 3) 1).fab = d.fab := by split <;> rfl
    have hsame : (if f.crc = f.sum then d else d.bump (key 0x4030 3) 1).out = d.out := by split <;> rfl
    have hport : (if f.crc = f.sum then d else d.bump (key 0x4030 3) 1).port p.val = x := port_of_fab (congrArg FabS.ports hfab) _
    have hcount : (if f.crc = f.sum then d else d.bump (key 0x4030 3) 1).ctr (key 0x4030 4) = d.ctr (key 0x4030 4) := by
      split
      · rfl
      · exact Device.ctr_bump_other d (by decide)
    rw [hport] at hout hrx hpart
    exact ⟨(packetReceive_eq ha).trans (congrArg s.goes (flitIn_broken h2 h4 hi)), by rw [hout, hsame]; rfl, hrx, hasked, hpart,
      by rw [hctr, hcount]⟩
  case packet =>
    have h2 : 2 ≤ (d.port p.val).st := by rw [show (d.port p.val).st = 3 from hst]; decide
    have h4 : (d.port p.val).st ≤ 4 := by rw [show (d.port p.val).st = 3 from hst]; decide
    have hin : d.flitIn p.val f = e.packetFlit p.val f := flitIn_packet h2 h4 hi hst ht
    have hrx : (e.port p.val).rxSeq = x.rxSeq := (kept_rxSeq hkept).trans rfl
    have hask : (e.port p.val).asked = x.asked := (kept_asked hkept).trans rfl
    have hpart : (e.port p.val).partialIn = x.partialIn := (kept_partialIn hkept).trans rfl
    refine ⟨fun hseq hfirst => ?_, fun hseq => ?_⟩
    · intro n k
      have hfirst' := packetFlit_first (d := e) (p := p.val) (hseq.trans hrx.symm) hfirst
      have hk : ∀ part, e.keepFlit p.val f part = k part := fun part => keepFlit_eq part hrx hpart
      refine ⟨fun hl => ?_, fun hl => ⟨?_, ?_⟩⟩
      · rw [packetReceive_eq ha, hin, hfirst', if_neg (not_of_false hl), hk]
      · rw [packetReceive_eq ha, hin, hfirst', if_pos hl, hk]
      · rw [multicastReceive_eq ha, hin, hfirst', if_pos hl, hk]
    · have hgap := packetFlit_gap (d := e) (p := p.val) (f := f) (fun h => hseq (h.trans hrx))
      refine ⟨fun hasked => ?_, fun hasked => ?_⟩
      · rw [packetReceive_eq ha, hin, hgap, hask, if_pos hasked]
      · rw [packetReceive_eq ha, hin, hgap, hask, if_neg (not_of_false hasked)]
  case whole =>
    intro k
    refine ⟨packetIn_bad, fun hp hw hc hh => ?_⟩
    intro g h out
    refine ⟨fun hm hch => ?_, fun hm hch hlen hslot => ?_, fun hm ho => ⟨fun hch => ?_, fun h1 h2 => ?_⟩, fun hm ho =>
      ⟨fun h0 => ?_, fun h0 => ?_⟩⟩
    · exact (packetIn_mcast hp hw hc hh hm).trans (multicastIn_refused hch)
    · obtain ⟨hnone, hsome⟩ := multicastIn_eq (u := u) (g := g) (h := h) hch hlen hslot
      exact ⟨fun h0 => (packetIn_mcast hp hw hc hh hm).trans (hnone h0), fun h0 => (packetIn_mcast hp hw hc hh hm).trans (hsome h0)⟩
    · exact (packetIn_here hp hw hc hh hm ho).trans (if_pos hch)
    · exact (packetIn_here hp hw hc hh hm ho).trans (if_neg (fun hch => hch.elim h1 h2))
    · exact (packetIn_onward hp hw hc hh hm ho).trans (if_pos h0)
    · exact (packetIn_onward hp hw hc hh hm ho).trans (if_neg h0)
  case retry =>
    intro y
    have hlinked : (d.modPort p.val (fun x => x.linkWord f d.clk.up)).port p.val = y := port_modPort_same d p.val _
    obtain ⟨hout, hretry, hrx⟩ := retryIn_spec (d.modPort p.val (fun x => x.linkWord f d.clk.up)) p.val
    obtain ⟨-, m, hout', hretry'⟩ := pump_spec p.val
      (((d.modPort p.val (fun x => x.linkWord f d.clk.up)).retryIn p.val).port p.val).waiting
      ((d.modPort p.val (fun x => x.linkWord f d.clk.up)).retryIn p.val)
    have hkeep := (PortKeep.pump ((d.modPort p.val (fun x => x.linkWord f d.clk.up)).retryIn p.val) p.val
      (((d.modPort p.val (fun x => x.linkWord f d.clk.up)).retryIn p.val).port p.val).waiting).1 p.val
    rw [hlinked] at hout hretry hrx
    refine ⟨_, m, (retryRequest_eq ha).trans (congrArg s.goes (flitIn_retry h2 h4 hi ht)), ?_, ?_, ?_⟩
    · refine hout'.trans ?_
      rw [hout, List.map_append, ← List.append_assoc]
      rfl
    · exact hretry'.trans (by rw [hretry])
    · exact (kept_rxSeq hkeep).trans hrx
  case quiet =>
    intro z
    have hlinked : (d.modPort p.val (fun x => x.linkWord f d.clk.up)).port p.val = z := port_modPort_same d p.val _
    have he : d.linked p.val f = d.setPort p.val z := pumpAll_none (by rw [hlinked]; exact hw)
    refine ⟨fun ht => ?_, fun ht => ?_⟩
    · rw [idleReceive_eq ha, flitIn_idle h2 h4 hi ht, he]
    · intro w c u
      have hu : (d.setPort p.val z).greeted p.val f = u := by
        have hz : (d.setPort p.val z).port p.val = z := d.port_setPort_same p.val z
        unfold Device.greeted Device.modPort
        rw [hz]
      have hkeep : (u.port p.val).st = x.st := (congrArg Port.st (Device.port_setPort_same (d.setPort p.val z) p.val _)).trans rfl
      have hin : d.flitIn p.val f = (d.setPort p.val z).helloIn p.val f := by rw [flitIn_hello h2 h4 hi ht, he]
      refine ⟨fun hhost hwr => ⟨?_, linkState_port u p.val 2⟩, fun hg => ⟨fun hm => ⟨fun hst => ?_, fun hst => ?_⟩, fun hm =>
        ⟨?_, miswire_st u p.val⟩⟩⟩
      · rw [helloReceive_eq ha, hin, helloIn_waits (d := d.setPort p.val z) hhost hwr, hu]
      · have hust : (u.port p.val).st = 3 := hkeep.trans hst
        rw [helloReceive_eq ha, hin, helloIn_greets (d := d.setPort p.val z) hg, hu, if_pos hm, if_pos hust]
      · intro v
        have hust : (u.port p.val).st ≠ 3 := fun h => hst (hkeep.symm.trans h)
        refine ⟨?_, comesUp_st u p.val⟩
        rw [helloReceive_eq ha, hin, helloIn_greets (d := d.setPort p.val z) hg, hu, if_pos hm, if_neg hust]
      · rw [helloReceive_eq ha, hin, helloIn_greets (d := d.setPort p.val z) hg, hu, if_neg (not_of_false hm)]

end Sys2Proof.Machine
end

section
/-!
SUPPORT. What ports do of themselves (R276, R286–R289, R297, R298, R301, R409): training, lost links, drains, and the writes of
port records and of the coordinate.
-/
namespace Sys2Proof.Machine

/-! ### Training -/

/-- A trained port starts its hello exchange afresh. -/
theorem trained_port (d : Device) (p : Nat) (half : Bool) :
    let y := (d.trained p half).port p
    y.st = 2 ∧ y.epoch = ((d.port p).epoch + 1) % 2 ^ 32 ∧ y.txSeq = 0 ∧ y.rxSeq = 0 ∧ y.retry = [] ∧ y.credits = startCredits := by
  have hbare : ∀ (e : Device) t l ws, (e.sendBare p t l ws).port p = e.port p := fun _ _ _ _ => rfl
  unfold Device.trained Device.sendHello
  dsimp only
  rw [hbare, Device.port_setPort_same]
  exact ⟨rfl, rfl, rfl, rfl, rfl, rfl⟩

section
variable {p : PortIx} {s : State} (ha : s.alive = true)
include ha

theorem portTrained_eq (half : Bool) (he : (s.dev.port p.val).enabled = true) (hst : (s.dev.port p.val).st ≤ 1)
    (hf : s.dev.fabricSlot = true) (hr : s.dev.clk.refOk = true) :
    exec (.portTrained p half) s = s.goes (s.dev.trained p.val half) := by
  unfold exec execPortTrained
  exact lift_runs ha (if_pos ⟨he, hst, hf, hr⟩)

theorem trainTimeout_eq (hst : (s.dev.port p.val).st = 1) :
    exec (.portTrainTimeout p) s = s.goes (s.dev.setPort p.val { s.dev.port p.val with st := 0 }) := by
  unfold exec execPortTrainTimeout
  exact lift_runs ha (if_pos hst)

/-! ### Lost links -/

theorem laneLoss_eq (h2 : 2 ≤ (s.dev.port p.val).st) (h4 : (s.dev.port p.val).st ≤ 4) :
    exec (.laneAlignmentLoss p) s = s.goes ((s.dev.portDown p.val).crossingFallback (64 + p.val)) := by
  unfold exec execLaneAlignmentLoss
  exact lift_runs ha (if_pos ⟨h2, h4⟩)

theorem silence_eq (h2 : 2 ≤ (s.dev.port p.val).st) (h4 : (s.dev.port p.val).st ≤ 4) : exec (.silenceTimeout p) s =
    s.goes ((s.dev.reach ((s.dev.port p.val).lastFlit + s.dev.reg (key 0x4001 2) * 1000)).portDown p.val) := by
  unfold exec execSilenceTimeout
  exact lift_runs ha (if_pos ⟨h2, h4⟩)

theorem retryLimit_eq : exec (.retryLimitExceeded p) s =
    if s.dev.reg (key 0x4001 1) < ((s.dev.port p.val).retries.filter (fun t => decide (s.dev.clk.up - t < 1000000))).length
    then s.goes (s.dev.portDown p.val) else s.goes s.dev := by
  unfold exec execRetryLimitExceeded
  refine (lift_runs ha rfl).trans ?_
  exact apply_ite s.goes _ _ _

theorem drainDone_eq (hd : (s.dev.port p.val).draining = true) (hr : (s.dev.port p.val).retry = [])
    (hw : (s.dev.port p.val).waiting = 0) : exec (.portDrainDone p) s = s.goes (s.dev.portDown p.val) := by
  have hgo : ((s.dev.port p.val).draining && (s.dev.port p.val).retry.isEmpty && decide ((s.dev.port p.val).waiting = 0)) = true := by
    rw [hd, hr, hw]
    decide
  unfold exec execPortDrainDone
  exact lift_runs ha (if_pos hgo)

end

/-! ### The coordinate -/

/-- Hellos repeated at a list of ports: a port listed once that had a link is in hello again, and no other port changes. -/
theorem repeatHellos_port (l : List Nat) (hl : l.Nodup) : ∀ d : Device,
    (∀ q, q ∉ l → ((l.foldl (fun d p => d.repeatHello p) d).port q) = d.port q) ∧
    (∀ q ∈ l, 2 ≤ (d.port q).st → (d.port q).st ≤ 4 → ((l.foldl (fun d p => d.repeatHello p) d).port q).st = 2) ∧
    (l.foldl (fun d p => d.repeatHello p) d).fab.coord = d.fab.coord ∧
    (l.foldl (fun d p => d.repeatHello p) d).fab.written = d.fab.written := by
  induction l with
  | nil => exact fun d => ⟨fun _ _ => rfl, fun q hq => absurd hq List.not_mem_nil, rfl, rfl⟩
  | cons a l ih =>
    intro d
    obtain ⟨ha, hl'⟩ := List.nodup_cons.mp hl
    obtain ⟨hstay, hgreet, hcoord, hwritten⟩ := ih hl' (d.repeatHello a)
    have hother : ∀ q, q ≠ a → (d.repeatHello a).port q = d.port q := fun q hq => by
      unfold Device.repeatHello
      dsimp only
      split
      · exact Device.port_setPort_other d _ hq
      · rfl
    have hfab : (d.repeatHello a).fab.coord = d.fab.coord ∧ (d.repeatHello a).fab.written = d.fab.written := by
      unfold Device.repeatHello
      dsimp only
      split <;> exact ⟨rfl, rfl⟩
    refine ⟨fun q hq => ?_, fun q hq h2 h4 => ?_, hcoord.trans hfab.1, hwritten.trans hfab.2⟩
    · obtain ⟨hqa, hql⟩ := not_or.mp (mt List.mem_cons.mpr hq)
      exact (hstay q hql).trans (hother q hqa)
    · by_cases hqa : q = a
      · subst hqa
        refine (congrArg Port.st (hstay q ha)).trans ?_
        unfold Device.repeatHello
        dsimp only
        rw [if_pos ⟨h2, h4⟩]
        exact congrArg Port.st (Device.port_setPort_same d q { d.port q with st := 2 })
      · refine hgreet q ((List.mem_cons.mp hq).resolve_left hqa) ?_ ?_
        · rw [hother q hqa]; exact h2
        · rw [hother q hqa]; exact h4

/-- The device under a written coordinate. -/
def Device.atCoord (d : Device) (c : Coord) : Device :=
  { d with fab := { d.fab with coord := c, written := true, stepped := false } }

/-- The coordinate is taken and every port of a list with a link repeats its hello. -/
def Device.takeCoord (l : List Nat) (c : Coord) (d : Device) : Device := l.foldl (fun d p => d.repeatHello p) (d.atCoord c)

theorem atCoord_port (d : Device) (c : Coord) (q : Nat) : (d.atCoord c).port q = d.port q := rfl

theorem takeCoord_hellos {l : List Nat} (hl : l.Nodup) (d : Device) (c : Coord) : (Device.takeCoord l c d).fab.coord = c ∧
    (Device.takeCoord l c d).fab.written = true ∧
    ∀ q ∈ l, 2 ≤ (d.port q).st → (d.port q).st ≤ 4 → ((Device.takeCoord l c d).port q).st = 2 := by
  obtain ⟨-, hgreet, hcoord, hwritten⟩ := repeatHellos_port l hl (d.atCoord c)
  refine ⟨hcoord, hwritten, fun q hq h2 h4 => ?_⟩
  rw [← atCoord_port d c q] at h2 h4
  exact hgreet q hq h2 h4

section
variable {d : Device} {r : Req} {x : Nat}

theorem runCoordinate_refused (h : cSlot (BitVec.ofNat 18 x) ≠ d.fab.slot.toNat ∨ 4 ≤ cSlot (BitVec.ofNat 18 x)) :
    runCoordinate d r x = refuse d dInvalid := if_pos h

variable (hs : cSlot (BitVec.ofNat 18 x) = d.fab.slot.toNat) (h4 : cSlot (BitVec.ofNat 18 x) < 4)
include hs h4

theorem runCoordinate_busy (hb : d.coordBusy = true) : runCoordinate d r x = refuse d dBusy :=
  (if_neg (not_or.mpr ⟨fun h => h hs, fun h => Nat.not_lt.mpr h h4⟩)).trans (if_pos hb)

theorem runCoordinate_taken (hb : d.coordBusy = false) : runCoordinate d r x =
    done (d.withRoutes (fun d => d.keepParent (Device.takeCoord (List.range 8) (BitVec.ofNat 18 x)))) :=
  (if_neg (not_or.mpr ⟨fun h => h hs, fun h => Nat.not_lt.mpr h h4⟩)).trans (if_neg (not_of_false hb))

end

theorem takeCoord_spec {l : List Nat} (hl : l.Nodup) (d : Device) (c : Coord) :
    let v := d.withRoutes (fun d => d.keepParent (Device.takeCoord l c))
    v.fab.coord = c ∧ v.fab.written = true ∧ ∀ q ∈ l, 2 ≤ (d.port q).st → (d.port q).st ≤ 4 → (v.port q).st = 2 := by
  obtain ⟨hports, -, hcoord, hwritten⟩ := LinkKeep.changeRoutes d (Device.takeCoord l c)
  obtain ⟨hc, hw, hgreet⟩ := takeCoord_hellos hl d c
  exact ⟨hcoord.trans hc, hwritten.trans hw, fun q hq h2 h4 => (st_of_kept (hports q)).trans (hgreet q hq h2 h4)⟩

/-- Settles O52. -/
theorem portEvents : Obligations.PortEvents := by
  unfold Obligations.PortEvents
  intro p half r o s ha d x
  refine ⟨fun he hst hf hr => ?trained, fun hst => trainTimeout_eq ha hst, fun h2 h4 => ?lost, retryLimit_eq ha,
    fun hd hr hw => drainDone_eq ha hd hr hw, fun hw hlen => ?records, fun hw hf => ?coordinate⟩
  case trained => exact ⟨portTrained_eq ha half he hst hf hr, trained_port d p.val half⟩
  case lost =>
    obtain ⟨hkept, hothers, -⟩ := Device.portDown_port d p.val h2 (by intro h5; rw [h5] at h4; exact absurd h4 (by decide))
    exact ⟨laneLoss_eq ha h2 h4, silence_eq ha h2 h4, st_of_kept hkept, kept_rxSeq hkept, hothers⟩
  case records =>
    intro e
    refine ⟨fun hok => writes_eq hw rfl ((sized_run hlen).trans (if_pos hok)) (by decide), fun hok => ?_⟩
    exact writes_eq hw rfl ((sized_run hlen).trans (if_neg (not_of_false hok))) (by decide)
  case coordinate =>
    intro e c
    have hvalued : ∀ {u : Answer}, runCoordinate e r (ofLe r.payload) = u → valued (key 0x4000 1) runCoordinate e r r.payload = u :=
      fun h => (valued_run hw (by decide +kernel) hf).trans h
    refine ⟨fun h => writes_eq hw rfl (hvalued (runCoordinate_refused h)) (by decide), fun hs h4 =>
      ⟨fun hb => writes_eq hw rfl (hvalued (runCoordinate_busy hs h4 hb)) (by decide), fun hb => ?_⟩⟩
    obtain ⟨hcoord, hwritten, hgreet⟩ := takeCoord_spec List.nodup_range e c
    exact ⟨_, writes_eq hw rfl (hvalued (runCoordinate_taken hs h4 hb)) (by decide), hcoord, hwritten,
      fun q hq => hgreet q (List.mem_range.mpr hq)⟩

end Sys2Proof.Machine
end

section
/-!
SUPPORT. Services of the fabric (R295, R297, R300, R302, R303, R309, R313, R315): the reorder table, notices and probes, fabric
time, and operations on sync objects that come from other devices.
-/
namespace Sys2Proof.Machine

/-! ### Time that passes -/

/-- Time that passes leaves the ports, what is known of links and devices, the sync objects and the counters. -/
theorem reach_links (d : Device) (u : Nat) : (d.reach u).fab.unreachable = d.fab.unreachable ∧ (d.reach u).fab.echoes = d.fab.echoes ∧
    (d.reach u).sync = d.sync ∧ (d.reach u).ctrs = d.ctrs := by
  unfold Device.reach Device.advance FabS.slewIn
  split <;> exact ⟨rfl, rfl, rfl, rfl⟩

/-! ### Order at the destination -/

section
variable {u : Device} {c : Nat} {k : Packet} (q : Nat)

theorem inSequence_new (h : u.reorder? k.src c k.flow = none) : u.inSequence q c k =
    (u.putReorder ⟨k.src, c, k.flow, (k.seq + 1) % 65536, [], u.clk.up⟩).deliverNow c k := by
  unfold Device.inSequence
  dsimp only
  rw [h]

variable {e : Reorder} (h : u.reorder? k.src c k.flow = some e)
include h

theorem inSequence_next (ha : e.ahead k.seq = 0) (hh : e.held = []) : u.inSequence q c k =
    (u.putReorder { e with next := (e.next + 1) % 65536, used := u.clk.up }).deliverNow c k := by
  unfold Device.inSequence
  dsimp only
  rw [h]
  dsimp only
  rw [if_pos ha, hh]
  rfl

theorem inSequence_late (ha : 32768 ≤ e.ahead k.seq) : u.inSequence q c k =
    (u.putReorder { e with used := u.clk.up }).bump (key 0x4030 0x0B) 1 := by
  unfold Device.inSequence
  dsimp only
  rw [h]
  dsimp only
  rw [if_neg (by omega), if_neg (by omega)]

/-- A packet ahead of a gap is held, and the oldest gap is lost once 64 are. -/
theorem inSequence_held (h0 : e.ahead k.seq ≠ 0) (ha : e.ahead k.seq < 32768) (hnew : ∀ x ∈ e.held, x.pkt.seq ≠ k.seq) :
    u.inSequence q c k =
      if (u.putReorder { e with held := e.held ++ [⟨k, u.clk.up, q⟩], used := u.clk.up }).heldCount < 64 then
        u.putReorder { e with held := e.held ++ [⟨k, u.clk.up, q⟩], used := u.clk.up }
      else ((u.putReorder { e with held := e.held ++ [⟨k, u.clk.up, q⟩], used := u.clk.up }).oldestGap.map
        (u.putReorder { e with held := e.held ++ [⟨k, u.clk.up, q⟩], used := u.clk.up }).gapLost).getD
        (u.putReorder { e with held := e.held ++ [⟨k, u.clk.up, q⟩], used := u.clk.up }) := by
  have hany : ¬ e.held.any (fun x => decide (x.pkt.seq = k.seq)) = true := by
    intro hany
    obtain ⟨x, hx, hs⟩ := List.any_eq_true.mp hany
    exact hnew x hx (of_decide_eq_true hs)
  unfold Device.inSequence
  dsimp only
  rw [h]
  dsimp only
  rw [if_neg h0, if_pos ha, if_neg hany]
  split
  · rfl
  · split
    next hg => rw [hg]; rfl
    next g hg => rw [hg]; rfl

end

section
variable {src : Coord} {chan : BitVec 2} {flow : BitVec 16} {s : State} {e : Reorder} (ha : s.alive = true)
  (he : s.dev.reorder? src chan.toNat flow = some e)
include ha he

theorem holdExpiry_eq (hh : e.held ≠ []) : exec (.reorderHoldExpiry src chan flow) s = s.goes
    ((s.dev.reach (e.held.foldl (fun n h => min n h.at_) (2 ^ 64) + s.dev.reg (key 0x4001 3) * 1000)).gapLost e) := by
  unfold exec execReorderHoldExpiry
  refine lift_runs ha ?_
  dsimp only
  rw [he]
  exact if_neg hh

/-- The device without the reorder entry of a flow. -/
def Device.dropReorder (d : Device) (src : Coord) (chan : Nat) (flow : BitVec 16) : Device :=
  { d with fab := { d.fab with reorder := d.fab.reorder.filter (fun x => !x.is src chan flow) } }

theorem entryIdle_eq (hh : e.held = []) : exec (.reorderEntryIdle src chan flow) s =
    s.goes ((s.dev.reach (e.used + 1000000)).dropReorder src chan.toNat flow) := by
  unfold exec execReorderEntryIdle
  refine lift_runs ha ?_
  dsimp only
  rw [he]
  exact if_neg (Classical.not_not.mpr hh)

end

theorem reorder_dropReorder (d : Device) (src : Coord) (chan : Nat) (flow : BitVec 16) :
    (d.dropReorder src chan flow).reorder? src chan flow = none := by
  refine List.find?_eq_none.mpr (fun x hx => ?_)
  have hno := (List.mem_filter.mp hx).2
  rw [Bool.not_eq_true'] at hno
  exact not_of_false hno

/-! ### Notices and probes -/

/-- What a notice leaves of the links known to be down. -/
def Device.noteLink (l : Coord × Nat) (up : Bool) (d : Device) : Device :=
  let ls := d.fab.down.filter (fun x => !decide (x = l))
  { d with fab := { d.fab with down := if up then ls else ls ++ [l] } }

theorem noteLink_down (d : Device) (l : Coord × Nat) (up : Bool) : (l ∈ (d.noteLink l up).fab.down ↔ up = false) ∧
    ∀ k, k ≠ l → (k ∈ (d.noteLink l up).fab.down ↔ k ∈ d.fab.down) := by
  have hdown : (d.noteLink l up).fab.down = if up then d.fab.down.filter (fun x => !decide (x = l))
    else d.fab.down.filter (fun x => !decide (x = l)) ++ [l] := rfl
  rw [hdown]
  refine ⟨?_, fun k hk => ?_⟩
  · cases up <;> simp
  · cases up <;> simp [hk]

theorem routeNotice_eq {dev : Coord} {p : PortIx} {up : Bool} {s : State} (ha : s.alive = true) (hs : s.dev.inScope dev p.val = true) :
    exec (.routeNotice dev p up) s = s.goes (s.dev.withRoutes (fun d => d.keepParent (Device.noteLink (dev, p.val) up))) := by
  unfold exec execRouteNotice
  exact lift_runs ha (if_pos hs)

/-- Echoes out, but for those to one device. -/
def Device.dropEchoes (d : Device) (dev : Coord) : Device :=
  { d with fab := { d.fab with echoes := d.fab.echoes.filter (fun x => !decide (x.1 = dev)) } }

theorem echoes_dropEchoes (d : Device) (dev : Coord) : ∀ e ∈ (d.dropEchoes dev).fab.echoes, e.1 ≠ dev := fun e he => by
  have hno := (List.mem_filter.mp he).2
  rw [Bool.not_eq_true'] at hno
  exact of_decide_eq_false hno

/-- The device once an echo is out to another. -/
def Device.probe (d : Device) (dev : Coord) : Device :=
  (({ d with fab := { d.fab with echoes := d.fab.echoes ++ [(dev, d.clk.up)] } } : Device).send (.echo dev)).sendPdu 0 2 dev 0#9 0#16
    (pduBytes (pduHeader 6 0 false false false 0 0 0 0 0 0 0 0) [] [])

section
variable {dev : Coord} {s : State} (ha : s.alive = true)
include ha

theorem probeWait_unrouted (hd : dev ≠ s.dev.fab.coord) (hr : s.dev.routed dev = false) :
    exec (.probeWaitExpiry dev) s = s.goes (s.dev.setUnreachable dev) := by
  unfold exec execProbeWaitExpiry
  exact lift_runs ha ((if_neg hd).trans (if_pos hr))

theorem probeWait_probes (hd : dev ≠ s.dev.fab.coord) (hr : s.dev.routed dev = true) (hno : ∀ e ∈ s.dev.fab.echoes, e.1 ≠ dev) :
    exec (.probeWaitExpiry dev) s = s.goes (s.dev.probe dev) := by
  have hany : ¬ s.dev.fab.echoes.any (fun e => decide (e.1 = dev)) = true := by
    intro h
    obtain ⟨e, he, hed⟩ := List.any_eq_true.mp h
    exact hno e he (of_decide_eq_true hed)
  unfold exec execProbeWaitExpiry
  exact lift_runs ha ((if_neg hd).trans ((if_neg (by rw [hr]; decide)).trans (if_neg hany)))

theorem probeTimeout_eq {e : Coord × Nat} (he : s.dev.fab.echoes.find? (fun e => decide (e.1 = dev)) = some e) :
    exec (.probeTimeout dev) s = s.goes (((s.dev.reach (e.2 + s.dev.reg (key 0x4001 5) * 1000)).dropEchoes dev).setUnreachable dev) := by
  unfold exec execProbeTimeout
  refine lift_runs ha ?_
  dsimp only
  rw [he]
  rfl

theorem echoAnswer_eq : exec (.echoAnswer dev) s = s.goes (s.dev.echoAnswered dev) := by
  unfold exec execEchoAnswer
  exact lift_runs ha rfl

end

theorem probe_spec (d : Device) (dev : Coord) : (d.probe dev).fab.echoes = d.fab.echoes ++ [(dev, d.clk.up)] ∧
    (d.probe dev).fab.unreachable = d.fab.unreachable ∧ ∃ rest, (d.probe dev).out = d.out ++ .echo dev :: rest := by
  unfold Device.probe
  obtain ⟨-, -, hun, hecho, -⟩ := PortKeep.sendPdu
    (({ d with fab := { d.fab with echoes := d.fab.echoes ++ [(dev, d.clk.up)] } } : Device).send (.echo dev)) 0 2 dev 0#9 0#16
    (pduBytes (pduHeader 6 0 false false false 0 0 0 0 0 0 0 0) [] [])
  obtain ⟨l, hl⟩ := (Calm.sendPdu
    (({ d with fab := { d.fab with echoes := d.fab.echoes ++ [(dev, d.clk.up)] } } : Device).send (.echo dev)) 0 2 dev 0#9 0#16
    (pduBytes (pduHeader 6 0 false false false 0 0 0 0 0 0 0 0) [] [])).out
  exact ⟨hecho, hun, l, hl.trans (List.append_assoc d.out [OutMsg.echo dev] l)⟩

/-! ### Fabric time -/

/-- The count of good exchanges in a row, after one of offset `x`. -/
def goodAfter (n : Nat) (x : Int) : Nat := if -50 ≤ x ∧ x ≤ 50 then min 16 (n + 1) else 0

theorem goodAfter_locks (n : Nat) (x : Int) : 16 ≤ goodAfter n x ↔ 15 ≤ n ∧ -50 ≤ x ∧ x ≤ 50 := by
  unfold goodAfter
  split <;> omega

/-- The device that has noted an exchange of offset `x`. -/
def Device.noteExchange (d : Device) (x : Int) : Device :=
  { d with fab := { d.fab with offset := x, good := goodAfter d.fab.good x, locked := d.fab.locked || decide (16 ≤ goodAfter d.fab.good x), stepped := d.fab.stepped || (d.fab.written && !d.fab.stepped) } }

theorem exchanged_eq (d : Device) (x : Int) : d.exchanged x =
    if ((d.fab.written && !d.fab.stepped) && !(d.noteExchange x).anyLive) = true then
      { d.noteExchange x with clk := { d.clk with time := d.clk.time + BitVec.ofInt 64 x }, fab := { (d.noteExchange x).fab with slew := 0, slewTime := 0 } }
    else { d.noteExchange x with fab := { (d.noteExchange x).fab with slew := x } } := rfl

theorem anyLive_noteExchange (d : Device) (x : Int) : (d.noteExchange x).anyLive = d.anyLive := rfl

theorem exchanged_fields (d : Device) (x : Int) : (d.exchanged x).fab.offset = x ∧
    (d.exchanged x).fab.locked = (d.fab.locked || decide (16 ≤ goodAfter d.fab.good x)) := by
  rw [exchanged_eq]
  split <;> exact ⟨rfl, rfl⟩

/-- The one exchange that steps the time: the first after the coordinate's write, while no request lives (R303). -/
theorem exchanged_steps {d : Device} (x : Int) (hw : d.fab.written = true) (hs : d.fab.stepped = false) (hl : d.anyLive = false) :
    (d.exchanged x).clk.time = d.clk.time + BitVec.ofInt 64 x ∧ (d.exchanged x).fab.stepped = true := by
  rw [exchanged_eq, anyLive_noteExchange, if_pos (by rw [hw, hs, hl]; rfl)]
  refine ⟨rfl, ?_⟩
  change (d.fab.stepped || (d.fab.written && !d.fab.stepped)) = true
  rw [hw, hs]
  rfl

theorem exchanged_slews {d : Device} (x : Int) (h : d.fab.written = false ∨ d.fab.stepped = true ∨ d.anyLive = true) :
    (d.exchanged x).clk = d.clk ∧ (d.exchanged x).fab.slew = x := by
  have hno : ((d.fab.written && !d.fab.stepped) && !d.anyLive) = false := by
    obtain h | h | h := h
    · rw [h]; rfl
    · rw [h, Bool.not_true, Bool.and_false, Bool.false_and]
    · rw [h, Bool.not_true, Bool.and_false]
  rw [exchanged_eq, anyLive_noteExchange, if_neg (not_of_false hno)]
  exact ⟨rfl, rfl⟩

/-- What an exchange with the parent leaves (R302, R303). -/
theorem exchanged_spec (d : Device) (x : Int) :
    (d.exchanged x).fab.offset = x ∧
    (d.fab.written = true → d.fab.stepped = false → d.anyLive = false →
      (d.exchanged x).clk.time = d.clk.time + BitVec.ofInt 64 x ∧ (d.exchanged x).fab.stepped = true) ∧
    (d.fab.written = false ∨ d.fab.stepped = true ∨ d.anyLive = true → (d.exchanged x).clk = d.clk ∧ (d.exchanged x).fab.slew = x) ∧
    (d.fab.locked = false → ((d.exchanged x).fab.locked = true ↔ 15 ≤ d.fab.good ∧ -50 ≤ x ∧ x ≤ 50)) := by
  obtain ⟨hoff, hlocked⟩ := exchanged_fields d x
  refine ⟨hoff, exchanged_steps x, exchanged_slews x, fun h => ?_⟩
  rw [hlocked, h, Bool.false_or, decide_eq_true_iff, goodAfter_locks]

/-- The device with a port's last flit at the present. -/
def Device.flitSeen (d : Device) (p : Nat) : Device := d.modPort p (fun x => { x with lastFlit := d.clk.up })

section
variable {p : PortIx} {s : State} (ha : s.alive = true) (hst : (s.dev.port p.val).st = 3)
include ha hst

theorem timeExchangeSend_eq : exec (.timeExchangeSend p) s =
    let u := s.dev.reach ((s.dev.port p.val).lastTime + s.dev.reg (key 0x4040 4) * 1000)
    s.goes ((u.modPort p.val (fun x => { x with lastTime := u.clk.up })).sendBare p.val 3 0
      [u.clk.time.toNat % 2 ^ 32, u.clk.time.toNat / 2 ^ 32, 0, 0, 0, 0, 0, 0]) := by
  unfold exec execTimeExchangeSend
  exact lift_runs ha (if_neg (Classical.not_not.mpr hst))

variable (t1 t2 t3 t4 : BitVec 64)

theorem timeFlit_parent (h : (s.dev.flitSeen p.val).parentPort = some p.val) : exec (.timeFlitReceive p t1 t2 t3 t4) s =
    s.goes ((s.dev.flitSeen p.val).exchanged (timeOffset t1 t2 t3 t4)) := by
  unfold exec execTimeFlitReceive
  exact lift_runs ha ((if_neg (Classical.not_not.mpr hst)).trans (if_pos h))

theorem timeFlit_other (h : (s.dev.flitSeen p.val).parentPort ≠ some p.val) : exec (.timeFlitReceive p t1 t2 t3 t4) s =
    s.goes (s.dev.flitSeen p.val) := by
  unfold exec execTimeFlitReceive
  exact lift_runs ha ((if_neg (Classical.not_not.mpr hst)).trans (if_neg h))

end

/-! ### Operations that come from other devices -/

/-- What is sent back of an operation that has come to `r` (R313, R315). -/
def Device.answerSync (d : Device) (src : Coord) (ref : Nat) : SyncRes → Device
  | .done => d.send (.sync src (.satisfied ref))
  | .waiting => d
  | .full => d.send (.sync src (.retry ref))
  | .fault => d.send (.sync src (.fault ref))

section
variable {s : State} (ha : s.alive = true) {src : Coord} {ten : Tenant} {obj : BitVec 14} {y : SyncObj}
  (hy : Tbl.find? s.dev.sync.objs obj.toNat = some y)
include ha hy

theorem physicalOp_foreign (op : Fin 3) (a : Word) (ref : Nat) (ht : y.tenant ≠ ten.toNat) :
    exec (.syncPacketReceive (.physicalOp src ten obj op a ref)) s = s.goes (s.dev.send (.sync src (.fault ref))) := by
  unfold exec execSyncPacketReceive
  refine lift_runs ha ?_
  dsimp only
  unfold Device.applyFor
  rw [hy]
  exact if_pos ht

theorem physicalOp_own (op : Fin 3) (a : Word) (ref : Nat) (ht : y.tenant = ten.toNat) {r : SyncRes}
    (hr : (s.dev.syncApply obj.toNat op.val a ⟨obj.toNat, false, a, 0, none, src, ref⟩).1 = r) :
    exec (.syncPacketReceive (.physicalOp src ten obj op a ref)) s =
      s.goes ((s.dev.syncApply obj.toNat op.val a ⟨obj.toNat, false, a, 0, none, src, ref⟩).2.answerSync src ref r) := by
  unfold exec execSyncPacketReceive
  refine lift_runs ha ?_
  dsimp only
  unfold Device.applyFor
  rw [hy]
  dsimp only
  rw [if_neg (Classical.not_not.mpr ht)]
  generalize s.dev.syncApply obj.toNat op.val a ⟨obj.toNat, false, a, 0, none, src, ref⟩ = v at hr
  obtain ⟨r', d'⟩ := v
  subst hr
  cases r' <;> rfl

end

theorem physicalLeave_eq {s : State} (ha : s.alive = true) (src : Coord) (ten : Tenant) (obj : BitVec 14) (ref : Nat) : exec (.syncPacketReceive (.physicalLeave src ten obj ref)) s =
    s.goes (s.dev.leaveFor src ten.toNat obj.toNat ref) := by
  unfold exec execSyncPacketReceive
  exact lift_runs ha rfl

theorem withdraw_waiters (d : Device) (w : Waiter) : (d.withdraw w).sync.waiters = d.sync.waiters := by
  unfold Device.withdraw
  split
  · rfl
  · split <;> rfl

theorem leaveFor_waiters {d : Device} {obj tenant : Nat} {y : SyncObj} (hy : Tbl.find? d.sync.objs obj = some y) (ht : y.tenant = tenant)
    (src : Coord) (ref : Nat) : (d.leaveFor src tenant obj ref).sync.waiters =
      d.sync.waiters.filter (fun w => !decide (w.core = none ∧ w.dev = src ∧ w.ref = ref ∧ w.obj = obj)) := by
  have hfold : ∀ (l : List Waiter) (d : Device), (l.foldl (fun d w => d.withdraw w) d).sync.waiters = d.sync.waiters := fun l => by
    induction l with
    | nil => exact fun _ => rfl
    | cons w l ih => exact fun d => (ih _).trans (withdraw_waiters d w)
  unfold Device.leaveFor
  rw [hy]
  dsimp only
  rw [if_neg (Classical.not_not.mpr ht), hfold]
  rfl

/-! ### What an operation comes to -/

section
variable {d : Device} {obj : Nat} {y : SyncObj} (h : Tbl.find? d.sync.objs obj = some y) (a : Word) (w : Waiter)
include h

theorem syncApply_wait_done (hl : y.lost = false) : (d.syncApply obj 1 a w).1 = .done ↔ (y.value - a).toNat < 2 ^ 31 := by
  rw [syncApply_wait a w h hl]
  unfold waitHolds
  split
  next hw => exact ⟨fun _ => of_decide_eq_true hw, fun _ => rfl⟩
  next hw =>
    refine ⟨fun hd => ?_, fun hv => absurd (decide_eq_true hv) hw⟩
    split at hd <;> exact SyncRes.noConfusion hd

/-- An ARRIVE on a lost object, with a count out of range or against the open generation's, is a fault and leaves everything. -/
theorem syncApply_arrive_fault (hf : y.lost = true ∨ a = 0#32 ∨ 65535 < a.toNat ∨ (y.barrier ≠ 0 ∧ y.barrier ≠ a.toNat)) :
    d.syncApply obj 2 a w = (.fault, d) := by
  unfold Device.syncApply
  rw [h]
  dsimp only
  by_cases hl : y.lost = true
  · exact if_pos hl
  · rw [if_neg hl, if_neg (by decide), if_neg (by decide)]
    refine if_pos ?_
    obtain hl' | h0 | hbig | hb := hf
    · exact absurd hl' hl
    · exact .inl (by rw [h0]; rfl)
    · exact .inr (.inl hbig)
    · exact .inr (.inr hb)

theorem syncApply_arrive_waits (hw : (d.syncApply obj 2 a w).1 = .waiting) :
    Tbl.find? (d.syncApply obj 2 a w).2.sync.objs obj = some { y with barrier := a.toNat, arrivals := y.arrivals + 1 } := by
  by_cases hf : y.lost = true ∨ a = 0#32 ∨ 65535 < a.toNat ∨ (y.barrier ≠ 0 ∧ y.barrier ≠ a.toNat)
  · rw [syncApply_arrive_fault h a w hf] at hw
    exact SyncRes.noConfusion hw
  · simp only [not_or, not_and, Classical.not_not, Nat.not_lt] at hf
    obtain ⟨hl, h0, hbig, hb⟩ := hf
    have hpos : 0 < a.toNat := Nat.pos_of_ne_zero (fun hz => h0 (BitVec.eq_of_toNat_eq hz))
    rw [syncApply_arrive a w h (Bool.eq_false_iff.mpr hl) hpos hbig (Classical.or_iff_not_imp_left.mpr hb)] at hw ⊢
    split at hw
    · exact SyncRes.noConfusion hw
    next hlast =>
      split at hw
      · exact SyncRes.noConfusion hw
      next hroom =>
        rw [if_neg hlast, if_neg hroom]
        exact Tbl.find?_put_same _ _ _

end

/-! ### Operations sent to other devices -/

section
variable {s : State} (ha : s.alive = true) {ref : Nat} {y : RemoteOp} (hy : s.dev.remoteOp? ref = some y)
include ha hy

theorem satisfied_eq : exec (.syncPacketReceive (.satisfied ref)) s = s.goes ((s.dev.dropRemote ref).elasticDone y.core y.op s.dev.cyc) := by
  unfold exec execSyncPacketReceive
  refine lift_runs ha ?_
  dsimp only
  rw [hy]

theorem syncFault_eq : exec (.syncPacketReceive (.fault ref)) s = s.goes ((s.dev.dropRemote ref).syncFaultStep y.core) := by
  unfold exec execSyncPacketReceive
  refine lift_runs ha ?_
  dsimp only
  rw [hy]

end

/-- An operation sent to another device that is sent again, and waits for no retry any more. -/
def Device.sentAgain (d : Device) (ref u : Nat) : Device :=
  (d.reach u).setSync { d.sync with remote := d.sync.remote.map (fun y => if y.ident = ref then { y with retryAt := none } else y) }

theorem remoteRetry_eq {s : State} (ha : s.alive = true) {ref u : Nat} {y : RemoteOp} (hy : s.dev.remoteOp? ref = some y)
    (hu : y.retryAt = some u) : exec (.remoteWaiterRetry ref) s =
      s.goes (((s.dev.sentAgain ref u).bump (key 0xB030 5) 1).send (.sync y.dest y.msg)) := by
  unfold exec execRemoteWaiterRetry
  refine lift_runs ha ?_
  dsimp only
  rw [hy]
  dsimp only
  rw [hu]
  rfl

theorem find?_retryCleared (ref : Nat) (l : List RemoteOp) :
    (l.map (fun y => if y.ident = ref then { y with retryAt := none } else y)).find? (fun r => decide (r.ident = ref)) =
      (l.find? (fun r => decide (r.ident = ref))).map (fun y => { y with retryAt := none }) := by
  induction l with
  | nil => rfl
  | cons r l ih =>
    rw [List.map_cons]
    by_cases hr : r.ident = ref
    · simp [hr]
    · rw [if_neg hr, List.find?_cons_of_neg (by simpa using hr), List.find?_cons_of_neg (by simpa using hr), ih]

theorem sentAgain_remoteOp {d : Device} {ref : Nat} {y : RemoteOp} (u : Nat) (hy : d.remoteOp? ref = some y) :
    (d.sentAgain ref u).remoteOp? ref = some { y with retryAt := none } :=
  (find?_retryCleared ref d.sync.remote).trans (congrArg (Option.map fun (y : RemoteOp) => { y with retryAt := none }) hy)

theorem sentAgain_rest (d : Device) (ref u : Nat) : (d.sentAgain ref u).out = d.out ∧ (d.sentAgain ref u).ctrs = d.ctrs := by
  obtain ⟨-, -, -, hc⟩ := reach_links d u
  obtain ⟨-, -, -, -, -, ho⟩ := reach_frame d u
  exact ⟨ho, hc⟩

theorem remoteRetry_spec {d : Device} {ref u : Nat} {y : RemoteOp} (hy : d.remoteOp? ref = some y) (m : OutMsg) :
    let v := ((d.sentAgain ref u).bump (key 0xB030 5) 1).send m
    v.out = d.out ++ [m] ∧ v.ctr (key 0xB030 5) = min (2 ^ 64 - 1) (d.ctr (key 0xB030 5) + 1) ∧
      v.remoteOp? ref = some { y with retryAt := none } := by
  obtain ⟨ho, hc⟩ := sentAgain_rest d ref u
  refine ⟨congrArg (· ++ [m]) ho, ?_, sentAgain_remoteOp u hy⟩
  have hctr : (d.sentAgain ref u).ctr (key 0xB030 5) = d.ctr (key 0xB030 5) := congrArg (fun t => Tbl.get 0 t (key 0xB030 5)) hc
  exact (Device.ctr_bump_same (d := d.sentAgain ref u) (key 0xB030 5) 1).trans (by rw [hctr])

/-! ### The statement -/

/-- A device that answers is reachable again, and no port moves (R300). -/
theorem echoAnswered_spec (d : Device) (dev : Coord) :
    (∀ y, y ∈ (d.echoAnswered dev).fab.unreachable ↔ y ≠ dev ∧ y ∈ d.fab.unreachable) ∧
      ∀ q, ((d.echoAnswered dev).port q).kept = (d.port q).kept := by
  obtain ⟨hports, -⟩ := LinkKeep.setReachable (d.dropEchoes dev) dev
  exact ⟨Device.setReachable_list (d.dropEchoes dev) dev, hports⟩

/-- An echo that is not answered in time makes its device unreachable (R300). -/
theorem echoLost_spec (d : Device) (u : Nat) (dev : Coord) :
    (∀ y, y ∈ (((d.reach u).dropEchoes dev).setUnreachable dev).fab.unreachable ↔ y = dev ∨ y ∈ d.fab.unreachable) ∧
      ∀ e ∈ (((d.reach u).dropEchoes dev).setUnreachable dev).fab.echoes, e.1 ≠ dev := by
  obtain ⟨hun, -⟩ := reach_links d u
  refine ⟨fun y => (Device.setUnreachable_list ((d.reach u).dropEchoes dev) dev y).trans ?_, ?_⟩
  · rw [show ((d.reach u).dropEchoes dev).fab.unreachable = d.fab.unreachable from hun]
  · rw [Device.setUnreachable_echoes]
    exact echoes_dropEchoes _ dev

/-- A notice changes what is known of its link and no port (R297). -/
theorem routeNotice_spec (d : Device) (l : Coord × Nat) (up : Bool) :
    let v := d.withRoutes (fun d => d.keepParent (Device.noteLink l up))
    (l ∈ v.fab.down ↔ up = false) ∧ (∀ k, k ≠ l → (k ∈ v.fab.down ↔ k ∈ d.fab.down)) ∧ ∀ q, (v.port q).kept = (d.port q).kept := by
  obtain ⟨hports, hdown, -⟩ := LinkKeep.changeRoutes d (Device.noteLink l up)
  obtain ⟨hl, hother⟩ := noteLink_down d l up
  dsimp only
  rw [hdown]
  exact ⟨hl, hother, hports⟩

/-- Settles O53: the reorder table, notices, probes, fabric time and operations on objects each by the lemmas above. -/
theorem fabricServices : Obligations.FabricServices := by
  unfold Obligations.FabricServices
  intro p up dev src chan flow t1 t2 t3 t4 s ha d x now
  refine ⟨fun u q c k => ⟨inSequence_new q, fun e he => ⟨inSequence_next q he, inSequence_late q he, fun h0 h1 hnew => ?_⟩⟩,
    fun e he => ⟨holdExpiry_eq ha he, fun hh => ⟨_, entryIdle_eq ha he hh, reorder_dropReorder _ _ _ _, rfl⟩⟩,
    fun hs => ⟨_, routeNotice_eq ha hs, routeNotice_spec d _ up⟩,
    fun hd => ⟨probeWait_unrouted ha hd, fun hr hno => ⟨_, probeWait_probes ha hd hr hno, probe_spec d dev⟩⟩,
    fun e he => ⟨_, probeTimeout_eq ha he, echoLost_spec d _ dev⟩,
    ⟨_, echoAnswer_eq ha, echoAnswered_spec d dev⟩, fun hst => ⟨timeExchangeSend_eq ha hst, ?_⟩, ?_, ?_⟩
  · intro v
    refine ⟨fun hroom => (inSequence_held q he h0 h1 hnew).trans (if_pos hroom), fun hfull g hg => ?_⟩
    rw [inSequence_held q he h0 h1 hnew, if_neg (Nat.not_lt.mpr hfull), hg]
    rfl
  · intro u v
    obtain ⟨hoff, hstep, hslew, hlock⟩ := exchanged_spec (d.flitSeen p.val) (timeOffset t1 t2 t3 t4)
    refine ⟨timeFlit_other ha hst t1 t2 t3 t4, fun hp => ⟨timeFlit_parent ha hst t1 t2 t3 t4 hp, hoff, ?_⟩⟩
    rw [show v.fab.offset = timeOffset t1 t2 t3 t4 from hoff]
    exact ⟨hstep, hslew, hlock⟩
  · intro obj ten op a ref y hy w v
    have harr : op = 2 → v = d.syncApply obj.toNat 2 a w := fun h => by rw [show v = d.syncApply obj.toNat op.val a w from rfl, h]; rfl
    refine ⟨physicalOp_foreign ha hy op a ref, fun ht => ⟨fun hr => physicalOp_own ha hy op a ref ht hr,
      fun hr => physicalOp_own ha hy op a ref ht hr, fun hr => physicalOp_own ha hy op a ref ht hr,
      fun hr => physicalOp_own ha hy op a ref ht hr⟩, fun hl hop => ?_, fun hop hf => ?_, fun hop hw => ?_,
      fun ht => ⟨_, physicalLeave_eq ha src ten obj ref, leaveFor_waiters hy ht src ref⟩⟩
    · have hv : v = d.syncApply obj.toNat 1 a w := by rw [show v = d.syncApply obj.toNat op.val a w from rfl, hop]; rfl
      rw [hv]
      exact syncApply_wait_done hy a w hl
    · rw [harr hop, syncApply_arrive_fault hy a w hf]
      exact ⟨rfl, rfl⟩
    · rw [harr hop] at hw ⊢
      exact syncApply_arrive_waits hy a w hw
  · intro ref y hy
    exact ⟨satisfied_eq ha hy, syncFault_eq ha hy, fun u hu => ⟨_, remoteRetry_eq ha hy hu, remoteRetry_spec hy _⟩⟩

end Sys2Proof.Machine
end

section
/-!
SUPPORT. The security tile (R347–R353, R355, R356, R366, R367, R370): images, attestation, unlock, the scan of the tile and
spore packs.
-/
namespace Sys2Proof.Machine

/-! ### What the tile's rules leave alone -/

/-- The answer to a WRITE moves nothing but the dictionary and what is sent. -/
theorem Calm.finishWrite (d : Device) (k : Option (List Byte)) (r : Req) (i j : Nat) (critical : Bool) (st : Nat) (p : List Byte) :
    Calm d (d.finishWrite k r i j critical st p) := by
  unfold Device.finishWrite
  dsimp only
  refine Calm.trans ?_ (Device.respondKey_spec _ _ _ _ _ _ _ _ _ _).1.calm
  refine (Calm.bump d (key 0x5020 8) 1).trans (Calm.ite ?_ (.refl _))
  unfold Device.recordResult
  split
  · exact .refl _
  · exact ⟨rfl, rfl, rfl, rfl, rfl, rfl, rfl, rfl, rfl, rfl, rfl, rfl, rfl, rfl, rfl, rfl, [], (List.append_nil _).symm⟩

theorem Calm.answerImage (d : Device) (r : Option Req) (st : Nat) (p : List Byte) : Calm d (d.answerImage r st p) := by
  cases r with
  | none => exact .refl d
  | some r => exact .finishWrite _ _ _ _ _ _ _ _

theorem readyBit_sec (d : Device) (b : Nat) : (d.readyBit b).sec = d.sec := by
  unfold Device.readyBit
  split
  · rfl
  · exact (Calm.notify _ _ _ _ _ _ _ _).sec

/-- A readiness point that is reached stands in the mask. -/
theorem readyBit_stands (d : Device) {b : Nat} (hb : b < 7) : (d.readyBit b).clk.ready.getLsbD b = true := by
  rw [readyBit_clk]
  simp [hb]

/-! ### Images pushed and pulled (R349) -/

section
variable {r : Req} {o : ObjRow} {s : State} {v : List Byte} {e : Device} (ht : s.takes 0x1020 0 ruleImageLoad r o v e)
include ht

theorem imageLoad_long (hv : 4197924 < v.length) : exec (.imageLoad r) s = s.told e 0x1020 0 o r 0x07 [] e := by
  refine takes_eq ht rfl (st := 0x07) ?_ (by decide)
  exact if_pos hv

theorem imageLoad_busy (hv : v.length ≤ 4197924) (hb : e.sec.verifying ≠ none) :
    exec (.imageLoad r) s = s.told e 0x1020 0 o r 0x08 [] e := by
  refine takes_eq ht rfl (st := 0x08) ?_ (by decide)
  exact (if_neg (Nat.not_lt.mpr hv)).trans (if_pos (Option.isSome_iff_ne_none.mpr hb))

/-- An image within the limit goes to verification, and its write is answered when that ends. -/
theorem imageLoad_taken (hv : v.length ≤ 4197924) (hb : e.sec.verifying = none) :
    exec (.imageLoad r) s = s.goes (e.setSec { e.sec with verifying := some (v, some r) }) := by
  have hrun : ruleImageLoad.run e r v = ⟨0x100, [], e.setSec { e.sec with verifying := some (v, some r) }⟩ :=
    (if_neg (Nat.not_lt.mpr hv)).trans (if_neg (by rw [hb]; decide))
  obtain ⟨hpending, -⟩ := takes_run ht rfl (c := .imageLoad r)
  rw [hrun] at hpending
  exact hpending rfl

end

section
variable {s : State} (ha : s.alive = true) (hrun : s.dev.sec.running = [])
include ha hrun

theorem imagePull_eq : exec .imagePull s =
    let e := s.dev.reach (s.dev.sec.pullAt + s.dev.reg (key 0x1010 5) * 1000000)
    s.goes ((e.setSec { e.sec with pullAt := e.clk.up }).askImage 0) := by
  unfold exec execImagePull
  exact lift_runs ha (if_neg (Classical.not_not.mpr hrun))

variable {p : PortIx} (hp : s.dev.sec.pullPort = some p.val)
include hp

theorem pullResponse_empty : exec (.imagePullResponse p []) s = s.goes (s.dev.askImage (p.val + 1)) := by
  unfold exec execImagePullResponse
  refine lift_runs ha ?_
  unfold Device.pullAnswer
  exact (if_neg (fun h => h.elim (· hrun) (· hp))).trans (if_pos rfl)

theorem pullResponse_image {env : List Byte} (he : env ≠ []) (hv : s.dev.sec.verifying = none) :
    exec (.imagePullResponse p env) s = s.goes (s.dev.setSec { s.dev.sec with
      pullPort := none, pullGot := [], verifying := some (env, none) }) := by
  unfold exec execImagePullResponse
  refine lift_runs ha ?_
  unfold Device.pullAnswer
  refine (if_neg (fun h => h.elim (· hrun) (· hp))).trans ((if_neg he).trans ?_)
  exact if_neg (not_of_false ((congrArg Option.isSome hv).trans rfl))

end

theorem askImage_none {e : Device} {n : Nat} (h : e.nextPull n = none) : (e.askImage n).sec.pullPort = none := by
  unfold Device.askImage
  rw [h]
  rfl

/-- The neighbour asked is the next one that is up. -/
theorem askImage_some {e : Device} {n q : Nat} (h : e.nextPull n = some q) : n ≤ q ∧ e.portUp q = true ∧
    (e.askImage n).sec.pullPort = some q ∧ ∃ rest, (e.askImage n).out = e.out ++ .imagePull q :: rest := by
  have hmem := (List.mem_filter.mp (List.mem_of_find?_eq_some h)).2
  have hask : e.askImage n = ((e.setSec { e.sec with pullPort := some q, pullGot := [] }).send (.imagePull q)).readImage q 0 := by
    unfold Device.askImage
    rw [h]
  have hcalm : Calm ((e.setSec { e.sec with pullPort := some q, pullGot := [] }).send (.imagePull q)) (e.askImage n) := by
    rw [hask]
    exact Calm.sendPdu _ _ _ _ _ _ _
  obtain ⟨l, hl⟩ := hcalm.out
  exact ⟨of_decide_eq_true hmem, List.find?_some h, by rw [hcalm.sec]; rfl, l, hl.trans (List.append_assoc e.out [OutMsg.imagePull q] l)⟩

/-! ### Verification and start (R348, R350) -/

theorem envFault_eq (d : Device) (kind : Nat) (e : List Byte) : d.envFault kind e =
    if envForm kind e = false then some 1 else if envSigned e = false then some 2
    else if kind = 1 ∧ envVersion e < d.sec.floor then some 3 else none := by
  unfold Device.envFault
  cases envForm kind e <;> cases envSigned e <;> rfl

theorem envFault_image (d : Device) (img : List Byte) (f : Nat) : d.envFault 1 img = some f ↔
    (f = 1 ∧ envForm 1 img = false) ∨ (f = 2 ∧ envForm 1 img = true ∧ envSigned img = false) ∨
      (f = 3 ∧ envForm 1 img = true ∧ envSigned img = true ∧ envVersion img < d.sec.floor) := by
  have hsome : ∀ n : Nat, some n = some f ↔ f = n := fun n => (Option.some_inj).trans eq_comm
  rw [envFault_eq]
  by_cases hf : envForm 1 img = false
  · rw [if_pos hf, hsome]
    simp [hf]
  · rw [if_neg hf]
    rw [Bool.not_eq_false] at hf
    by_cases hs : envSigned img = false
    · rw [if_pos hs, hsome]
      simp [hf, hs]
    · rw [if_neg hs]
      rw [Bool.not_eq_false] at hs
      by_cases hv : envVersion img < d.sec.floor
      · rw [if_pos ⟨rfl, hv⟩, hsome]
        simp [hf, hs, hv]
      · rw [if_neg (fun h => hv h.2)]
        simp [hf, hs, hv]

/-- The device whose verification has ended. -/
def Device.verified (d : Device) : Device := d.setSec { d.sec with verifying := none }

/-- The device whose verified image runs, unless one runs already. -/
def Device.imageRuns (d : Device) (img : List Byte) : Device :=
  if d.sec.running = [] then (d.setSec { d.sec with running := img, pullPort := none }).readyBit 6 else d

section
variable {s : State} (ha : s.alive = true) {img : List Byte} {q : Option Req} (hv : s.dev.sec.verifying = some (img, q))
include ha hv

theorem imageStart_rejects {f : Nat} (hf : s.dev.envFault 1 img = some f) : exec .imageStart s =
    s.goes (s.dev.verified.rejected.answerImage q dRefused [BitVec.ofNat 8 f]) := by
  unfold exec execImageStart
  refine lift_runs ha ?_
  dsimp only
  rw [hv]
  dsimp only
  rw [show (s.dev.setSec { s.dev.sec with verifying := none }).envFault 1 img = some f from hf]
  rfl

theorem imageStart_starts (hf : s.dev.envFault 1 img = none) : exec .imageStart s =
    s.goes ((s.dev.verified.imageRuns img).answerImage q dOk []) := by
  unfold exec execImageStart
  refine lift_runs ha ?_
  dsimp only
  rw [hv]
  dsimp only
  rw [show (s.dev.setSec { s.dev.sec with verifying := none }).envFault 1 img = none from hf]
  rfl

end

theorem imageRejected_spec (d : Device) (q : Option Req) (p : List Byte) :
    let u := d.verified.rejected.answerImage q dRefused p
    u.sec.running = d.sec.running ∧ u.sec.verifying = none ∧ u.sec.rejected = min (2 ^ 32 - 1) (d.sec.rejected + 1) := by
  dsimp only
  rw [(Calm.answerImage _ _ _ _).sec]
  exact ⟨rfl, rfl, rfl⟩

theorem imageRuns_sec (d : Device) (img : List Byte) : (d.imageRuns img).sec =
    if d.sec.running = [] then { d.sec with running := img, pullPort := none } else d.sec := by
  unfold Device.imageRuns
  split
  · exact readyBit_sec _ 6
  · rfl

theorem imageStarted_spec (d : Device) (img : List Byte) (q : Option Req) :
    let u := (d.verified.imageRuns img).answerImage q dOk []
    u.sec.verifying = none ∧ u.sec.rejected = d.sec.rejected ∧
      u.sec.running = (if d.sec.running = [] then img else d.sec.running) ∧ (d.sec.running = [] → u.clk.ready.getLsbD 6 = true) := by
  dsimp only
  rw [(Calm.answerImage _ _ _ _).sec, (Calm.answerImage _ _ _ _).clk, imageRuns_sec]
  by_cases h : d.sec.running = []
  · have hrun : d.verified.sec.running = [] := h
    rw [if_pos hrun, if_pos h, Device.imageRuns, if_pos hrun]
    exact ⟨rfl, rfl, rfl, fun _ => readyBit_stands _ (by decide)⟩
  · have hrun : ¬ d.verified.sec.running = [] := h
    rw [if_neg hrun, if_neg h]
    exact ⟨rfl, rfl, rfl, fun hn => absurd hn h⟩

/-! ### The floor -/

section
variable {r : Req} {o : ObjRow} {s : State} (hw : s.writes 0x1010 6 ruleRaiseFloor r o) (hf : scalarFault o r.payload = none)
include hw hf

theorem raiseFloor_none (hrun : (s.dev.counted 0x1010 o r).sec.running = []) :
    exec (.raiseFloor r) s = s.wrote 0x1010 6 o r 0x0B [] (s.dev.counted 0x1010 o r) :=
  valued_wrote hw hf rfl (by decide +kernel) rfl (if_pos hrun)

variable (hrun : (s.dev.counted 0x1010 o r).sec.running ≠ [])
include hrun

theorem raiseFloor_below (hv : (s.dev.counted 0x1010 o r).sec.imageVersion < (s.dev.counted 0x1010 o r).sec.floor) :
    exec (.raiseFloor r) s = s.wrote 0x1010 6 o r 0x06 [] (s.dev.counted 0x1010 o r) :=
  valued_wrote hw hf rfl (by decide +kernel) rfl ((if_neg hrun).trans (if_pos hv))

theorem raiseFloor_raises (hv : (s.dev.counted 0x1010 o r).sec.floor ≤ (s.dev.counted 0x1010 o r).sec.imageVersion) :
    exec (.raiseFloor r) s = s.wrote 0x1010 6 o r 0x00 [] ((s.dev.counted 0x1010 o r).setSec { (s.dev.counted 0x1010 o r).sec with
      floor := (s.dev.counted 0x1010 o r).sec.imageVersion }) :=
  valued_wrote hw hf rfl (by decide +kernel) rfl ((if_neg hrun).trans (if_neg (Nat.not_lt.mpr hv)))

end

/-! ### Attestation (R351–R353) -/

/-- The device whose attestation stays off for this boot. -/
def Device.attestationOff (d : Device) : Device := d.setSec { d.sec with attOff := true }

/-- The device whose leaf counter did not read back. -/
def Device.counterAdrift (d : Device) : Device :=
  d.fresh.2.setSec { d.fresh.2.sec with leafCounter := d.fresh.1.toNat % 32769, attOff := true }

/-- The device that has taken a new leaf and a new bottom tree. -/
def Device.leafTaken (d : Device) : Device :=
  ({ d with free := d.free + 1 } : Device).setSec { d.sec with
    leafCounter := d.sec.leafCounter + 1, topLeaf := d.sec.leafCounter, bottom := some d.free, leaves := 0, attReady := true }

theorem leaf_left {n : Nat} (hleaf : n < 32768) (hitem : Config.itemOk 7 = true) : ¬ (n ≥ 32768 ∨ Config.itemOk 7 = false) := by
  rw [hitem]
  exact fun h => h.elim (Nat.not_le.mpr hleaf) Bool.noConfusion

section
variable {s : State} (ha : s.alive = true) (hr : s.dev.sec.attReady = false) (ho : s.dev.sec.attOff = false) {pufOk readBack : Bool}
include ha hr ho

theorem attestation_noLeaf (h : 32768 ≤ s.dev.sec.leafCounter ∨ Config.itemOk 7 = false) :
    exec (.attestationReady pufOk readBack) s = s.goes s.dev.attestationOff := by
  unfold exec execAttestationReady
  exact lift_runs ha ((if_neg (by rw [hr, ho]; decide)).trans (if_pos h))

variable (hleaf : s.dev.sec.leafCounter < 32768) (hitem : Config.itemOk 7 = true)
include hleaf hitem

theorem attestation_noSeed (h : (pufOk && seedItems) = false) :
    exec (.attestationReady pufOk readBack) s = s.goes (s.dev.attestationOff.err tileAt 0x14 0) := by
  unfold exec execAttestationReady
  refine lift_runs ha ((if_neg (by rw [hr, ho]; decide)).trans ((if_neg (leaf_left hleaf hitem)).trans (if_pos ?_)))
  rw [h]
  rfl

variable (hseed : (pufOk && seedItems) = true)
include hseed

theorem attestation_adrift : exec (.attestationReady pufOk false) s = s.goes s.dev.counterAdrift := by
  unfold exec execAttestationReady
  refine lift_runs ha ((if_neg (by rw [hr, ho]; decide)).trans ((if_neg (leaf_left hleaf hitem)).trans ((if_neg ?_).trans (if_pos rfl))))
  rw [hseed]
  decide

theorem attestation_ready : exec (.attestationReady pufOk true) s = s.goes (s.dev.leafTaken.readyBit 5) := by
  unfold exec execAttestationReady
  refine lift_runs ha ((if_neg (by rw [hr, ho]; decide)).trans ((if_neg (leaf_left hleaf hitem)).trans ((if_neg ?_).trans (if_neg (by decide)))))
  rw [hseed]
  decide

end

theorem seed_fails {pufOk : Bool} (h : pufOk = false ∨ Config.itemOk 3 = false ∨ Config.itemOk 4 = false ∨ Config.itemOk 5 = false) :
    (pufOk && seedItems) = false := by
  unfold seedItems
  obtain h | h | h | h := h <;> simp [h]

theorem seed_holds {pufOk : Bool} (hp : pufOk = true) (h3 : Config.itemOk 3 = true) (h4 : Config.itemOk 4 = true)
    (h5 : Config.itemOk 5 = true) : (pufOk && seedItems) = true := by
  unfold seedItems
  rw [hp, h3, h4, h5]
  rfl

/-! ### Evidence (R352) -/

/-- The evidence of a request: the statement, its signature, the bottom key and that key's signature. -/
def Device.evidence (d : Device) (challenge : List Byte) (tenant : Nat) (source : Coord) : List Byte :=
  d.statement challenge tenant source ++
    (leBytes 2508 (Config.bottomSig (d.sec.bottom.getD 0) d.sec.leaves (d.statement challenge tenant source)).toNat ++
      leBytes 56 d.sec.bottomKey.toNat ++ leBytes 1612 (Config.topSig d.sec.topLeaf d.sec.bottomKey).toNat)

/-- The device that has stored evidence for a pair and used a leaf. -/
def Device.attest (d : Device) (tenant : Nat) (source : Coord) (b : List Byte) : Device :=
  d.setSec { d.sec.keep tenant source b with leaves := d.sec.leaves + 1 }

/-- What is stored for a pair is what a reader of that pair finds. -/
theorem evidenceFor_attest (d : Device) (tenant : Nat) (source : Coord) (b : List Byte) :
    (d.attest tenant source b).evidenceFor tenant source = b := by
  have hfind : (d.sec.keep tenant source b).evidence.find? (fun e => decide (e.1 = tenant ∧ e.2.1 = source)) =
      some (tenant, source, b) := by
    unfold SecS.keep
    dsimp only
    generalize hl : d.sec.evidence.filter (fun e => !decide (e.1 = tenant ∧ e.2.1 = source)) = l
    have hno : ∀ k, (l.drop k).find? (fun e => decide (e.1 = tenant ∧ e.2.1 = source)) = none := fun k => by
      refine List.find?_eq_none.mpr (fun e he => ?_)
      have hmem := List.mem_of_mem_drop he
      rw [← hl] at hmem
      have hpair := (List.mem_filter.mp hmem).2
      rw [Bool.not_eq_true'] at hpair
      exact not_of_false hpair
    rw [List.drop_append_of_le_length (by rw [List.length_append, List.length_singleton]; omega), List.find?_append, hno]
    simp
  have hev : (d.attest tenant source b).sec.evidence = (d.sec.keep tenant source b).evidence := rfl
  unfold Device.evidenceFor
  rw [hev, hfind]

section
variable {r : Req} {o : ObjRow} {s : State} (hw : s.writes 0x1030 0 ruleAttestation r o) (hn : r.payload.length = 32)
include hw hn

theorem attestationRequest_off (h : (s.dev.counted 0x1030 o r).sec.attReady = false) :
    exec (.attestationRequest r) s = s.wrote 0x1030 0 o r 0x0B [] (s.dev.counted 0x1030 o r) :=
  sized_wrote hw hn rfl rfl (if_pos ((congrArg (!·) h).trans rfl))

variable (h : (s.dev.counted 0x1030 o r).sec.attReady = true)
include h

theorem attestationRequest_spent (hl : 1024 ≤ (s.dev.counted 0x1030 o r).sec.leaves) :
    exec (.attestationRequest r) s = s.wrote 0x1030 0 o r 0x0A [] (s.dev.counted 0x1030 o r) :=
  sized_wrote hw hn rfl rfl ((if_neg (not_of_false ((congrArg (!·) h).trans rfl))).trans (if_pos hl))

theorem attestationRequest_signs (hl : (s.dev.counted 0x1030 o r).sec.leaves < 1024) :
    exec (.attestationRequest r) s = s.wrote 0x1030 0 o r 0x00 [] ((s.dev.counted 0x1030 o r).attest r.tenant.toNat (reqSrc r)
      ((s.dev.counted 0x1030 o r).evidence r.payload r.tenant.toNat (reqSrc r))) := by
  refine sized_wrote hw hn rfl rfl ((if_neg (not_of_false ((congrArg (!·) h).trans rfl))).trans ((if_neg (Nat.not_le.mpr hl)).trans ?_))
  unfold Device.evidence
  rw [← List.append_assoc, ← List.append_assoc]
  rfl

end

/-! ### Diagnostics and the scan of the tile (R355, R370) -/

section
variable {r : Req} {o : ObjRow} {s : State} (hw : s.writes 0x1022 0 ruleUnlock r o)
include hw

theorem unlock_rejected {f : Nat} (hf : (s.dev.counted 0x1022 o r).envFault 3 r.payload = some f) :
    exec (.diagnosticUnlock r) s = s.wrote 0x1022 0 o r 0x0D [BitVec.ofNat 8 f] (s.dev.counted 0x1022 o r).rejected := by
  refine writes_eq hw rfl (st := 0x0D) ?_ (by decide)
  change runUnlock (s.dev.counted 0x1022 o r) r r.payload = _
  unfold runUnlock
  rw [hf]
  rfl

variable (hf : (s.dev.counted 0x1022 o r).envFault 3 r.payload = none)
include hf

theorem unlock_named (hb : (s.dev.counted 0x1022 o r).sec.bottom ≠ none)
    (hp : envPayload r.payload = leBytes 8 Config.deviceId.toNat ++ sha256 (leBytes 56 (s.dev.counted 0x1022 o r).sec.bottomKey.toNat)) :
    exec (.diagnosticUnlock r) s = s.wrote 0x1022 0 o r 0x00 []
      ((s.dev.counted 0x1022 o r).setSec { (s.dev.counted 0x1022 o r).sec with unlocked := true }) := by
  refine writes_eq hw rfl (st := 0x00) ?_ (by decide)
  change runUnlock (s.dev.counted 0x1022 o r) r r.payload = _
  unfold runUnlock
  rw [hf]
  exact if_pos (both_true (Option.isSome_iff_ne_none.mpr hb) (decide_eq_true hp))

theorem unlock_other (h : (s.dev.counted 0x1022 o r).sec.bottom = none ∨ envPayload r.payload ≠
      leBytes 8 Config.deviceId.toNat ++ sha256 (leBytes 56 (s.dev.counted 0x1022 o r).sec.bottomKey.toNat)) :
    exec (.diagnosticUnlock r) s = s.wrote 0x1022 0 o r 0x0D [4] (s.dev.counted 0x1022 o r) := by
  refine writes_eq hw rfl (st := 0x0D) ?_ (by decide)
  change runUnlock (s.dev.counted 0x1022 o r) r r.payload = _
  unfold runUnlock
  rw [hf]
  refine (if_neg ?_).trans rfl
  rw [Bool.and_eq_true, Option.isSome_iff_ne_none, decide_eq_true_iff]
  exact fun hboth => h.elim hboth.1 (fun hp => hp hboth.2)

end

/-- The scan of the tile clears the key slots and the bottom tree, and attestation is set up anew. -/
theorem clearSecrets_spec (d : Device) : d.clearSecrets.dict.keys = [] ∧ d.clearSecrets.sec.bottom = none ∧
    d.clearSecrets.sec.attReady = false ∧ d.clearSecrets.sec.leaves = 0 := ⟨rfl, rfl, rfl, rfl⟩

theorem scanTile_eq {r : Req} {o : ObjRow} {s : State} (hw : s.writes 0xA000 6 ruleScanTile r o) (hf : scalarFault o r.payload = none) :
    exec (.scanSecurityTile r) s = s.wrote 0xA000 6 o r 0x00 [] (s.dev.counted 0xA000 o r).clearSecrets :=
  valued_wrote hw hf rfl (by decide +kernel) rfl rfl

/-! ### Spore packs (R366, R367) -/

/-- The packs once those of an identifier are marked to go. -/
def Device.withdrawn (d : Device) (ident : Nat) : List Pack :=
  d.rel.packs.map (fun (q : Pack) => if q.ident = ident then { q with removed := true } else q)

/-- The device once a pack stands in its clusters, with the handles `x`. -/
def Device.packIn (d : Device) (x : Tbl Nat) (b : List Byte) : Device :=
  ((({ d with rel := { d.rel with packs := d.withdrawn (bits (wordAt b 0) 15 0) ++ [⟨bits (wordAt b 0) 15 0, wordAt b 1, bits (wordAt b 2) 7 0, b, false, x⟩] } } : Device).dropPacks).bump
    (key 0xA030 8) 1).notify 0x15 0 0xA021 0 (bits (wordAt b 0) 15 0) (wordAt b 1)

section
variable {r : Req} {o : ObjRow} {s : State} {v : List Byte} {e : Device} (ht : s.takes 0xA020 0 rulePackInstall r o v e)
include ht

theorem packInstall_rejected {f : Nat} (hf : e.envFault 2 v = some f) :
    exec (.sporePackInstall r) s = s.told e 0xA020 0 o r 0x0D [BitVec.ofNat 8 f] e.rejected := by
  refine takes_eq ht rfl (st := 0x0D) ?_ (by decide)
  change runPackInstall e r v = _
  unfold runPackInstall
  rw [hf]
  rfl

variable (hf : e.envFault 2 v = none)
include hf

theorem packInstall_faulty {f : Nat} (hp : e.packFault (envPayload v) = some f) :
    exec (.sporePackInstall r) s = s.told e 0xA020 0 o r 0x0D [BitVec.ofNat 8 f] e := by
  refine takes_eq ht rfl (st := 0x0D) ?_ (by decide)
  change runPackInstall e r v = _
  unfold runPackInstall
  rw [hf]
  dsimp only
  rw [hp]
  rfl

variable (hp : e.packFault (envPayload v) = none)
include hp

theorem packInstall_noSpace (hs : e.placePacks (envPayload v) e.readyClusters = none) :
    exec (.sporePackInstall r) s = s.told e 0xA020 0 o r 0x0A [] e := by
  refine takes_eq ht rfl (st := 0x0A) ?_ (by decide)
  change runPackInstall e r v = _
  unfold runPackInstall
  rw [hf]
  dsimp only
  rw [hp]
  dsimp only
  rw [hs]
  rfl

theorem packInstall_placed {x : Tbl Nat × Device} (hs : e.placePacks (envPayload v) e.readyClusters = some x) :
    exec (.sporePackInstall r) s = s.told e 0xA020 0 o r 0x00 [] (x.2.packIn x.1 (envPayload v)) := by
  refine takes_eq ht rfl (st := 0x00) ?_ (by decide)
  change runPackInstall e r v = _
  unfold runPackInstall
  rw [hf]
  dsimp only
  rw [hp]
  dsimp only
  rw [hs]
  rfl

end

theorem packRemove_eq {r : Req} {o : ObjRow} {s : State} (hw : s.writes 0xA022 0 rulePackRemove r o)
    (hf : scalarFault o r.payload = none) : exec (.sporePackRemove r) s =
      let e := s.dev.counted 0xA022 o r
      s.wrote 0xA022 0 o r 0x00 [] (({ e with rel := { e.rel with packs := e.withdrawn (ofLe r.payload) } } : Device).dropPacks) :=
  valued_wrote hw hf rfl (by decide +kernel) rfl rfl

theorem packs_foldl {α : Type} {f : Device → α → Device} (h : ∀ d a, (f d a).rel.packs = d.rel.packs) (l : List α) (d : Device) :
    (l.foldl f d).rel.packs = d.rel.packs := by
  induction l generalizing d with
  | nil => rfl
  | cons a l ih => exact (ih _).trans (h d a)

theorem startRelease_packs (d : Device) (h : Nat) : (d.startRelease h).rel.packs = d.rel.packs := by
  unfold Device.startRelease
  split <;> rfl

/-- Only packs that are removed and in no pass go. -/
theorem dropPacks_packs (d : Device) : d.dropPacks.rel.packs = d.rel.packs.filter (fun p => !(p.removed && !d.packUsed p)) := by
  unfold Device.dropPacks
  refine packs_foldl (fun d (p : Pack) => ?_) _ _
  exact packs_foldl (fun d (h : Nat × Nat) => startRelease_packs d h.2) p.handles d

theorem mem_dropPacks (d : Device) (q : Pack) : q ∈ d.dropPacks.rel.packs ↔
    q ∈ d.rel.packs ∧ (q.removed = false ∨ d.packUsed q = true) := by
  rw [dropPacks_packs, List.mem_filter]
  cases q.removed <;> cases d.packUsed q <;> simp

/-! ### The statement -/

/-- Settles O55: images, attestation, unlock, scan and packs each by the lemmas above. -/
theorem securityTile : Obligations.SecurityTile := by
  unfold Obligations.SecurityTile
  intro p env pufOk readBack r o s ha d v
  refine ⟨fun v e ht => ⟨imageLoad_long ht, imageLoad_busy ht, imageLoad_taken ht⟩,
    fun hrun => ⟨imagePull_eq ha hrun, fun hp => ⟨fun he => he ▸ pullResponse_empty ha hrun hp, pullResponse_image ha hrun hp⟩⟩,
    fun e n => ⟨askImage_none, fun q => askImage_some⟩, fun img q hv => ⟨fun f hf => ⟨_, imageStart_rejects ha hv hf, imageRejected_spec d q _⟩,
      fun hf => ⟨_, imageStart_starts ha hv hf, imageStarted_spec d img q⟩⟩,
    fun img f => envFault_image d img f, fun hw hf => ⟨raiseFloor_none hw hf, raiseFloor_below hw hf, raiseFloor_raises hw hf⟩,
    fun hr ho => ⟨attestation_noLeaf ha hr ho, fun hleaf hitem => ⟨fun h => attestation_noSeed ha hr ho hleaf hitem (seed_fails h), ?_, ?_⟩⟩,
    fun hw hn => ⟨attestationRequest_off hw hn, attestationRequest_spent hw hn, fun h hl => ⟨_, attestationRequest_signs hw hn h hl, rfl, ?_⟩⟩,
    fun hw => ⟨fun f hf => unlock_rejected hw hf, fun hf => ⟨unlock_named hw hf, unlock_other hw hf⟩⟩,
    fun hw hf => ⟨_, scanTile_eq hw hf, clearSecrets_spec _⟩,
    fun v e ht => ⟨fun f hf => packInstall_rejected ht hf, fun hf => ⟨fun f hp => packInstall_faulty ht hf hp,
      fun hp => ⟨packInstall_noSpace ht hf hp, fun x hx => packInstall_placed ht hf hp hx⟩⟩⟩,
    fun hw hf => packRemove_eq hw hf, fun e => ⟨fun q => (mem_dropPacks e q).mp, fun q hq hk => (mem_dropPacks e q).mpr ⟨hq, hk⟩⟩⟩
  · intro hp h3 h4 h5 hb
    subst hb
    exact ⟨_, attestation_adrift ha hr ho hleaf hitem (seed_holds hp h3 h4 h5), rfl, hr⟩
  · intro hp h3 h4 h5 hb
    subst hb
    have hsec := readyBit_sec s.dev.leafTaken 5
    refine ⟨_, attestation_ready ha hr ho hleaf hitem (seed_holds hp h3 h4 h5), ?_, ?_, ?_, ?_, readyBit_stands _ (by decide)⟩ <;> rw [hsec] <;> rfl
  · rw [evidenceFor_attest]
    exact List.take_left

end Sys2Proof.Machine
end

section
/-!
SUPPORT. Field-test passes, core health and replica digests (R361–R365, R368, R371–R376).
-/
namespace Sys2Proof.Machine

/-! ### What tells of a failure leaves the health records alone -/

theorem err_health (d : Device) (e : ErrAt) (k n i : Nat) : (d.err e k n).health i = d.health i := by
  unfold Device.err
  dsimp only
  split
  · rfl
  · split <;> rfl

theorem Sends.sendNotify (d : Device) (b : Bool) (x : Coord) (t n : Nat) (r : List Byte) : Sends d (d.sendNotify b x t n r) := by
  unfold Device.sendNotify
  dsimp only
  split
  · exact (Sends.send _ _).trans (Sends.send _ _)
  · exact (Sends.send _ _).trans (Sends.sendPdu _ _ _ _ _ _ _)

theorem rel_foldl {α : Type} {f : Device → α → Device} (h : ∀ d a, (f d a).rel = d.rel) (l : List α) (d : Device) :
    (l.foldl f d).rel = d.rel := by
  induction l generalizing d with
  | nil => rfl
  | cons a l ih => exact (ih _).trans (h d a)

theorem notifyOne_rel (d : Device) (a b c e x y z : Nat) : (d.notifyOne a b c e x y z).2.rel = d.rel := by
  unfold Device.notifyOne
  dsimp only
  rw [rel_foldl (fun d s => by
    split
    · exact (Sends.sendNotify _ _ _ _ _ _).rel
    · rfl), (Sends.sendNotify _ _ _ _ _ _).rel]
  exact (apply_ite Device.rel _ _ _).trans (ite_self _)

theorem notify_rel (d : Device) (a b c e x y z : Nat) : (d.notify a b c e x y z).rel = d.rel := by
  unfold Device.notify
  dsimp only
  split
  · exact (notifyOne_rel _ _ _ _ _ _ _ _).trans (notifyOne_rel d _ _ _ _ _ _ _)
  · exact notifyOne_rel d _ _ _ _ _ _ _

theorem notify_health (d : Device) (a b c e x y z i : Nat) : (d.notify a b c e x y z).health i = d.health i :=
  congrArg (fun r : RelS => Tbl.get Health.reset r.health i) (notify_rel d a b c e x y z)

/-! ### Passes (R361, R362) -/

/-- The device in which the pass that was open is closed at the instant a new one is due. -/
def Device.passClosed (d : Device) (i t : Nat) : Device :=
  if ((d.reach t).health i).openAt.isSome then (d.reach t).bump (key 0xA030 7) 1 else d.reach t

/-- The slices of a new pass: the one in progress comes first (R361). -/
def Device.newSlices (d : Device) (i : Nat) : List SliceId :=
  match Tbl.find? d.rel.runs i with
  | some q => q.slice :: d.passSlices i
  | none => d.passSlices i

section
variable {c : AnyCore} {s : State} (ha : s.alive = true)
include ha

theorem testPassOpen_eq {t : Nat} (hd : (s.dev.health c.val).passDue = some t) (ht : s.dev.testable c.val = true) :
    exec (.testPassOpen c) s =
      let f := s.dev.passClosed c.val t
      s.goes (((((f.setHealth c.val { (f.health c.val).closePass with
        passDue := some (t + f.reg (key 0xA000 1) * 1000000000) }).openPass c.val (f.newSlices c.val)).dropPacks).idleSlice c.val)) := by
  unfold exec execTestPassOpen
  refine lift_runs ha ?_
  dsimp only
  rw [hd]
  dsimp only
  exact if_neg (by rw [ht]; decide)

theorem passOverdue_eq {t : Nat} (ht : (s.dev.health c.val).openAt = some t) (ho : (s.dev.health c.val).overdue = false) :
    exec (.passOverdue c) s =
      let e := s.dev.reach (t + s.dev.reg (key 0xA000 2) * 1000000000)
      s.goes ((e.setHealth c.val ({ e.health c.val with overdue := true }.reserve e.clk.up)).idleSlice c.val) := by
  unfold exec execPassOverdue
  refine lift_runs ha ?_
  dsimp only
  rw [ht]
  exact if_neg (not_of_false ho)

theorem forcedSpacing_eq (hp : (s.dev.health c.val).openAt ≠ none) (ho : (s.dev.health c.val).overdue = true)
    (hr : (s.dev.health c.val).reserved = false) : exec (.forcedSpacingExpiry c) s =
      let e := s.dev.reach (s.dev.health c.val).spacing
      s.goes ((e.setHealth c.val ((e.health c.val).reserve e.clk.up)).idleSlice c.val) := by
  have hn : (s.dev.health c.val).openAt.isNone = false := by
    rw [Option.isNone_eq_false_iff, Option.isSome_iff_ne_none]
    exact hp
  unfold exec execForcedSpacingExpiry
  refine lift_runs ha (if_neg ?_)
  rw [hn, ho, hr]
  decide

end

theorem openPass_spec (f : Device) (i : Nat) (l : List SliceId) : let u := (f.openPass i l).health i
    u.openAt = some f.clk.up ∧ u.slices = l ∧ u.done = 0 ∧ u.overdue = false ∧ u.reserved = false ∧ u.flags = (f.health i).flags := by
  dsimp only
  unfold Device.openPass
  rw [Device.health_setHealth_same]
  exact ⟨rfl, rfl, rfl, rfl, rfl, rfl⟩

theorem reserve_spec (g : Health) (now : Nat) :
    (g.reserve now).reserved = (g.reserved || (g.openAt.isSome && g.overdue && decide (g.spacing ≤ now))) ∧
      (g.reserve now).flags = g.flags ∧ (g.reserve now).slices = g.slices := by
  unfold Health.reserve
  split
  next h => exact ⟨by rw [h, Bool.or_true], rfl, rfl⟩
  next h => exact ⟨by rw [Bool.eq_false_iff.mpr h, Bool.or_false], rfl, rfl⟩

/-! ### The end of a slice (R363, R364, R368) -/

section
variable {c : AnyCore} {s : State} (ha : s.alive = true)
include ha

section
variable {x : SliceResult} {q : SliceRun} {id v ix : Nat} {y : SliceRec}
  (hq : Tbl.find? (s.dev.takeEntries c.val).rel.runs c.val = some q) (hs : q.slice = .pack id v ix)
  (hy : (s.dev.takeEntries c.val).sliceRec? q.slice = some y)
include hq hs hy

theorem packSlice_waits (hst : q.started = false) : exec (.fieldTestSliceEnd c x) s = s.goes (s.dev.takeEntries c.val) := by
  unfold exec execFieldTestSliceEnd
  refine lift_runs ha ?_
  dsimp only
  rw [hq]
  dsimp only
  rw [hs] at hy ⊢
  rw [hy]
  exact if_pos ((congrArg (!·) hst).trans rfl)

theorem packSlice_ends (hst : q.started = true) {pk : Pack} (hp : (s.dev.takeEntries c.val).pack? id v = some pk) :
    exec (.fieldTestSliceEnd c x) s =
      s.goes (((s.dev.takeEntries c.val).runSlice c.val q pk.bytes y x).afterSlice c.val) := by
  unfold exec execFieldTestSliceEnd
  refine lift_runs ha ?_
  dsimp only
  rw [hq]
  dsimp only
  rw [hs] at hy ⊢
  rw [hy]
  refine (if_neg (not_of_false ((congrArg (!·) hst).trans rfl))).trans ?_
  rw [hp]

end

variable {q : SliceRun} {seg : Nat} (hq : Tbl.find? s.dev.rel.runs c.val = some q) (hs : q.slice = .scan seg)
include hq hs

theorem scanSlice_ends (pass : Bool) : exec (.logicScanSliceEnd c pass) s = s.goes
    (((if pass then s.dev.setHealth c.val ((s.dev.health c.val).passed q.slice) else s.dev.sliceFailed c.val q.slice).closeSlice
      c.val q).afterSlice c.val) := by
  unfold exec execLogicScanSliceEnd
  refine lift_runs ha ?_
  dsimp only
  rw [hq]
  have hk : q.slice.kind ≠ 0 := by
    rw [hs]
    exact Nat.one_ne_zero
  exact if_neg hk

end

/-! ### Flags of a core -/

theorem SliceId.kind_le (x : SliceId) : x.kind ≤ 1 := by
  cases x
  · exact Nat.zero_le _
  · exact Nat.le_refl _

theorem setFlag_same (h : Health) {k : Nat} (hk : k < 5) : (h.setFlag k).flags.getLsbD k = true := by
  unfold Health.setFlag
  simp [hk]

theorem clearFlag_same (h : Health) (k : Nat) : (h.clearFlag k).flags.getLsbD k = false := by
  unfold Health.clearFlag
  by_cases hk : k < 5 <;> simp [hk]

theorem clearFlag_cleared (h : Health) {k j : Nat} (hj : h.flags.getLsbD j = false) : (h.clearFlag k).flags.getLsbD j = false := by
  unfold Health.clearFlag
  rw [BitVec.getLsbD_and, hj, Bool.false_and]

theorem passed_other {g : Health} {y : SliceId} (h : y ∉ g.retest) : g.passed y = g := by
  unfold Health.passed
  exact if_neg (fun hc => h (List.contains_iff_mem.mp hc))

/-- The retests that a passing slice leaves. -/
def Health.retestsLeft (g : Health) (y : SliceId) : List SliceId := g.retest.filter (fun z => decide (z ≠ y))

theorem passed_eq {g : Health} {y : SliceId} (h : y ∈ g.retest) : g.passed y =
    let f := if (g.retestsLeft y).any (fun z => decide (z.kind = y.kind)) then { g with retest := g.retestsLeft y }
      else ({ g with retest := g.retestsLeft y } : Health).clearFlag y.kind
    if (g.retestsLeft y).isEmpty then f.clearFlag flRetest else f := by
  unfold Health.passed
  exact if_pos (List.contains_iff_mem.mpr h)

theorem passed_retest {g : Health} {y : SliceId} (h : y ∈ g.retest) : (g.passed y).retest = g.retestsLeft y := by
  rw [passed_eq h]
  dsimp only
  split <;> split <;> rfl

/-- A slice that passes leaves its own retest, and with the last retest the flags go (R371). -/
theorem passed_spec {g : Health} {y : SliceId} (h : y ∈ g.retest) : y ∉ (g.passed y).retest ∧
    ((∀ z ∈ g.retest, z = y) → (g.passed y).flags.getLsbD y.kind = false ∧ (g.passed y).flags.getLsbD 4 = false) := by
  refine ⟨?_, fun hall => ?_⟩
  · rw [passed_retest h]
    exact fun hy => of_decide_eq_true (List.mem_filter.mp hy).2 rfl
  · have hnil : g.retestsLeft y = [] := List.filter_eq_nil_iff.mpr (fun z hz => by rw [hall z hz]; simp)
    rw [passed_eq h, hnil]
    exact ⟨clearFlag_cleared _ (clearFlag_same _ _), clearFlag_same _ _⟩

/-- A slice that fails sets its flag and is news for the health function; the core stays enabled (R371). -/
theorem sliceFailed_spec (e : Device) (i : Nat) (y : SliceId) : let u := e.sliceFailed i y
    (u.health i).flags.getLsbD y.kind = true ∧ y ∈ (u.health i).news ∧ (u.health i).enabled = (e.health i).enabled := by
  have hrec : (e.sliceFailed i y).health i =
      { (e.health i).setFlag y.kind with news := (e.health i).news ++ [y], failing := (e.health i).done % 65536 } := by
    unfold Device.sliceFailed Device.testFailed
    rw [notify_health]
    exact (err_health _ _ _ _ _).trans (Device.health_setHealth_same _ _ _)
  dsimp only
  rw [hrec]
  have hk := y.kind_le
  exact ⟨setFlag_same _ (by omega), List.mem_append_right _ (List.mem_singleton.mpr rfl), rfl⟩

/-! ### The health function (R372, R373) -/

section
variable {c : AnyCore} {s : State} (ha : s.alive = true)
include ha

/-- With no engine out of use and at most one bad word, the function only reads the slices that failed. -/
theorem healthFlag_eq (hn : (s.dev.health c.val).noEngine = false) (hb : (s.dev.health c.val).badWords.length < 2) :
    exec (.healthFlagAction c) s = s.goes (((s.dev.health c.val).news.foldl (fun d x => d.readFailure c.val x)
      (s.dev.setHealth c.val { s.dev.health c.val with news := [], noEngine := false })).idleSlice c.val) := by
  unfold exec execHealthFlagAction
  refine lift_runs ha ?_
  dsimp only
  have hengine : ∀ b, ((s.dev.health c.val).noEngine && b) = false := fun b => by rw [hn, Bool.false_and]
  have hwords : ∀ a b, (decide (2 ≤ (s.dev.health c.val).badWords.length) && a && b) = false := fun a b => by
    rw [decide_eq_false (Nat.not_le.mpr hb), Bool.false_and, Bool.false_and]
  rw [if_neg (not_of_false (hengine _)), if_neg (not_of_false (hwords _ _))]

theorem coreDrained_eq (hm : s.dev.mayStop c.val = true) : exec (.coreDrained c) s =
    let e := s.dev.setHealth c.val { s.dev.health c.val with drained := true }
    s.goes (if c.val % 13 = 12 then e else e.dropPlans (cimOf c.val)) := by
  unfold exec execCoreDrained
  refine lift_runs ha ((if_pos hm).trans ?_)
  unfold isAttn
  by_cases h : c.val % 13 = 12
  · exact (if_pos (decide_eq_true h)).trans (if_pos h).symm
  · exact (if_neg (by simpa using h)).trans (if_neg h).symm

end

theorem mayStop_disabled {d : Device} {i : Nat} (h : d.mayStop i = true) :
    (d.health i).enabled = false ∧ (d.health i).drained = false := by
  unfold Device.mayStop at h
  simp only [Bool.and_eq_true, Bool.not_eq_true'] at h
  obtain ⟨⟨⟨he, hd⟩, -⟩, -⟩ := h
  exact ⟨he, hd⟩

section
variable {e : Device} {i : Nat} {y : SliceId}

theorem readFailure_ignored (h : e.trigger y.kind = false ∨ (e.health i).retired = true) : e.readFailure i y = e := by
  unfold Device.readFailure
  refine if_pos ?_
  obtain h | h := h
  · rw [h]; rfl
  · rw [h, Bool.or_true]

variable (ht : e.trigger y.kind = true) (hr : (e.health i).retired = false)
include ht hr

theorem readFailure_retires (h : e.reg (key 0xA050 2) = 0 ∨ y ∈ (e.health i).retest) :
    e.readFailure i y = e.retireCore i y.kind (e.health i).mode := by
  unfold Device.readFailure
  exact (if_neg (by rw [ht, hr]; decide)).trans (if_pos (h.imp_right List.contains_iff_mem.mpr))

theorem readFailure_retests (h0 : e.reg (key 0xA050 2) ≠ 0) (h : y ∉ (e.health i).retest) : e.readFailure i y = e.setRetest i y := by
  unfold Device.readFailure
  refine (if_neg (by rw [ht, hr]; decide)).trans (if_neg ?_)
  exact fun hor => hor.elim h0 (fun hc => h (List.contains_iff_mem.mp hc))

end

/-- The device whose open pass, or a new one, runs a slice again first. -/
def Device.retestFirst (d : Device) (i : Nat) (x : SliceId) : Device :=
  if (d.health i).openAt.isSome then d.setHealth i { d.health i with slices := x :: (d.health i).slices }
  else d.openPass i (x :: (d.passSlices i).filter (fun y => decide (y ≠ x)))

theorem retestFirst_spec (d : Device) (i : Nat) (x : SliceId) : x ∈ ((d.retestFirst i x).health i).slices ∧
    ((d.retestFirst i x).health i).enabled = (d.health i).enabled := by
  unfold Device.retestFirst Device.openPass
  split <;> rw [Device.health_setHealth_same] <;> exact ⟨List.mem_cons_self, rfl⟩

/-- A failure that is retested: the slice comes again in a pass that is overdue, and the core stays enabled (R372). -/
theorem setRetest_spec (d : Device) (i : Nat) (x : SliceId) : let u := (d.setRetest i x).health i
    u.flags.getLsbD 4 = true ∧ u.overdue = true ∧ x ∈ u.retest ∧ x ∈ u.slices ∧ u.enabled = (d.health i).enabled := by
  have hrec : ∃ now, (d.setRetest i x).health i = ({ ((d.retestFirst i x).health i).setFlag flRetest with overdue := true, retest := ((d.retestFirst i x).health i).retest ++ [x] } : Health).reserve now :=
    ⟨_, Device.health_setHealth_same _ _ _⟩
  obtain ⟨now, hrec⟩ := hrec
  obtain ⟨hs, he⟩ := retestFirst_spec d i x
  dsimp only
  rw [hrec]
  unfold Health.reserve
  split <;> exact ⟨setFlag_same _ (by decide), rfl, List.mem_append_right _ (List.mem_singleton.mpr rfl), hs, he⟩

/-! ### Replica digests (R374–R376) -/

theorem replica_setReplica_same (d : Device) (k : Nat) (x : Replica) : (d.setReplica k x).replica k = x := Tbl.get_set_same _ _ _ _

section
variable {inst : BitVec 10} {s : State} (ha : s.alive = true)
include ha

theorem replicaScan_starts (hs : s.dev.scans inst.toNat = true) (hn : (s.dev.replica inst.toNat).scanning = none)
    (hr : (s.dev.replica inst.toNat).roundsAt + s.dev.reg (key 0xA040 1) ≤ Tbl.get 0 s.dev.serv.roundCount inst.toNat) :
    exec (.replicaScanStart inst) s = s.goes (s.dev.setReplica inst.toNat { s.dev.replica inst.toNat with
      scanning := some s.dev.clk.up, roundsAt := Tbl.get 0 s.dev.serv.roundCount inst.toNat }) := by
  unfold exec execReplicaScanStart
  refine lift_runs ha (if_pos ?_)
  rw [hs, hn, decide_eq_true hr]
  rfl

theorem replicaScan_timesOut {t : Nat} (ht : (s.dev.replica inst.toNat).scanning = some t) : exec (.replicaScanTimeout inst) s =
    s.goes ((s.dev.reach (t + s.dev.reg (key 0xA040 3) * 1000000000)).dropScan inst.toNat) := by
  unfold exec execReplicaScanTimeout
  refine lift_runs ha ?_
  rw [ht]

theorem replicaDigest_kept {m : DigestMsg} (hm : m.member ∈ (s.dev.replica inst.toNat).members) (ho : m.member ≠ s.dev.fab.coord) :
    exec (.replicaDigestReceive inst m) s = s.goes (s.dev.setReplica inst.toNat { s.dev.replica inst.toNat with
      latest := (s.dev.replica inst.toNat).latest.filter (fun y => decide (y.member ≠ m.member)) ++ [m] }) := by
  unfold exec execReplicaDigestReceive
  refine lift_runs ha (if_pos ?_)
  exact both_true (List.contains_iff_mem.mpr hm) (decide_eq_true ho)

end

/-- The members of a replica set but this device. -/
def Device.otherMembers (d : Device) (k : Nat) : List Coord :=
  (d.replica k).members.filter (fun z => decide (z ≠ d.fab.coord))

/-- What a member sends of its local digests. -/
def Device.digestMsg (d : Device) (k : Nat) : DigestMsg :=
  ⟨d.fab.coord, BitVec.ofNat 32 (d.inst k).gen, d.clk.time, d.localDigests k⟩

/-- The device whose scan has ended with its local digests. -/
def Device.scanned (d : Device) (k : Nat) : Device :=
  d.setReplica k { d.replica k with scanning := none, mine := d.localDigests k, mineAt := d.clk.time.toNat }

theorem replicaScan_ends {inst : BitVec 10} {s : State} (ha : s.alive = true) (hs : (s.dev.replica inst.toNat).scanning ≠ none) :
    exec (.replicaScanDone inst) s = s.goes ((s.dev.localDigests inst.toNat).foldl (fun d z => d.judgeLayer inst.toNat z.1 z.2)
      (((s.dev.otherMembers inst.toNat).foldl (fun d z => d.send (.digests z inst.toNat (s.dev.digestMsg inst.toNat)))
        (s.dev.scanned inst.toNat)).bump (key 0xA041 1) 1)) := by
  have hn : (s.dev.replica inst.toNat).scanning.isNone = false := by
    rw [Option.isNone_eq_false_iff, Option.isSome_iff_ne_none]
    exact hs
  unfold exec execReplicaScanDone
  exact lift_runs ha (if_neg (not_of_false hn))

theorem reach_replica (d : Device) (u k : Nat) : (d.reach u).replica k = d.replica k := by
  unfold Device.reach Device.advance
  split <;> rfl

/-- A scan that takes too long is dropped and counted. -/
theorem scanDropped_spec {d : Device} {k t : Nat} (ht : (d.replica k).scanning = some t) (u : Nat) :
    (((d.reach u).dropScan k).replica k).scanning = none ∧
      ((d.reach u).dropScan k).ctr (key 0xA041 3) = min (2 ^ 64 - 1) (d.ctr (key 0xA041 3) + 1) := by
  have hs : ((d.reach u).replica k).scanning.isSome = true := by rw [reach_replica, ht]; rfl
  obtain ⟨-, -, -, hc⟩ := reach_links d u
  unfold Device.dropScan
  dsimp only
  rw [if_pos hs]
  refine ⟨congrArg Replica.scanning (replica_setReplica_same _ _ _), ?_⟩
  have hctr : (d.reach u).ctr (key 0xA041 3) = d.ctr (key 0xA041 3) := congrArg (fun t => Tbl.get 0 t (key 0xA041 3)) hc
  rw [Device.ctr_bump_same, ← hctr]
  rfl

/-! ### The comparison of a layer (R376) -/

theorem votes_all {vs : List (List Byte)} {b : List Byte} (hall : vs.all (fun v => decide (v = b)) = true) : votes vs b = vs.length := by
  unfold votes
  rw [List.filter_eq_self.mpr (List.all_eq_true.mp hall)]

section
variable {e : Device} {k l : Nat} {own : List Byte} (h : e.allLocal k l = false ∨ Tbl.find? (e.inst k).digests l = some own)
include h

theorem judgeLayer_eq : e.judgeLayer k l own =
    if (own :: e.compared k l).all (fun v => decide (v = own)) then e
    else if 2 * votes (own :: e.compared k l) own > (own :: e.compared k l).length then e.err { cls := 0, tenant := (e.inst k).tenant } 0x1D 0
    else if (own :: e.compared k l).any (fun v => decide (2 * votes (own :: e.compared k l) v > (own :: e.compared k l).length)) then e.expel k l
    else (e.err { cls := 0, tenant := (e.inst k).tenant } 0x1D 0).notify 0x12 (e.inst k).tenant 0xA040 0 k l := by
  unfold Device.judgeLayer
  dsimp only
  have hrec : (e.allLocal k l && decide (Tbl.find? (e.inst k).digests l ≠ some own)) = false := by
    obtain h | h := h
    · rw [h, Bool.false_and]
    · rw [h, decide_eq_false (Classical.not_not.mpr rfl), Bool.and_false]
  rw [if_neg (not_of_false hrec)]

theorem judgeLayer_agrees (hall : ∀ v ∈ e.compared k l, v = own) : e.judgeLayer k l own = e := by
  rw [judgeLayer_eq h]
  refine if_pos (List.all_eq_true.mpr (fun v hv => decide_eq_true ?_))
  exact (List.mem_cons.mp hv).elim id (hall v)

/-- A member whose digest is no majority's, where another is, expels its own replica. -/
theorem judgeLayer_expels (hown : 2 * votes (own :: e.compared k l) own ≤ (e.compared k l).length + 1)
    (hother : ∃ v ∈ e.compared k l, (e.compared k l).length + 1 < 2 * votes (own :: e.compared k l) v) :
    e.judgeLayer k l own = e.expel k l := by
  obtain ⟨v, hv, hmaj⟩ := hother
  have hno : ¬ 2 * votes (own :: e.compared k l) own > (own :: e.compared k l).length := Nat.not_lt.mpr hown
  rw [judgeLayer_eq h, if_neg ?_, if_neg hno, if_pos ?_]
  · exact List.any_eq_true.mpr ⟨v, List.mem_cons_of_mem _ hv, decide_eq_true hmaj⟩
  · intro hall
    rw [votes_all hall, List.length_cons] at hown
    omega

end

theorem coreHealthWrite_eq {r : Req} {o : ObjRow} {s : State} (hw : s.writes 0xA060 0 ruleCoreHealth r o)
    (hn : r.payload.length = 3328) : exec (.coreHealthWrite r) s = s.wrote 0xA060 0 o r 0x00 []
      ((s.dev.counted 0xA060 o r).mergeRecords 208 16 r.payload
        (fun d i b => d.writeHealth i (bit (wordAt b 0) 0) (bit (wordAt b 0) 1))) :=
  sized_wrote hw hn rfl rfl rfl

/-- Settles O56: passes, slices, flags and replica digests each by the lemmas above. -/
theorem healthAndReplicas : Obligations.HealthAndReplicas := by
  unfold Obligations.HealthAndReplicas
  intro c inst m x pass r o s ha d i h
  refine ⟨fun t hd ht => testPassOpen_eq ha hd ht, fun f l => openPass_spec f i l, fun t ht ho => passOverdue_eq ha ht ho,
    fun hp ho hr => forcedSpacing_eq ha hp ho hr, reserve_spec, fun q id v ix y hq hs hy =>
      ⟨packSlice_waits ha hq hs hy, fun hst pk hp => packSlice_ends ha hq hs hy hst hp⟩,
    fun q seg hq hs => ⟨fun hp => hp ▸ scanSlice_ends ha hq hs true, fun hp => hp ▸ scanSlice_ends ha hq hs false⟩,
    fun g y => ⟨passed_other, passed_spec⟩, fun e y => sliceFailed_spec e i y,
    fun hnews hn hb => (healthFlag_eq ha hn hb).trans (by rw [hnews]; rfl),
    fun y hnews hn hb => (healthFlag_eq ha hn hb).trans (by rw [hnews]; rfl),
    fun e y => ⟨readFailure_ignored, fun ht hr h0 hy => ?_, fun ht hr hor => readFailure_retires ht hr hor⟩,
    coreHealthWrite_eq, fun hm => ⟨coreDrained_eq ha hm, mayStop_disabled hm⟩, ?_⟩
  · intro u
    rw [show u = (e.setRetest i y).health i from congrArg (Device.health · i) (readFailure_retests ht hr h0 hy)]
    exact setRetest_spec e i y
  · intro k y
    refine ⟨replicaScan_starts ha, fun t ht => ⟨_, replicaScan_timesOut ha ht, scanDropped_spec ht _⟩,
      fun hm ho => ⟨_, replicaDigest_kept ha hm ho, ?_⟩,
      fun hs => ⟨replicaScan_ends ha hs, congrArg Device.out (foldl_send _ (d.otherMembers k) (d.scanned k))⟩,
      fun e l own h => ⟨judgeLayer_agrees h, judgeLayer_expels h⟩⟩
    rw [replica_setReplica_same]
    refine ⟨List.mem_append_right _ (List.mem_singleton.mpr rfl), fun z hz => ?_, rfl⟩
    obtain hz | hz := List.mem_append.mp hz
    · exact .inr (of_decide_eq_true (List.mem_filter.mp hz).2)
    · exact .inl (List.mem_singleton.mp hz)

end Sys2Proof.Machine
end

section
/-!
SUPPORT. Rotation of a batch (R54, R55, R60, R65): what the next work leaves of an engine, the start on free spares, and the
check of the copy.
-/
namespace Sys2Proof.Machine

/-! ### What the queues of work leave of an engine -/

/-- An engine with the stored bits and the class of another. -/
def Engine.sameStore (g h : Engine) : Prop := h.cells = g.cells ∧ h.cls = g.cls

namespace Engine.sameStore

theorem refl (g : Engine) : g.sameStore g := ⟨rfl, rfl⟩

theorem trans {f g h : Engine} (a : f.sameStore g) (b : g.sameStore h) : f.sameStore h := ⟨b.1.trans a.1, b.2.trans a.2⟩

theorem foldl {α : Type} {f : Engine → α → Engine} (h : ∀ (g : Engine) (a : α), g.sameStore (f g a)) (l : List α) (g : Engine) :
    g.sameStore (l.foldl f g) := by
  induction l generalizing g with
  | nil => exact refl g
  | cons a l ih => exact (h g a).trans (ih _)

theorem enqueue (g : Engine) (level : Nat) (cols : List Nat) : g.sameStore (g.enqueue level cols) := by
  unfold Engine.enqueue
  split <;> exact ⟨rfl, rfl⟩

theorem jobWork {g : Engine} {level : Nat} {r : List Nat × Nat × Engine} (h : g.jobWork level = some r) : g.sameStore r.2.2 := by
  unfold Engine.jobWork at h
  obtain ⟨x, -, rfl⟩ := Option.map_eq_some_iff.mp h
  exact ⟨rfl, rfl⟩

theorem nextWork (g : Engine) (now period : Nat) : g.sameStore (g.nextWork now period).2.2 := by
  unfold Engine.nextWork
  split
  · exact refl g
  · split
    next h => exact jobWork h
    · split
      next h => exact jobWork h
      · split
        next h => exact jobWork h
        · dsimp only
          split
          · exact trans ⟨rfl, rfl⟩ (foldl (fun g j => enqueue g _ _) _ _)
          · exact ⟨rfl, rfl⟩

theorem keepRest (g : Engine) (level : Nat) (rest : List Nat) : g.sameStore (g.keepRest level rest) := by
  unfold Engine.keepRest
  split
  · exact refl g
  · split
    · exact ⟨rfl, rfl⟩
    · split <;> exact ⟨rfl, rfl⟩

end Engine.sameStore

/-! ### Spares set in turn -/

@[simp] theorem spare_setSpare_same (g : Engine) (j : Nat) (x : Spare) : (g.setSpare j x).spare j = x := Tbl.get_set_same _ _ _ _

theorem spare_setSpare_other (g : Engine) {i j : Nat} (x : Spare) (h : i ≠ j) : (g.setSpare j x).spare i = g.spare i :=
  Tbl.get_set_other _ _ _ h

theorem spare_enqueue (g : Engine) (level : Nat) (cols : List Nat) (j : Nat) : (g.enqueue level cols).spare j = g.spare j := by
  unfold Engine.enqueue
  split <;> rfl

section
variable {α : Type} {f : Engine → α → Engine} {k : α → Nat} {v : α → Spare}
  (hsame : ∀ g x, (f g x).spare (k x) = v x) (hother : ∀ g x j, j ≠ k x → (f g x).spare j = g.spare j)
include hother

theorem spare_foldl_other (l : List α) (g : Engine) {j : Nat} (hj : j ∉ l.map k) : (l.foldl f g).spare j = g.spare j := by
  induction l generalizing g with
  | nil => rfl
  | cons x l ih =>
    rw [List.map_cons, List.mem_cons, not_or] at hj
    exact (ih _ hj.2).trans (hother g x j hj.1)

include hsame

/-- Different spares set in turn each hold what they were set to. -/
theorem spare_foldl (l : List α) (g : Engine) (hn : (l.map k).Nodup) : ∀ x ∈ l, (l.foldl f g).spare (k x) = v x := by
  induction l generalizing g with
  | nil => exact fun x hx => absurd hx List.not_mem_nil
  | cons y l ih =>
    rw [List.map_cons, List.nodup_cons] at hn
    intro x hx
    obtain rfl | hx := List.mem_cons.mp hx
    · exact (spare_foldl_other hother l _ hn.1).trans (hsame g x)
    · exact ih _ hn.2 x hx

end

theorem freeSpares_nodup (g : Engine) : g.freeSpares.Nodup := List.nodup_range.filter _

theorem zip_snd_sublist {α β : Type} (l : List α) (m : List β) : ((l.zip m).map (·.2)).Sublist m := by
  induction l generalizing m with
  | nil => exact List.nil_sublist m
  | cons a l ih =>
    cases m with
    | nil => exact List.Sublist.slnil
    | cons b m => exact (ih m).cons_cons b

theorem zip_spares_nodup (l : List Nat) (g : Engine) : ((l.zip g.freeSpares).map (·.2)).Nodup :=
  (zip_snd_sublist l _).nodup (freeSpares_nodup g)

/-! ### The start of a batch (R54, R60) -/

/-- The batch that begins on an engine: its columns on their spares, and no access made yet. -/
def Engine.rotating (g : Engine) (w : List Nat × Nat × Engine) (cols : List Nat) : Engine :=
  let prs := (cols.take g.freeSpares.length).zip g.freeSpares
  let h := prs.foldl (fun (g : Engine) x => g.setSpare x.2 ⟨x.1, 1⟩) (w.2.2.keepRest w.2.1 (cols.drop g.freeSpares.length)).freshWork
  { h with rot := some ⟨(cols.take g.freeSpares.length).headD 0 / 16, prs, 0, h.cls, 0#32, 0#32, 0#32, 0⟩ }

theorem rotating_fold (prs : List (Nat × Nat)) (g : Engine) : g.sameStore (prs.foldl (fun (g : Engine) x => g.setSpare x.2 ⟨x.1, 1⟩) g) ∧
    (prs.foldl (fun (g : Engine) x => g.setSpare x.2 ⟨x.1, 1⟩) g).work = g.work := by
  induction prs generalizing g with
  | nil => exact ⟨.refl g, rfl⟩
  | cons x l ih =>
    obtain ⟨hs, hw⟩ := ih (g.setSpare x.2 ⟨x.1, 1⟩)
    exact ⟨.trans ⟨rfl, rfl⟩ hs, hw⟩

theorem rotating_spec (g : Engine) {w : List Nat × Nat × Engine} (hw : g.sameStore w.2.2) (cols : List Nat) :
    let prs := (cols.take g.freeSpares.length).zip g.freeSpares
    (g.rotating w cols).rot = some ⟨(cols.take g.freeSpares.length).headD 0 / 16, prs, 0, g.cls, 0#32, 0#32, 0#32, 0⟩ ∧
      (g.rotating w cols).work = [] ∧ (g.rotating w cols).cells = g.cells ∧
      ∀ x ∈ prs, (g.rotating w cols).spare x.2 = ⟨x.1, 1⟩ := by
  intro prs
  obtain ⟨hstore, hwork⟩ := rotating_fold prs (w.2.2.keepRest w.2.1 (cols.drop g.freeSpares.length)).freshWork
  obtain ⟨hcells, hcls⟩ := hw.trans ((Engine.sameStore.keepRest _ w.2.1 (cols.drop g.freeSpares.length)).trans
    (.trans (g := (w.2.2.keepRest w.2.1 (cols.drop g.freeSpares.length)).freshWork) ⟨rfl, rfl⟩ hstore))
  refine ⟨?_, hwork, hcells, spare_foldl (f := fun g (x : Nat × Nat) => g.setSpare x.2 ⟨x.1, 1⟩)
    (fun g x => spare_setSpare_same g _ _) (fun g x j hj => spare_setSpare_other g _ hj) prs _ (zip_spares_nodup _ g)⟩
  rw [← hcls]
  rfl

/-- The columns of the next batch that still stand on their main columns. -/
def Device.batchCols (d : Device) (c e : Nat) : List Nat :=
  ((d.engine c e).nextWork d.clk.up (d.reg (key 0x9000 1))).1.filter (fun l => (Tbl.find? (d.engine c e).steer l).isNone)

theorem unit_open {d : Device} {c e : Nat} (hu : d.unitFree c e = true) (hst : (d.engine c e).st = 0) :
    (!(d.unitFree c e) || decide ((d.engine c e).st ≠ 0)) = false := by
  rw [hu, decide_eq_false (Classical.not_not.mpr hst)]
  rfl

theorem work_open {g : Engine} {level : Nat} (hb : g.before level = false) (hf : g.freeSpares ≠ []) :
    (g.before level || g.freeSpares.isEmpty) = false := by
  rw [hb, Bool.false_or]
  exact List.isEmpty_eq_false_iff.mpr hf

section
variable {c : CoreIx} {e : PhysIx} {s : State} (ha : s.alive = true)
include ha

theorem rotationStart_held (h : s.dev.unitFree c.val e.val = false ∨ (s.dev.engine c.val e.val).st ≠ 0) :
    exec (.rotationBatchStart c e) s = s.goes s.dev := by
  unfold exec execRotationBatchStart
  refine lift_runs ha (if_pos ?_)
  obtain h | h := h
  · rw [h]; rfl
  · rw [decide_eq_true h, Bool.or_true]

variable (hu : s.dev.unitFree c.val e.val = true) (hst : (s.dev.engine c.val e.val).st = 0)
include hu hst

theorem rotationStart_replaces (hg : (s.dev.engine c.val e.val).sparesGone = true) :
    exec (.rotationBatchStart c e) s = s.goes (s.dev.replaceEngine c.val e.val) := by
  unfold exec execRotationBatchStart
  exact lift_runs ha ((if_neg (not_of_false (unit_open hu hst))).trans (if_pos hg))

variable (hg : (s.dev.engine c.val e.val).sparesGone = false)
include hg

theorem rotationStart_waits (h : (s.dev.engine c.val e.val).before
      ((s.dev.engine c.val e.val).nextWork s.dev.clk.up (s.dev.reg (key 0x9000 1))).2.1 = true ∨ (s.dev.engine c.val e.val).freeSpares = []) :
    exec (.rotationBatchStart c e) s = s.goes s.dev := by
  unfold exec execRotationBatchStart
  refine lift_runs ha ((if_neg (not_of_false (unit_open hu hst))).trans ((if_neg (not_of_false hg)).trans (if_pos ?_)))
  obtain h | h := h
  · rw [h]; rfl
  · rw [h]; exact Bool.or_true _

variable (hb : (s.dev.engine c.val e.val).before
    ((s.dev.engine c.val e.val).nextWork s.dev.clk.up (s.dev.reg (key 0x9000 1))).2.1 = false)
  (hf : (s.dev.engine c.val e.val).freeSpares ≠ [])
include hb hf

theorem rotationStart_empty (hn : (s.dev.batchCols c.val e.val).take (s.dev.engine c.val e.val).freeSpares.length = []) :
    exec (.rotationBatchStart c e) s = s.goes (s.dev.setEngine c.val e.val
      ((s.dev.engine c.val e.val).nextWork s.dev.clk.up (s.dev.reg (key 0x9000 1))).2.2) := by
  unfold exec execRotationBatchStart
  exact lift_runs ha ((if_neg (not_of_false (unit_open hu hst))).trans ((if_neg (not_of_false hg)).trans
    ((if_neg (not_of_false (work_open hb hf))).trans (if_pos (List.isEmpty_iff.mpr hn)))))

theorem rotationStart_starts (hn : (s.dev.batchCols c.val e.val).take (s.dev.engine c.val e.val).freeSpares.length ≠ []) :
    exec (.rotationBatchStart c e) s = s.goes (s.dev.setEngine c.val e.val ((s.dev.engine c.val e.val).rotating
      ((s.dev.engine c.val e.val).nextWork s.dev.clk.up (s.dev.reg (key 0x9000 1))) (s.dev.batchCols c.val e.val))) := by
  unfold exec execRotationBatchStart
  refine lift_runs ha ((if_neg (not_of_false (unit_open hu hst))).trans ((if_neg (not_of_false hg)).trans
    ((if_neg (not_of_false (work_open hb hf))).trans ((if_neg ?_).trans rfl))))
  exact fun h => hn (List.isEmpty_iff.mp h)

end

/-! ### The check of the copy (R55) -/

/-- The engine whose batch's columns stand on their spares. -/
def Engine.onSpares (g : Engine) (r : Rotation) (d : Device) : Engine :=
  { g.freshWork with steer := r.cols.foldl (fun (t : Tbl Nat) x => Tbl.put t x.1 (1024 + x.2)) g.steer, rot := some (r.measure g.cls d) }

/-- A spare that differs from its column is faulted and due for recalibration, the others are free again. -/
def Engine.backFrom (g y : Engine) (x : Nat × Nat) : Engine :=
  if g.sameCounts x.1 (1024 + x.2) then y.setSpare x.2 ⟨0, 0⟩ else (y.setSpare x.2 ⟨0, 3⟩).enqueue 5 [1024 + x.2]

theorem backFrom_spare (g y : Engine) (x : Nat × Nat) :
    (g.backFrom y x).spare x.2 = ⟨0, if g.sameCounts x.1 (1024 + x.2) then 0 else 3⟩ := by
  unfold Engine.backFrom
  split
  · exact spare_setSpare_same _ _ _
  · exact (spare_enqueue _ _ _ _).trans (spare_setSpare_same _ _ _)

theorem backFrom_other (g y : Engine) (x : Nat × Nat) (j : Nat) (hj : j ≠ x.2) : (g.backFrom y x).spare j = y.spare j := by
  unfold Engine.backFrom
  split
  · exact spare_setSpare_other _ _ hj
  · exact (spare_enqueue _ _ _ _).trans (spare_setSpare_other _ _ hj)

theorem backFrom_store (g y : Engine) (x : Nat × Nat) : (g.backFrom y x).cells = y.cells ∧ (g.backFrom y x).steer = y.steer := by
  unfold Engine.backFrom
  split
  · exact ⟨rfl, rfl⟩
  · unfold Engine.enqueue
    split <;> exact ⟨rfl, rfl⟩

/-- The engine whose batch is back on its main columns. -/
def Engine.back (g : Engine) (r : Rotation) : Engine := { r.cols.foldl (fun y x => g.backFrom y x) g with rot := none }

theorem back_spec (g : Engine) (r : Rotation) : (g.back r).rot = none ∧ (g.back r).steer = g.steer ∧ (g.back r).cells = g.cells ∧
    ((r.cols.map (·.2)).Nodup → ∀ x ∈ r.cols, (g.back r).spare x.2 = ⟨0, if g.sameCounts x.1 (1024 + x.2) then 0 else 3⟩) := by
  have hfold : ∀ (l : List (Nat × Nat)) (y : Engine), (l.foldl (fun y x => g.backFrom y x) y).cells = y.cells ∧
      (l.foldl (fun y x => g.backFrom y x) y).steer = y.steer := fun l => by
    induction l with
    | nil => exact fun y => ⟨rfl, rfl⟩
    | cons x l ih =>
      intro y
      obtain ⟨hc, hs⟩ := ih (g.backFrom y x)
      obtain ⟨hc', hs'⟩ := backFrom_store g y x
      exact ⟨hc.trans hc', hs.trans hs'⟩
  obtain ⟨hc, hs⟩ := hfold r.cols g
  exact ⟨rfl, hs, hc, fun hn => spare_foldl (backFrom_spare g) (backFrom_other g) r.cols g hn⟩

section
variable {c : CoreIx} {e : PhysIx} {s : State} (ha : s.alive = true) {r : Rotation}
  (hr : ((s.dev.settleNow c.val e.val).engine c.val e.val).rot = some r)
include ha hr

theorem rotationCheck_waits (hm : ((s.dev.settleNow c.val e.val).engine c.val e.val).madeBoth .copyRow 256 = false) :
    exec (.rotationCheck c e) s = s.goes (s.dev.settleNow c.val e.val) := by
  unfold exec execRotationCheck
  refine lift_runs ha ?_
  dsimp only
  rw [hr]
  exact if_pos (.inr hm)

variable (hp : r.phase = 0) (hm : ((s.dev.settleNow c.val e.val).engine c.val e.val).madeBoth .copyRow 256 = true)
include hp hm

theorem rotationCheck_agrees
    (hall : r.cols.all (fun x => ((s.dev.settleNow c.val e.val).engine c.val e.val).sameCounts x.1 (1024 + x.2)) = true) :
    exec (.rotationCheck c e) s = s.goes ((s.dev.settleNow c.val e.val).setEngine c.val e.val
      (((s.dev.settleNow c.val e.val).engine c.val e.val).onSpares r (s.dev.settleNow c.val e.val))) := by
  unfold exec execRotationCheck
  refine lift_runs ha ?_
  dsimp only
  rw [hr]
  exact (if_neg (fun h => h.elim (fun h => h hp) (fun h => Bool.noConfusion (hm.symm.trans h)))).trans (if_pos hall)

theorem rotationCheck_differs
    (hall : r.cols.all (fun x => ((s.dev.settleNow c.val e.val).engine c.val e.val).sameCounts x.1 (1024 + x.2)) = false) :
    exec (.rotationCheck c e) s = s.goes ((s.dev.settleNow c.val e.val).setEngine c.val e.val
      (((s.dev.settleNow c.val e.val).engine c.val e.val).back r)) := by
  unfold exec execRotationCheck
  refine lift_runs ha ?_
  dsimp only
  rw [hr]
  exact (if_neg (fun h => h.elim (fun h => h hp) (fun h => Bool.noConfusion (hm.symm.trans h)))).trans (if_neg (not_of_false hall))

end

/-- Settles O31: the start by its cases, and the check by whether the copy is made and agrees. -/
theorem rotationEvents : Obligations.RotationEvents := by
  unfold Obligations.RotationEvents
  intro c e s ha d g w cols now prs
  refine ⟨rotationStart_held ha, fun hu hst => ⟨rotationStart_replaces ha hu hst, fun hg => ⟨rotationStart_waits ha hu hst hg,
    fun hb hf => ⟨rotationStart_empty ha hu hst hg hb hf, fun hn => ⟨_, rotationStart_starts ha hu hst hg hb hf hn, ?_⟩⟩⟩⟩, ?_⟩
  · rw [Device.engine_set_same]
    obtain ⟨hrot, hwork, hcells, hspares⟩ := rotating_spec g (w := w) (.nextWork g _ _) cols
    exact ⟨hrot, hwork, hcells, hspares, fun e' he => Device.engine_set_other _ _ (by omega)⟩
  · intro d' g r hr hp
    refine ⟨rotationCheck_waits ha hr, fun hm => ⟨fun hall => ⟨_, rotationCheck_agrees ha hr hp hm hall, ?_⟩,
      fun hall => ⟨_, rotationCheck_differs ha hr hp hm hall, ?_⟩⟩⟩
    · rw [Device.engine_set_same]
      exact ⟨rfl, rfl, rfl⟩
    · rw [Device.engine_set_same]
      exact back_spec g r

end Sys2Proof.Machine
end

section
/-!
SUPPORT. The end of a batch's attempt (R57–R59), and the replacement of an engine (R64, R65).
-/
namespace Sys2Proof.Machine

/-! ### What the return of a batch leaves alone -/

/-- The counters of attempts made, of those refused of each class, and of replacements (9030h.01 to .03 and .05). -/
def attemptCtr (j : Nat) : Prop := j = key 0x9030 1 ∨ j = key 0x9030 2 ∨ j = key 0x9030 3 ∨ j = key 0x9030 5

theorem attemptCtr.ne {j k : Nat} (h : attemptCtr j) (h1 : key 0x9030 1 ≠ k) (h2 : key 0x9030 2 ≠ k) (h3 : key 0x9030 3 ≠ k)
    (h5 : key 0x9030 5 ≠ k) : j ≠ k := by
  obtain rfl | rfl | rfl | rfl := h
  · exact h1
  · exact h2
  · exact h3
  · exact h5

/-- The registers and the counters of attempts stay. -/
structure AttemptKeep (d e : Device) : Prop where
  regs : e.regs = d.regs
  ctr : ∀ j, attemptCtr j → e.ctr j = d.ctr j

namespace AttemptKeep

theorem refl (d : Device) : AttemptKeep d d := ⟨rfl, fun _ _ => rfl⟩

theorem trans {d e g : Device} (h : AttemptKeep d e) (k : AttemptKeep e g) : AttemptKeep d g :=
  ⟨k.regs.trans h.regs, fun j hj => (k.ctr j hj).trans (h.ctr j hj)⟩

theorem foldl {α : Type} {f : Device → α → Device} (h : ∀ d a, AttemptKeep d (f d a)) (l : List α) (d : Device) :
    AttemptKeep d (l.foldl f d) := by
  induction l generalizing d with
  | nil => exact refl d
  | cons a l ih => exact (h d a).trans (ih _)

theorem bump (d : Device) {k : Nat} (n : Nat) (hk : k / 256 ≠ 0x9030 ∨ k = key 0x9030 4) : AttemptKeep d (d.bump k n) := by
  refine ⟨rfl, fun j hj => Device.ctr_bump_other _ ?_⟩
  obtain hk | rfl := hk
  · exact hj.ne (fun h => hk (h ▸ rfl)) (fun h => hk (h ▸ rfl)) (fun h => hk (h ▸ rfl)) (fun h => hk (h ▸ rfl))
  · exact hj.ne (by decide) (by decide) (by decide) (by decide)

theorem err (d : Device) (x : ErrAt) (k n : Nat) : AttemptKeep d (d.err x k n) :=
  ⟨(Calm.err d x k n).regs, fun j hj => err_ctr d x k n j (hj.ne (by decide) (by decide) (by decide) (by decide))
    (hj.ne (by decide) (by decide) (by decide) (by decide)) (hj.ne (by decide) (by decide) (by decide) (by decide))⟩

/-- What an attempt or a replacement records counts nowhere else. -/
theorem engineErr (d : Device) (c pos e cs : Nat) {kind : Nat} (hk : 5 ≤ kind) (detail slot : Nat) :
    AttemptKeep d (d.engineErr c pos e cs kind detail slot) := by
  unfold Device.engineErr Device.engineErrAt
  dsimp only
  rw [if_neg (by omega), if_neg (by omega), if_neg (by omega), if_neg (by omega)]
  exact err _ _ _ _

theorem setEngine (d : Device) (c e : Nat) (x : Engine) : AttemptKeep d (d.setEngine c e x) := ⟨rfl, fun _ _ => rfl⟩

theorem modEngine (d : Device) (c e : Nat) (f : Engine → Engine) : AttemptKeep d (d.modEngine c e f) := ⟨rfl, fun _ _ => rfl⟩

theorem readCount (d : Device) (c e w : Nat) (flip : BitVec 39) : AttemptKeep d (d.readCount c e w flip) := by
  unfold Device.readCount
  split
  · exact refl d
  · exact (bump d 1 (.inl (by decide))).trans (bump _ 1 (.inl (by decide)))
  · split
    · exact refl d
    · exact (modEngine d c e _).trans (bump (k := key 0x9020 5) _ 1 (.inl (by decide)))

theorem readCounts (d : Device) (c e : Nat) (rd : List Reading) : AttemptKeep d (d.readCounts c e rd) := by
  unfold Device.readCounts
  exact foldl (fun d r => readCount d c e _ _) _ _

theorem drawHalf (d : Device) (c e : Nat) : AttemptKeep d (d.drawHalf c e).2 := ⟨rfl, fun _ _ => rfl⟩

theorem returnCol (d : Device) (c e : Nat) (b : Rotation) (x : Nat) (a : Attempt) (l j : Nat) :
    AttemptKeep d (d.returnCol c e b x a l j) := by
  have hkind : 5 ≤ if b.cls = 1 then 5 else 6 := by split <;> decide
  unfold Device.returnCol
  dsimp only
  generalize (if b.cls = 1 then 5 else 6) = kind at hkind ⊢
  generalize (b.fails + if b.cls = 1 then 0 else 1) = lim
  split
  · exact setEngine d c e _
  · refine trans (engineErr d c (d.engine c e).pos e (2 * l) hkind (Tbl.get 0 (d.engine c e).fails l + 1) 0xFFFF) ?_
    split
    · exact ((setEngine _ c e _).trans (bump (k := key 0x9030 4) _ 1 (.inr rfl))).trans (engineErr (kind := 7) _ c _ e _ (by decide) _ _)
    · exact setEngine _ c e _

end AttemptKeep

/-! ### The end of an attempt -/

/-- A column of the batch was refused. -/
def Rotation.refused (r : Rotation) (g : Engine) (x : Nat) (a : Attempt) : Bool := r.cols.any (fun y => !(r.judgeCol g x y.1 a).2)

/-- The device whose batch's columns have come back and whose engine works on nothing. -/
def Device.batchOver (d : Device) (c e : Nat) (r : Rotation) (x : Nat) (a : Attempt) : Device :=
  (r.cols.foldl (fun d y => d.returnCol c e r x a y.1 y.2) d).modEngine c e (fun g =>
    let left := (r.cols.map (·.1)).filter (fun l => !(g.retired.contains l))
    let g := if r.refused (d.engine c e) x a && decide (r.cls ≠ 1) && !left.isEmpty then g.enqueue 2 left else g
    { g.freshWork.dropFresh (r.cols.foldl (fun d y => d.returnCol c e r x a y.1 y.2) d).clk.up
        ((r.cols.foldl (fun d y => d.returnCol c e r x a y.1 y.2) d).reg (key 0x9000 1)) with rot := none })

/-- That device once the attempt is counted. -/
def Device.attemptCounted (d : Device) (c e : Nat) (r : Rotation) (x : Nat) (a : Attempt) : Device :=
  if r.refused (d.engine c e) x a then
    ((d.batchOver c e r x a).bump (key 0x9030 1) 1).bump (key 0x9030 (if r.cls = 1 then 2 else 3)) 1
  else (d.batchOver c e r x a).bump (key 0x9030 1) 1

theorem returnBatch_eq (d : Device) (c e : Nat) (r : Rotation) (x : Nat) (a : Attempt) : d.returnBatch c e r x a =
    if ((d.attemptCounted c e r x a).engine c e).lost ≥ (d.attemptCounted c e r x a).reg (key 0x9000 8) then
      (d.attemptCounted c e r x a).replaceEngine c e
    else d.attemptCounted c e r x a := rfl

section
variable (d : Device) (c e : Nat) (r : Rotation) (x : Nat) (a : Attempt)

theorem batchOver_keep : AttemptKeep d (d.batchOver c e r x a) :=
  (AttemptKeep.foldl (fun d _ => .returnCol d c e r x a _ _) r.cols d).trans (.setEngine _ c e _)

theorem attemptCounted_engine : (d.attemptCounted c e r x a).engine c e = (d.batchOver c e r x a).engine c e := by
  unfold Device.attemptCounted
  split <;> rfl

theorem batchOver_rot : ((d.batchOver c e r x a).engine c e).rot = none := by
  unfold Device.batchOver
  rw [Device.engine_mod_same]

theorem attemptCounted_regs : (d.attemptCounted c e r x a).regs = d.regs := by
  have h := (batchOver_keep d c e r x a).regs
  unfold Device.attemptCounted
  split <;> exact h

/-- The attempt counts once, and once more under its class when it was refused. -/
theorem attemptCounted_ctr :
    (d.attemptCounted c e r x a).ctr (key 0x9030 1) = min (2 ^ 64 - 1) (d.ctr (key 0x9030 1) + 1) ∧
    (d.attemptCounted c e r x a).ctr (key 0x9030 2) =
      (if r.refused (d.engine c e) x a = true ∧ r.cls = 1 then min (2 ^ 64 - 1) (d.ctr (key 0x9030 2) + 1) else d.ctr (key 0x9030 2)) ∧
    (d.attemptCounted c e r x a).ctr (key 0x9030 3) =
      (if r.refused (d.engine c e) x a = true ∧ r.cls ≠ 1 then min (2 ^ 64 - 1) (d.ctr (key 0x9030 3) + 1) else d.ctr (key 0x9030 3)) := by
  have hk := (batchOver_keep d c e r x a).ctr
  have h1 := hk _ (.inl rfl)
  have h2 := hk _ (.inr (.inl rfl))
  have h3 := hk _ (.inr (.inr (.inl rfl)))
  unfold Device.attemptCounted
  by_cases hb : r.refused (d.engine c e) x a = true
  · rw [if_pos hb]
    by_cases hc : r.cls = 1
    · rw [if_pos hc, if_pos ⟨hb, hc⟩, if_neg (fun h => h.2 hc), Device.ctr_bump_other _ (by decide), Device.ctr_bump_same,
        Device.ctr_bump_same, Device.ctr_bump_other _ (by decide), Device.ctr_bump_other _ (by decide), Device.ctr_bump_other _ (by decide),
        h1, h2, h3]
      exact ⟨rfl, rfl, rfl⟩
    · rw [if_neg hc, if_neg (fun h => hc h.2), if_pos ⟨hb, hc⟩, Device.ctr_bump_other _ (by decide), Device.ctr_bump_same,
        Device.ctr_bump_other _ (by decide), Device.ctr_bump_other _ (by decide), Device.ctr_bump_same, Device.ctr_bump_other _ (by decide),
        h1, h2, h3]
      exact ⟨rfl, rfl, rfl⟩
  · rw [if_neg hb, if_neg (fun h => hb h.1), if_neg (fun h => hb h.1), Device.ctr_bump_same, Device.ctr_bump_other _ (by decide),
      Device.ctr_bump_other _ (by decide), h1, h2, h3]
    exact ⟨rfl, rfl, rfl⟩

end

section
variable {c : CoreIx} {e : PhysIx} {a : Attempt} {s : State} (ha : s.alive = true) {r : Rotation}
  (hr : ((s.dev.settleNow c.val e.val).engine c.val e.val).rot = some r)
include ha hr

theorem attempt_waits (h : ((s.dev.settleNow c.val e.val).engine c.val e.val).madeBoth .measure (if r.cls = 1 then 14 else 28) = false ∨
      ((s.dev.settleNow c.val e.val).engine c.val e.val).madeBoth .probe 2 = false) :
    exec (.selectionAttemptDone c e a) s = s.goes (s.dev.settleNow c.val e.val) := by
  unfold exec execSelectionAttemptDone
  refine lift_runs ha ?_
  dsimp only
  rw [hr]
  exact if_pos (.inr h)

theorem attempt_ends (hp : r.phase = 2)
    (hm : ((s.dev.settleNow c.val e.val).engine c.val e.val).madeBoth .measure (if r.cls = 1 then 14 else 28) = true)
    (hb : ((s.dev.settleNow c.val e.val).engine c.val e.val).madeBoth .probe 2 = true) :
    exec (.selectionAttemptDone c e a) s =
      let h := ((s.dev.settleNow c.val e.val).readCounts c.val e.val a.probe).drawHalf c.val e.val
      s.goes (h.2.returnBatch c.val e.val r h.1 a) := by
  unfold exec execSelectionAttemptDone
  refine lift_runs ha ?_
  dsimp only
  rw [hr]
  refine if_neg (fun h => ?_)
  obtain h | h | h := h
  · exact h hp
  · exact Bool.noConfusion (hm.symm.trans h)
  · exact Bool.noConfusion (hb.symm.trans h)

end

/-! ### The switch to the spare engine (R64) -/

theorem replace_open {g : Engine} {e : Nat} (hg : g.replacing = true) (hr : g.rot = none) (he : e ≠ 32)
    (hm : g.madeBoth .copyRow 128 = true) : ¬ (g.replacing = false ∨ g.rot ≠ none ∨ e = 32 ∨ g.madeBoth .copyRow replaceReads = false) := by
  rintro (h | h | h | h)
  · exact Bool.noConfusion (hg.symm.trans h)
  · exact h hr
  · exact he h
  · exact Bool.noConfusion (hm.symm.trans h)

section
variable {c : CoreIx} {e : PhysIx} {s : State} (ha : s.alive = true)
  (hg : ((s.dev.settleNow c.val e.val).engine c.val e.val).replacing = true)
  (hr : ((s.dev.settleNow c.val e.val).engine c.val e.val).rot = none) (he : e.val ≠ 32)
include ha

theorem replaceSwitch_waits (hm : ((s.dev.settleNow c.val e.val).engine c.val e.val).madeBoth .copyRow 128 = false) :
    exec (.engineReplaceSwitch c e) s = s.goes (s.dev.settleNow c.val e.val) := by
  unfold exec execEngineReplaceSwitch
  exact lift_runs ha (if_pos (.inr (.inr (.inr hm))))

variable (hm : ((s.dev.settleNow c.val e.val).engine c.val e.val).madeBoth .copyRow 128 = true)
include hg hr he hm

theorem replaceSwitch_switches
    (hsame : sameLogical ((s.dev.settleNow c.val e.val).engine c.val e.val) ((s.dev.settleNow c.val e.val).engine c.val 32) = true) :
    exec (.engineReplaceSwitch c e) s =
      let d := s.dev.settleNow c.val e.val
      let t := (d.engine c.val e.val).opsEnd d.cyc
      s.goes (((d.reachCyc t).landUpTo c.val t).switchEngine c.val e.val) := by
  unfold exec execEngineReplaceSwitch
  exact lift_runs ha ((if_neg (replace_open hg hr he hm)).trans (if_pos hsame))

theorem replaceSwitch_copies
    (hdiff : sameLogical ((s.dev.settleNow c.val e.val).engine c.val e.val) ((s.dev.settleNow c.val e.val).engine c.val 32) = false) :
    exec (.engineReplaceSwitch c e) s =
      let d := s.dev.settleNow c.val e.val
      s.goes (d.putCells c.val 32 (copyLogical (d.engine c.val e.val) (d.engine c.val 32))) := by
  unfold exec execEngineReplaceSwitch
  exact lift_runs ha ((if_neg (replace_open hg hr he hm)).trans (if_neg (not_of_false hdiff)))

end

/-- The spare engine with the position of the engine it replaces, and what that engine is. -/
def Device.spareTaking (z : Device) (c e : Nat) : Engine :=
  { z.engine c 32 with st := 0, pos := (z.engine c e).pos, cls := (z.engine c e).cls, width := (z.engine c e).width, scales := (z.engine c e).scales, disabled := (z.engine c e).disabled, use := (z.engine c e).use, calAt := z.clk.up }

/-- The engine that is replaced. -/
def Device.engineRetired (z : Device) (c e : Nat) : Engine :=
  { z.engine c e with st := 2, replacing := false, usable := false, queue := [], stale := [] }

/-- The device whose spare engine stands in for another, before that is recorded. -/
def Device.switched (z : Device) (c e : Nat) : Device :=
  ((z.setEngine c 32 (z.spareTaking c e)).setEngine c e (z.engineRetired c e)).bump (key 0x9030 5) 1

/-- The spare engine takes the position and what the old engine is, and the old engine is retired (R64). -/
theorem switchEngine_spec (z : Device) (c : Nat) {e : Nat} (he : e ≠ 32) :
    (z.switchEngine c e).engine c 32 = { z.engine c 32 with
      st := 0, pos := (z.engine c e).pos, cls := (z.engine c e).cls, width := (z.engine c e).width, scales := (z.engine c e).scales,
      disabled := (z.engine c e).disabled, use := (z.engine c e).use, calAt := z.clk.up } ∧
    (z.switchEngine c e).engine c e = { z.engine c e with st := 2, replacing := false, usable := false, queue := [], stale := [] } ∧
    (z.switchEngine c e).ctr (key 0x9030 5) = min (2 ^ 64 - 1) (z.ctr (key 0x9030 5) + 1) := by
  have heq : z.switchEngine c e = (z.switched c e).engineErr c (z.engine c e).pos e 0xFFE 8 0 0xFFFF := rfl
  have hcalm := Calm.engineErrAt (z.switched c e) c (z.engine c e).pos e 0xFFE 8 0 0xFFFF ((z.switched c e).core c).seq.word
  have hkeep := AttemptKeep.engineErr (z.switched c e) c (z.engine c e).pos e 0xFFE (kind := 8) (by decide) 0 0xFFFF
  rw [heq]
  refine ⟨(hcalm.engine c 32).trans ?_, (hcalm.engine c e).trans ?_, ?_⟩
  · exact (Device.engine_set_other _ _ (by omega)).trans (Device.engine_set_same _ _ _ _)
  · exact Device.engine_set_same _ _ _ _
  · exact (hkeep.ctr _ (.inr (.inr (.inr rfl)))).trans (Device.ctr_bump_same _ _ _)

/-- Settles O32: the end of an attempt by what its return leaves, the switch by its cases. -/
theorem attemptsAndReplacement : Obligations.AttemptsAndReplacement := by
  unfold Obligations.AttemptsAndReplacement
  intro c e a s ha d g
  refine ⟨fun r hr hp => ⟨attempt_waits ha hr, fun hm hb => ?_⟩, fun hg hr he => ⟨replaceSwitch_waits ha, fun hm => ⟨fun hs => ?_,
    replaceSwitch_copies ha hg hr he hm⟩⟩⟩
  · intro h x bad
    have hkeep : AttemptKeep d h.2 := (AttemptKeep.readCounts d c.val e.val a.probe).trans (.drawHalf _ c.val e.val)
    have hreg : (h.2.attemptCounted c.val e.val r h.1 a).reg (key 0x9000 8) = d.reg (key 0x9000 8) := by
      unfold Device.reg
      rw [attemptCounted_regs, hkeep.regs]
    have hrot := (attemptCounted_engine h.2 c.val e.val r h.1 a) ▸ batchOver_rot h.2 c.val e.val r h.1 a
    have hctr := attemptCounted_ctr h.2 c.val e.val r h.1 a
    rw [hkeep.ctr _ (.inl rfl), hkeep.ctr _ (.inr (.inl rfl)), hkeep.ctr _ (.inr (.inr (.inl rfl)))] at hctr
    refine ⟨h.2.attemptCounted c.val e.val r h.1 a, ?_, hrot, hctr⟩
    refine (attempt_ends ha hr hp hm hb).trans (congrArg s.goes ?_)
    rw [← hreg]
    exact returnBatch_eq h.2 c.val e.val r h.1 a
  · intro t z o
    exact ⟨_, replaceSwitch_switches ha hg hr he hm hs, switchEngine_spec z c.val he⟩

end Sys2Proof.Machine
end

section
/-!
SUPPORT. Calibration in its time (R35, R43, R45, R55, R61): pattern recalibration, staleness, slices, free slots, counts.
-/
namespace Sys2Proof.Machine

/-! ### Engines changed in place -/

theorem engine_putCells_same (d : Device) (c e : Nat) (x : Engine) : (d.putCells c e x).engine c e = x :=
  Device.engine_set_same d c e x

theorem engine_putCells_other (d : Device) (c : Nat) {e e' : Nat} (x : Engine) (h : e' ≠ e) :
    (d.putCells c e x).engine c e' = d.engine c e' := Device.engine_set_other d x (by omega)

theorem reach_engine (d : Device) (u c e : Nat) : (d.reach u).engine c e = d.engine c e := by
  obtain ⟨hcim, -⟩ := reach_frame d u
  unfold Device.engine
  rw [hcim]

theorem reach_core (d : Device) (u c : Nat) : (d.reach u).core c = d.core c := by
  obtain ⟨hcim, -⟩ := reach_frame d u
  unfold Device.core
  rw [hcim]

theorem reach_coreUp (d : Device) (u c : Nat) : (d.reach u).coreUp c = d.coreUp c := by
  unfold Device.reach Device.advance
  split <;> rfl

/-! ### Pattern recalibration of a spare (R55) -/

/-- An enqueued job changes the queue alone. -/
theorem enqueue_rest (g : Engine) (level : Nat) (cols : List Nat) : ∃ q, g.enqueue level cols = { g with queue := q } := by
  unfold Engine.enqueue
  split
  · exact ⟨g.queue, rfl⟩
  · exact ⟨_, rfl⟩

section
variable {g : Engine} {lim : F32} {p : Nat} {a : Attempt}

theorem patternOne_passes {x : Pick} (h : tryCol lim (g.copyOf p) p a = some (some x)) :
    g.patternOne lim p a = ({ (g.zeroCol p).commit p x with fails := Tbl.set 0 g.fails p 0 }, true) := by
  unfold Engine.patternOne
  dsimp only
  rw [show tryCol lim ((g.zeroCol p).copyOf p) p a = some (some x) from h]
  rfl

theorem patternOne_fails (h : tryCol lim (g.copyOf p) p a = some none) :
    g.patternOne lim p a = ({ g.zeroCol p with fails := Tbl.set 0 g.fails p (Tbl.get 0 g.fails p + 1) }, false) := by
  unfold Engine.patternOne
  dsimp only
  rw [show tryCol lim ((g.zeroCol p).copyOf p) p a = some none from h]
  rfl

theorem patternOne_cells (g : Engine) (lim : F32) (p : Nat) (a : Attempt) : (g.patternOne lim p a).1.cells = (g.zeroCol p).cells := by
  unfold Engine.patternOne
  dsimp only
  split <;> rfl

end

/-- An engine without the jobs of a column. -/
def Engine.unqueue (g : Engine) (p : Nat) : Engine := { g with queue := g.queue.filter (fun b => !decide (b.cols = [p])) }

section
variable (g : Engine) (lim : F32) (j : Nat) (a : Attempt)

theorem patternSpare_eq : g.patternSpare lim j a =
    if (g.patternOne lim (1024 + j) a).2 then ((g.patternOne lim (1024 + j) a).1.unqueue (1024 + j)).setSpare j ⟨0, 0⟩
    else if Tbl.get 0 (g.patternOne lim (1024 + j) a).1.fails (1024 + j) ≥ 3 then
      { ((g.patternOne lim (1024 + j) a).1.unqueue (1024 + j)).setSpare j ⟨0, 3⟩ with retired := (g.patternOne lim (1024 + j) a).1.retired ++ [1024 + j] }
    else (((g.patternOne lim (1024 + j) a).1.unqueue (1024 + j)).setSpare j ⟨0, 3⟩).enqueue 5 [1024 + j] := rfl

/-- The cells of a spare are written with 0s, whatever the recalibration finds. -/
theorem patternSpare_cells : (g.patternSpare lim j a).cells = (g.zeroCol (1024 + j)).cells := by
  rw [patternSpare_eq]
  split
  · exact patternOne_cells g lim _ a
  · split
    · exact patternOne_cells g lim _ a
    · obtain ⟨q, hq⟩ := enqueue_rest (((g.patternOne lim (1024 + j) a).1.unqueue (1024 + j)).setSpare j ⟨0, 3⟩) 5 [1024 + j]
      rw [hq]
      exact patternOne_cells g lim _ a

variable {g lim j a}

theorem patternSpare_passes {x : Pick} (h : tryCol lim (g.copyOf (1024 + j)) (1024 + j) a = some (some x)) :
    (g.patternSpare lim j a).spare j = ⟨0, 0⟩ ∧ (g.patternSpare lim j a).copyOf (1024 + j) = x.copy % 4 ∧
      Tbl.get 0 (g.patternSpare lim j a).fails (1024 + j) = 0 := by
  rw [patternSpare_eq, patternOne_passes h, if_pos rfl]
  refine ⟨spare_setSpare_same g j ⟨0, 0⟩, ?_, Tbl.get_set_same 0 g.fails (1024 + j) 0⟩
  exact (congrArg BitVec.toNat (Tbl.get_set_same 0#2 g.ladders (1024 + j) (BitVec.ofNat 2 x.copy))).trans (BitVec.toNat_ofNat _ _)

/-- A spare whose recalibration fails is faulted with the selection it has, and retired at its third failure. -/
theorem patternSpare_fails (h : tryCol lim (g.copyOf (1024 + j)) (1024 + j) a = some none) :
    let n := Tbl.get 0 g.fails (1024 + j) + 1
    (g.patternSpare lim j a).spare j = ⟨0, 3⟩ ∧ (g.patternSpare lim j a).ladders = g.ladders ∧
      (g.patternSpare lim j a).comps = g.comps ∧ Tbl.get 0 (g.patternSpare lim j a).fails (1024 + j) = n ∧
      (g.patternSpare lim j a).retired = if 3 ≤ n then g.retired ++ [1024 + j] else g.retired := by
  intro n
  have hn : Tbl.get 0 (Tbl.set 0 g.fails (1024 + j) n) (1024 + j) = n := Tbl.get_set_same _ _ _ _
  rw [patternSpare_eq, patternOne_fails h, if_neg Bool.false_ne_true]
  dsimp only
  rw [hn]
  by_cases h3 : 3 ≤ n
  · rw [if_pos h3, if_pos h3]
    exact ⟨spare_setSpare_same g j ⟨0, 3⟩, rfl, rfl, hn, rfl⟩
  · rw [if_neg h3, if_neg h3]
    obtain ⟨q, hq⟩ := enqueue_rest ((({ g.zeroCol (1024 + j) with fails := Tbl.set 0 g.fails (1024 + j) n } : Engine).unqueue (1024 + j)).setSpare j ⟨0, 3⟩) 5 [1024 + j]
    rw [hq]
    exact ⟨spare_setSpare_same g j ⟨0, 3⟩, rfl, rfl, hn, rfl⟩

end

section
variable {c : CoreIx} {e : PhysIx} {a : Attempt} {s : State} (ha : s.alive = true)
include ha

theorem spareRecal_waits {j : Fin 16} (h : s.dev.unitFree c.val e.val = false ∨ (s.dev.engine c.val e.val).spareOpen j.val = false ∨
      (s.dev.engine c.val e.val).before ((s.dev.engine c.val e.val).spareLevel j.val) = true) :
    exec (.patternRecal c e (.spare j) a) s = s.goes s.dev := by
  unfold exec execPatternRecal
  refine lift_runs ha ?_
  dsimp only
  obtain h | h | h := h
  · exact if_pos (by rw [h]; rfl)
  · rw [h, Bool.false_and]
    exact ite_self _
  · rw [h, Bool.not_true, Bool.and_false]
    exact ite_self _

variable (hu : s.dev.unitFree c.val e.val = true)
include hu

theorem spareRecal_runs {j : Fin 16} (ho : (s.dev.engine c.val e.val).spareOpen j.val = true)
    (hb : (s.dev.engine c.val e.val).before ((s.dev.engine c.val e.val).spareLevel j.val) = false) :
    exec (.patternRecal c e (.spare j) a) s = s.goes (s.dev.putCells c.val e.val
      ((s.dev.engine c.val e.val).patternSpare (BitVec.ofNat 32 (s.dev.reg (key 0x9000 4))) j.val a)) := by
  unfold exec execPatternRecal
  exact lift_runs ha ((if_neg (by rw [hu]; decide)).trans (if_pos (by rw [ho, hb]; rfl)))

theorem engineRecal_runs (hst : (s.dev.engine c.val e.val).st = 1 ∨ (s.dev.engine c.val e.val).st = 0 ∧ (s.dev.engine c.val e.val).cls = 0)
    (hb : (s.dev.engine c.val e.val).before 5 = false) :
    exec (.patternRecal c e .engine a) s = s.goes (s.dev.putCells c.val e.val
      { (s.dev.engine c.val e.val).patternEngine (BitVec.ofNat 32 (s.dev.reg (key 0x9000 4))) a with calAt := s.dev.clk.up }) := by
  unfold exec execPatternRecal
  exact lift_runs ha ((if_neg (by rw [hu]; decide)).trans (if_pos (both_true (decide_eq_true hst) (by rw [hb]; rfl))))

end

/-! ### Staleness and slices (R61) -/

theorem mem_insertStale (g : Engine) (q : Nat) (l : List Nat) (x : Nat) : x ∈ g.insertStale q l ↔ x = q ∨ x ∈ l := by
  induction l with
  | nil => simp [Engine.insertStale]
  | cons y l ih =>
    unfold Engine.insertStale
    split
    · exact List.mem_cons
    · rw [List.mem_cons, ih, List.mem_cons]
      exact or_left_comm

theorem mem_addStale (g : Engine) (q x : Nat) : x ∈ (g.addStale q).stale ↔ x = q ∨ x ∈ g.stale := by
  unfold Engine.addStale
  split
  next h => exact ⟨.inr, fun hx => hx.elim (fun e => e ▸ List.contains_iff_mem.mp h) id⟩
  next h => exact mem_insertStale g q g.stale x

section
variable {c : CoreIx} {s : State} (ha : s.alive = true)
include ha

theorem batchStale_eq (e : PhysIx) (q : Fin 64) : exec (.batchStale c e q) s =
    let g := s.dev.engine c.val e.val
    s.goes ((s.dev.reach (g.groupAt q.val + s.dev.reg (key 0x9000 1) * 800000000)).setEngine c.val e.val (g.addStale q.val)) := by
  unfold exec execBatchStale
  exact lift_runs ha rfl

theorem sliceReserve_eq {t : Nat} (ht : s.dev.sliceDue c.val = some t) :
    exec (.calSliceReserve c) s = s.goes ((s.dev.reach t).reserveSlice c.val) := by
  unfold exec execCalSliceReserve
  refine lift_runs ha ?_
  rw [ht]

theorem sliceEnd_eq (hp : (s.dev.core c.val).seq.phase = .calSlice) : exec (.calibrationSliceEnd c) s =
    s.goes (((s.dev.reachCyc (s.dev.core c.val).aux.pauseEnd).bump (key 0x9030 6) 1).pauseOr c.val 5) := by
  unfold exec execCalibrationSliceEnd
  exact lift_runs ha (if_pos hp)

end

/-- On an idle core that is up the slice starts at once (R107). -/
theorem reserveSlice_idle {d : Device} {c : Nat} (h : d.coreUp c = true ∧ (d.core c).seq.phase = .idle) (t : Nat) :
    (((d.reach t).reserveSlice c).core c).seq.phase = .calSlice ∧
      (((d.reach t).reserveSlice c).core c).aux.pauseEnd = ((d.reach t).reserveSlice c).cyc + 650 := by
  obtain ⟨hup, hidle⟩ := h
  have hnow : (d.reach t).reserveSlice c = (d.reach t).startCalSlice c := by
    unfold Device.reserveSlice
    rw [reach_coreUp, reach_core]
    exact if_pos (both_true hup (decide_eq_true hidle))
  rw [hnow]
  unfold Device.startCalSlice
  rw [Device.core_modCore_same]
  exact ⟨rfl, rfl⟩

theorem reserveSlice_marks {d : Device} {c : Nat} (h : ¬ (d.coreUp c = true ∧ (d.core c).seq.phase = .idle)) (t : Nat) :
    (((d.reach t).reserveSlice c).core c).aux.calReserved = true ∧ ((d.reach t).reserveSlice c).clk.up = max d.clk.up t := by
  have hlater : (d.reach t).reserveSlice c = (d.reach t).modCore c (fun x => { x with aux := { x.aux with calReserved := true } }) := by
    unfold Device.reserveSlice
    rw [reach_coreUp, reach_core]
    refine if_neg (fun hb => h ?_)
    rw [Bool.and_eq_true, decide_eq_true_iff] at hb
    exact hb
  rw [hlater, Device.core_modCore_same]
  exact ⟨rfl, reach_up d t⟩

/-! ### Free slots (R43, R45) -/

/-- The accesses whose slots have passed count in 9020h.04. -/
theorem settleSlots_ctr (d : Device) (c e t : Nat) :
    (d.settleSlots c e t).ctr (key 0x9020 4) = min (2 ^ 64 - 1) (d.ctr (key 0x9020 4) + ((d.engine c e).passed t).length) :=
  Device.ctr_bump_same _ _ _

/-- An access whose slot is free stands where it asked for. -/
theorem placeSlot_free {y : Engine} {b : EngSlot} (h : ∀ x ∈ y.slots, b.meets x = false) : y.placeSlot b = { y with slots := y.slots ++ [b] } := by
  have hnone : y.slots.find? (fun x => b.meets x) = none := List.find?_eq_none.mpr (fun x hx => not_of_false (h x hx))
  unfold Engine.placeSlot Engine.nextFree
  rw [hnone]

theorem slotFree_iff {y : Engine} {b : EngSlot} : y.slotFree b = true ↔ ∀ x ∈ y.slots, b.meets x = false := by
  unfold Engine.slotFree
  simp

/-- The device as the slot of an access finds it. -/
def Device.atSlot (d : Device) (c e t : Nat) : Device := ((d.reachCyc t).landUpTo c t).settleSlots c e t

section
variable {c : CoreIx} {e : PhysIx} {seg : Bool} {us : SlotAsk} {s : State} (ha : s.alive = true)
include ha

theorem freeSlot_refused (h : (s.dev.atSlot c.val e.val us.cycle).underTest c.val ((s.dev.atSlot c.val e.val us.cycle).engine c.val e.val).pos = true ∨
      us.use ≠ .copyRow ∧ ∃ x ∈ ((s.dev.atSlot c.val e.val us.cycle).engine c.val e.val).slots, (EngSlot.access us.use seg us.cycle).meets x = true) :
    exec (.calFreeSlotUse c e seg us) s = s.goes (s.dev.atSlot c.val e.val us.cycle) := by
  unfold exec execCalFreeSlotUse
  refine lift_runs ha ?_
  by_cases ht : (s.dev.atSlot c.val e.val us.cycle).underTest c.val ((s.dev.atSlot c.val e.val us.cycle).engine c.val e.val).pos = true
  · exact if_pos ht
  · obtain ⟨hu, x, hx, hm⟩ := h.resolve_left ht
    refine (if_neg ht).trans (if_neg ?_)
    rw [decide_eq_false hu, Bool.false_or, slotFree_iff]
    exact fun hall => Bool.noConfusion (hm.symm.trans (hall x hx))

theorem freeSlot_taken (ht : (s.dev.atSlot c.val e.val us.cycle).underTest c.val ((s.dev.atSlot c.val e.val us.cycle).engine c.val e.val).pos = false)
    (hfree : ∀ x ∈ ((s.dev.atSlot c.val e.val us.cycle).engine c.val e.val).slots, (EngSlot.access us.use seg us.cycle).meets x = false) :
    exec (.calFreeSlotUse c e seg us) s =
      let z := s.dev.atSlot c.val e.val us.cycle
      let y := z.engine c.val e.val
      s.goes (((z.setEngine c.val e.val { y with slots := y.slots ++ [EngSlot.access us.use seg us.cycle] }).reachCyc (us.cycle + 2)).settleSlots
        c.val e.val (us.cycle + 2)) := by
  unfold exec execCalFreeSlotUse
  refine lift_runs ha ((if_neg (not_of_false ht)).trans ((if_pos ?_).trans ?_))
  · rw [Bool.or_eq_true]
    exact .inr (slotFree_iff.mpr hfree)
  · have hplace := placeSlot_free hfree
    change (((s.dev.atSlot c.val e.val us.cycle).setEngine c.val e.val (((s.dev.atSlot c.val e.val us.cycle).engine c.val e.val).placeSlot
      (EngSlot.access us.use seg us.cycle))).reachCyc (us.cycle + 2)).settleSlots c.val e.val (us.cycle + 2) = _
    rw [hplace]

/-! ### Recomputed counts (R35) -/

variable (word : Fin 520)

theorem countRecompute_waits (hm : ((s.dev.settleNow c.val e.val).engine c.val e.val).madeBoth .recompute 128 = false) :
    exec (.countRecomputeDone c e word) s = s.goes (s.dev.settleNow c.val e.val) := by
  unfold exec execCountRecomputeDone
  exact lift_runs ha (if_neg (not_of_false hm))

theorem countRecompute_ends (hm : ((s.dev.settleNow c.val e.val).engine c.val e.val).madeBoth .recompute 128 = true) :
    exec (.countRecomputeDone c e word) s = s.goes ((s.dev.settleNow c.val e.val).modEngine c.val e.val
      (fun g => { g with badCounts := g.badCounts.filter (fun x => decide (x ≠ word.val)) })) := by
  unfold exec execCountRecomputeDone
  exact lift_runs ha (if_pos hm)

end

/-- Settles O33: each event by its lemmas above. -/
theorem calibrationTimes : Obligations.CalibrationTimes := by
  unfold Obligations.CalibrationTimes
  intro c e a j q word seg us s ha d g lim at_ old
  refine ⟨fun hu ho hb => ⟨_, spareRecal_runs ha hu ho hb, ?_⟩, spareRecal_waits ha,
    fun hu hst hb => ⟨_, engineRecal_runs ha hu hst hb, engine_putCells_same _ _ _ _, fun e' he => engine_putCells_other _ _ _ he⟩,
    ⟨_, batchStale_eq ha e q, reach_up d _, ?_⟩, fun t ht => ⟨fun h => ⟨_, sliceReserve_eq ha ht, reserveSlice_idle h t⟩,
      fun h => ⟨_, sliceReserve_eq ha ht, reserveSlice_marks h t⟩⟩, sliceEnd_eq ha, ?_, ?_⟩
  · rw [engine_putCells_same]
    exact ⟨patternSpare_cells g lim j.val a, fun x hx => patternSpare_passes hx, patternSpare_fails⟩
  · rw [Device.engine_set_same]
    exact ⟨(mem_addStale g _ _).mpr (.inl rfl), fun x hx => (mem_addStale g _ x).mpr (.inr hx)⟩
  · intro z y b
    refine ⟨freeSlot_refused ha, fun ht hfree => ?_⟩
    intro v n
    have hpassed : (v.engine c.val e.val).passed (us.cycle + 2) =
        (y.slots ++ [b]).filter (fun x => x.work.isSome && decide (x.lo + x.len ≤ us.cycle + 2)) := by
      rw [show v.engine c.val e.val = { y with slots := y.slots ++ [b] } from
        (reach_engine _ _ c.val e.val).trans (Device.engine_set_same _ _ _ _)]
      rfl
    have hb : b ∈ (y.slots ++ [b]).filter (fun x => x.work.isSome && decide (x.lo + x.len ≤ us.cycle + 2)) :=
      List.mem_filter.mpr ⟨List.mem_append_right _ (List.mem_singleton.mpr rfl), both_true rfl (decide_eq_true (Nat.le_refl _))⟩
    refine ⟨_, freeSlot_taken ha ht hfree, List.length_pos_of_mem hb, ?_⟩
    exact (settleSlots_ctr v c.val e.val (us.cycle + 2)).trans (by rw [hpassed])
  · intro z y
    refine ⟨countRecompute_waits ha word, fun hm => ⟨_, countRecompute_ends ha word hm, ?_⟩⟩
    rw [Device.engine_mod_same]
    exact ⟨rfl, rfl⟩

end Sys2Proof.Machine
end

section
/-!
SUPPORT. Calibration probes (R62), the monitor's windows (R63) and the overflow windows (R80).
-/
namespace Sys2Proof.Machine

/-! ### Probes -/

/-- The level of R60 at which a probe of a segment stands. -/
def Engine.probeLevel (g : Engine) (sg : Nat) : Nat := if g.queue.contains (probeJob sg) then 3 else 7

/-- The engine at hand, a probe of it made. -/
def Device.probed (d : Device) (c e : Nat) (seg : Bool) (rd : List Reading) : Nat × Device :=
  let h := (d.readCounts c e rd).drawHalf c e
  (h.1, h.2.modEngine c e (fun g => g.setMade .probe seg 0))

theorem probe_open {d : Device} {c e : Nat} {level : Nat} {seg : Bool} (hu : d.unitFree c e = true) (hb : (d.engine c e).before level = false)
    (hm : 2 ≤ (d.engine c e).made .probe seg) :
    ¬ (!(d.unitFree c e) || (d.engine c e).before level || decide ((d.engine c e).made .probe seg < probeAccesses)) = true := by
  have hmade : ¬ (d.engine c e).made .probe seg < probeAccesses := Nat.not_lt.mpr hm
  rw [hu, hb, decide_eq_false hmade]
  decide

section
variable {c : CoreIx} {e : PhysIx} {seg : Bool} {rd : List Reading} {s : State} (ha : s.alive = true)
include ha

theorem calProbe_waits
    (h : (s.dev.settleNow c.val e.val).unitFree c.val e.val = false ∨
      ((s.dev.settleNow c.val e.val).engine c.val e.val).before (((s.dev.settleNow c.val e.val).engine c.val e.val).probeLevel (if seg then 1 else 0)) = true ∨
      ((s.dev.settleNow c.val e.val).engine c.val e.val).made .probe seg < 2) :
    exec (.calProbe c e seg rd) s = s.goes (s.dev.settleNow c.val e.val) := by
  unfold exec execCalProbe
  refine lift_runs ha (if_pos ?_)
  obtain h | h | h := h
  · rw [h]; rfl
  · rw [Bool.or_eq_true, Bool.or_eq_true]
    exact .inl (.inr h)
  · rw [Bool.or_eq_true]
    exact .inr (decide_eq_true h)

variable (hu : (s.dev.settleNow c.val e.val).unitFree c.val e.val = true)
  (hb : ((s.dev.settleNow c.val e.val).engine c.val e.val).before (((s.dev.settleNow c.val e.val).engine c.val e.val).probeLevel (if seg then 1 else 0)) = false)
  (hm : 2 ≤ ((s.dev.settleNow c.val e.val).engine c.val e.val).made .probe seg)
include hu hb hm

theorem calProbe_badCounts
    (hx : (((s.dev.settleNow c.val e.val).probed c.val e.val seg rd).2.engine c.val e.val).badCounts ≠ []) :
    exec (.calProbe c e seg rd) s = s.goes ((s.dev.settleNow c.val e.val).probed c.val e.val seg rd).2 := by
  unfold exec execCalProbe
  refine lift_runs ha ((if_neg (probe_open hu hb hm)).trans (if_pos ?_))
  rw [Bool.not_eq_true']
  exact List.isEmpty_eq_false_iff.mpr hx

theorem calProbe_records
    (hx : (((s.dev.settleNow c.val e.val).probed c.val e.val seg rd).2.engine c.val e.val).badCounts = []) :
    exec (.calProbe c e seg rd) s =
      let h := (s.dev.settleNow c.val e.val).probed c.val e.val seg rd
      let x := h.2.engine c.val e.val
      s.goes ((h.2.modEngine c.val e.val (fun g => { g with queue := g.queue.filter (fun b => decide (b ≠ probeJob (if seg then 1 else 0))) })).probeFaults
        c.val x.pos e.val 1 0xFFFF ((x.probe h.1 h.1 rd).filter (fun f => decide (f.1 % 2 = if seg then 1 else 0)))) := by
  unfold exec execCalProbe
  refine lift_runs ha ((if_neg (probe_open hu hb hm)).trans (if_neg ?_))
  rw [Bool.not_eq_true', Bool.not_eq_false]
  exact List.isEmpty_iff.mpr hx

end

/-! ### The monitor's windows (R63) -/

/-- The device whose window of a column-segment starts anew. -/
def Device.windowClosed (d : Device) (c pos cs : Nat) : Device :=
  d.modCore c (fun x => { x with aux := { x.aux with mon := Tbl.put x.aux.mon (pos * 2080 + cs) MonWin.zero } })

theorem windowClosed_window (d : Device) (c pos cs : Nat) : ((d.windowClosed c pos cs).core c).aux.window pos cs = MonWin.zero := by
  unfold Device.windowClosed CoreAux.window
  rw [Device.core_modCore_same]
  dsimp only
  rw [Tbl.find?_put_same]

/-- A column of a biased window is flagged. -/
def Device.flagColumn (d : Device) (c e : Nat) (l : Option Nat) : Device :=
  match l with
  | some l => (d.bump (key 0x9030 7) 1).modEngine c e (fun g => g.enqueue 4 [l])
  | none => d.bump (key 0x9030 7) 1

theorem mem_enqueue (g : Engine) (level : Nat) (cols : List Nat) : (⟨level, cols⟩ : CalJob) ∈ (g.enqueue level cols).queue := by
  unfold Engine.enqueue
  split
  next h =>
    obtain ⟨j, hj, he⟩ := List.any_eq_true.mp h
    obtain ⟨hl, hc⟩ := of_decide_eq_true he
    rw [show (⟨level, cols⟩ : CalJob) = j from by rw [← hl, ← hc]]
    exact hj
  · exact List.mem_append_right _ (List.mem_singleton.mpr rfl)

theorem flagColumn_spec (d : Device) (c e : Nat) (l : Option Nat) (c' : Nat) : ((d.flagColumn c e l).core c') = d.core c' ∧
    (d.flagColumn c e l).ctr (key 0x9030 7) = min (2 ^ 64 - 1) (d.ctr (key 0x9030 7) + 1) ∧
    ∀ x, l = some x → (⟨4, [x]⟩ : CalJob) ∈ ((d.flagColumn c e l).engine c e).queue := by
  unfold Device.flagColumn
  cases l with
  | none => exact ⟨rfl, Device.ctr_bump_same _ _ _, fun x hx => nomatch hx⟩
  | some l =>
    refine ⟨rfl, Device.ctr_bump_same d _ _, fun x hx => ?_⟩
    cases hx
    dsimp only
    rw [Device.engine_mod_same]
    exact mem_enqueue _ _ _

section
variable {c : CoreIx} {e : PhysIx} {col : Fin 1040} {seg : Bool} {s : State} (ha : s.alive = true)
include ha

/-- Number of the column-segment within its engine. -/
def segOf (col : Nat) (seg : Bool) : Nat := 2 * col + if seg then 1 else 0

/-- The window at hand. -/
def Device.windowAt (d : Device) (c e cs : Nat) : MonWin := (d.core c).aux.window (d.engine c e).pos cs

theorem monitorWindow_open (hn : (s.dev.windowAt c.val e.val (segOf col.val seg)).n < s.dev.reg (key 0x9000 7)) :
    exec (.monitorWindowClose c e col seg) s = s.goes s.dev := by
  unfold exec execMonitorWindowClose
  exact lift_runs ha (if_pos (.inl hn))

variable (hn : s.dev.reg (key 0x9000 7) ≤ (s.dev.windowAt c.val e.val (segOf col.val seg)).n)
  (hst : (s.dev.engine c.val e.val).st = 0) (hq : (s.dev.windowAt c.val e.val (segOf col.val seg)).asked = 0)
include hn hst hq

/-- A window that is full closes; without EVALT bits only its sums decide whether its column is flagged. -/
theorem monitorWindow_closes : exec (.monitorWindowClose c e col seg) s = s.goes
    (if (s.dev.windowAt c.val e.val (segOf col.val seg)).biased (BitVec.ofNat 32 (s.dev.reg (key 0x9000 6))) then
      (s.dev.windowClosed c.val (s.dev.engine c.val e.val).pos (segOf col.val seg)).flagColumn c.val e.val
        ((s.dev.engine c.val e.val).logicalOf col.val)
    else s.dev.windowClosed c.val (s.dev.engine c.val e.val).pos (segOf col.val seg)) := by
  have hw : ((s.dev.core c.val).aux.window (s.dev.engine c.val e.val).pos (2 * col.val + if seg then 1 else 0)).asked = 0 := hq
  unfold exec execMonitorWindowClose
  refine lift_runs ha ((if_neg (not_or.mpr ⟨Nat.not_lt.mpr hn, Classical.not_not.mpr hst⟩)).trans ?_)
  dsimp only
  rw [if_pos hw, decide_eq_false (Classical.not_not.mpr hw), Bool.false_and, Bool.or_false]
  exact rfl

end

/-! ### The overflow windows (R80) -/

section
variable {inst : BitVec 10} {layer : BitVec 12} {s : State} (ha : s.alive = true) {m : Maq} {en : LayerEnt}
  (hm : (s.dev.inst inst.toNat).maq = some m) (he : s.dev.layerEnt? inst.toNat layer.toNat = some en)
include ha hm he

theorem overflow_open (h : (s.dev.layerRec inst.toNat layer.toNat).winTok < s.dev.layerPolicy m en (key 0x7040 2)) :
    exec (.overflowWindowClose inst layer) s = s.goes s.dev := by
  unfold exec execOverflowWindowClose
  refine lift_runs ha ?_
  dsimp only
  rw [hm, he]
  exact if_pos h

/-- The device whose overflow window of a layer starts anew. -/
def Device.overflowClosed (d : Device) (i l : Nat) : Device := d.setLayerRec i l { d.layerRec i l with winOver := 0, winTok := 0 }

theorem overflow_closes (h : s.dev.layerPolicy m en (key 0x7040 2) ≤ (s.dev.layerRec inst.toNat layer.toNat).winTok) :
    exec (.overflowWindowClose inst layer) s =
      let x := s.dev.layerRec inst.toNat layer.toNat
      let cap := min (x.cap + s.dev.layerPolicy m en (key 0x7040 3)) (s.dev.layerPolicy m en (key 0x7040 4))
      let d := s.dev.overflowClosed inst.toNat layer.toNat
      s.goes (if s.dev.layerPolicy m en (key 0x7040 1) < x.winOver ∧ x.cap < cap then d.raiseCap inst.toNat layer.toNat m en cap else d) := by
  unfold exec execOverflowWindowClose
  refine lift_runs ha ?_
  dsimp only
  rw [hm, he]
  exact if_neg (Nat.not_lt.mpr h)

end

theorem layerRec_setLayerRec_same (d : Device) (i l : Nat) (x : LayerRec) : (d.setLayerRec i l x).layerRec i l = x := Tbl.get_set_same _ _ _ _

theorem overflowClosed_rec (d : Device) (i l : Nat) :
    (d.overflowClosed i l).layerRec i l = { d.layerRec i l with winOver := 0, winTok := 0 } := layerRec_setLayerRec_same _ _ _ _

/-- A raise takes the capacity where the reserves cover it and counts, and counts as refused where they do not. -/
theorem raiseCap_spec (d : Device) (i n : Nat) (m : Maq) (en : LayerEnt) (cap : Nat) : let u := d.raiseCap i n m en cap
    (u.layerRec i n).winOver = (d.layerRec i n).winOver ∧ (u.layerRec i n).winTok = (d.layerRec i n).winTok ∧
    ((u.layerRec i n).cap = cap ∧ u.ctr (key 0x7041 3) = min (2 ^ 64 - 1) (d.ctr (key 0x7041 3) + 1) ∨
      (u.layerRec i n).cap = (d.layerRec i n).cap ∧ u.ctr (key 0x7041 4) = min (2 ^ 64 - 1) (d.ctr (key 0x7041 4) + 1)) := by
  unfold Device.raiseCap
  dsimp only
  split
  · exact ⟨rfl, rfl, .inr ⟨rfl, Device.ctr_bump_same _ _ _⟩⟩
  · refine ⟨?_, ?_, .inl ⟨?_, Device.ctr_bump_same _ _ _⟩⟩
    · exact (congrArg LayerRec.winOver (layerRec_setLayerRec_same _ i n _)).trans rfl
    · exact (congrArg LayerRec.winTok (layerRec_setLayerRec_same _ i n _)).trans rfl
    · exact (congrArg LayerRec.cap (layerRec_setLayerRec_same _ i n _)).trans rfl

/-- Settles O34: probes, the monitor's windows and the overflow windows each by the lemmas above. -/
theorem probesAndWindows : Obligations.ProbesAndWindows := by
  unfold Obligations.ProbesAndWindows
  intro c e seg rd col inst layer s ha d g sg cs win z
  refine ⟨?_, monitorWindow_open ha, fun hn hst hq => ?_, fun m en hm he => ?_⟩
  · intro b y level
    exact ⟨calProbe_waits ha, fun hu hb hmade => ⟨calProbe_badCounts ha hu hb hmade, calProbe_records ha hu hb hmade⟩⟩
  · have hwin := windowClosed_window d c.val g.pos cs
    by_cases hb : win.biased z = true
    · obtain ⟨hcore, hctr, hqueue⟩ := flagColumn_spec (d.windowClosed c.val g.pos cs) c.val e.val (g.logicalOf col.val) c.val
      exact ⟨_, (monitorWindow_closes ha hn hst hq).trans (congrArg s.goes (if_pos hb)),
        (congrArg (fun x => CoreAux.window (CimCore.aux x) g.pos cs) hcore).trans hwin,
        fun hno => absurd hb (not_of_false hno), fun _ => ⟨hctr, hqueue⟩⟩
    · exact ⟨_, (monitorWindow_closes ha hn hst hq).trans (congrArg s.goes (if_neg hb)), hwin, fun _ => ⟨rfl, rfl⟩,
        fun hyes => absurd hyes hb⟩
  · intro x pol cap
    refine ⟨overflow_open ha hm he, fun hfull => ?_⟩
    have hrec := overflowClosed_rec d inst.toNat layer.toNat
    by_cases hraise : pol 1 < x.winOver ∧ x.cap < cap
    · have hlo : ¬ (x.winOver ≤ pol 1 ∨ cap ≤ x.cap) := fun h => h.elim (Nat.not_le.mpr hraise.1) (Nat.not_le.mpr hraise.2)
      obtain ⟨hover, htok, hcap⟩ := raiseCap_spec (d.overflowClosed inst.toNat layer.toNat) inst.toNat layer.toNat m en cap
      rw [hrec] at hover htok hcap
      exact ⟨_, (overflow_closes ha hm he hfull).trans (congrArg s.goes (if_pos hraise)), hover, htok, fun h => absurd h hlo, fun _ _ => hcap⟩
    · refine ⟨_, (overflow_closes ha hm he hfull).trans (congrArg s.goes (if_neg hraise)), ?_⟩
      rw [hrec]
      exact ⟨rfl, rfl, fun _ => rfl, fun h1 h2 => absurd ⟨h1, h2⟩ hraise⟩

end Sys2Proof.Machine
end

section
/-!
SUPPORT. Reference steps (R84, R85): what reading a copy and its inputs leaves alone, what is delivered, and the comparison.
-/
namespace Sys2Proof.Machine

/-! ### Reading for the reference outputs -/

theorem Calm.readFactor (d : Device) (c pin layer n : Nat) (b : Bool) : Calm d (d.readFactor c pin layer n b).2 := by
  unfold Device.readFactor
  split
  · exact .refl d
  · exact Calm.readH _ _ _ _

theorem Calm.refTerm (d : Device) (m : Maq) (l : LayerEnt) (pin : Nat) (xs : List Val) : Calm d (d.refTerm m l pin xs).2 := by
  unfold Device.refTerm
  split
  · exact .refl d
  · split
    · exact .refl d
    · exact (Calm.readFactor d _ _ _ _ _).trans (Calm.readFactor _ _ _ _ _ _)

theorem Calm.refToken (d : Device) (m : Maq) (l : LayerEnt) (ws : List RWord) (t : RefTok) : Calm d (d.refToken m l ws t).2 := by
  have hvec : Calm d (d.refVector l t).2 := Calm.readH _ _ _ _
  have hterm := Calm.refTerm (d.refVector l t).2 m l ((d.refVector l t).2.req t.slot.toNat).pin (d.refVector l t).1
  unfold Device.refToken
  dsimp only
  generalize (d.refVector l t).2.refTerm m l ((d.refVector l t).2.req t.slot.toNat).pin (d.refVector l t).1 = r at hterm ⊢
  obtain ⟨o, e⟩ := r
  cases o <;> exact hvec.trans hterm

theorem Calm.refAll (m : Maq) (l : LayerEnt) (ws : List RWord) (ts : List RefTok) (d : Device) : Calm d (d.refAll m l ws ts).2 := by
  induction ts generalizing d with
  | nil => exact .refl d
  | cons t ts ih => exact (Calm.refToken d m l ws t).trans (ih _)

theorem Calm.refNarrow (x : RefStep) (e : LayerEnt) (ts : List (RefTok × Nat)) (d : Device) : Calm d (d.refNarrow x e ts).2 := by
  induction ts generalizing d with
  | nil => exact .refl d
  | cons t ts ih => exact (Calm.readH d _ _ _).trans (ih _)

/-- A comparison is recorded for its layer and counted, and no word changes. -/
theorem refCompare_spec (d : Device) (i l : Nat) (ref : List Val) (narrow : List F32) :
    (d.refCompare i l ref narrow).mem = d.mem ∧
      (∃ y, Tbl.find? (d.refCompare i l ref narrow).cast.comparisons (i * 4096 + l) = some y) ∧
      (d.refCompare i l ref narrow).ctr (key 0x7050 2) ≠ 0 := by
  unfold Device.refCompare
  dsimp only
  refine ⟨?_, ⟨_, Tbl.find?_put_same _ _ _⟩, ?_⟩
  · split <;> rfl
  · rw [Device.ctr_bump_same]
    omega

/-! ### The step -/

section
variable {k : ClusterIx} {x : RefStep} {s : State} (ha : s.alive = true) {m : Maq} {en : LayerEnt}
  (hm : (s.dev.inst x.inst.toNat).maq = some m) (he : s.dev.layerEnt? x.inst.toNat x.layer.toNat = some en)
include ha hm he

theorem referenceStep_idle (h : en.refFmt = 0 ∨ s.dev.refWanted m x = false ∨ (s.dev.layerClusters m en).contains k.val = false ∨
      s.dev.attnUp k.val = false) : exec (.referenceStep k x) s = s.goes s.dev := by
  unfold exec execReferenceStep
  refine lift_runs ha ?_
  rw [hm, he]
  exact if_pos h

theorem referenceStep_runs (hf : en.refFmt ≠ 0) (hw : s.dev.refWanted m x = true)
    (hk : (s.dev.layerClusters m en).contains k.val = true) (hu : s.dev.attnUp k.val = true) :
    exec (.referenceStep k x) s =
      s.goes ((s.dev.reachCyc (s.dev.cyc + refCost m x.layer.toNat x.toks.length)).refRun m en x) := by
  unfold exec execReferenceStep
  refine lift_runs ha ?_
  rw [hm, he]
  refine if_neg (fun h => ?_)
  obtain h | h | h | h := h
  · exact hf h
  · exact Bool.noConfusion (hw.symm.trans h)
  · exact Bool.noConfusion (hk.symm.trans h)
  · exact Bool.noConfusion (hu.symm.trans h)

end

section
variable (z : Device) (m : Maq) (en : LayerEnt) (x : RefStep)

/-- The device with the outputs of every token of a step delivered. -/
def Device.refDelivered : Device :=
  let r := (z.refCopy x.inst.toNat en).2.refAll m en (z.refCopy x.inst.toNat en).1 x.toks
  r.2.refDeliverAll x en (x.toks.zip r.1)

theorem refRun_delivers (h : x.scope ≠ .sampled) : let v := z.refDelivered m en x
    (z.refRun m en x).mem = v.mem ∧ (z.refRun m en x).serv = v.serv ∧
      (z.refRun m en x).cast.reruns = v.cast.reruns.filter (fun y => decide (y ≠ (x.inst.toNat, x.layer.toNat))) := by
  unfold Device.refRun
  dsimp only
  rw [if_neg h]
  exact ⟨rfl, rfl, rfl⟩

/-- A comparison for sampled requests reads, records and counts. -/
theorem refRun_compares (h : x.scope = .sampled) : (z.refRun m en x).mem.m = z.mem.m ∧
    (∃ y, Tbl.find? (z.refRun m en x).cast.comparisons (x.inst.toNat * 4096 + x.layer.toNat) = some y) ∧
      (z.refRun m en x).ctr (key 0x7050 2) ≠ 0 := by
  have hcopy : Calm z (z.refCopy x.inst.toNat en).2 := Calm.readH _ _ _ _
  unfold Device.refRun
  dsimp only
  rw [if_pos h]
  generalize (z.refCopy x.inst.toNat en).2.refSampled x = ts
  have hall := hcopy.trans (Calm.refAll m en (z.refCopy x.inst.toNat en).1 (ts.map (·.1)) _)
  generalize (z.refCopy x.inst.toNat en).2.refAll m en (z.refCopy x.inst.toNat en).1 (ts.map (·.1)) = r at hall ⊢
  have hnarrow := hall.trans (Calm.refNarrow x en ts r.2)
  obtain ⟨hmem, hrec, hctr⟩ := refCompare_spec (r.2.refNarrow x en ts).2 x.inst.toNat x.layer.toNat (r.1.flatMap id) (r.2.refNarrow x en ts).1
  exact ⟨(congrArg MemS.m hmem).trans hnarrow.m, hrec, hctr⟩

end

/-- Settles O35: the step delivers or compares by its scope, and does nothing where nothing asks for it. -/
theorem referenceStep : Obligations.ReferenceStep := by
  unfold Obligations.ReferenceStep
  intro k x s m en ha d i l z r hm he
  refine ⟨referenceStep_idle ha hm he, fun hf hw hk hu => ⟨fun hs => ⟨_, referenceStep_runs ha hm he hf hw hk hu, refRun_delivers z m en x hs⟩,
    fun hs => ⟨_, referenceStep_runs ha hm he hf hw hk hu, ?_⟩⟩⟩
  obtain ⟨hmem, hrec, hctr⟩ := refRun_compares z m en x hs
  exact ⟨hmem.trans (congrArg MemS.m (reach_mem _ _)), hrec, hctr⟩

end Sys2Proof.Machine
end
